-- ==== Sys2Proof/Word.lean ====
section
/-! DEFINITION. The word types of the machine (00 R8, 01 R13): what the spec treats as bits. -/

namespace Sys2Proof

/-- A scalar, reference or control register, and an address while it is computed (R13, R22). -/
abbrev Word := BitVec 64
/-- One byte of memory (R8). -/
abbrev Byte := BitVec 8
/-- An FP32 bit pattern (R52). -/
abbrev F32 := BitVec 32
/-- A vector register: 16 bytes for each of up to 64 lanes (R15); byte j is bits [8j+7:8j]. -/
abbrev VBits := BitVec 8192
/-- A mask register: one bit per 16-bit element of up to 64 lanes (R16). -/
abbrev KBits := BitVec 512
/-- A matrix register or matrix-store slot: 16 KiB (R13, R194); byte j is bits [8j+7:8j]. -/
abbrev Tile := BitVec 131072

end Sys2Proof
end

