-- ==== Sys2Proof/Syntax.lean ====
section
/-! DEFINITION. The instructions and events of the opcode table (03 R91-R97, 95): one constructor of `Instr` per row.
A register number is a `Fin`; a field with a fixed set of values is an inductive type; the events, which have no
encoding, carry what the environment supplies with them. -/

namespace Sys2Proof

abbrev SReg := Fin 32
abbrev VReg := Fin 32
abbrev KReg := Fin 8
abbrev MReg := Fin 512
abbrev HReg := Fin 16
abbrev OReg := Fin 8
/-- The stall count of an SR or SI instruction (R86). -/
abbrev Stall := Fin 4
/-- HINT (R87, R180): 0 normal, 1 low, 2 keep, 3 last use. -/
abbrev Hint := Fin 4

/-- Rounding modes (R120). -/
inductive Rm | rne | rtz | rup | rdn
  deriving DecidableEq, Repr
/-- FCMP conditions (R121). -/
inductive FCond | eq | ne | lt | le | un
  deriving DecidableEq, Repr
/-- FCVT pairs (R122). -/
inductive FConv | toi32 | toi64 | fromi32 | fromi64 | tobf16 | frombf16
  deriving DecidableEq, Repr
/-- VCMP conditions (R156). -/
inductive VCond | eq | ne | lt | le | gt | ge | ltu | geu
  deriving DecidableEq, Repr
/-- The operation of VSCAN and VSEGRED (R93). -/
inductive RedOp | sum | max | min
  deriving DecidableEq, Repr
/-- VCVT conversions, in the row order of R69; the name is destination then source (R169). -/
inductive VConv
  | fp32bf16 | bf16fp32 | bf16int16 | fp32int32 | fp32int64 | int16bf16 | int32fp32 | int64fp32
  | int32int16 | int64int32 | int32int64 | int16int32
  deriving DecidableEq, Repr
/-- Memory formats, FMT 0-11 (R52, R53). -/
inductive Fmt
  | fp32 | bf16 | fp8e4 | fp8e5 | fp4 | q4n | int8 | uint8 | int16 | int32 | int64 | half
  deriving DecidableEq, Repr
/-- Addressing modes of the VM format (R89). -/
inductive VMode | unit | strided | tile
  deriving DecidableEq, Repr
/-- Scope codes (R271). -/
inductive Scope | thread | core | sett | package | pod
  deriving DecidableEq, Repr
/-- The last source of a vector instruction: a vector, or a scalar when SB = 1 (R93). -/
inductive VSrc | vec (r : VReg) | scl (r : SReg)
  deriving DecidableEq, Repr
/-- The operations AMONIB accepts (R290). -/
inductive NibOp | add | and | or | swp
  deriving DecidableEq, Repr
/-- The memory formats of MLD and MST (R215). -/
inductive MFmt | fp32 | bf16
  deriving DecidableEq, Repr
/-- Widths of HLD (R261). -/
inductive LdWidth | b | bu | h | hu | w | wu | d
  deriving DecidableEq, Repr
/-- Widths of HST (R261). -/
inductive StWidth | b | h | w | d
  deriving DecidableEq, Repr
/-- The first of the eight command registers (R292): s8 or s16. -/
inductive CmdBase | s8 | s16
  deriving DecidableEq, Repr

/-- A 64-byte continuation record (R321); byte j is bits [8j+7:8j]. -/
abbrev Rec := BitVec 512

/-- What a remote port answers to a reservation (R312); `waiting` while FREE = 0. -/
inductive RemoteReply | waiting | accepted | link (eval : Nat) | sync (eval : Nat)
  deriving DecidableEq, Repr

/-- Which end of a send an event of the link concerns (R312): a sending thread of this package, or a landing header of this
package and the tile that a peer sends to it. -/
inductive LinkEnd
  | sender (tid : Nat)
  | incoming (cid off : Nat) (data : Tile)
  deriving DecidableEq, Repr

/-- A merge contribution as it arrives at a port (R233, R311, R312): the sender's PLACE, GROUP, SEQ, the columns,
and one (o-register, row) pair per head. -/
structure Contribution where
  place : Word
  group : Nat
  seq : Nat
  cols : Nat
  heads : List (Word × List F32)
  deriving DecidableEq, Repr

/-- The atomics of two operands that a peer may ask for (R288, R371). -/
inductive RemoteAtomic | add | min | max | and | or | swp
  deriving DecidableEq, Repr

/-- A peer's UALink transaction on this package's memory (R371), by physical address. -/
inductive RemoteOp
  | read (pa n : Nat)
  | write (pa : Nat) (bytes : List Byte)
  | atomic (op : RemoteAtomic) (pa : Nat) (wide : Bool) (b : Word)
  | atomicCas (pa : Nat) (wide : Bool) (b e : Word)
  | atomicNibble (op : NibOp) (pa : Nat) (high : Bool) (b : BitVec 4)
  | atomicFadd (pa : Nat) (b : BitVec 32)
  deriving DecidableEq, Repr

/-- Where an uncorrectable error arises (R151, R190, R212): a memory sector, a vector register's byte, a mask bit,
or a 4-byte element of a core's matrix store. -/
inductive ErrorAt
  | sector (pa : Nat)
  | vreg (tid : Nat) (r : VReg) (byte : Fin 1024)
  | kreg (tid : Nat) (r : KReg) (bit : Fin 512)
  | store (cid slot element : Nat)
  deriving DecidableEq, Repr

/-- The rows of spec/opcode_table.json. -/
inductive Instr
  -- what a thread meets where it finds no instruction (R90, R342)
  | unassignedEncoding (w : BitVec 32) | instructionFetchFault (addr : Word)
  -- what other agents do as a consequence of a step (R253-R255, R296-R301, R312, R329, R336, R359, R361)
  | packStart (p : Nat)
  /-- `stops` gives threads whose current instruction is stopped at an interior element (R147, R193, R211). -/
  | packSave (p : Nat) (stops : List (Nat × Nat))
  | contextRestore (p : Nat) | mapTransferComplete (cid : Nat)
  | decideNode (q : Fin 1024) (idx : BitVec 32) (r : Rec) | loopNode (q : Fin 1024) (idx : BitVec 32) (r : Rec)
  | nopNode (q : Fin 1024) (idx : BitVec 32) (r : Rec)
  | heldAppend (q : Fin 1024)
  | followOn (tid : Nat) | engineCommandStart (sett cmd first bytes : Nat) | engineTranslationFault (sett cmd : Nat)
  | engineCommandComplete (sett cmd : Nat) | flip (sett cmd : Nat) | flipAcknowledge (cid region : Nat)
  | move (sett cmd : Nat)
  | tileArrival (cid off : Nat) (place : Word) (data : Tile) | mergeContribution (cid off : Nat) (c : Contribution)
  | sendReservation (e : LinkEnd) (r : RemoteReply) | sendAcknowledgement (tid : Nat) (flags : BitVec 5) | traceTailWrite (cid : Nat)
  -- integer ALU, multiply and divide (R116)
  | add (d a b : SReg) (w : Stall) | sub (d a b : SReg) (w : Stall) | and (d a b : SReg) (w : Stall)
  | or (d a b : SReg) (w : Stall) | xor (d a b : SReg) (w : Stall) | sll (d a b : SReg) (w : Stall)
  | srl (d a b : SReg) (w : Stall) | sra (d a b : SReg) (w : Stall) | min (d a b : SReg) (w : Stall)
  | max (d a b : SReg) (w : Stall) | minU (d a b : SReg) (w : Stall) | maxU (d a b : SReg) (w : Stall)
  | slt (d a b : SReg) (w : Stall) | sltu (d a b : SReg) (w : Stall)
  | clz (d a : SReg) (w : Stall) | popc (d a : SReg) (w : Stall)
  | mul (d a b : SReg) (w : Stall) | mulh (d a b : SReg) (w : Stall) | mulhU (d a b : SReg) (w : Stall)
  | div (d a b : SReg) (w : Stall) | divU (d a b : SReg) (w : Stall)
  | rem (d a b : SReg) (w : Stall) | remU (d a b : SReg) (w : Stall)
  -- scalar floating point (R119)
  | fadd (d a b : SReg) (m : Rm) (w : Stall) | fsub (d a b : SReg) (m : Rm) (w : Stall)
  | fmul (d a b : SReg) (m : Rm) (w : Stall) | ffma (d a b : SReg) (m : Rm) (w : Stall)
  | fdiv (d a b : SReg) (m : Rm) (w : Stall) | fsqrt (d a : SReg) (m : Rm) (w : Stall)
  | fmin (d a b : SReg) (w : Stall) | fmax (d a b : SReg) (w : Stall)
  | fcmp (d a b : SReg) (c : FCond) (w : Stall) | fcvt (d a : SReg) (k : FConv) (m : Rm) (w : Stall)
  -- immediates (R118)
  | addi (d a : SReg) (i : BitVec 13) (w : Stall) | andi (d a : SReg) (i : BitVec 13) (w : Stall)
  | ori (d a : SReg) (i : BitVec 13) (w : Stall) | xori (d a : SReg) (i : BitVec 13) (w : Stall)
  | slti (d a : SReg) (i : BitVec 13) (w : Stall)
  | slli (d a : SReg) (n : Fin 64) (w : Stall) | srli (d a : SReg) (n : Fin 64) (w : Stall)
  | srai (d a : SReg) (n : Fin 64) (w : Stall) | lui (d : SReg) (i : BitVec 20)
  -- scalar loads and stores (R123)
  | ldB (d a : SReg) (i : BitVec 13) (w : Stall) | ldBu (d a : SReg) (i : BitVec 13) (w : Stall)
  | ldH (d a : SReg) (i : BitVec 13) (w : Stall) | ldHu (d a : SReg) (i : BitVec 13) (w : Stall)
  | ldW (d a : SReg) (i : BitVec 13) (w : Stall) | ldWu (d a : SReg) (i : BitVec 13) (w : Stall)
  | ldD (d a : SReg) (i : BitVec 13) (w : Stall)
  | stB (d a : SReg) (i : BitVec 13) (w : Stall) | stH (d a : SReg) (i : BitVec 13) (w : Stall)
  | stW (d a : SReg) (i : BitVec 13) (w : Stall) | stD (d a : SReg) (i : BitVec 13) (w : Stall)
  -- branches, jumps and loops (R125-R133)
  | beq (a b : SReg) (o : BitVec 15) | bne (a b : SReg) (o : BitVec 15) | blt (a b : SReg) (o : BitVec 15)
  | bge (a b : SReg) (o : BitVec 15) | bltu (a b : SReg) (o : BitVec 15) | bgeu (a b : SReg) (o : BitVec 15)
  | jal (d : SReg) (o : BitVec 20) | jalr (d a : SReg) (i : BitVec 13) (w : Stall)
  | loop (a : SReg) (o : BitVec 15) | loopv (a : SReg) (o : BitVec 15)
  | bkany (k : KReg) (o : BitVec 15) | bknone (k : KReg) (o : BitVec 15) | bkall (k : KReg) (o : BitVec 15)
  | setvl (d a : SReg) (w : Stall)
  -- vector arithmetic (R152, R154, R155)
  | vadd (d a : VReg) (b : VSrc) | vsub (d a : VReg) (b : VSrc) | vmul (d a : VReg) (b : VSrc)
  | vmin (d a : VReg) (b : VSrc) | vmax (d a : VReg) (b : VSrc) | vdiv (d a : VReg) (b : VSrc)
  | vfma (d a : VReg) (b : VSrc) | vfms (d a : VReg) (b : VSrc) | vabs (d a : VReg) | vneg (d a : VReg)
  | vsqrt (d a : VReg) | vrcp (d a : VReg) | vrsqrt (d a : VReg) | vexp2 (d a : VReg) | vexp (d a : VReg)
  | vln2 (d a : VReg)
  | vand (d a : VReg) (b : VSrc) | vor (d a : VReg) (b : VSrc) | vxor (d a : VReg) (b : VSrc)
  | vsll (d a : VReg) (b : VSrc) | vsrl (d a : VReg) (b : VSrc) | vsra (d a : VReg) (b : VSrc)
  -- compares and masks (R156-R158)
  | vcmp (d : KReg) (a : VReg) (b : VSrc) (c : VCond)
  | kand (d a b : KReg) | kor (d a b : KReg) | kxor (d a b : KReg) | knot (d a : KReg)
  | kpop (d : SReg) (a : KReg) | kfirst (d : SReg) (a : KReg)
  -- compaction, slides, permutation, reductions, conversion (R159-R169)
  | vcompress (d a : VReg) (b : KReg) | vexpand (d a : VReg) (b : KReg) | viota (d : VReg) (a : KReg)
  | vid (d : VReg) | vscan (d a : VReg) (u : RedOp)
  | vslideup (d a : VReg) (b : SReg) | vslidedn (d a : VReg) (b : SReg) | vperm (d a b : VReg)
  | vbcast (d : VReg) (a : SReg) | vmvsToScalar (d : SReg) (a : VReg) | vmvsToVector (d : VReg) (a : SReg)
  | vmerge (d a b : VReg)
  | vredsum (d : SReg) (a : VReg) (b : SReg) | vredmax (d : SReg) (a : VReg) (b : SReg)
  | vredmin (d : SReg) (a : VReg) (b : SReg) | vsegred (d a : VReg) (u : RedOp)
  | vcvt (d a : VReg) (c : VConv)
  -- vector memory (R170)
  | vld (v : VReg) (s : SReg) (f : Fmt) (m : VMode) (h : Hint) (x : BitVec 6)
  | vst (v : VReg) (s : SReg) (f : Fmt) (m : VMode) (h : Hint) (x : BitVec 6)
  | vldx (v : VReg) (s : SReg) (f : Fmt) (h : Hint) (i : VReg)
  | vstx (v : VReg) (s : SReg) (f : Fmt) (h : Hint) (i : VReg)
  | vldsc (s : SReg) (h : Hint) (x : SReg)
  | vpref (s : SReg) (f : Fmt) (m : VMode) (h : Hint) (x : BitVec 6)
  | vldk (k : KReg) (s : SReg) (h : Hint) (x : BitVec 6) | vstk (k : KReg) (s : SReg) (h : Hint) (x : BitVec 6)
  -- atomics and ordering (R287-R291)
  | amoaddW (d a b : SReg) (aq rl : Bool) (c : Scope) (w : Stall)
  | amominW (d a b : SReg) (aq rl : Bool) (c : Scope) (w : Stall)
  | amomaxW (d a b : SReg) (aq rl : Bool) (c : Scope) (w : Stall)
  | amoandW (d a b : SReg) (aq rl : Bool) (c : Scope) (w : Stall)
  | amoorW (d a b : SReg) (aq rl : Bool) (c : Scope) (w : Stall)
  | amoswpW (d a b : SReg) (aq rl : Bool) (c : Scope) (w : Stall)
  | amocasW (d a b : SReg) (aq rl : Bool) (c : Scope) (w : Stall)
  | amoaddD (d a b : SReg) (aq rl : Bool) (c : Scope) (w : Stall)
  | amominD (d a b : SReg) (aq rl : Bool) (c : Scope) (w : Stall)
  | amomaxD (d a b : SReg) (aq rl : Bool) (c : Scope) (w : Stall)
  | amoandD (d a b : SReg) (aq rl : Bool) (c : Scope) (w : Stall)
  | amoorD (d a b : SReg) (aq rl : Bool) (c : Scope) (w : Stall)
  | amoswpD (d a b : SReg) (aq rl : Bool) (c : Scope) (w : Stall)
  | amocasD (d a b : SReg) (aq rl : Bool) (c : Scope) (w : Stall)
  | amonib (d a b : SReg) (p : NibOp) (aq rl : Bool) (c : Scope) (w : Stall)
  | vamoadd (v : VReg) (s : SReg) (f : Fmt) (c : Scope) (aq rl : Bool) (i : VReg)
  | phase (c : Scope) | fence (c : Scope)
  -- matrix (R213-R220)
  | mopaB (m : MReg) (a b : VReg) | mopaF (m : MReg) (a b : VReg)
  | mopsB (m : MReg) (a b : VReg) | mopsF (m : MReg) (a b : VReg)
  | mmas (m : MReg) (a b : SReg)
  | mzero (m : MReg) | mmov (m n : MReg) (l : Bool) | mdead (m : MReg) | mpref (m : MReg) | mflush (m : MReg)
  | mflushall
  | mld (m : MReg) (s x : SReg) (h : Hint) (f : MFmt)
  | mst (m : MReg) (s x : SReg) (l : Bool) (h : Hint) (f : MFmt)
  | mrow (m : MReg) (v : VReg) (x : SReg) (l : Bool) | mcol4 (m : MReg) (v : VReg) (x : SReg) (l : Bool)
  | mwrow (m : MReg) (v : VReg) (x : SReg)
  | mstat (m : MReg) (d : SReg)
  -- attention, top-k and token merging (R221-R239)
  | setvlr (d a b : SReg) (h : HReg) (w : Stall)
  | atsc (m : MReg) (a : VReg) (b : SReg) | atscBias (m : MReg) (a : VReg) (b : SReg) (z : VReg)
  | atex (o : OReg) | atac (m n : MReg) (l : Bool) (o : OReg)
  | osget (d : SReg) (o : OReg) (w : Stall) | osput (a : SReg) (o : OReg) (w : Stall) | oszero (o : OReg) (w : Stall)
  | vtopk (d a : VReg) (b : SReg)
  | tmatch (m : MReg) (a : SReg) (h : HReg)
  | tmerge (m n : MReg) (l : Bool) (h : HReg) | tunmrg (m n : MReg) (l : Bool) (h : HReg)
  -- heap (R261-R266)
  | hld (d : SReg) (h : HReg) (o : BitVec 13) (n : LdWidth) | hst (d : SReg) (h : HReg) (o : BitVec 13) (n : StWidth)
  | ldh (d : HReg) (h : HReg) (o : BitVec 13) | sth (d : HReg) (h : HReg) (o : BitVec 13)
  | hcas (d : HReg) (h : HReg) (o : BitVec 13)
  | vldh (d : VReg) (h : HReg) (o : BitVec 13) (f : Fmt) | vsth (d : VReg) (h : HReg) (o : BitVec 13) (f : Fmt)
  | hpin (d : SReg) (h : HReg) | hunpin (h : HReg) | hheal (h : HReg) | hcmp (d : SReg) (h g : HReg)
  | hallocImmediate (d : HReg) (n : BitVec 13) | hallocRegister (d : HReg) (s : SReg)
  | hnul (h : HReg) (o : BitVec 13) | hnulN (h : HReg) (o : BitVec 13)
  /-- A heap store or HPIN stalled on COPYING proceeds (R256, R264). -/
  | heapStoreResume
  -- engines, sync words, launch, remote tiles (R292-R313)
  | cpy (d : SReg) (a : CmdBase) | cpym (d : SReg) (a : CmdBase) | cgath (d : SReg) (a : CmdBase)
  | reloc (d : SReg) (a : CmdBase)
  | sarm (a : SReg) | swait (d a : SReg) | swaitReturn | bar | barDeparture
  | spawn (a : SReg) (q : Fin 1024) | spawnAppend | endThread | endRelease
  | msend (m : MReg) (s x : SReg) (l : Bool) | msendm (m : MReg) (s x : SReg) (l : Bool)
  | mrecv (m : MReg) (s : SReg) | mrecvBind
  -- control registers and system (R135-R141)
  | getc (d : SReg) (c : BitVec 12) | putc (a : SReg) (c : BitVec 12)
  | eret | wait | trap (c : BitVec 12) | fencei | idle | brk
  -- writes of control registers that have a behaviour of their own (R130, R205, R207, R337), each a part of PUTC
  | msplitWrite (v : Word) | mapbaseWrite (v : Word) | lanepartWrite (v : Word)
  | lcntWrite (n : Fin 6) (v : Word) | lbegLendWrite (isEnd : Bool) (n : Fin 6) (v : Word) | ldepthWrite (v : Word)
  -- queues and placement (R317-R338), stops (R36, R193, R360)
  | doorbell (q : Fin 1024) (tail : BitVec 32) | queueEnable (q : Fin 1024) | queueClose (q : Fin 1024)
  /-- `pref` is the dispatcher's order of preference among contexts (R41): 2 × core + context. -/
  | dispatchDecision (pref : List Nat)
  | laneReclaimTimeout (tid : Nat) | replyAbandonment (tid g : Nat)
  -- links (R312, R371, R372)
  | remoteAccess (op : RemoteOp) | linkFailure (e : LinkEnd) | laneFailure (port : Fin 12)
  -- faults, stepping, halts and trace (R355, R362, R395, R409)
  | faultQueuePost | singleStepTrap | halt (tid : Nat) | debugTableReread (cid : Nat)
  -- host (R364, R367)
  | hostCxlMemRead (x n : Nat) | hostCxlMemWrite (x : Nat) (bytes : List Byte)
  | identify | getEventRecords (log : Fin 4) | clearEventRecords (log : Fin 4) | getTimestamp | setTimestamp (v : Word)
  | transferFw (image : List Byte) | activateFw | getLog
  | setAstbase (b : Word) | setQtbase (b : Word) | setFqbase (b : Word) | setFrames (b : Word) (n : Nat)
  | setMbtbase (b : Word) | setDthr (v : BitVec 16) | shootdown (asid : Nat) (va : Word) (pages : Nat)
  | pageExpand (pa : Nat) | backgroundCommandComplete
  | packResume (frame : Nat) | packAbort (frame : Nat) | packAdopt (r : Rec) (frames : List Nat)
  | cmdResume (sett cmd : Nat) | cmdAbort (sett cmd : Nat)
  -- power, resets, attestation, health (R374-R379, R392, R451-R459)
  | setPstate (step : Nat) | clockChange | corePark (sett : Fin 4) (mask : BitVec 32)
  | coreUnpark (sett : Fin 4) (mask : BitVec 32) | hbmSrEnter (stack : Fin 8) | hbmSrExit (stack : Fin 8)
  | hbmWake (stack : Fin 8) | setDbgbase (b : Word)
  /-- `flash` is each sett's CRC-32C of the repair map read from flash, or none where it is unreadable (R379). -/
  | warmReset (flash : List (Option (BitVec 32))) | coldReset | functionLevelReset
  | getCertificate | challenge (nonce : Word) | getMeasurements
  | tallowUpdate (heads : List Nat) | thermalStepDown (sett : Fin 4) | thermalRepeatStep (sett : Fin 4)
  | thermalStepUp | thermalTrip (sett : Fin 4) | refreshRateChange (stack : Fin 8) (tenths : BitVec 12)
  | coreRetirement (cid : Nat) (mapCrc : BitVec 32) | bondLaneRepair (sett : Fin 4) (mapCrc : BitVec 32)
  -- memory system and environment (R193, R281, R190, R370, R459, R363)
  | memoryReply (tid : Nat) | cacheEviction (pa : Nat) | uncorrectableError (e : ErrorAt)
  | migration (src dst : Nat) | portFence (pkg : Nat) | ideKeyProgramming (key : Word)
  deriving DecidableEq, Repr

end Sys2Proof
end

