-- ==== Sys2Proof/WellFormed.lean ====
section
/-! DEFINITION. The operand checks of R90 step 5 that the types of Syntax do not already make: an instruction that fails
one has no encoding the device accepts. -/

namespace Sys2Proof

/-- FMT codes (R52, R53). -/
def Fmt.code : Fmt → Nat
  | .fp32 => 0 | .bf16 => 1 | .fp8e4 => 2 | .fp8e5 => 3 | .fp4 => 4 | .q4n => 5 | .int8 => 6 | .uint8 => 7
  | .int16 => 8 | .int32 => 9 | .int64 => 10 | .half => 11

/-- Four-bit formats have no strided mode (R170). -/
def Fmt.modeOk (f : Fmt) (m : VMode) : Bool :=
  !(m == .strided && (f == .fp4 || f == .q4n))

/-- VCVT conversions whose two widths differ (R169). -/
def VConv.unequal : VConv → Bool
  | .fp32bf16 | .bf16fp32 | .fp32int64 | .int64fp32 | .int32int16 | .int64int32 | .int32int64 | .int16int32 => true
  | .bf16int16 | .fp32int32 | .int16bf16 | .int32fp32 => false

/-- The operand checks of R90 step 5. -/
def Instr.wellFormed : Instr → Bool
  -- R127: OFF15 of LOOP and LOOPV is 2-16,383
  | .loop _ o | .loopv _ o => decide (2 ≤ o.toNat) && decide (o.toNat ≤ 16383)
  -- R146: VCVT with unequal widths and D = A
  | .vcvt d a c => !(c.unequal && d == a)
  -- R170: no strided four-bit access; HINT 0b11 is a load's
  | .vld _ _ f m _ _ => f.modeOk m
  | .vst _ _ f m h _ => f.modeOk m && decide (h.val ≠ 3)
  | .vstx _ _ _ h _ | .vstk _ _ h _ => decide (h.val ≠ 3)
  | .vpref _ f m h _ => f.modeOk m && decide (h.val ≠ 3)
  -- R291: VAMOADD takes FMT 0, 9 and 10
  | .vamoadd _ _ f _ _ _ _ => f == .fp32 || f == .int32 || f == .int64
  -- R203: L = 1 on an operand the instruction also writes
  | .mmov m n l | .atac m n l _ => !(l && m == n)
  -- R215: HINT 0b11 of MST
  | .mst _ _ _ _ h _ => decide (h.val ≠ 3)
  -- R239: M equal to N
  | .tmerge m n _ _ | .tunmrg m n _ _ => m != n
  -- R262: D of HCAS is even
  | .hcas d _ _ => decide (d.val % 2 = 0)
  -- R263: VLDH and VSTH take FMT 0-7
  | .vldh _ _ _ f | .vsth _ _ _ f => decide (f.code < 8)
  -- R265: the immediate size is 1-8,191
  | .hallocImmediate _ n => decide (n.toNat ≠ 0)
  | _ => true

end Sys2Proof
end

