-- ==== Sys2Proof/Decode.lean ====
section
/-! DEFINITION. Instruction words (03 R83-R97): the decoder, in the check order of R90, and the encoder after it. Words are
numbers below 2^32; a field is a quotient and a remainder. Privilege (R90 step 6) needs the mode and is checked by the
meanings. -/

namespace Sys2Proof

/-- Why a word is no instruction: the trap R90 gives it. -/
inductive DecodeError
  /-- R90 step 1: the all-zero word. -/
  | zero
  /-- R90 steps 3 and 5: unassigned, or an operand value the instruction does not accept. -/
  | ill
  /-- R90 step 4: a non-zero reserved field. -/
  | rsv
  deriving DecidableEq, Repr

namespace Dec

/-- `n` values of the field of `w` at bit `lo`. -/
def fld (w lo n : Nat) : Nat := w / 2 ^ lo % n

def r5 (w lo : Nat) : Fin 32 := ⟨w / 2 ^ lo % 32, Nat.mod_lt _ (by decide)⟩
def r4 (w lo : Nat) : Fin 16 := ⟨w / 2 ^ lo % 16, Nat.mod_lt _ (by decide)⟩
def r3 (w lo : Nat) : Fin 8 := ⟨w / 2 ^ lo % 8, Nat.mod_lt _ (by decide)⟩
def r9 (w lo : Nat) : Fin 512 := ⟨w / 2 ^ lo % 512, Nat.mod_lt _ (by decide)⟩
def r2 (w lo : Nat) : Fin 4 := ⟨w / 2 ^ lo % 4, Nat.mod_lt _ (by decide)⟩
def bit (w lo : Nat) : Bool := w / 2 ^ lo % 2 == 1
def bv (n w lo : Nat) : BitVec n := BitVec.ofNat n (w / 2 ^ lo)

/-- R90 step 4 before step 5. -/
def rsv (bad : Bool) (k : Except DecodeError Instr) : Except DecodeError Instr :=
  if bad then .error .rsv else k
/-- R90 step 5. -/
def acc (good : Bool) (k : Except DecodeError Instr) : Except DecodeError Instr :=
  if good then k else .error .ill
/-- A field whose values an inductive type names. -/
def opt {α : Type} (v : Option α) (k : α → Except DecodeError Instr) : Except DecodeError Instr :=
  match v with
  | some x => k x
  | none => .error .ill

def rm (n : Nat) : Option Rm :=
  match n with
  | 0 => some .rne | 1 => some .rtz | 2 => some .rup | 3 => some .rdn | _ => none
def fcond (n : Nat) : Option FCond :=
  match n with
  | 0 => some .eq | 1 => some .ne | 2 => some .lt | 3 => some .le | 4 => some .un | _ => none
def fconv (n : Nat) : Option FConv :=
  match n with
  | 0 => some .toi32 | 1 => some .toi64 | 2 => some .fromi32 | 3 => some .fromi64 | 4 => some .tobf16
  | 5 => some .frombf16 | _ => none
def vcond (n : Nat) : VCond :=
  match n with
  | 0 => .eq | 1 => .ne | 2 => .lt | 3 => .le | 4 => .gt | 5 => .ge | 6 => .ltu | _ => .geu
def redop (n : Nat) : Option RedOp :=
  match n with
  | 0 => some .sum | 1 => some .max | 2 => some .min | _ => none
def vconv (n : Nat) : Option VConv :=
  match n with
  | 0 => some .fp32bf16 | 1 => some .bf16fp32 | 2 => some .bf16int16 | 3 => some .fp32int32 | 4 => some .fp32int64
  | 5 => some .int16bf16 | 6 => some .int32fp32 | 7 => some .int64fp32 | 8 => some .int32int16
  | 9 => some .int64int32 | 10 => some .int32int64 | 11 => some .int16int32 | _ => none
def fmt (n : Nat) : Option Fmt :=
  match n with
  | 0 => some .fp32 | 1 => some .bf16 | 2 => some .fp8e4 | 3 => some .fp8e5 | 4 => some .fp4 | 5 => some .q4n
  | 6 => some .int8 | 7 => some .uint8 | 8 => some .int16 | 9 => some .int32 | 10 => some .int64 | 11 => some .half
  | _ => none
def vmode (n : Nat) : Option VMode :=
  match n with
  | 0 => some .unit | 1 => some .strided | 2 => some .tile | _ => none
def scope (n : Nat) : Option Scope :=
  match n with
  | 0 => some .thread | 1 => some .core | 2 => some .sett | 3 => some .package | 4 => some .pod | _ => none
def nibop (n : Nat) : Option NibOp :=
  match n with
  | 0 => some .add | 3 => some .and | 4 => some .or | 5 => some .swp | _ => none
def ldwidth (n : Nat) : Option LdWidth :=
  match n with
  | 0 => some .b | 1 => some .bu | 2 => some .h | 3 => some .hu | 4 => some .w | 5 => some .wu | 6 => some .d
  | _ => none
def stwidth (n : Nat) : Option StWidth :=
  match n with
  | 0 => some .b | 2 => some .h | 4 => some .w | 6 => some .d | _ => none
def cmdbase (n : Nat) : Option CmdBase :=
  match n with
  | 8 => some .s8 | 16 => some .s16 | _ => none
/-- The last source of R93: a scalar when SB = 1. -/
def vsrc (w : Nat) : VSrc := if bit w 3 then .scl (r5 w 10) else .vec (r5 w 10)

-- field positions of the formats (R84)
def fD (w : Nat) : Fin 32 := r5 w 20
def fA (w : Nat) : Fin 32 := r5 w 15
def fB (w : Nat) : Fin 32 := r5 w 10
def fW (w : Nat) : Fin 4 := r2 w 0

/-- MAJ 0x01 (R92). -/
def alu (w : Nat) : Except DecodeError Instr :=
  match fld w 2 256 with
  | 0x00 => .ok (.add (fD w) (fA w) (fB w) (fW w))
  | 0x01 => .ok (.sub (fD w) (fA w) (fB w) (fW w))
  | 0x02 => .ok (.and (fD w) (fA w) (fB w) (fW w))
  | 0x03 => .ok (.or (fD w) (fA w) (fB w) (fW w))
  | 0x04 => .ok (.xor (fD w) (fA w) (fB w) (fW w))
  | 0x05 => .ok (.sll (fD w) (fA w) (fB w) (fW w))
  | 0x06 => .ok (.srl (fD w) (fA w) (fB w) (fW w))
  | 0x07 => .ok (.sra (fD w) (fA w) (fB w) (fW w))
  | 0x08 => .ok (.min (fD w) (fA w) (fB w) (fW w))
  | 0x09 => .ok (.max (fD w) (fA w) (fB w) (fW w))
  | 0x0A => .ok (.minU (fD w) (fA w) (fB w) (fW w))
  | 0x0B => .ok (.maxU (fD w) (fA w) (fB w) (fW w))
  | 0x0C => .ok (.slt (fD w) (fA w) (fB w) (fW w))
  | 0x0D => .ok (.sltu (fD w) (fA w) (fB w) (fW w))
  | 0x0E => rsv (fld w 10 32 != 0) (.ok (.clz (fD w) (fA w) (fW w)))
  | 0x0F => rsv (fld w 10 32 != 0) (.ok (.popc (fD w) (fA w) (fW w)))
  | _ => .error .ill

/-- MAJ 0x02 (R92). -/
def mulDiv (w : Nat) : Except DecodeError Instr :=
  match fld w 2 256 with
  | 0 => .ok (.mul (fD w) (fA w) (fB w) (fW w))
  | 1 => .ok (.mulh (fD w) (fA w) (fB w) (fW w))
  | 2 => .ok (.mulhU (fD w) (fA w) (fB w) (fW w))
  | 3 => .ok (.div (fD w) (fA w) (fB w) (fW w))
  | 4 => .ok (.divU (fD w) (fA w) (fB w) (fW w))
  | 5 => .ok (.rem (fD w) (fA w) (fB w) (fW w))
  | 6 => .ok (.remU (fD w) (fA w) (fB w) (fW w))
  | _ => .error .ill

/-- MAJ 0x03 (R92, R119-R122). A mode that FSQRT does not accept counts as an operand, checked after its reserved field; the manual
does not say whether it is a sub-function: DESIGN CHOICE (log entry 50). -/
def sfloat (w : Nat) : Except DecodeError Instr :=
  let m := rm (fld w 2 8)
  match fld w 5 32 with
  | 0 => opt m fun m => .ok (.fadd (fD w) (fA w) (fB w) m (fW w))
  | 1 => opt m fun m => .ok (.fsub (fD w) (fA w) (fB w) m (fW w))
  | 2 => opt m fun m => .ok (.fmul (fD w) (fA w) (fB w) m (fW w))
  | 3 => opt m fun m => .ok (.ffma (fD w) (fA w) (fB w) m (fW w))
  | 4 => opt m fun m => .ok (.fdiv (fD w) (fA w) (fB w) m (fW w))
  | 5 => rsv (fld w 10 32 != 0) (opt m fun m => .ok (.fsqrt (fD w) (fA w) m (fW w)))
  | 6 => rsv (fld w 2 8 != 0) (.ok (.fmin (fD w) (fA w) (fB w) (fW w)))
  | 7 => rsv (fld w 2 8 != 0) (.ok (.fmax (fD w) (fA w) (fB w) (fW w)))
  | 8 => opt (fcond (fld w 2 8)) fun c => .ok (.fcmp (fD w) (fA w) (fB w) c (fW w))
  | 9 => opt (fconv (fld w 10 32)) fun k => opt m fun m => .ok (.fcvt (fD w) (fA w) k m (fW w))
  | _ => .error .ill

/-- MAJ 0x09 (R88, R118): IMM13[12:8] is reserved, [7:6] the kind, [5:0] the amount. -/
def shiftImm (w : Nat) : Except DecodeError Instr :=
  let n : Fin 64 := ⟨w / 2 ^ 2 % 64, Nat.mod_lt _ (by decide)⟩
  match fld w 8 4 with
  | 0 => rsv (fld w 10 32 != 0) (.ok (.slli (fD w) (fA w) n (fW w)))
  | 1 => rsv (fld w 10 32 != 0) (.ok (.srli (fD w) (fA w) n (fW w)))
  | 2 => rsv (fld w 10 32 != 0) (.ok (.srai (fD w) (fA w) n (fW w)))
  | _ => .error .ill

/-- MAJ 0x1E (R92, R127, R133). -/
def loops (w : Nat) : Except DecodeError Instr :=
  match fld w 15 32 with
  | 0 => acc (2 ≤ fld w 0 32768 && fld w 0 32768 ≤ 16383) (.ok (.loop (fD w) (bv 15 w 0)))
  | 1 => acc (2 ≤ fld w 0 32768 && fld w 0 32768 ≤ 16383) (.ok (.loopv (fD w) (bv 15 w 0)))
  | 2 => rsv (fld w 23 4 != 0) (.ok (.bkany (r3 w 20) (bv 15 w 0)))
  | 3 => rsv (fld w 23 4 != 0) (.ok (.bknone (r3 w 20) (bv 15 w 0)))
  | 4 => rsv (fld w 23 4 != 0) (.ok (.bkall (r3 w 20) (bv 15 w 0)))
  | _ => .error .ill

/-- MAJ 0x20 (R93): FN10 splits into OP, SB and SUB. SB = 1 where it is not accepted traps ILL before a reserved field is looked at,
here and in the majors that follow; the manual gives no order: DESIGN CHOICE (log entry 50). -/
def varith (w : Nat) : Except DecodeError Instr :=
  let sub := fld w 0 8 != 0
  match fld w 4 64 with
  | 0 => rsv sub (.ok (.vadd (fD w) (fA w) (vsrc w)))
  | 1 => rsv sub (.ok (.vsub (fD w) (fA w) (vsrc w)))
  | 2 => rsv sub (.ok (.vmul (fD w) (fA w) (vsrc w)))
  | 3 => rsv sub (.ok (.vmin (fD w) (fA w) (vsrc w)))
  | 4 => rsv sub (.ok (.vmax (fD w) (fA w) (vsrc w)))
  | 5 => rsv sub (.ok (.vdiv (fD w) (fA w) (vsrc w)))
  | 6 => rsv sub (.ok (.vfma (fD w) (fA w) (vsrc w)))
  | 7 => rsv sub (.ok (.vfms (fD w) (fA w) (vsrc w)))
  | 8 => acc (!bit w 3) (rsv (sub || fld w 10 32 != 0) (.ok (.vabs (fD w) (fA w))))
  | 9 => acc (!bit w 3) (rsv (sub || fld w 10 32 != 0) (.ok (.vneg (fD w) (fA w))))
  | _ => .error .ill

/-- MAJ 0x21 (R93, R154). -/
def vunary (w : Nat) : Except DecodeError Instr :=
  let go (i : Instr) := acc (!bit w 3) (rsv (fld w 0 8 != 0 || fld w 10 32 != 0) (.ok i))
  match fld w 4 64 with
  | 0 => go (.vsqrt (fD w) (fA w))
  | 1 => go (.vrcp (fD w) (fA w))
  | 2 => go (.vrsqrt (fD w) (fA w))
  | 3 => go (.vexp2 (fD w) (fA w))
  | 4 => go (.vexp (fD w) (fA w))
  | 5 => go (.vln2 (fD w) (fA w))
  | _ => .error .ill

/-- MAJ 0x22 (R93, R155). -/
def vlogic (w : Nat) : Except DecodeError Instr :=
  let sub := fld w 0 8 != 0
  match fld w 4 64 with
  | 0 => rsv sub (.ok (.vand (fD w) (fA w) (vsrc w)))
  | 1 => rsv sub (.ok (.vor (fD w) (fA w) (vsrc w)))
  | 2 => rsv sub (.ok (.vxor (fD w) (fA w) (vsrc w)))
  | 3 => rsv sub (.ok (.vsll (fD w) (fA w) (vsrc w)))
  | 4 => rsv sub (.ok (.vsrl (fD w) (fA w) (vsrc w)))
  | 5 => rsv sub (.ok (.vsra (fD w) (fA w) (vsrc w)))
  | _ => .error .ill

/-- MAJ 0x23 (R93, R156). -/
def vcmp (w : Nat) : Except DecodeError Instr :=
  match fld w 4 64 with
  | 0 => rsv (fld w 23 4 != 0) (.ok (.vcmp (r3 w 20) (fA w) (vsrc w) (vcond (fld w 0 8))))
  | _ => .error .ill

/-- MAJ 0x24 (R93, R157, R158): mask operands keep bits [4:3] of their field reserved (R85). SB = 1 traps ILL before they are looked
at: DESIGN CHOICE (log entry 50). -/
def kops (w : Nat) : Except DecodeError Instr :=
  let hiD := fld w 23 4 != 0
  let hiA := fld w 18 4 != 0
  let hiB := fld w 13 4 != 0
  let noB := fld w 10 32 != 0
  let go (bad : Bool) (i : Instr) := acc (!bit w 3) (rsv (fld w 0 8 != 0 || bad) (.ok i))
  match fld w 4 64 with
  | 0 => go (hiD || hiA || hiB) (.kand (r3 w 20) (r3 w 15) (r3 w 10))
  | 1 => go (hiD || hiA || hiB) (.kor (r3 w 20) (r3 w 15) (r3 w 10))
  | 2 => go (hiD || hiA || hiB) (.kxor (r3 w 20) (r3 w 15) (r3 w 10))
  | 3 => go (hiD || hiA || noB) (.knot (r3 w 20) (r3 w 15))
  | 4 => go (hiA || noB) (.kpop (fD w) (r3 w 15))
  | 5 => go (hiA || noB) (.kfirst (fD w) (r3 w 15))
  | _ => .error .ill

/-- MAJ 0x25 (R93, R159-R162). A non-zero B of VIOTA or VSCAN traps RSV: neither R93 nor R144 names it as reserved, and the model takes it
as a field the form does not use: DESIGN CHOICE (log entry 50). -/
def vcompact (w : Nat) : Except DecodeError Instr :=
  let sub := fld w 0 8 != 0
  match fld w 4 64 with
  | 0 => acc (!bit w 3) (rsv (sub || fld w 13 4 != 0) (.ok (.vcompress (fD w) (fA w) (r3 w 10))))
  | 1 => acc (!bit w 3) (rsv (sub || fld w 13 4 != 0) (.ok (.vexpand (fD w) (fA w) (r3 w 10))))
  | 2 => acc (!bit w 3) (rsv (sub || fld w 18 4 != 0 || fld w 10 32 != 0) (.ok (.viota (fD w) (r3 w 15))))
  | 3 => acc (!bit w 3) (rsv (sub || fld w 10 1024 != 0) (.ok (.vid (fD w))))
  | 4 => acc (!bit w 3) (opt (redop (fld w 0 8)) fun u => rsv (fld w 10 32 != 0) (.ok (.vscan (fD w) (fA w) u)))
  | _ => .error .ill

/-- MAJ 0x26 (R93, R163-R166). A non-zero B of VBCAST or VMVS traps RSV: neither R93 nor R144 names it as reserved, and the model takes
it as a field the form does not use: DESIGN CHOICE (log entry 50). -/
def vmoves (w : Nat) : Except DecodeError Instr :=
  let sub := fld w 0 8 != 0
  match fld w 4 64 with
  | 0 => acc (!bit w 3) (rsv sub (.ok (.vslideup (fD w) (fA w) (fB w))))
  | 1 => acc (!bit w 3) (rsv sub (.ok (.vslidedn (fD w) (fA w) (fB w))))
  | 2 => acc (!bit w 3) (rsv sub (.ok (.vperm (fD w) (fA w) (fB w))))
  | 3 => acc (!bit w 3) (rsv (sub || fld w 10 32 != 0) (.ok (.vbcast (fD w) (fA w))))
  | 4 => acc (!bit w 3)
      (match fld w 0 8 with
       | 0 => rsv (fld w 10 32 != 0) (.ok (.vmvsToScalar (fD w) (fA w)))
       | 1 => rsv (fld w 10 32 != 0) (.ok (.vmvsToVector (fD w) (fA w)))
       | _ => .error .ill)
  | 5 => acc (!bit w 3) (rsv sub (.ok (.vmerge (fD w) (fA w) (fB w))))
  | _ => .error .ill

/-- MAJ 0x27 (R93, R167, R168). A non-zero B of VSEGRED traps RSV: neither R93 nor R144 names it as reserved, and the model takes it as
a field the form does not use: DESIGN CHOICE (log entry 50). -/
def vreduce (w : Nat) : Except DecodeError Instr :=
  let sub := fld w 0 8 != 0
  match fld w 4 64 with
  | 0 => acc (!bit w 3) (rsv sub (.ok (.vredsum (fD w) (fA w) (fB w))))
  | 1 => acc (!bit w 3) (rsv sub (.ok (.vredmax (fD w) (fA w) (fB w))))
  | 2 => acc (!bit w 3) (rsv sub (.ok (.vredmin (fD w) (fA w) (fB w))))
  | 3 => acc (!bit w 3) (opt (redop (fld w 0 8)) fun u => rsv (fld w 10 32 != 0) (.ok (.vsegred (fD w) (fA w) u)))
  | _ => .error .ill

/-- MAJ 0x28 (R93, R169). -/
def vconvert (w : Nat) : Except DecodeError Instr :=
  opt (vconv (fld w 4 64)) fun c =>
    acc (!bit w 3) (rsv (fld w 0 8 != 0 || fld w 10 32 != 0)
      (acc (!(c.unequal && fD w == fA w)) (.ok (.vcvt (fD w) (fA w) c))))

/-- The fields VLD, VST and VPREF share (R170). -/
def vmem (w : Nat) (store : Bool) (k : Fmt → VMode → Instr) : Except DecodeError Instr :=
  opt (fmt (fld w 11 16)) fun f => opt (vmode (fld w 8 8)) fun m =>
    acc (f.modeOk m && !(store && fld w 6 4 == 3)) (.ok (k f m))

/-- VLDX and VSTX (R170): MODE 0 only, X[0] reserved. -/
def vidx (w : Nat) (store : Bool) (k : Fmt → Instr) : Except DecodeError Instr :=
  rsv (fld w 0 2 != 0) (opt (fmt (fld w 11 16)) fun f => acc (fld w 8 8 == 0 && !(store && fld w 6 4 == 3)) (.ok (k f)))

/-- An AMO's flags and scope (R94, R288). -/
def amo (w : Nat) (k : Bool → Bool → Scope → Stall → Instr) : Except DecodeError Instr :=
  opt (scope (fld w 2 8)) fun c => .ok (k (bit w 6) (bit w 5) c (fW w))

def amoW (w : Nat) : Except DecodeError Instr :=
  match fld w 7 8 with
  | 0 => amo w (.amoaddW (fD w) (fA w) (fB w))
  | 1 => amo w (.amominW (fD w) (fA w) (fB w))
  | 2 => amo w (.amomaxW (fD w) (fA w) (fB w))
  | 3 => amo w (.amoandW (fD w) (fA w) (fB w))
  | 4 => amo w (.amoorW (fD w) (fA w) (fB w))
  | 5 => amo w (.amoswpW (fD w) (fA w) (fB w))
  | 6 => amo w (.amocasW (fD w) (fA w) (fB w))
  | _ => .error .ill

def amoD (w : Nat) : Except DecodeError Instr :=
  match fld w 7 8 with
  | 0 => amo w (.amoaddD (fD w) (fA w) (fB w))
  | 1 => amo w (.amominD (fD w) (fA w) (fB w))
  | 2 => amo w (.amomaxD (fD w) (fA w) (fB w))
  | 3 => amo w (.amoandD (fD w) (fA w) (fB w))
  | 4 => amo w (.amoorD (fD w) (fA w) (fB w))
  | 5 => amo w (.amoswpD (fD w) (fA w) (fB w))
  | 6 => amo w (.amocasD (fD w) (fA w) (fB w))
  | _ => .error .ill

/-- PHASE and FENCE (R287): D, A and CTRL12[11:3] reserved. -/
def sync (w : Nat) : Except DecodeError Instr :=
  match fld w 0 8 with
  | 0 => rsv (fld w 6 (2 ^ 19) != 0) (opt (scope (fld w 3 8)) fun c => .ok (.phase c))
  | 1 => rsv (fld w 6 (2 ^ 19) != 0) (opt (scope (fld w 3 8)) fun c => .ok (.fence c))
  | _ => .error .ill

/-- MAJ 0x58-0x5F (R95, R213-R220). -/
def matrix (w : Nat) : Except DecodeError Instr :=
  let m := r9 w 16
  match w / 2 ^ 25 with
  | 0x58 =>
    match fld w 0 64 with
    | 0 => .ok (.mopaB m (r5 w 11) (r5 w 6))
    | 1 => .ok (.mopaF m (r5 w 11) (r5 w 6))
    | _ => .error .ill
  | 0x59 =>
    match fld w 0 64 with
    | 0 => .ok (.mopsB m (r5 w 11) (r5 w 6))
    | 1 => .ok (.mopsF m (r5 w 11) (r5 w 6))
    | _ => .error .ill
  | 0x5A =>
    match fld w 0 64 with
    | 0 => .ok (.mmas m (r5 w 11) (r5 w 6))
    | _ => .error .ill
  | 0x5B =>
    match fld w 0 64 with
    | 0 => rsv (fld w 6 1024 != 0) (.ok (.mzero m))
    | 1 => acc (!(bit w 6 && m == r9 w 7)) (.ok (.mmov m (r9 w 7) (bit w 6)))
    | 2 => rsv (fld w 6 1024 != 0) (.ok (.mdead m))
    | 3 => rsv (fld w 6 1024 != 0) (.ok (.mpref m))
    | 4 => rsv (fld w 6 1024 != 0) (.ok (.mflush m))
    | 5 => rsv (fld w 6 (2 ^ 19) != 0) (.ok .mflushall)
    | _ => .error .ill
  | 0x5C =>
    match fld w 0 8 with
    | 0 => rsv (bit w 5) (.ok (.mld m (r5 w 11) (r5 w 6) (r2 w 3) .fp32))
    | 1 => rsv (bit w 5) (.ok (.mld m (r5 w 11) (r5 w 6) (r2 w 3) .bf16))
    | _ => .error .ill
  | 0x5D =>
    match fld w 0 8 with
    | 0 => acc (fld w 3 4 != 3) (.ok (.mst m (r5 w 11) (r5 w 6) (bit w 5) (r2 w 3) .fp32))
    | 1 => acc (fld w 3 4 != 3) (.ok (.mst m (r5 w 11) (r5 w 6) (bit w 5) (r2 w 3) .bf16))
    | _ => .error .ill
  | 0x5E =>
    match fld w 0 8 with
    | 0 => rsv (fld w 3 4 != 0) (.ok (.mrow m (r5 w 11) (r5 w 6) (bit w 5)))
    | 1 => rsv (fld w 3 4 != 0) (.ok (.mcol4 m (r5 w 11) (r5 w 6) (bit w 5)))
    | 2 => rsv (fld w 3 8 != 0) (.ok (.mwrow m (r5 w 11) (r5 w 6)))
    | _ => .error .ill
  | _ =>
    match fld w 0 8 with
    | 0 => rsv (fld w 3 256 != 0) (.ok (.mstat m (r5 w 11)))
    | _ => .error .ill

/-- MAJ 0x68-0x6F (R95, R222-R239). -/
def attention (w : Nat) : Except DecodeError Instr :=
  let m := r9 w 16
  match w / 2 ^ 25 with
  | 0x68 => rsv (fld w 6 16 != 0) (.ok (.setvlr (fD w) (fA w) (fB w) (r4 w 2) (fW w)))
  | 0x69 =>
    if bit w 0 then .ok (.atscBias m (r5 w 11) (r5 w 6) (r5 w 1))
    else rsv (fld w 1 32 != 0) (.ok (.atsc m (r5 w 11) (r5 w 6)))
  | 0x6A => rsv (fld w 14 2048 != 0 || fld w 0 2048 != 0) (.ok (.atex (r3 w 11)))
  | 0x6B => rsv (fld w 3 8 != 0) (acc (!(bit w 6 && m == r9 w 7)) (.ok (.atac m (r9 w 7) (bit w 6) (r3 w 0))))
  | 0x6C =>
    match fld w 6 16 with
    | 0 => rsv (bit w 5 || fld w 10 1024 != 0) (.ok (.osget (fD w) (r3 w 2) (fW w)))
    | 1 => rsv (bit w 5 || fld w 10 32 != 0 || fld w 20 32 != 0) (.ok (.osput (fA w) (r3 w 2) (fW w)))
    | 2 => rsv (bit w 5 || fld w 10 32768 != 0) (.ok (.oszero (r3 w 2) (fW w)))
    | _ => .error .ill
  | 0x6D => rsv (fld w 0 1024 != 0) (.ok (.vtopk (fD w) (fA w) (fB w)))
  | 0x6E => rsv (bit w 10 || fld w 0 64 != 0) (.ok (.tmatch m (r5 w 11) (r4 w 6)))
  | _ =>
    match fld w 4 4 with
    | 0 => acc (m != r9 w 7) (.ok (.tmerge m (r9 w 7) (bit w 6) (r4 w 0)))
    | 1 => acc (m != r9 w 7) (.ok (.tunmrg m (r9 w 7) (bit w 6) (r4 w 0)))
    | _ => .error .ill

/-- MAJ 0x70-0x77 (R96). -/
def heap (w : Nat) : Except DecodeError Instr :=
  let hD := r4 w 20
  let hA := r4 w 16
  let off := bv 13 w 3
  match w / 2 ^ 25 with
  | 0x70 => opt (ldwidth (fld w 0 8)) fun n => .ok (.hld (fD w) hA off n)
  | 0x71 => opt (stwidth (fld w 0 8)) fun n => .ok (.hst (fD w) hA off n)
  | 0x72 =>
    match fld w 0 8 with
    | 0 => rsv (bit w 24) (.ok (.ldh hD hA off))
    | 1 => rsv (bit w 24) (.ok (.sth hD hA off))
    | 2 => rsv (bit w 24) (acc (fld w 20 2 == 0) (.ok (.hcas hD hA off)))
    | _ => .error .ill
  | 0x73 => opt (fmt (fld w 0 8)) fun f => .ok (.vldh (fD w) hA off f)
  | 0x74 => opt (fmt (fld w 0 8)) fun f => .ok (.vsth (fD w) hA off f)
  | 0x75 =>
    match fld w 0 8 with
    | 0 => rsv (fld w 3 8192 != 0) (.ok (.hpin (fD w) hA))
    | 1 => rsv (fld w 3 8192 != 0 || fld w 20 32 != 0) (.ok (.hunpin hA))
    | 2 => rsv (fld w 3 8192 != 0 || fld w 20 32 != 0) (.ok (.hheal hA))
    | 3 => rsv (fld w 7 512 != 0) (.ok (.hcmp (fD w) hA (r4 w 3)))
    | _ => .error .ill
  | 0x76 =>
    match fld w 0 8 with
    | 0 => rsv (bit w 24 || fld w 16 16 != 0) (acc (fld w 3 8192 != 0) (.ok (.hallocImmediate hD off)))
    | 1 => rsv (bit w 24 || fld w 16 16 != 0 || fld w 8 256 != 0) (.ok (.hallocRegister hD (r5 w 3)))
    | _ => .error .ill
  | _ =>
    match fld w 0 8 with
    | 0 => rsv (fld w 20 32 != 0) (.ok (.hnul hA off))
    | 1 => rsv (fld w 20 32 != 0) (.ok (.hnulN hA off))
    | _ => .error .ill

/-- MAJ 0x78-0x7D (R97). -/
def system (w : Nat) : Except DecodeError Instr :=
  let ctrl := fld w 3 4096
  match w / 2 ^ 25 with
  | 0x78 =>
    let go (k : CmdBase → Instr) := rsv (ctrl != 0) (opt (cmdbase (fld w 15 32)) fun a => .ok (k a))
    match fld w 0 8 with
    | 0 => go (.cpy (fD w))
    | 1 => go (.cpym (fD w))
    | 2 => go (.cgath (fD w))
    | 3 => go (.reloc (fD w))
    | _ => .error .ill
  | 0x79 =>
    match fld w 0 8 with
    | 0 => rsv (ctrl != 0 || fld w 20 32 != 0) (.ok (.sarm (fA w)))
    | 1 => rsv (ctrl != 0) (.ok (.swait (fD w) (fA w)))
    | 2 => rsv (fld w 3 (2 ^ 22) != 0) (.ok .bar)
    | _ => .error .ill
  | 0x7A =>
    match fld w 0 8 with
    | 0 => rsv (fld w 13 4 != 0 || fld w 20 32 != 0)
        (.ok (.spawn (fA w) ⟨w / 2 ^ 3 % 1024, Nat.mod_lt _ (by decide)⟩))
    | 1 => rsv (fld w 3 (2 ^ 22) != 0) (.ok .endThread)
    | _ => .error .ill
  | 0x7B =>
    match fld w 0 8 with
    | 0 => rsv (fld w 3 4 != 0) (.ok (.msend (r9 w 16) (r5 w 11) (r5 w 6) (bit w 5)))
    | 1 => rsv (fld w 3 4 != 0) (.ok (.msendm (r9 w 16) (r5 w 11) (r5 w 6) (bit w 5)))
    | 2 => rsv (fld w 3 256 != 0) (.ok (.mrecv (r9 w 16) (r5 w 11)))
    | _ => .error .ill
  | 0x7C =>
    match fld w 0 8 with
    | 0 => rsv (fld w 15 32 != 0) (.ok (.getc (fD w) (bv 12 w 3)))
    | 1 => rsv (fld w 20 32 != 0) (.ok (.putc (fA w) (bv 12 w 3)))
    | _ => .error .ill
  | _ =>
    match fld w 0 8 with
    | 0 => rsv (fld w 3 (2 ^ 22) != 0) (.ok .eret)
    | 1 => rsv (fld w 3 (2 ^ 22) != 0) (.ok .wait)
    | 2 => rsv (fld w 15 1024 != 0) (.ok (.trap (bv 12 w 3)))
    | 3 => rsv (fld w 3 (2 ^ 22) != 0) (.ok .fencei)
    | 4 => rsv (fld w 3 (2 ^ 22) != 0) (.ok .idle)
    | _ => .error .ill

/-- The scalar majors 0x01-0x1F (R91, R92). -/
def scalar (w : Nat) : Except DecodeError Instr :=
  let d := fD w
  let a := fA w
  let i := bv 13 w 2
  let n := fW w
  let o := bv 15 w 0
  match w / 2 ^ 25 with
  | 0x01 => alu w
  | 0x02 => mulDiv w
  | 0x03 => sfloat w
  | 0x04 => .ok (.addi d a i n)
  | 0x05 => .ok (.andi d a i n)
  | 0x06 => .ok (.ori d a i n)
  | 0x07 => .ok (.xori d a i n)
  | 0x08 => .ok (.slti d a i n)
  | 0x09 => shiftImm w
  | 0x0A => .ok (.lui d (bv 20 w 0))
  | 0x0B => .ok (.ldB d a i n)
  | 0x0C => .ok (.ldBu d a i n)
  | 0x0D => .ok (.ldH d a i n)
  | 0x0E => .ok (.ldHu d a i n)
  | 0x0F => .ok (.ldW d a i n)
  | 0x10 => .ok (.ldWu d a i n)
  | 0x11 => .ok (.ldD d a i n)
  | 0x12 => .ok (.stB d a i n)
  | 0x13 => .ok (.stH d a i n)
  | 0x14 => .ok (.stW d a i n)
  | 0x15 => .ok (.stD d a i n)
  | 0x16 => .ok (.beq d a o)
  | 0x17 => .ok (.bne d a o)
  | 0x18 => .ok (.blt d a o)
  | 0x19 => .ok (.bge d a o)
  | 0x1A => .ok (.bltu d a o)
  | 0x1B => .ok (.bgeu d a o)
  | 0x1C => .ok (.jal d (bv 20 w 0))
  | 0x1D => .ok (.jalr d a i n)
  | 0x1E => loops w
  | 0x1F =>
    match fld w 2 256 with
    | 0 => rsv (fld w 10 32 != 0) (.ok (.setvl d a n))
    | _ => .error .ill
  | _ => .error .ill

/-- The vector memory and atomic majors 0x40-0x4C (R94, R170). -/
def memory (w : Nat) : Except DecodeError Instr :=
  let v := r5 w 20
  let s := r5 w 15
  let h := r2 w 6
  let x := bv 6 w 0
  match w / 2 ^ 25 with
  | 0x40 => vmem w false fun f m => .vld v s f m h x
  | 0x41 => vmem w true fun f m => .vst v s f m h x
  | 0x42 => vidx w false fun f => .vldx v s f h (r5 w 1)
  | 0x43 => vidx w true fun f => .vstx v s f h (r5 w 1)
  | 0x44 => rsv (fld w 20 32 != 0 || fld w 11 16 != 0 || fld w 0 2 != 0)
      (acc (fld w 8 8 == 0) (.ok (.vldsc s h (r5 w 1))))
  | 0x45 => rsv (fld w 20 32 != 0) (vmem w true fun f m => .vpref s f m h x)
  | 0x46 => rsv (fld w 23 4 != 0 || fld w 11 16 != 0) (acc (fld w 8 8 == 0) (.ok (.vldk (r3 w 20) s h x)))
  | 0x47 => rsv (fld w 23 4 != 0 || fld w 11 16 != 0)
      (acc (fld w 8 8 == 0 && fld w 6 4 != 3) (.ok (.vstk (r3 w 20) s h x)))
  | 0x48 => amoW w
  | 0x49 => amoD w
  | 0x4A =>
    match fld w 7 8 with
    | 7 => .error .ill
    | p => opt (nibop p) fun p => opt (scope (fld w 2 8)) fun c =>
        .ok (.amonib v s (fB w) p (bit w 6) (bit w 5) c (fW w))
  | 0x4B => rsv (fld w 0 2 != 0) (opt (fmt (fld w 11 16)) fun f => opt (scope (fld w 8 8)) fun c =>
      acc (f == .fp32 || f == .int32 || f == .int64) (.ok (.vamoadd v s f c (bit w 7) (bit w 6) (r5 w 1))))
  | _ => sync w

end Dec

/-- The decoder, total on every word, in the check order of R90 (R91 gives the majors). -/
def decode (w : Nat) : Except DecodeError Instr :=
  if w = 0 then .error .zero
  else if w = 0xFFFFFFFF then .ok .brk
  else
    match w / 2 ^ 25 with
    | 0x20 => Dec.varith w
    | 0x21 => Dec.vunary w
    | 0x22 => Dec.vlogic w
    | 0x23 => Dec.vcmp w
    | 0x24 => Dec.kops w
    | 0x25 => Dec.vcompact w
    | 0x26 => Dec.vmoves w
    | 0x27 => Dec.vreduce w
    | 0x28 => Dec.vconvert w
    | m =>
      if m ≤ 0x1F then Dec.scalar w
      else if 0x40 ≤ m && m ≤ 0x4C then Dec.memory w
      else if 0x58 ≤ m && m ≤ 0x5F then Dec.matrix w
      else if 0x68 ≤ m && m ≤ 0x6F then Dec.attention w
      else if 0x70 ≤ m && m ≤ 0x77 then Dec.heap w
      else if 0x78 ≤ m && m ≤ 0x7D then Dec.system w
      else .error .ill

/-- The instruction the decoder reads from a table row's bits: the low 32 bits are the one word of every row. -/
def decodeTableWord (_nbits w : Nat) : Option Instr :=
  match decode (w % 2 ^ 32) with
  | .ok i => some i
  | .error _ => none

/-! ## The encoder (R84-R97) -/

namespace Enc

/-- SR format (R84). -/
def sr (maj d a b fn w : Nat) : Nat := maj * 2 ^ 25 + d * 2 ^ 20 + a * 2 ^ 15 + b * 2 ^ 10 + fn * 4 + w
/-- SI format. -/
def si (maj d a i w : Nat) : Nat := maj * 2 ^ 25 + d * 2 ^ 20 + a * 2 ^ 15 + i * 4 + w
/-- LI and J formats. -/
def li (maj d i : Nat) : Nat := maj * 2 ^ 25 + d * 2 ^ 20 + i
/-- BR format. -/
def br (maj a b o : Nat) : Nat := maj * 2 ^ 25 + a * 2 ^ 20 + b * 2 ^ 15 + o
/-- VR format with FN10 split as R93 does. -/
def vr (maj d a b op sb sub : Nat) : Nat :=
  maj * 2 ^ 25 + d * 2 ^ 20 + a * 2 ^ 15 + b * 2 ^ 10 + op * 16 + sb * 8 + sub
/-- VM format. -/
def vm (maj v s f m h x : Nat) : Nat :=
  maj * 2 ^ 25 + v * 2 ^ 20 + s * 2 ^ 15 + f * 2 ^ 11 + m * 2 ^ 8 + h * 2 ^ 6 + x
/-- MX format. -/
def mx (maj m a b fn : Nat) : Nat := maj * 2 ^ 25 + m * 2 ^ 16 + a * 2 ^ 11 + b * 2 ^ 6 + fn
/-- MM format. -/
def mm (maj m s x l h fn : Nat) : Nat :=
  maj * 2 ^ 25 + m * 2 ^ 16 + s * 2 ^ 11 + x * 2 ^ 6 + l * 2 ^ 5 + h * 2 ^ 3 + fn
/-- MT format. -/
def mt (maj m n l fn : Nat) : Nat := maj * 2 ^ 25 + m * 2 ^ 16 + n * 2 ^ 7 + l * 2 ^ 6 + fn
/-- HR format. -/
def hr (maj d h o fn : Nat) : Nat := maj * 2 ^ 25 + d * 2 ^ 20 + h * 2 ^ 16 + o * 2 ^ 3 + fn
/-- SY format. -/
def sy (maj d a c fn : Nat) : Nat := maj * 2 ^ 25 + d * 2 ^ 20 + a * 2 ^ 15 + c * 2 ^ 3 + fn

def rm : Rm → Nat
  | .rne => 0 | .rtz => 1 | .rup => 2 | .rdn => 3
def fcond : FCond → Nat
  | .eq => 0 | .ne => 1 | .lt => 2 | .le => 3 | .un => 4
def fconv : FConv → Nat
  | .toi32 => 0 | .toi64 => 1 | .fromi32 => 2 | .fromi64 => 3 | .tobf16 => 4 | .frombf16 => 5
def vcond : VCond → Nat
  | .eq => 0 | .ne => 1 | .lt => 2 | .le => 3 | .gt => 4 | .ge => 5 | .ltu => 6 | .geu => 7
def redop : RedOp → Nat
  | .sum => 0 | .max => 1 | .min => 2
def vconv : VConv → Nat
  | .fp32bf16 => 0 | .bf16fp32 => 1 | .bf16int16 => 2 | .fp32int32 => 3 | .fp32int64 => 4 | .int16bf16 => 5
  | .int32fp32 => 6 | .int64fp32 => 7 | .int32int16 => 8 | .int64int32 => 9 | .int32int64 => 10 | .int16int32 => 11
def vmode : VMode → Nat
  | .unit => 0 | .strided => 1 | .tile => 2
def scope : Scope → Nat
  | .thread => 0 | .core => 1 | .sett => 2 | .package => 3 | .pod => 4
def nibop : NibOp → Nat
  | .add => 0 | .and => 3 | .or => 4 | .swp => 5
def ldwidth : LdWidth → Nat
  | .b => 0 | .bu => 1 | .h => 2 | .hu => 3 | .w => 4 | .wu => 5 | .d => 6
def stwidth : StWidth → Nat
  | .b => 0 | .h => 2 | .w => 4 | .d => 6
def cmdbase : CmdBase → Nat
  | .s8 => 8 | .s16 => 16
def mfmt : MFmt → Nat
  | .fp32 => 0 | .bf16 => 1
/-- B and SB of a last source (R93). -/
def srcB : VSrc → Nat
  | .vec r => r.val | .scl r => r.val
def srcSB : VSrc → Nat
  | .vec _ => 0 | .scl _ => 1
def amo (maj op : Nat) (d a b : SReg) (aq rl : Bool) (c : Scope) (w : Stall) : Nat :=
  sr maj d.val a.val b.val (op * 2 ^ 5 + aq.toNat * 2 ^ 4 + rl.toNat * 2 ^ 3 + scope c) w.val

end Enc

open Enc in
/-- The word of an instruction (R84-R97); an event has none. -/
def encode : Instr → Option Nat
  | .add d a b w => some (sr 0x01 d a b 0x00 w)
  | .sub d a b w => some (sr 0x01 d a b 0x01 w)
  | .and d a b w => some (sr 0x01 d a b 0x02 w)
  | .or d a b w => some (sr 0x01 d a b 0x03 w)
  | .xor d a b w => some (sr 0x01 d a b 0x04 w)
  | .sll d a b w => some (sr 0x01 d a b 0x05 w)
  | .srl d a b w => some (sr 0x01 d a b 0x06 w)
  | .sra d a b w => some (sr 0x01 d a b 0x07 w)
  | .min d a b w => some (sr 0x01 d a b 0x08 w)
  | .max d a b w => some (sr 0x01 d a b 0x09 w)
  | .minU d a b w => some (sr 0x01 d a b 0x0A w)
  | .maxU d a b w => some (sr 0x01 d a b 0x0B w)
  | .slt d a b w => some (sr 0x01 d a b 0x0C w)
  | .sltu d a b w => some (sr 0x01 d a b 0x0D w)
  | .clz d a w => some (sr 0x01 d a 0 0x0E w)
  | .popc d a w => some (sr 0x01 d a 0 0x0F w)
  | .mul d a b w => some (sr 0x02 d a b 0 w)
  | .mulh d a b w => some (sr 0x02 d a b 1 w)
  | .mulhU d a b w => some (sr 0x02 d a b 2 w)
  | .div d a b w => some (sr 0x02 d a b 3 w)
  | .divU d a b w => some (sr 0x02 d a b 4 w)
  | .rem d a b w => some (sr 0x02 d a b 5 w)
  | .remU d a b w => some (sr 0x02 d a b 6 w)
  | .fadd d a b m w => some (sr 0x03 d a b (0 * 8 + rm m) w)
  | .fsub d a b m w => some (sr 0x03 d a b (1 * 8 + rm m) w)
  | .fmul d a b m w => some (sr 0x03 d a b (2 * 8 + rm m) w)
  | .ffma d a b m w => some (sr 0x03 d a b (3 * 8 + rm m) w)
  | .fdiv d a b m w => some (sr 0x03 d a b (4 * 8 + rm m) w)
  | .fsqrt d a m w => some (sr 0x03 d a 0 (5 * 8 + rm m) w)
  | .fmin d a b w => some (sr 0x03 d a b (6 * 8) w)
  | .fmax d a b w => some (sr 0x03 d a b (7 * 8) w)
  | .fcmp d a b c w => some (sr 0x03 d a b (8 * 8 + fcond c) w)
  | .fcvt d a k m w => some (sr 0x03 d a (fconv k) (9 * 8 + rm m) w)
  | .addi d a i w => some (si 0x04 d a i.toNat w)
  | .andi d a i w => some (si 0x05 d a i.toNat w)
  | .ori d a i w => some (si 0x06 d a i.toNat w)
  | .xori d a i w => some (si 0x07 d a i.toNat w)
  | .slti d a i w => some (si 0x08 d a i.toNat w)
  | .slli d a n w => some (si 0x09 d a n w)
  | .srli d a n w => some (si 0x09 d a (64 + n) w)
  | .srai d a n w => some (si 0x09 d a (128 + n) w)
  | .lui d i => some (li 0x0A d i.toNat)
  | .ldB d a i w => some (si 0x0B d a i.toNat w)
  | .ldBu d a i w => some (si 0x0C d a i.toNat w)
  | .ldH d a i w => some (si 0x0D d a i.toNat w)
  | .ldHu d a i w => some (si 0x0E d a i.toNat w)
  | .ldW d a i w => some (si 0x0F d a i.toNat w)
  | .ldWu d a i w => some (si 0x10 d a i.toNat w)
  | .ldD d a i w => some (si 0x11 d a i.toNat w)
  | .stB d a i w => some (si 0x12 d a i.toNat w)
  | .stH d a i w => some (si 0x13 d a i.toNat w)
  | .stW d a i w => some (si 0x14 d a i.toNat w)
  | .stD d a i w => some (si 0x15 d a i.toNat w)
  | .beq a b o => some (br 0x16 a b o.toNat)
  | .bne a b o => some (br 0x17 a b o.toNat)
  | .blt a b o => some (br 0x18 a b o.toNat)
  | .bge a b o => some (br 0x19 a b o.toNat)
  | .bltu a b o => some (br 0x1A a b o.toNat)
  | .bgeu a b o => some (br 0x1B a b o.toNat)
  | .jal d o => some (li 0x1C d o.toNat)
  | .jalr d a i w => some (si 0x1D d a i.toNat w)
  | .loop a o => some (br 0x1E a 0 o.toNat)
  | .loopv a o => some (br 0x1E a 1 o.toNat)
  | .bkany k o => some (br 0x1E k 2 o.toNat)
  | .bknone k o => some (br 0x1E k 3 o.toNat)
  | .bkall k o => some (br 0x1E k 4 o.toNat)
  | .setvl d a w => some (sr 0x1F d a 0 0 w)
  | .vadd d a b => some (vr 0x20 d a (srcB b) 0 (srcSB b) 0)
  | .vsub d a b => some (vr 0x20 d a (srcB b) 1 (srcSB b) 0)
  | .vmul d a b => some (vr 0x20 d a (srcB b) 2 (srcSB b) 0)
  | .vmin d a b => some (vr 0x20 d a (srcB b) 3 (srcSB b) 0)
  | .vmax d a b => some (vr 0x20 d a (srcB b) 4 (srcSB b) 0)
  | .vdiv d a b => some (vr 0x20 d a (srcB b) 5 (srcSB b) 0)
  | .vfma d a b => some (vr 0x20 d a (srcB b) 6 (srcSB b) 0)
  | .vfms d a b => some (vr 0x20 d a (srcB b) 7 (srcSB b) 0)
  | .vabs d a => some (vr 0x20 d a 0 8 0 0)
  | .vneg d a => some (vr 0x20 d a 0 9 0 0)
  | .vsqrt d a => some (vr 0x21 d a 0 0 0 0)
  | .vrcp d a => some (vr 0x21 d a 0 1 0 0)
  | .vrsqrt d a => some (vr 0x21 d a 0 2 0 0)
  | .vexp2 d a => some (vr 0x21 d a 0 3 0 0)
  | .vexp d a => some (vr 0x21 d a 0 4 0 0)
  | .vln2 d a => some (vr 0x21 d a 0 5 0 0)
  | .vand d a b => some (vr 0x22 d a (srcB b) 0 (srcSB b) 0)
  | .vor d a b => some (vr 0x22 d a (srcB b) 1 (srcSB b) 0)
  | .vxor d a b => some (vr 0x22 d a (srcB b) 2 (srcSB b) 0)
  | .vsll d a b => some (vr 0x22 d a (srcB b) 3 (srcSB b) 0)
  | .vsrl d a b => some (vr 0x22 d a (srcB b) 4 (srcSB b) 0)
  | .vsra d a b => some (vr 0x22 d a (srcB b) 5 (srcSB b) 0)
  | .vcmp d a b c => some (vr 0x23 d a (srcB b) 0 (srcSB b) (vcond c))
  | .kand d a b => some (vr 0x24 d a b 0 0 0)
  | .kor d a b => some (vr 0x24 d a b 1 0 0)
  | .kxor d a b => some (vr 0x24 d a b 2 0 0)
  | .knot d a => some (vr 0x24 d a 0 3 0 0)
  | .kpop d a => some (vr 0x24 d a 0 4 0 0)
  | .kfirst d a => some (vr 0x24 d a 0 5 0 0)
  | .vcompress d a b => some (vr 0x25 d a b 0 0 0)
  | .vexpand d a b => some (vr 0x25 d a b 1 0 0)
  | .viota d a => some (vr 0x25 d a 0 2 0 0)
  | .vid d => some (vr 0x25 d 0 0 3 0 0)
  | .vscan d a u => some (vr 0x25 d a 0 4 0 (redop u))
  | .vslideup d a b => some (vr 0x26 d a b 0 0 0)
  | .vslidedn d a b => some (vr 0x26 d a b 1 0 0)
  | .vperm d a b => some (vr 0x26 d a b 2 0 0)
  | .vbcast d a => some (vr 0x26 d a 0 3 0 0)
  | .vmvsToScalar d a => some (vr 0x26 d a 0 4 0 0)
  | .vmvsToVector d a => some (vr 0x26 d a 0 4 0 1)
  | .vmerge d a b => some (vr 0x26 d a b 5 0 0)
  | .vredsum d a b => some (vr 0x27 d a b 0 0 0)
  | .vredmax d a b => some (vr 0x27 d a b 1 0 0)
  | .vredmin d a b => some (vr 0x27 d a b 2 0 0)
  | .vsegred d a u => some (vr 0x27 d a 0 3 0 (redop u))
  | .vcvt d a c => some (vr 0x28 d a 0 (vconv c) 0 0)
  | .vld v s f m h x => some (vm 0x40 v s f.code (vmode m) h x.toNat)
  | .vst v s f m h x => some (vm 0x41 v s f.code (vmode m) h x.toNat)
  | .vldx v s f h i => some (vm 0x42 v s f.code 0 h (2 * i))
  | .vstx v s f h i => some (vm 0x43 v s f.code 0 h (2 * i))
  | .vldsc s h x => some (vm 0x44 0 s 0 0 h (2 * x))
  | .vpref s f m h x => some (vm 0x45 0 s f.code (vmode m) h x.toNat)
  | .vldk k s h x => some (vm 0x46 k s 0 0 h x.toNat)
  | .vstk k s h x => some (vm 0x47 k s 0 0 h x.toNat)
  | .amoaddW d a b q r c w => some (amo 0x48 0 d a b q r c w)
  | .amominW d a b q r c w => some (amo 0x48 1 d a b q r c w)
  | .amomaxW d a b q r c w => some (amo 0x48 2 d a b q r c w)
  | .amoandW d a b q r c w => some (amo 0x48 3 d a b q r c w)
  | .amoorW d a b q r c w => some (amo 0x48 4 d a b q r c w)
  | .amoswpW d a b q r c w => some (amo 0x48 5 d a b q r c w)
  | .amocasW d a b q r c w => some (amo 0x48 6 d a b q r c w)
  | .amoaddD d a b q r c w => some (amo 0x49 0 d a b q r c w)
  | .amominD d a b q r c w => some (amo 0x49 1 d a b q r c w)
  | .amomaxD d a b q r c w => some (amo 0x49 2 d a b q r c w)
  | .amoandD d a b q r c w => some (amo 0x49 3 d a b q r c w)
  | .amoorD d a b q r c w => some (amo 0x49 4 d a b q r c w)
  | .amoswpD d a b q r c w => some (amo 0x49 5 d a b q r c w)
  | .amocasD d a b q r c w => some (amo 0x49 6 d a b q r c w)
  | .amonib d a b p q r c w => some (amo 0x4A (nibop p) d a b q r c w)
  | .vamoadd v s f c q r i => some (vm 0x4B v s f.code (scope c) (2 * q.toNat + r.toNat) (2 * i))
  | .phase c => some (sy 0x4C 0 0 (scope c) 0)
  | .fence c => some (sy 0x4C 0 0 (scope c) 1)
  | .mopaB m a b => some (mx 0x58 m a b 0)
  | .mopaF m a b => some (mx 0x58 m a b 1)
  | .mopsB m a b => some (mx 0x59 m a b 0)
  | .mopsF m a b => some (mx 0x59 m a b 1)
  | .mmas m a b => some (mx 0x5A m a b 0)
  | .mzero m => some (mt 0x5B m 0 0 0)
  | .mmov m n l => some (mt 0x5B m n l.toNat 1)
  | .mdead m => some (mt 0x5B m 0 0 2)
  | .mpref m => some (mt 0x5B m 0 0 3)
  | .mflush m => some (mt 0x5B m 0 0 4)
  | .mflushall => some (mt 0x5B 0 0 0 5)
  | .mld m s x h f => some (mm 0x5C m s x 0 h (mfmt f))
  | .mst m s x l h f => some (mm 0x5D m s x l.toNat h (mfmt f))
  | .mrow m v x l => some (mm 0x5E m v x l.toNat 0 0)
  | .mcol4 m v x l => some (mm 0x5E m v x l.toNat 0 1)
  | .mwrow m v x => some (mm 0x5E m v x 0 0 2)
  | .mstat m d => some (mm 0x5F m d 0 0 0 0)
  | .setvlr d a b h w => some (sr 0x68 d a b h w)
  | .atsc m a b => some (mx 0x69 m a b 0)
  | .atscBias m a b z => some (mx 0x69 m a b (2 * z + 1))
  | .atex o => some (mx 0x6A 0 o 0 0)
  | .atac m n l o => some (mt 0x6B m n l.toNat o)
  | .osget d o w => some (sr 0x6C d 0 0 o w)
  | .osput a o w => some (sr 0x6C 0 a 0 (16 + o) w)
  | .oszero o w => some (sr 0x6C 0 0 0 (32 + o) w)
  | .vtopk d a b => some (vr 0x6D d a b 0 0 0)
  | .tmatch m a h => some (mx 0x6E m a h 0)
  | .tmerge m n l h => some (mt 0x6F m n l.toNat h)
  | .tunmrg m n l h => some (mt 0x6F m n l.toNat (16 + h))
  | .hld d h o n => some (hr 0x70 d h o.toNat (ldwidth n))
  | .hst d h o n => some (hr 0x71 d h o.toNat (stwidth n))
  | .ldh d h o => some (hr 0x72 d h o.toNat 0)
  | .sth d h o => some (hr 0x72 d h o.toNat 1)
  | .hcas d h o => some (hr 0x72 d h o.toNat 2)
  | .vldh d h o f => some (hr 0x73 d h o.toNat f.code)
  | .vsth d h o f => some (hr 0x74 d h o.toNat f.code)
  | .hpin d h => some (hr 0x75 d h 0 0)
  | .hunpin h => some (hr 0x75 0 h 0 1)
  | .hheal h => some (hr 0x75 0 h 0 2)
  | .hcmp d h g => some (hr 0x75 d h g 3)
  | .hallocImmediate d n => some (hr 0x76 d 0 n.toNat 0)
  | .hallocRegister d s => some (hr 0x76 d 0 s 1)
  | .hnul h o => some (hr 0x77 0 h o.toNat 0)
  | .hnulN h o => some (hr 0x77 0 h o.toNat 1)
  | .cpy d a => some (sy 0x78 d (cmdbase a) 0 0)
  | .cpym d a => some (sy 0x78 d (cmdbase a) 0 1)
  | .cgath d a => some (sy 0x78 d (cmdbase a) 0 2)
  | .reloc d a => some (sy 0x78 d (cmdbase a) 0 3)
  | .sarm a => some (sy 0x79 0 a 0 0)
  | .swait d a => some (sy 0x79 d a 0 1)
  | .bar => some (sy 0x79 0 0 0 2)
  | .spawn a q => some (sy 0x7A 0 a q 0)
  | .endThread => some (sy 0x7A 0 0 0 1)
  | .msend m s x l => some (mm 0x7B m s x l.toNat 0 0)
  | .msendm m s x l => some (mm 0x7B m s x l.toNat 0 1)
  | .mrecv m s => some (mm 0x7B m s 0 0 0 2)
  | .getc d c => some (sy 0x7C d 0 c.toNat 0)
  | .putc a c => some (sy 0x7C 0 a c.toNat 1)
  | .eret => some (sy 0x7D 0 0 0 0)
  | .wait => some (sy 0x7D 0 0 0 1)
  | .trap c => some (sy 0x7D 0 0 c.toNat 2)
  | .fencei => some (sy 0x7D 0 0 0 3)
  | .idle => some (sy 0x7D 0 0 0 4)
  | .brk => some 0xFFFFFFFF
  | _ => none

end Sys2Proof
end

