-- ==== Sys2Proof/Config.lean ====
section
/-! DEFINITION. What the part fixes (00 R1) and the free values of what the manual leaves open. A free value is an opaque
constant: nothing in Lean can evaluate it. It is applied to `tick`, a plain counter of `State` that every retired
instruction and every event that draws a value advances, and to the index of the draw within the step. -/

namespace Sys2Proof.Config

/-- R115, R341, R360, R401, R413: a free choice between two outcomes the manual allows (log entry 5). -/
opaque freeBit : Nat → Nat → Bool
/-- R33: a free choice among the values a thread has held at a position (log entry 6). -/
opaque freeNat : Nat → Nat → Nat
/-- R205, R296, R343, R454, R456: a byte the manual leaves undefined (log entry 7). -/
opaque freeByte : Nat → Nat → Byte
/-- R26: core clock cycles that have passed since CYCLE was last observed (log entry 8). -/
opaque freeCycles : Nat → Word
/-- R401: core clock cycles between two trace records of a pipe (log entry 8). -/
opaque freeDelta : Nat → Nat → BitVec 24
/-- R343: the keys whose order gives the arrangement of a 64 KiB unit's 32-byte atoms under GANG 1 against GANG 0 (log entry 22). -/
opaque gangKey : Nat → Nat
/-- R376: SHAKE256 with 512-bit output, an algorithm the manual names and does not define (log entry 9). -/
opaque shake256 : List Byte → BitVec 512
/-- R377: the SLH-DSA-SHAKE-256f key derived from the fused device secret, and a signature of 49,856 bytes with it, named and not
defined (log entry 9). -/
opaque identityKey : List Byte → BitVec 1024
opaque signature : BitVec 1024 → List Byte → BitVec (8 * 49856)
/-- R377: the certificate chain held in flash (log entry 9). -/
opaque certificateChain : List Byte
/-- R367: the payload of a standard command that CXL 3.1 defines and the manual does not (log entry 10). -/
opaque cxlPayload : Nat → List Byte
/-- R374, R376: the digest of an image that a measurement extends with (log entry 9). -/
opaque imageDigest : List Byte → List Byte
/-- R373: the public key, the SVN, the signature and the rest of a firmware image, whose layout the manual does not give (log entry
9). -/
opaque imageKey : List Byte → BitVec 512
opaque imageSvn : List Byte → BitVec 8
opaque imageSig : List Byte → BitVec (8 * 29792)
opaque imageRest : List Byte → List Byte
/-- R373: SHAKE256 with 256-bit output of a public key (log entry 9). -/
opaque keyDigest : BitVec 512 → BitVec 256
/-- R374: the check of an SLH-DSA-SHAKE-256s signature (log entry 9). -/
opaque slhVerify : BitVec 512 → BitVec (8 * 29792) → List Byte → Bool
/-- R373: the digest fused in each key slot, its revoke fuse, the security version counter and the device secret of this part (log
entry 9). -/
opaque fusedDigest : Nat → BitVec 256
opaque fusedRevoked : Nat → Bool
opaque fusedSvn : BitVec 6
opaque fusedSecret : List Byte
/-- R369, R453: the event identifiers of queue errors (true) and of telemetry, and the records each log holds (log entry 10). -/
opaque eventUuid : Bool → BitVec 128
opaque logCapacity : Nat → Nat
/-- R376: digests of the sett firmware (1) and the link firmware (2) that an image starts (log entry 9). -/
opaque stageDigest : Nat → List Byte → List Byte
/-- The image the part leaves the factory with (log entry 9). -/
opaque factoryImage : List Byte

/-- R1: local HBM, 384 GB (decimal, R6). -/
def hbmBytes : Nat := 384 * 10 ^ 9
/-- R1: exposed cores of a sett. -/
def coresPerSett : Nat := 32
/-- R1: exposed cores of the package. -/
def coreCount : Nat := 128
/-- R295: entries of a sett's command queue. -/
def commandQueue : Nat := 256
/-- R242: first address of the managed window. -/
def wbase : Nat := 0x00F8000000000000
/-- R242: length of the managed window, 256 GiB. -/
def wlen : Nat := 2 ^ 38
/-- R42: first address of the own scratch window, 4 MiB long. -/
def scratchOwn : Nat := 0x00FF000000000000
/-- R42: first address of the peer scratch windows. -/
def scratchPeer : Nat := 0x00FE000000000000
/-- R348: first address of the context window, 4 GiB long. -/
def contextWindow : Nat := 0x00FD000000000000
/-- R196: bytes of one slot. -/
def slotBytes : Nat := 16384

end Sys2Proof.Config
end

