-- ==== Sys2Proof/Machine/NMap.lean ====
section
/-! DEFINITION. Sparse tables keyed by a number, as lists of pairs with strictly rising keys. The memory of the machine, the
slots of a matrix store, the map of a thread and the cores of the package are such tables. -/

namespace Sys2Proof.Machine

/-- A sparse table: (key, value) pairs, keys strictly rising. -/
abbrev NMap (α : Type) := List (Nat × α)

/-- The value at `k`, or `d` where the table lists none. -/
def tget {α : Type} (m : NMap α) (d : α) (k : Nat) : α :=
  match m with
  | [] => d
  | (a, x) :: t => if a = k then x else tget t d k

/-- The table without key `k`. -/
def terase {α : Type} (m : NMap α) (k : Nat) : NMap α :=
  match m with
  | [] => []
  | (a, x) :: t => if a = k then terase t k else (a, x) :: terase t k

/-- The table with `x` at key `k`, whatever stood there. -/
def tput {α : Type} (m : NMap α) (k : Nat) (x : α) : NMap α :=
  match m with
  | [] => [(k, x)]
  | (a, y) :: t => if k < a then (k, x) :: (a, y) :: t else if k = a then (k, x) :: t else (a, y) :: tput t k x

/-- The table with `x` at key `k`; a key that would hold the default is not listed. -/
def tset {α : Type} [DecidableEq α] (m : NMap α) (d : α) (k : Nat) (x : α) : NMap α :=
  if x = d then terase m k else tput m k x

/-- Canonical form: keys strictly rising from `lo`, and no entry equal to the default. -/
def twf {α : Type} [DecidableEq α] (d : α) (lo : Nat) (m : NMap α) : Bool :=
  match m with
  | [] => true
  | (a, x) :: t => decide (lo ≤ a) && !decide (x = d) && twf d (a + 1) t

/-- The keys listed. -/
def tkeys {α : Type} (m : NMap α) : List Nat := m.map (·.1)

/-- Set insertion into a rising list of numbers. -/
def sinsert (l : List Nat) (k : Nat) : List Nat :=
  match l with
  | [] => [k]
  | a :: t => if k < a then k :: a :: t else if k = a then a :: t else a :: sinsert t k

end Sys2Proof.Machine
end

