-- ==== Sys2Proof/Machine/Float.lean ====
section
/-! DEFINITION. Exact numbers and one rounding (02 R52, R63-R74). A finite number is a sign, a magnitude and a power of two;
an operation forms the exact result and rounds it once. -/

namespace Sys2Proof.Machine

/-- FFLAGS bits (R22): NV 4, DZ 3, OF 2, UF 1, NX 0. -/
abbrev Flags := BitVec 5
def fNV : Flags := 16
def fDZ : Flags := 8
def fOF : Flags := 4
def fUF : Flags := 2
def fNX : Flags := 1

/-- A number: not a number, an infinity, or ±m × 2^e (zero when m = 0, with its sign). -/
inductive Num
  | nan
  | inf (neg : Bool)
  | fin (neg : Bool) (m : Nat) (e : Int)
  deriving DecidableEq, Repr

/-- A floating-point format (R52): precision with the hidden bit, least and greatest exponent, exponent field width. -/
structure FForm where
  p : Nat
  emin : Int
  emax : Int
  eb : Nat
  deriving DecidableEq, Repr

def form32 : FForm := ⟨24, -126, 127, 8⟩
def formB16 : FForm := ⟨8, -126, 127, 8⟩
def formHalf : FForm := ⟨11, -14, 15, 5⟩
def formE5 : FForm := ⟨3, -14, 15, 5⟩
def formE4 : FForm := ⟨4, -6, 8, 4⟩
def formE2 : FForm := ⟨2, 0, 2, 2⟩

/-- Exponent and fraction as they stand in the format, whatever the top exponent field means. -/
def numFields (f : FForm) (w : Nat) : Bool × Nat × Nat :=
  (w / 2 ^ (f.p - 1 + f.eb) % 2 == 1, w / 2 ^ (f.p - 1) % 2 ^ f.eb, w % 2 ^ (f.p - 1))

/-- The value of a pattern whose exponent field is finite. -/
def numFinite (f : FForm) (neg : Bool) (e m : Nat) : Num :=
  if e = 0 then .fin neg m (f.emin - (f.p - 1)) else .fin neg (2 ^ (f.p - 1) + m) ((e : Int) - 1 + f.emin - (f.p - 1))

/-- The value of a pattern of a format with infinities and NaN (FP32, BF16, half, FP8E5M2). -/
def numOf (f : FForm) (w : Nat) : Num :=
  let (s, e, m) := numFields f w
  if e = 2 ^ f.eb - 1 then (if m = 0 then .inf s else .nan) else numFinite f s e m

/-- FP8E4M3 has no infinity and one NaN magnitude (R52). -/
def numE4 (w : Nat) : Num :=
  if w % 128 = 127 then .nan else let (s, e, m) := numFields formE4 w; numFinite formE4 s e m

/-- FP4E2M1 has only numbers (R52). -/
def numE2 (w : Nat) : Num := let (s, e, m) := numFields formE2 w; numFinite formE2 s e m

def num32 (w : F32) : Num := numOf form32 w.toNat
def numB16 (w : BitVec 16) : Num := numOf formB16 w.toNat

/-- Whether a magnitude with remainder `r` of `2 ^ sh` rounds up (R63, R120). -/
def roundsUp (m : Rm) (neg : Bool) (q r sh : Nat) : Bool :=
  match m with
  | .rne => 2 ^ sh < 2 * r || (2 * r == 2 ^ sh && q % 2 == 1)
  | .rtz => false
  | .rup => !neg && r != 0
  | .rdn => neg && r != 0

/-- m × 2^e in units of 2^q, rounded; and whether it was inexact. -/
def roundUnits (md : Rm) (neg : Bool) (m : Nat) (e q : Int) : Nat × Bool :=
  if q ≤ e then (m * 2 ^ (e - q).toNat, false)
  else
    let sh := (q - e).toNat
    let u := m / 2 ^ sh
    let r := m % 2 ^ sh
    (if roundsUp md neg u r sh then u + 1 else u, r != 0)

/-- Exponent of the leading bit of m × 2^e. -/
def topExp (m : Nat) (e : Int) : Int := e + Nat.log2 m

/-- m × 2^e rounded to `p` bits above 2^`emin`: units, exponent of the unit, inexact. -/
def roundTo (f : FForm) (md : Rm) (neg : Bool) (m : Nat) (e : Int) : Nat × Int × Bool :=
  let q := max (topExp m e) f.emin - (f.p - 1)
  let (u, x) := roundUnits md neg m e q
  if u = 2 ^ f.p then (2 ^ (f.p - 1), q + 1, x) else (u, q, x)

/-- Tininess after rounding with an unbounded exponent (R66). -/
def isTiny (f : FForm) (md : Rm) (neg : Bool) (m : Nat) (e : Int) : Bool :=
  let q := topExp m e - (f.p - 1)
  let (u, _) := roundUnits md neg m e q
  m != 0 && decide (q + (Nat.log2 u : Int) < f.emin)

/-- The pattern of units u × 2^q. -/
def packUnits (f : FForm) (neg : Bool) (u : Nat) (q : Int) : Nat :=
  neg.toNat * 2 ^ (f.p - 1 + f.eb) +
    if u < 2 ^ (f.p - 1) then u else (q + (f.p - 1) - f.emin + 1).toNat * 2 ^ (f.p - 1) + (u - 2 ^ (f.p - 1))

def packInf (f : FForm) (neg : Bool) : Nat := neg.toNat * 2 ^ (f.p - 1 + f.eb) + (2 ^ f.eb - 1) * 2 ^ (f.p - 1)
def packMax (f : FForm) (neg : Bool) : Nat := packInf f neg - 1
/-- The canonical NaN (R65). -/
def packNan (f : FForm) : Nat := (2 ^ f.eb - 1) * 2 ^ (f.p - 1) + 2 ^ (f.p - 2)

/-- One rounding of ±m × 2^e to a format with infinities (R63-R67, R120). -/
def packFin (f : FForm) (md : Rm) (neg : Bool) (m : Nat) (e : Int) : Nat × Flags :=
  if m = 0 then (packUnits f neg 0 0, 0)
  else
    let (u, q, x) := roundTo f md neg m e
    if f.emax < q + Nat.log2 u then
      let toInf := match md with
        | .rne => true
        | .rtz => false
        | .rup => !neg
        | .rdn => neg
      (if toInf then packInf f neg else packMax f neg, fOF ||| fNX)
    else (packUnits f neg u q, (if x then fNX else 0) ||| (if x && isTiny f md neg m e then fUF else 0))

/-- One rounding of a number (R63); a NaN is canonical and raises nothing here (R65). -/
def packNum (f : FForm) (md : Rm) (v : Num) : Nat × Flags :=
  match v with
  | .nan => (packNan f, 0)
  | .inf s => (packInf f s, 0)
  | .fin s m e => packFin f md s m e

/-- An exact signed number m × 2^e with a sign for zero. -/
def ofInt (m : Int) (e : Int) (zneg : Bool) : Num := if m = 0 then .fin zneg 0 0 else .fin (decide (m < 0)) m.natAbs e

def sgn (neg : Bool) (m : Nat) : Int := if neg then -(m : Int) else m

/-- Exact sum of two finite numbers; an exact zero of operands that differ has the sign R120 gives. -/
def addFin (md : Rm) (s1 : Bool) (m1 : Nat) (e1 : Int) (s2 : Bool) (m2 : Nat) (e2 : Int) : Num :=
  let e := min e1 e2
  let t := sgn s1 m1 * 2 ^ (e1 - e).toNat + sgn s2 m2 * 2 ^ (e2 - e).toNat
  if m1 = 0 ∧ m2 = 0 ∧ s1 = s2 then .fin s1 0 0 else ofInt t e (md == .rdn)

/-- IEEE 754 addition before rounding. -/
def addNum (md : Rm) (a b : Num) : Num × Flags :=
  match a, b with
  | .nan, _ => (.nan, 0)
  | _, .nan => (.nan, 0)
  | .inf s, .inf t => if s = t then (.inf s, 0) else (.nan, fNV)
  | .inf s, .fin .. => (.inf s, 0)
  | .fin .., .inf s => (.inf s, 0)
  | .fin s1 m1 e1, .fin s2 m2 e2 => (addFin md s1 m1 e1 s2 m2 e2, 0)

def negNum : Num → Num
  | .nan => .nan
  | .inf s => .inf (!s)
  | .fin s m e => .fin (!s) m e

/-- The exact product; 0 × ∞ sets NV (R65, R67). -/
def mulNum (a b : Num) : Num × Flags :=
  match a, b with
  | .nan, _ => (.nan, 0)
  | _, .nan => (.nan, 0)
  | .inf s, .inf t => (.inf (s != t), 0)
  | .inf s, .fin t m _ => if m = 0 then (.nan, fNV) else (.inf (s != t), 0)
  | .fin s m _, .inf t => if m = 0 then (.nan, fNV) else (.inf (s != t), 0)
  | .fin s1 m1 e1, .fin s2 m2 e2 => (.fin (s1 != s2) (m1 * m2) (e1 + e2), 0)

/-- a × b + c before rounding: 0 × ∞ sets NV even when c is a NaN (R65). -/
def fmaNum (md : Rm) (a b c : Num) : Num × Flags :=
  let (p, f) := mulNum a b
  let (r, g) := addNum md p c
  (r, f ||| g)

/-- A quotient of magnitudes, exact in its leading `k` bits and below them marked inexact by a last odd bit. -/
def quotient (m1 : Nat) (e1 : Int) (m2 : Nat) (e2 : Int) (k : Nat) : Nat × Int :=
  let sh := k + 2 + Nat.log2 m2
  let n := m1 * 2 ^ sh
  (2 * (n / m2) + (if n % m2 = 0 then 0 else 1), e1 - e2 - sh - 1)

/-- a / b before rounding (R67). -/
def divNum (a b : Num) : Num × Flags :=
  match a, b with
  | .nan, _ => (.nan, 0)
  | _, .nan => (.nan, 0)
  | .inf _, .inf _ => (.nan, fNV)
  | .inf s, .fin t _ _ => (.inf (s != t), 0)
  | .fin s _ _, .inf t => (.fin (s != t) 0 0, 0)
  | .fin s m1 e1, .fin t m2 e2 =>
    if m2 = 0 then (if m1 = 0 then (.nan, fNV) else (.inf (s != t), fDZ))
    else if m1 = 0 then (.fin (s != t) 0 0, 0)
    else let (q, e) := quotient m1 e1 m2 e2 32; (.fin (s != t) q e, 0)

/-- The integer square root of `n`, by bits below `2 ^ k`. -/
def isqrtBits (n : Nat) : Nat → Nat → Nat
  | 0, r => r
  | k + 1, r => isqrtBits n k (if (r + 2 ^ k) * (r + 2 ^ k) ≤ n then r + 2 ^ k else r)

/-- The integer square root of a number below 2^128. -/
def isqrt (n : Nat) : Nat := isqrtBits n 64 0

/-- √a before rounding (R63, R154). -/
def sqrtNum (a : Num) : Num × Flags :=
  match a with
  | .nan => (.nan, 0)
  | .inf s => if s then (.nan, fNV) else (.inf false, 0)
  | .fin s m e =>
    if m = 0 then (.fin s 0 0, 0)
    else if s then (.nan, fNV)
    else
      let odd := e % 2 = 1
      let n := (if odd then 2 * m else m) * 2 ^ 64
      let e' := if odd then e - 1 else e
      let r := isqrt n
      (.fin false (2 * r + (if r * r = n then 0 else 1)) (e' / 2 - 33), 0)

/-- Order of two numbers that are not NaN: -1, 0 or 1. Zeros are equal. -/
def cmpNum (a b : Num) : Int :=
  match a, b with
  | .inf s, .inf t => if s = t then 0 else if s then -1 else 1
  | .inf s, _ => if s then -1 else 1
  | _, .inf t => if t then 1 else -1
  | .fin s1 m1 e1, .fin s2 m2 e2 =>
    let e := min e1 e2
    let x := sgn s1 m1 * 2 ^ (e1 - e).toNat
    let y := sgn s2 m2 * 2 ^ (e2 - e).toNat
    if x < y then -1 else if x = y then 0 else 1
  | _, _ => 0

def isNan : Num → Bool
  | .nan => true
  | _ => false

def signOf : Num → Bool
  | .nan => false
  | .inf s => s
  | .fin s _ _ => s

/-- a < b with −0 below +0 (R65). -/
def lessNum (a b : Num) : Bool :=
  let c := cmpNum a b
  c < 0 || (c == 0 && signOf a && !signOf b)

/-- FMIN, VMIN and the min reductions (R65). -/
def minNum (a b : Num) : Num :=
  if isNan a then b else if isNan b then a else if lessNum b a then b else a
/-- FMAX, VMAX and the max reductions (R65). -/
def maxNum (a b : Num) : Num :=
  if isNan a then b else if isNan b then a else if lessNum a b then b else a

/-- Rounding to an integer, and whether it was inexact (R69, R120). -/
def intOf (md : Rm) (s : Bool) (m : Nat) (e : Int) : Int × Bool :=
  let (u, x) := roundUnits md s m e 0
  (sgn s u, x)

/-- Float to a signed or unsigned integer between `lo` and `hi` (R60, R69). -/
def toIntRange (md : Rm) (lo hi : Int) (a : Num) : Int × Flags :=
  match a with
  | .nan => (0, fNV)
  | .inf s => (if s then lo else hi, fNV)
  | .fin s m e =>
    let (i, x) := intOf md s m e
    if i < lo then (lo, fNV) else if hi < i then (hi, fNV) else (i, if x then fNX else 0)

def numInt (i : Int) : Num := ofInt i 0 false

/-- FP32 patterns and flags. -/
abbrev R32 := F32 × Flags

def to32 (md : Rm) (v : Num × Flags) : R32 :=
  let (w, g) := packNum form32 md v.1
  (BitVec.ofNat 32 w, v.2 ||| g)
def toB16 (md : Rm) (v : Num × Flags) : BitVec 16 × Flags :=
  let (w, g) := packNum formB16 md v.1
  (BitVec.ofNat 16 w, v.2 ||| g)

def add32 (md : Rm) (a b : F32) : R32 := to32 md (addNum md (num32 a) (num32 b))
def sub32 (md : Rm) (a b : F32) : R32 := to32 md (addNum md (num32 a) (negNum (num32 b)))
def mul32 (md : Rm) (a b : F32) : R32 := to32 md (mulNum (num32 a) (num32 b))
def fma32 (md : Rm) (a b c : F32) : R32 := to32 md (fmaNum md (num32 a) (num32 b) (num32 c))
def div32 (md : Rm) (a b : F32) : R32 := to32 md (divNum (num32 a) (num32 b))
def sqrt32 (md : Rm) (a : F32) : R32 := to32 md (sqrtNum (num32 a))

/-- m + Σ products, rounded once to FP32 (R70, R72): NaN when a product is NaN or 0 × ∞ or infinities of both signs meet; a
zero sum of products is −0 only if every product is −0. `sub`: the sum is subtracted. -/
def mac32 (m : F32) (ps : List (Num × Flags)) (sub : Bool) : R32 :=
  let anyNan := ps.any fun (p, _) => isNan p
  let flip (s : Bool) := s != sub
  let g := ps.foldl (fun g (_, f) => g ||| f) 0
  let infs := ps.filterMap fun (p, _) => match p with
    | .inf s => some (flip s)
    | _ => none
  let mn := num32 m
  let infs := match mn with
    | .inf s => s :: infs
    | _ => infs
  let clash := infs.contains true && infs.contains false
  let g := if clash then g ||| fNV else g
  if anyNan || isNan mn || clash then (BitVec.ofNat 32 (packNan form32), g)
  else match infs with
    | s :: _ => (BitVec.ofNat 32 (packInf form32 s), g)
    | [] =>
      let sigma := ps.foldl (fun acc (p, _) =>
        match acc, p with
        | .fin s1 m1 e1, .fin s2 m2 e2 => addFin .rne s1 m1 e1 s2 m2 e2
        | a, _ => a) (.fin true 0 0)
      let (r, h) := to32 .rne (addNum .rne mn (if sub then negNum sigma else sigma))
      (r, g ||| h)

end Sys2Proof.Machine
end

