-- ==== Sys2Proof/Machine/Transc.lean ====
section
/-! DEFINITION. The transcendental algorithms (02 R75-R82), step by step, on FP32 patterns. The tables T and L hold the
correctly rounded values of the formulas of R76. -/

namespace Sys2Proof.Machine

/-- Entries 0-15. -/
def tabT0 : List F32 := [0x3F800000, 0x3F8164D2, 0x3F82CD87, 0x3F843A29, 0x3F85AAC3, 0x3F871F62, 0x3F88980F, 0x3F8A14D5,
  0x3F8B95C2, 0x3F8D1ADF, 0x3F8EA43A, 0x3F9031DC, 0x3F91C3D3, 0x3F935A2B, 0x3F94F4F0, 0x3F96942D]
/-- Entries 16-31. -/
def tabT1 : List F32 := [0x3F9837F0, 0x3F99E046, 0x3F9B8D3A, 0x3F9D3EDA, 0x3F9EF532, 0x3FA0B051, 0x3FA27043, 0x3FA43516,
  0x3FA5FED7, 0x3FA7CD94, 0x3FA9A15B, 0x3FAB7A3A, 0x3FAD583F, 0x3FAF3B79, 0x3FB123F6, 0x3FB311C4]
/-- Entries 32-47. -/
def tabT2 : List F32 := [0x3FB504F3, 0x3FB6FD92, 0x3FB8FBAF, 0x3FBAFF5B, 0x3FBD08A4, 0x3FBF179A, 0x3FC12C4D, 0x3FC346CD,
  0x3FC5672A, 0x3FC78D75, 0x3FC9B9BE, 0x3FCBEC15, 0x3FCE248C, 0x3FD06334, 0x3FD2A81E, 0x3FD4F35B]
/-- Entries 48-63. -/
def tabT3 : List F32 := [0x3FD744FD, 0x3FD99D16, 0x3FDBFBB8, 0x3FDE60F5, 0x3FE0CCDF, 0x3FE33F89, 0x3FE5B907, 0x3FE8396A,
  0x3FEAC0C7, 0x3FED4F30, 0x3FEFE4BA, 0x3FF28177, 0x3FF5257D, 0x3FF7D0DF, 0x3FFA83B3, 0x3FFD3E0C]
/-- Entries 0-15. -/
def tabL0 : List F32 := [0x00000000, 0x3CB7312A, 0x3D35D80D, 0x3D87545C, 0x3DB31EFF, 0x3DDE4240, 0x3E04606C, 0x3E19556A,
  0x3E2E0243, 0x3E4262D0, 0x3E567980, 0x3E6A4FCF, 0x3E7DE227, 0x3E8899EA, 0x3E9220B1, 0x3E9B8AC6]
/-- Entries 16-31. -/
def tabL1 : List F32 := [0x3EA4D30A, 0x3EADFF1B, 0x3EB7113D, 0x3EC0045B, 0x3EC8DE8D, 0x3ED19ABE, 0x3EDA3F49, 0x3EE2CB06,
  0x3EEB38D1, 0x3EF39361, 0x3EFBD5B4, 0x3F01FF59, 0x3F0608B3, 0x3F0A0667, 0x3F0DFA13, 0x3F11E122]
/-- Entries 32-47. -/
def tabL2 : List F32 := [0x3F15BF62, 0x3F19946E, 0x3F1D5DAB, 0x3F211CDD, 0x3F24D3D9, 0x3F288002, 0x3F2C2336, 0x3F2FBF6C,
  0x3F334FA8, 0x3F36D835, 0x3F3A58C5, 0x3F3DD107, 0x3F4140AB, 0x3F44A75E, 0x3F480748, 0x3F4B5DA5]
/-- Entries 48-63. -/
def tabL3 : List F32 := [0x3F4EAF2C, 0x3F51F692, 0x3F5538A4, 0x3F587294, 0x3F5BA41A, 0x3F5ECF92, 0x3F61F4C2, 0x3F651374,
  0x3F6828B8, 0x3F6B39B8, 0x3F6E438A, 0x3F7148B9, 0x3F74464D, 0x3F773EDB, 0x3F7A2F61, 0x3F7D1A7C]
/-- T[i] = rne_fp32(2^(i/64)) (R76). -/
def tabT (i : Nat) : F32 := (tabT0 ++ tabT1 ++ tabT2 ++ tabT3).getD i 0
/-- L[i] = rne_fp32(−log2(RT[i])) (R76). -/
def tabL (i : Nat) : F32 := (tabL0 ++ tabL1 ++ tabL2 ++ tabL3).getD i 0

/-- The FP32 pattern of an exact number, rounded once. -/
def pat32 (v : Num) : F32 := (to32 .rne (v, 0)).1

/-- RT[i] (R76): N × 2^−16 with N = 2^22 / (64 + i) to the nearest integer. -/
def tabRT (i : Nat) : F32 := pat32 (.fin false ((2 ^ 23 + 64 + i) / (2 * (64 + i))) (-16))
/-- RS[i] (R76): N × 2^−11 with N = 2^11 / √c_i to the nearest integer. -/
def tabRS (i : Nat) : F32 :=
  let x := if i < 32 then 2 ^ 22 * 64 * 4 / (65 + 2 * i) else 2 ^ 22 * 32 * 4 / (65 + 2 * (i - 32))
  pat32 (.fin false ((isqrt x + 1) / 2) (-11))

def cC1 : F32 := 0x3F317218
def cC2 : F32 := 0x3E75FDF0
def cC3 : F32 := 0x3D635847
def cD2 : F32 := 0x3F000000
def cD3 : F32 := 0x3E2AAAAB
def cINV : F32 := 0x42B8AA3B
def cH : F32 := 0x3C317200
def cLO : F32 := 0x32BFBE8E
def cB1 : F32 := 0x3FB8AA3B
def cB2 : F32 := 0xBF38AA3B
def cB3 : F32 := 0x3EF6384F
def one32 : F32 := 0x3F800000
def negOne32 : F32 := 0xBF800000
def nan32 : F32 := 0x7FC00000
def inf32 : F32 := 0x7F800000
def ninf32 : F32 := 0xFF800000

/-- fma, one FP32 rounding, flags dropped (R75). -/
def fmaT (a b c : F32) : F32 := (fma32 .rne a b c).1
def mulT (a b : F32) : F32 := (mul32 .rne a b).1

/-- scale(p, n) (R75), with the OF and UF judged on it, and whether it was exact. -/
def scaleT (p : F32) (n : Int) : F32 × Flags × Bool :=
  let v := match num32 p with
    | .fin s m e => .fin s m (e + n)
    | x => x
  let (r, f) := to32 .rne (v, 0)
  (r, f &&& (fOF ||| fUF), f &&& fNX == 0)

/-- The common tail of VEXP2 and VEXP: T[i] × (1 + q), scaled (R78, R79). -/
def expTail (k : Int) (q : F32) : F32 × Flags × Bool :=
  let t := tabT (k % 64).toNat
  scaleT (fmaT t q t) (k / 64)

/-- VEXP2 (R78). -/
def vexp2T (x : F32) : R32 :=
  match num32 x with
  | .nan => (nan32, 0)
  | .inf s => (if s then 0 else inf32, 0)
  | .fin s m e =>
    if cmpNum (.fin s m e) (numInt 128) ≥ 0 then (inf32, fOF ||| fNX)
    else if cmpNum (.fin s m e) (numInt (-150)) < 0 then (0, fUF ||| fNX)
    else
      let (k, _) := intOf .rne s m (e + 6)
      let g := match (addNum .rne (.fin s m (e + 6)) (numInt (-k))).1 with
        | .fin a b c => pat32 (.fin a b (c - 6))
        | v => pat32 v
      let q := fmaT g cC3 cC2
      let q := fmaT g q cC1
      let (r, f, ex) := expTail k (mulT g q)
      let whole := (intOf .rne s m e).2 == false
      (r, f ||| (if whole && ex then 0 else fNX))

/-- VEXP (R79). -/
def vexpT (x : F32) : R32 :=
  match num32 x with
  | .nan => (nan32, 0)
  | .inf s => (if s then 0 else inf32, 0)
  | .fin s m e =>
    if cmpNum (.fin s m e) (numInt 89) > 0 then (inf32, fOF ||| fNX)
    else if cmpNum (.fin s m e) (numInt (-104)) < 0 then (0, fUF ||| fNX)
    else
      let k := match num32 (mulT x cINV) with
        | .fin a b c => (intOf .rne a b c).1
        | _ => 0
      let nk := pat32 (numInt (-k))
      let g := fmaT nk cH x
      let g := fmaT nk cLO g
      let q := fmaT g cD3 cD2
      let q := fmaT g q one32
      let (r, f, _) := expTail k (mulT g q)
      (r, f ||| (if m = 0 then 0 else fNX))

/-- decompose(x) of a non-zero magnitude (R75): m in [1, 2) and e; `half` takes m ≥ 1.984375 to m/2 (R80, R81). -/
def decomposeT (m : Nat) (e : Int) (half : Bool) : Num × Int :=
  let l : Int := Nat.log2 m
  let v : Num := .fin false m (-l)
  if half && cmpNum v (.fin false 127 (-6)) ≥ 0 then (.fin false m (-l - 1), e + l + 1) else (v, e + l)

/-- rint((m − 1) × 64) (R80, R81). -/
def indexT (v : Num) : Nat :=
  match (addNum .rne v (numInt (-1))).1 with
  | .fin s m e => (intOf .rne s m (e + 6)).1.toNat
  | _ => 0

def isPow2 (m : Nat) : Bool := m == 2 ^ Nat.log2 m

/-- VLN2 (R80). -/
def vln2T (x : F32) : R32 :=
  match num32 x with
  | .nan => (nan32, 0)
  | .inf s => if s then (nan32, fNV) else (inf32, 0)
  | .fin s m e =>
    if m = 0 then (ninf32, fDZ)
    else if s then (nan32, fNV)
    else
      let (v, ex) := decomposeT m e true
      let i := indexT v
      let u := fmaT (pat32 v) (tabRT i) negOne32
      let q := fmaT u cB3 cB2
      let q := fmaT u q cB1
      let q := mulT u q
      let t := (add32 .rne (pat32 (numInt ex)) (tabL i)).1
      ((add32 .rne t q).1, if isPow2 m then 0 else fNX)

/-- VRCP (R81). -/
def vrcpT (x : F32) : R32 :=
  match num32 x with
  | .nan => (nan32, 0)
  | .inf s => (pat32 (.fin s 0 0), 0)
  | .fin s m e =>
    if m = 0 then (if s then ninf32 else inf32, fDZ)
    else
      let (v, ex) := decomposeT m e true
      let r := tabRT (indexT v)
      let u := fmaT (pat32 v) r negOne32
      let q := fmaT u negOne32 one32
      let q := fmaT u q negOne32
      let q := mulT u q
      let (y, f, exact) := scaleT (fmaT r q r) (-ex)
      (if s then y ||| 0x80000000 else y, f ||| (if isPow2 m && exact then 0 else fNX))

/-- VRSQRT (R82). -/
def vrsqrtT (x : F32) : R32 :=
  match num32 x with
  | .nan => (nan32, 0)
  | .inf s => if s then (nan32, fNV) else (0, 0)
  | .fin s m e =>
    if m = 0 then (if s then ninf32 else inf32, fDZ)
    else if s then (nan32, fNV)
    else
      let (v, ex) := decomposeT m e false
      let (v, ex) := if ex % 2 = 1 then ((match v with
        | .fin a b c => Num.fin a b (c + 1)
        | y => y), ex - 1) else (v, ex)
      let i := match v with
        | .fin _ b c =>
          let scaled (k : Int) : Nat := if 0 ≤ c + k then b * 2 ^ (c + k).toNat else b / 2 ^ (-(c + k)).toNat
          if scaled 0 < 2 then scaled 5 - 32 else 32 + (scaled 4 - 32)
        | _ => 0
      let r := tabRS i
      let t := mulT r r
      let u := fmaT (pat32 v) t negOne32
      let q := fmaT u 0xBEA00000 0x3EC00000
      let q := fmaT u q 0xBF000000
      let q := mulT u q
      let (y, f, _) := scaleT (fmaT r q r) (-(ex / 2))
      (y, f ||| fNX)

/-- An FP32 algorithm at SEW 16: widened exactly, then rounded to BF16 (R75). -/
def atB16 (f : F32 → R32) (x : BitVec 16) : BitVec 16 × Flags :=
  let (r, g) := f (x.zeroExtend 32 <<< 16)
  toB16 .rne (num32 r, g)

end Sys2Proof.Machine
end

