-- ==== Sys2Proof/Machine/State.lean ====
section
/-! DEFINITION. The state of one package (01, 07, 11-14, 16, 22), as plain data, and the state right after cold reset. Every
piece names the rule that gives it. -/

namespace Sys2Proof.Machine

/-- No instruction of this machine stops it with a fault: every condition the spec names is a trap, a parked pack, a posted
record or a wait, and each of these is a next state (R139, R297, R331, R356). The type has no value. -/
inductive Fault
  deriving DecidableEq, Repr

/-- Reasons for which a step has no meaning. -/
inductive Refusal
  /-- An instruction that has no meaning yet; raised only by an arm of the dispatcher that is not a call (safe: nothing is
  claimed of such a step). -/
  | notModelled (mnemonic : String)
  deriving DecidableEq, Repr

/-- The control registers a thread owns (R21, R22), each 64 bits with its reserved bits zero. -/
structure Ctl where
  vl : Word := 0
  vtype : Word := 0x601
  ksel : Word := 0
  vstride : Word := 0
  vrows : Word := 1
  vpitch : Word := 0
  vstart : Word := 0
  eprog : Word := 0
  mshape : Word := 0x404040
  mstart : Word := 0
  vstat : Word := 0
  ascale : Word := 0
  fflags : Word := 0
  schk : Word := 0
  habuf : Word := 0
  halim : Word := 0
  lanes : Word := 0
  cycle : Word := 0
  trctl : Word := 0
  ldepth : Word := 0
  lcnt : Vector Word 6 := Vector.replicate 6 0
  lbeg : Vector Word 6 := Vector.replicate 6 0
  lend : Vector Word 6 := Vector.replicate 6 0
  evec : Word := 0
  ecause : Word := 0
  epc : Word := 0
  eval : Word := 0
  erec : Word := 0
  mapbase : Word := 0
  vlcap : Word := 0
  hreg : Word := 0
  pgroot : Word := 0
  estat : Word := 0
  deriving DecidableEq, Repr

/-- A map entry that is not ZERO (R194): the slot of a RESIDENT register, its dirty mark and whether the slot is a landing
slot bound by MRECV (R313). -/
inductive Entry
  | zero
  | backed
  | resident (slot : Nat) (dirty land : Bool)
  deriving DecidableEq, Repr

/-- A map entry with its recency (R200): the sequence number of the instruction that last named the register, then the
operand position. -/
structure MapEntry where
  entry : Entry := .zero
  age : Nat := 0
  pos : Nat := 0
  deriving DecidableEq, Repr

/-- A scalar result in flight (R114, R115): its register, the value held before, and the distance counted so far. -/
structure Pending where
  reg : SReg
  old : Word
  dist : Nat
  deriving DecidableEq, Repr

/-- A pending follow-on of a CPYM with its fixed values (R301, R351). `ready`: the last byte of the command is written. -/
structure FollowOn where
  word : BitVec 32
  cmd : BitVec 32
  mshape : Word
  vpitch : Word
  s1 : Word
  s2 : Word
  seq : Nat
  ready : Bool
  /-- TRCTL[3], SUP and TRCTL[7] of the thread when the CPYM issued (R397, R398). -/
  traced : Bool := false
  sup : Bool := false
  mapTraced : Bool := false
  deriving DecidableEq, Repr

/-- What a trap leaves in ECAUSE, EVAL and EREC (R138, R139). -/
structure TrapInfo where
  cause : Nat
  eval : Word
  erec : Word := 0
  deriving DecidableEq, Repr

/-- Why an instruction is to stop at an element: a stop request, which takes effect at the boundaries the instruction has
(R147, R193, R211); the abandonment of a load's replies (R193); the stop of its chain group (R192); or a trap: a damaged operand, poison,
a breakpoint (R151, R190, R407). -/
inductive Stop
  | request
  | abandon
  | group
  | trap (info : TrapInfo)
  deriving DecidableEq, Repr

/-- What ATEX delivers to ATAC for one head (R229): c, reset, whether mn is −∞, and the p of its scores. -/
structure HeadOut where
  c : F32
  reset : Bool
  skip : Bool
  p : List F32
  deriving DecidableEq, Repr

/-- An attention group in progress (R226-R232): the address of its ATSC and the two words that follow it, the heads [first,
last) it performs of `total`, why it stops before the others where it does, its scores, what ATEX delivers, and its flags. -/
structure Group where
  addr : Word
  key : Nat
  second : Nat
  third : Nat
  first : Nat
  last : Nat
  total : Nat
  stop : Stop
  scores : List F32
  heads : List HeadOut
  flags : BitVec 5
  deriving DecidableEq, Repr

/-- One thread (R39). -/
structure Thread where
  /-- A thread occupies a context; false for the blank thread the focus holds where none does. -/
  live : Bool := false
  /-- The save frame it holds, which also names the thread (R347). -/
  frame : Nat := 0
  pool : Nat := 0
  pack : Nat := 0
  index : Nat := 0
  /-- Sett, exposed core and context (R22 PLACE). -/
  sett : Nat := 0
  core : Nat := 0
  ctx : Nat := 0
  s : Vector Word 32 := Vector.replicate 32 0
  v : Vector VBits 32 := Vector.replicate 32 0
  k : Vector KBits 8 := Vector.replicate 8 0
  h : Vector Word 16 := Vector.replicate 16 0
  sf : Vector F32 64 := Vector.replicate 64 0x3F800000
  o : Vector Word 8 := Vector.replicate 8 0x00000000FF800000
  /-- Map entries of m0-m511 that are not ZERO (R17, R194). -/
  map : NMap MapEntry := []
  ctl : Ctl := {}
  /-- Loop levels pushed by LOOPV (R128, R350 LKIND). -/
  lkind : Vector Bool 6 := Vector.replicate 6 false
  pc : Word := 0
  /-- Scalar results in flight (R114, R115). -/
  pend : List Pending := []
  /-- Later members of a stopped chain group (R192). -/
  chain : Nat := 0
  /-- Barrier arrivals, and whether the thread waits at a BAR it has arrived at (R308). -/
  barCount : Nat := 0
  barWait : Bool := false
  fols : List FollowOn := []
  /-- Follow-ons an uncorrectable error stopped: the register and the EVAL of the trap to come (R302). -/
  folBad : List (Nat × Word) := []
  /-- Sequence number within the span (R402) and instructions issued in all, which orders recency (R200). -/
  seq : Nat := 0
  issued : Nat := 0
  /-- Values vector and mask registers held before each write (R33). -/
  vheld : List (Nat × VBits) := []
  kheld : List (Nat × KBits) := []
  /-- Uncorrectable errors: (register, byte) and (register, bit) (R151). -/
  vbad : List (Nat × Nat) := []
  kbad : List (Nat × Nat) := []
  /-- The instruction whose wait the thread is in (R137). -/
  wait : Option Instr := none
  /-- A SPAWN record read and waiting for queue space (R309). -/
  spawned : Option Rec := none
  grp : Option Group := none
  /-- The element at which the next instruction is stopped, if a stop or a TYPE 3 breakpoint names one (R147, R193, R211). -/
  elim : Option (Nat × Stop) := none
  /-- The last instruction ended at a stop point without a trap; true where it was abandoned (R398). A step clears it first. -/
  cut : Option Bool := none
  /-- The element at which a `.last` load has stopped and the sectors it has touched so far, by twice the load's address plus SUP
  (R180). -/
  touched : NMap (Nat × List Nat) := []
  /-- A STEP trap is due once these commands of a sett have drained (R362). -/
  stepDue : Option (Nat × List (BitVec 32)) := none
  /-- A breakpoint entry that the next instruction does not trigger (R410). -/
  brkSkip : Option Nat := none
  /-- The thread is logged (R413). -/
  logged : Bool := false
  /-- The KIND with which the thread's pack is to be parked: 1 IDLE, 2 a trap that could not be delivered (R139, R141). -/
  parking : Option Nat := none
  /-- The last instruction ended in a trap; a step clears it first. -/
  trapped : Bool := false
  /-- An MSEND or MSENDM has its reservation and waits for the acknowledgement (R312). -/
  sent : Bool := false
  /-- The begin record of the instruction whose wait the thread is in was queued (R397). -/
  begun : Bool := false
  deriving DecidableEq, Repr

/-- A foreign slot's tag (R196, R206): the frame of the saved thread, the register, its backing address, the translation of
the saved thread and the dirty mark. -/
structure Tag where
  frame : Nat
  reg : Nat
  addr : Word
  pgroot : Word
  dirty : Bool
  land : Bool
  deriving DecidableEq, Repr

/-- A FILL or SPILL whose end the map pipe has not recorded yet (R206, R397). -/
structure Xfer where
  frame : Nat
  ctx : Nat
  seq : Nat
  spill : Bool
  info : BitVec 32
  sup : Bool
  traced : Bool
  /-- The backing tile lies in memory that has stacks, of this or another package, and not in the host's (R365, R385). -/
  stacked : Bool
  deriving DecidableEq, Repr

/-- A trace ring as the core holds it (R394-R396). -/
structure Ring where
  /-- The descriptor it became active by (R393, R394), which it writes to until it falls inactive. -/
  desc : Nat := 0
  /-- EN as the core last read it. -/
  en : Bool := false
  act : Bool := false
  wrap : Bool := false
  log2 : Nat := 0
  base : Nat := 0
  head : BitVec 32 := 0
  tail : BitVec 32 := 0
  lost : BitVec 32 := 0
  /-- Records queued for writing, at most 64 (R396). -/
  queue : List (BitVec 128) := []
  /-- Records of logged threads, by frame, that could not be queued yet, each a header with its data (R413). -/
  held : List (Nat × List (BitVec 128)) := []
  /-- The first of them is written in part: no other record may come between its records (R415). -/
  cutLog : Bool := false
  /-- End records due to begin records already taken (R397). -/
  owed : Nat := 0
  /-- A record was dropped: a LOST marker and a TIMESYNC come first (R401). -/
  dropped : Bool := false
  deriving DecidableEq, Repr

/-- What a pending follow-on reads of its core's scratchpad (R208, R301): the store as it stood at its CPYM, with what its command has
written since; and the bad elements in it. -/
structure Kept where
  frame : Nat
  cmd : BitVec 32
  tiles : NMap Tile
  bad : List Nat
  deriving DecidableEq, Repr

/-- One core (R21, R42, R196). -/
structure Core where
  msplit : Word := 0
  lanepart : Word := 0
  /-- Matrix-store slots that are not zero. -/
  tiles : NMap Tile := []
  /-- 4-byte elements of the store that hold an uncorrectable error, as slot × 4,096 + element (R212). -/
  bad : List Nat := []
  /-- Foreign slots (R196). -/
  tags : NMap Tag := []
  /-- Landing slots bound to a register, each with its header's byte in the matrix store (R313). -/
  bound : NMap Nat := []
  /-- Words that SARM, MRECV or a merge has handled and that may be merging landing headers, each by its byte in the matrix store
  (R372). -/
  headers : List Nat := []
  /-- Region entries (by physical address) still used from before a flip this core has not acknowledged (R254). -/
  oldEntry : NMap Word := []
  xfers : List Xfer := []
  /-- The operands of pending follow-ons of the core's threads (R301). -/
  kept : List Kept := []
  ring : Ring := {}
  /-- Breakpoint sets in force, by ASID: 32 words (R395, R404). -/
  sets : NMap (List Word) := []
  /-- Threads, by frame, and the sequence numbers they were at when HALT came into force for them: the instructions they had begun (R395,
  R409). -/
  haltNew : List (Nat × Nat) := []
  parked : Bool := false
  retention : Bool := false
  outOfService : Bool := false
  deriving DecidableEq, Repr

/-- The four engine commands (R292). -/
inductive CmdOp | cpy | cpym | cgath | reloc
  deriving DecidableEq, Repr

/-- How a command stands (R296, R297): running, suspended with the faulting address and write mark, or a FLIP that waits for
acknowledgements of the region entry at a physical address. -/
inductive CmdState
  | running
  | suspended (va : Word) (write : Bool)
  | flipping (pa : Nat)
  deriving DecidableEq, Repr

/-- An accepted copy command (R292-R303). -/
structure Cmd where
  id : BitVec 32
  /-- The instruction word that issued it, its sequence number, and whether its pipe and supervisor mark are traced. -/
  word : BitVec 32
  seq : Nat
  traced : Bool
  sup : Bool
  op : CmdOp
  c : Vector Word 8
  pgroot : Word
  hreg : Word
  /-- The issuing thread and its core, and the first scratchpad slot of each core of the sett at issue, by which the window
  bytes are reached (R294). -/
  frame : Nat
  pack : Nat
  cid : Nat
  ctx : Nat
  slots : List Nat
  /-- The sync word: its core and its byte in that core's matrix store; bytes counted toward its next advance, and whether
  this command defers that advance (R306). -/
  sync : Option (Nat × Nat) := none
  counted : Nat := 0
  defers : Bool := false
  /-- Bytes written, as disjoint rising intervals. -/
  done : List (Nat × Nat) := []
  /-- A MOVE's place: page of its list, entry of the page, and whether that entry is being copied (R255). -/
  page : Nat := 0
  entry : Nat := 0
  moving : Bool := false
  /-- Pages of the list that keep an EMPTY entry, and entries reported (R255, R303). -/
  kept : List Nat := []
  nrep : Nat := 0
  /-- A begin record of its pipe has been emitted since its engine last took it up, and an end record is owed for it (R397). -/
  began : Bool := false
  owes : Bool := false
  /-- A translation fault met and not yet acted on. -/
  fault : Option (Word × Bool) := none
  state : CmdState := .running
  deriving DecidableEq, Repr

/-- What a sett adds to its cores. -/
structure Sett where
  tallow : Word := 0xFFFF
  cmds : List Cmd := []
  nextCmd : BitVec 32 := 0
  repsum : BitVec 32 := 0
  /-- Follow-ons discarded while their thread was not on a context: frame and CMDID (R301, R351). -/
  folDead : List (Nat × BitVec 32) := []
  deriving DecidableEq, Repr

/-- One thread of a pack as the dispatcher knows it. -/
structure Member where
  index : Nat
  frame : Nat
  pool : Nat
  core : Nat
  ctx : Nat
  /-- Core and context chosen for its resumption. -/
  toCore : Nat := 0
  toCtx : Nat := 0
  ended : Bool := false
  /-- Parked by IDLE: it resumes as though ERET had been executed (R141). -/
  idled : Bool := false
  logged : Bool := false
  /-- What its context held beside the frame: a STEP that is due, the entry an ERET passes over (R362, R410) and the sectors of
  stopped `.last` loads (R180). -/
  stepDue : Option (Nat × List (BitVec 32)) := none
  brkSkip : Option Nat := none
  touched : NMap (Nat × List Nat) := []
  folBad : List (Nat × Word) := []
  /-- Of each pending follow-on: its command, the sequence number of its CPYM, and whether that is traced, in supervisor mode and traced in
  the map pipe (R397, R398). -/
  folMarks : List (BitVec 32 × Nat × Bool × Bool × Bool) := []
  vheld : List (Nat × VBits) := []
  kheld : List (Nat × KBits) := []
  deriving DecidableEq, Repr

/-- How a pack stands (R335, R336, R357): `starting` and `resuming` packs wait for the contexts chosen for them. -/
inductive PackState
  | starting | running | saved | resuming | parked | dead
  deriving DecidableEq, Repr

/-- Where a record came from and what its completion touches (R321-R323, R369): its queue and index, its completion word and
join block under an address space's tables. `inside`: the completion word could not be written and is counted internally. -/
structure Source where
  queue : Nat
  index : BitVec 32
  done : Word
  join : Word
  pgroot : Word
  inside : Bool := false
  deriving DecidableEq, Repr

/-- A pack (R40, R335). -/
structure Pack where
  id : Nat
  record : Rec
  asid : Nat
  src : Source
  prio : Nat
  sett : Nat
  /-- The sett chosen for its resumption. -/
  toSett : Nat := 0
  members : List Member
  state : PackState
  /-- A live retirement holds the pack to its cores (R454). -/
  pin : Bool := false
  /-- Start order, for the choice of R335, and the order of pre-emption, for R325. -/
  order : Nat := 0
  savedAt : Nat := 0
  /-- FLAGS and FINISHED as the sequencer counts them (R322). -/
  flags : BitVec 5 := 0
  finished : Nat := 0
  deriving DecidableEq, Repr

/-- An append the sequencer holds while a queue is full (R319): the queue, the record to append, and the record that caused
it. `node`: that record is a decide or loop record that completes once the append is made (R329). -/
structure Held where
  queue : Nat
  record : Rec
  src : Source
  node : Bool
  deriving DecidableEq, Repr

/-- The host fault queue as SET_FQBASE found it (R355). -/
structure FaultQ where
  desc : Nat
  ring : Nat
  log2 : Nat
  deriving DecidableEq, Repr

/-- What the host does at its register block and its MSI-X table (R366): a read, a 32-bit write, a vector masked or unmasked, the
messages of a vector taken. -/
inductive HostAct
  | read (off : Nat)
  | write (off : Nat) (v : BitVec 32)
  | mask (vector : Fin 3) (on : Bool)
  | take (vector : Fin 3)
  deriving DecidableEq, Repr

/-- Whose turn it is (R198, R296, R325): the interleaving, supplied by the environment as data. -/
inductive Turn
  | thread (frame : Nat)
  | work
  | event (i : Instr)
  | host (a : HostAct)
  deriving DecidableEq, Repr

/-- A background mailbox command in progress (R367): SHOOTDOWN, SET_MBTBASE, PAGE_EXPAND, CORE_PARK or CORE_UNPARK. -/
inductive Background
  | shootdown (asid : Nat) (va : Word) (pages : Nat)
  | mergeTable (base : Nat)
  | expand (pa : Nat)
  | park (sett : Nat) (mask : BitVec 32)
  | unpark (sett : Nat) (mask : BitVec 32)
  deriving DecidableEq, Repr

/-- Where the mailbox stands (R367). -/
structure Mailbox where
  /-- 0 Success, 1 Background Command Started, 2 Invalid Input, 3 Unsupported, 6 Busy (CXL 3.1's codes). -/
  code : Nat := 0
  out : List Byte := []
  background : Option Background := none
  timestamp : Word := 0
  /-- An image transferred, and the one activated for the next reset. -/
  image : Option (List Byte) := none
  active : Option (List Byte) := none
  deriving DecidableEq, Repr

/-- A measurement extended with a digest (R376). -/
def extendMeas (m : BitVec 512) (d : List Byte) : BitVec 512 :=
  Config.shake256 ((List.range 64).map (fun j => m.extractLsb' (8 * j) 8) ++ d)

/-- The fuses (R373, R377): the digest and the revoke fuse of each key slot, the security version counter, the device secret. -/
structure Fuses where
  digests : Vector (BitVec 256) 4 := Vector.ofFn fun i => Config.fusedDigest i.val
  revoked : Vector Bool 4 := Vector.ofFn fun i => Config.fusedRevoked i.val
  svn : BitVec 6 := Config.fusedSvn
  secret : List Byte := Config.fusedSecret
  deriving DecidableEq, Repr

/-- The unrevoked key slot that an image's public key matches (R374 step 1). -/
def bootSlot (f : Fuses) (image : List Byte) : Option Nat :=
  (f.digests.toList.zip f.revoked.toList).findIdx? fun (d, r) => !r && d == Config.keyDigest (Config.imageKey image)

/-- The boot ROM accepts an image (R374 steps 1-3). -/
def bootOk (f : Fuses) (image : List Byte) : Bool :=
  (bootSlot f image).isSome && Config.slhVerify (Config.imageKey image) (Config.imageSig image) (Config.imageRest image) &&
    decide (f.svn.toNat ≤ (Config.imageSvn image).toNat)

/-- The measurements of a boot that succeeds with an image (R374, R376); `maps` are the digests of the repair maps applied. -/
def bootMeas (f : Fuses) (image : List Byte) (maps : List (List Byte)) : Vector (BitVec 512) 8 :=
  #v[extendMeas 0 (Config.imageDigest image), extendMeas 0 (Config.stageDigest 1 image), extendMeas 0 (Config.stageDigest 2 image),
    extendMeas 0 [Config.imageSvn image, BitVec.ofNat 8 ((bootSlot f image).getD 0)], maps.foldl extendMeas 0, 0, 0, 0]

/-- A record of the event log (R369, R453): its identifier is that of queue errors or that of telemetry; the first 16 bytes of its
payload. -/
structure EventRec where
  queueError : Bool
  data : BitVec 128
  deriving DecidableEq, Repr

/-- The package beside its threads, cores, memory and packs. -/
structure Pkg where
  index : Nat := 0
  /-- Packages of the pod that can be reached (R365), and those fenced (R459). -/
  peers : List Nat := []
  fenced : List Nat := []
  /-- Lanes left of each UALink port (R371). -/
  lanes : Vector Nat 12 := Vector.replicate 12 4
  ast : Option Nat := none
  qt : Option Nat := none
  fq : Option FaultQ := none
  fqSeq : BitVec 16 := 0
  /-- Entries waiting for room in the host fault queue (R355). -/
  fqWait : List (List Word) := []
  /-- SFBASE and SFCOUNT, and what they were before the last reset (R368). -/
  sf : Option (Nat × Nat) := none
  sfBefore : Option (Nat × Nat) := none
  mbt : Option Nat := none
  dbg : Option Nat := none
  dthr : BitVec 16 := 80
  /-- Queues that were enabled and not closed (R317, R320). -/
  enabled : List Nat := []
  /-- The queue last served at each priority (R325). -/
  served : NMap Nat := []
  held : List Held := []
  /-- Event records by log: 0 informational, 1 warning, 2 failure, 3 fatal (R369, R453), and the records dropped at a full log (R369). -/
  logs : Vector (List EventRec) 4 := Vector.replicate 4 []
  logLost : Vector Nat 4 := Vector.replicate 4 0
  health : Word := 0x00AAFFFF00000000
  ready : Bool := true
  fwfail : Bool := false
  lastRst : Nat := 0
  retainOk : BitVec 4 := 0
  retainLost : BitVec 4 := 0
  /-- The firmware image in flash, the SVN that runs (R366) and the measurements (R376). -/
  firmware : List Byte := Config.factoryImage
  svn : BitVec 8 := Config.imageSvn Config.factoryImage
  meas : Vector (BitVec 512) 8 := bootMeas {} Config.factoryImage []
  fuses : Fuses := {}
  /-- The width and the rate in GT/s to which the CXL link is trained (R363). -/
  linkWidth : Nat := 16
  linkRate : Nat := 64
  /-- What the last CXL.mem read of the host and the last read of a peer returned, byte by byte; none is poison (R364, R371, R378). -/
  hostRead : List (Option Byte) := []
  peerRead : List (Option Byte) := []
  hStep : Nat := 0
  tStep : Nat := 0
  tripped : Bool := false
  /-- Stacks in self-refresh (R456) and at doubled refresh (R385). -/
  selfRefresh : List Nat := []
  doubled : List Nat := []
  /-- MSI-X (R366): vectors with a message that the host has not taken, vectors the host has masked, and vectors pending. -/
  msix : Vector Bool 3 := Vector.replicate 3 false
  msixMask : Vector Bool 3 := Vector.replicate 3 false
  msixPending : Vector Bool 3 := Vector.replicate 3 false
  /-- Cores that the CORE_PARK in progress has parked, and the packs whose saves it asked for (R378). -/
  parkCores : List Nat := []
  parkSaves : List Nat := []
  ide : Option Word := none
  /-- The last SPDM response (R377). -/
  spdm : List Byte := []
  mbox : Mailbox := {}
  deriving DecidableEq, Repr

/-- What has befallen the page tables, for the translations that TLBs may hold (R344, R345): a word of theirs as it was before a write, at
its physical address; a shootdown, as ASID and range of virtual addresses; and a root that a thread has begun to run under. -/
inductive Past
  | word (ea : Nat) (old : Word)
  | shot (asid lo hi : Nat)
  | root (pgroot : Word)
  deriving DecidableEq, Repr

/-- The machine. -/
structure State where
  /-- The thread in focus, and the other threads on contexts. -/
  cur : Thread
  others : List Thread
  /-- Cores that differ from a blank one, by 32 × sett + exposed core. -/
  cores : NMap Core
  setts : Vector Sett 4
  /-- Bytes by 52-bit physical address; an unlisted byte is zero (R378). -/
  mem : List Host.Cell
  /-- Bytes that stores have written so far, latest first: what a dropped sector may fall back to (R180). -/
  written : List Host.Cell
  /-- What has befallen the page tables, latest first: translations that it replaced may serve until a shootdown (R345). -/
  past : List Past
  /-- The tick at which the present step began: its translations draw their free choices there, so that they agree (R341, R345). -/
  walkTick : Nat
  /-- The arrangement of a 64 KiB unit's bytes, by unit (R343): 1 + GANG of the mappings through which it is stored to; 4 × (1 + GANG)
  more where this step has stored to it through one of the other GANG. -/
  gang : NMap Nat
  /-- 32-byte sectors that were last written by physical address and so stand where they are for either GANG (R343): 1, or 2 where this step
  has stored to the sector through a mapping. -/
  plain : NMap Nat
  /-- Poisoned 32-byte sectors, by physical address / 32, rising (R190). -/
  poison : List Nat
  packs : List Pack
  /-- Packs formed so far, for identifiers and orders. -/
  packSeq : Nat
  pkg : Pkg
  /-- The index of free values (log entry 1). -/
  tick : Nat
  turns : List Turn
  /-- Steps of other agents that a step has made due, oldest first (log entry 3). -/
  work : List Instr
  deriving DecidableEq, Repr

/-- What an unlisted byte of memory reads as: HBM is scrubbed to zero at cold reset (R378). -/
def Memory.blank : Byte := 0

/-- The canonical form of memory: addresses strictly rising and no byte equal to the blank one. -/
def Memory.wf (m : List Host.Cell) : Bool := twf Memory.blank 0 m

/-- The machine right after cold reset (R378): nothing runs, memory and matrix stores are zero, bases are cleared. -/
def State.reset : State where
  cur := {}
  others := []
  cores := []
  setts := Vector.replicate 4 {}
  mem := []
  written := []
  past := []
  walkTick := 0
  gang := []
  plain := []
  poison := []
  packs := []
  packSeq := 0
  pkg := {}
  tick := 0
  turns := []
  work := []

end Sys2Proof.Machine
end

