-- ==== Sys2Proof/Machine/Mem.lean ====
section
/-! DEFINITION. Words and their fields, cores, and bytes of memory: device memory by physical address and the matrix stores
(01 R8, R42; 06 R190; 07 R196; 14 R365). -/

namespace Sys2Proof.Machine

/-- The field of `w` of `n` bits from bit `lo`. -/
def fld (w : Word) (lo n : Nat) : Nat := w.toNat / 2 ^ lo % 2 ^ n

/-- `w` with its field of `n` bits from bit `lo` replaced by `x`. -/
def setFld (w : Word) (lo n x : Nat) : Word :=
  BitVec.ofNat 64 (w.toNat / 2 ^ (lo + n) * 2 ^ (lo + n) + x % 2 ^ n * 2 ^ lo + w.toNat % 2 ^ lo)

def wbit (w : Word) (i : Nat) : Bool := w.getLsbD i

/-- Little-endian bytes (R8). -/
def leBytes (n x : Nat) : List Byte :=
  match n with
  | 0 => []
  | k + 1 => BitVec.ofNat 8 x :: leBytes k (x / 256)

def ofBytes (l : List Byte) : Nat :=
  match l with
  | [] => 0
  | b :: t => b.toNat + 256 * ofBytes t

/-- Canonical addresses (R339): bits [63:57] equal bit 56. -/
def canonical (a : Word) : Bool := a.toNat / 2 ^ 56 == 0 || a.toNat / 2 ^ 56 == 255

-- cores

def coreOf (s : State) (cid : Nat) : Core := tget s.cores {} cid
def setCore (cid : Nat) (c : Core) (s : State) : State := { s with cores := tset s.cores {} cid c }
def modCore (cid : Nat) (f : Core → Core) (s : State) : State := setCore cid (f (coreOf s cid)) s

/-- The core a thread runs on, as 32 × sett + exposed index. -/
def cidOf (t : Thread) : Nat := 32 * t.sett + t.core

def settOf (s : State) (k : Nat) : Sett := s.setts.toList.getD k {}
def modSett (k : Nat) (f : Sett → Sett) (s : State) : State :=
  if h : k < 4 then { s with setts := s.setts.set k (f (s.setts[k])) } else s

/-- MSPLIT fields (R22). -/
def splitC0 (c : Core) : Nat := fld c.msplit 0 9
def splitC1 (c : Core) : Nat := fld c.msplit 16 9
/-- First scratchpad slot, and the scratchpad's size in bytes (R42, R196). -/
def scratchSlot (c : Core) : Nat := splitC0 c + splitC1 c
def scratchSize (c : Core) : Nat := (256 - scratchSlot c) * Config.slotBytes

/-- A byte's place: device or other memory by physical address, or a byte of a core's matrix store. -/
inductive Loc
  | phys (pa : Nat)
  | store (cid byte : Nat)
  deriving DecidableEq, Repr

/-- A byte write under a bit mask (a nibble write has half a mask, R62). -/
structure Wr where
  loc : Loc
  mask : Byte
  val : Byte
  deriving DecidableEq, Repr

def tileOf (c : Core) (slot : Nat) : Tile := tget c.tiles 0 slot
def setTile (slot : Nat) (x : Tile) (c : Core) : Core := { c with tiles := tset c.tiles 0 slot x }

/-- Byte `j` of a tile, and a tile with that byte replaced. -/
def tileByte (x : Tile) (j : Nat) : Byte := x.extractLsb' (8 * j) 8
def setTileByte (x : Tile) (j : Nat) (b : Byte) : Tile :=
  (x &&& ~~~((255 : Tile) <<< (8 * j))) ||| ((b.zeroExtend 131072) <<< (8 * j))

/-- Byte at a place. -/
def byteAt (s : State) (l : Loc) : Byte :=
  match l with
  | .phys pa => tget s.mem Memory.blank pa
  | .store cid b => tileByte (tileOf (coreOf s cid) (b / Config.slotBytes)) (b % Config.slotBytes)

def putByte (l : Loc) (b : Byte) (s : State) : State :=
  match l with
  | .phys pa => { s with mem := tset s.mem Memory.blank pa b, written := (pa, b) :: s.written }
  | .store cid j =>
    modCore cid (fun c => setTile (j / Config.slotBytes)
      (setTileByte (tileOf c (j / Config.slotBytes)) (j % Config.slotBytes) b) c) s

/-- Whether a byte lies in a poisoned sector or a bad element of a store (R190, R212). -/
def poisoned (s : State) (l : Loc) : Bool :=
  match l with
  | .phys pa => s.poison.contains (pa / 32)
  | .store cid b => (coreOf s cid).bad.contains (b / 4)

/-- The 32-byte sector of a byte. -/
def sectorOf (l : Loc) : Loc :=
  match l with
  | .phys pa => .phys (pa / 32)
  | .store cid b => .store cid (b / 32)

/-- A sector that is poisoned, and the same sector made clean. -/
def sectorBad (s : State) (q : Loc) : Bool :=
  match q with
  | .phys k => s.poison.contains k
  | .store cid k => (coreOf s cid).bad.any fun e => e / 8 == k
def clearSector (q : Loc) (s : State) : State :=
  match q with
  | .phys k => { s with poison := s.poison.filter (· != k) }
  | .store cid k => modCore cid (fun c => { c with bad := c.bad.filter (fun e => e / 8 != k) }) s
/-- A sector poisoned as a whole (R296). -/
def poisonSector (q : Loc) (s : State) : State :=
  match q with
  | .phys k => { s with poison := sinsert s.poison k }
  | .store cid k => modCore cid (fun c => { c with bad := (List.range 8).foldl (fun l i => sinsert l (8 * k + i)) c.bad }) s

/-- Whether the writes cover all 32 bytes of a sector, their masks taken together: several element or nibble writes of one store that
together cover it count as the one write that clears its poison; R190 speaks of a write: DESIGN CHOICE (log entry 50). -/
def covers (ws : List Wr) (q : Loc) : Bool :=
  match q with
  | .phys k => (List.range 32).all fun i =>
      (ws.filter (·.loc == .phys (32 * k + i))).foldl (fun m w => m ||| w.mask) 0 == 0xFF
  | .store cid k => (List.range 32).all fun i =>
      (ws.filter (·.loc == .store cid (32 * k + i))).foldl (fun m w => m ||| w.mask) 0 == 0xFF

/-- One byte write under its mask. -/
def wr1 (s : State) (w : Wr) : State :=
  putByte w.loc (if w.mask = 0xFF then w.val else (byteAt s w.loc &&& ~~~w.mask) ||| (w.val &&& w.mask)) s

/-- Poisoned sectors that the writes touch. -/
def touchedBad (s : State) (ws : List Wr) : List Loc :=
  ((ws.map fun w => sectorOf w.loc).filter (sectorBad s)).eraseDups

def readBytes (s : State) (ls : List Loc) : List Byte := ls.map (byteAt s)

/-- Consecutive physical places. -/
def physLocs (pa n : Nat) : List Loc := (List.range n).map fun i => .phys (pa + i)

/-- Little-endian words in physical memory: tables the hardware itself reads and writes. -/
def rdPhys (s : State) (pa n : Nat) : Nat := ofBytes (readBytes s (physLocs pa n))
def rdWord (s : State) (pa : Nat) : Word := BitVec.ofNat 64 (rdPhys s pa 8)

/-- A word of the form of a present page-table entry (R340); the form alone, whatever it maps. -/
def entryForm (e : Word) : Bool := wbit e 0 && fld e 52 12 == 0 && (if wbit e 3 then fld e 10 2 == 0 else fld e 1 11 == 0)

/-- The words of physical memory that an access writes, a run of one word once. -/
def wordsOf (ws : List Wr) : List Nat :=
  ws.foldl (fun l w => match w.loc with
    | .phys pa => if l.head? == some (pa / 8 * 8) then l else pa / 8 * 8 :: l
    | .store _ _ => l) []

/-- Words that an access changes from or to the form of a present entry, as they were (R345). -/
def replaced (ws : List Wr) (s s' : State) : List Past :=
  (wordsOf ws).filterMap fun a =>
    if rdWord s' a != rdWord s a && (entryForm (rdWord s a) || entryForm (rdWord s' a)) then some (.word a (rdWord s a)) else none

/-- The writes of one access, in order; a poisoned sector they cover whole becomes clean (R190). -/
def writeAll (ws : List Wr) (s : State) : State :=
  let s' := ws.foldl wr1 s
  { ((touchedBad s ws).filter (covers ws)).foldl (fun s q => clearSector q s) s' with past := replaced ws s s' ++ s.past }

/-- Whole bytes at consecutive places. -/
def wrBytes (ls : List Loc) (bs : List Byte) : List Wr := (ls.zip bs).map fun (l, b) => ⟨l, 0xFF, b⟩

/-- A write by physical address goes through no mapping: in units that mappings have stored to, its sectors stand from then on where they
are for either GANG (R343, log entry 22). -/
def plainSectors (pa n : Nat) (s : State) : State :=
  if s.gang.isEmpty || n = 0 then s
  else { s with plain := ((List.range' (pa / 32) ((pa + (n - 1)) / 32 + 1 - pa / 32)).filter fun k =>
      (tkeys s.gang).contains (k / 2048)).foldl (fun m k => tset m 0 k 1) s.plain }

def wrPhys (pa n x : Nat) (s : State) : State := plainSectors pa n (writeAll (wrBytes (physLocs pa n) (leBytes n x)) s)
def wrWord (pa : Nat) (x : Word) (s : State) : State := wrPhys pa 8 x.toNat s
def badPhys (s : State) (pa n : Nat) : Bool := (physLocs pa n).any (poisoned s)

-- physical addresses (R365)

/-- The package whose memory a physical address names, when it names device memory. -/
def paPkg (pa : Nat) : Option Nat := if pa / 2 ^ 49 = 0 then some (pa / 2 ^ 39) else none
/-- A physical address that names memory that exists (R365). -/
def paOk (s : State) (pa : Nat) : Bool :=
  if pa / 2 ^ 49 = 0 then
    decide (pa % 2 ^ 39 < Config.hbmBytes) && (pa / 2 ^ 39 == s.pkg.index || s.pkg.peers.contains (pa / 2 ^ 39))
  else pa / 2 ^ 49 == 4
/-- The physical address of offset `x` of local memory. -/
def localPa (s : State) (x : Nat) : Nat := s.pkg.index * 2 ^ 39 + x
/-- A physical address in a package behind a fenced port (R459). -/
def paFenced (s : State) (pa : Nat) : Bool :=
  match paPkg pa with
  | some p => p != s.pkg.index && s.pkg.fenced.contains p
  | none => false

end Sys2Proof.Machine
end

