-- ==== Sys2Proof/Machine/Translate.lean ====
section
/-! DEFINITION. Translation: the windows of R42 and R348, the page tables of R339-R343, and the places of the bytes of an
access. -/

namespace Sys2Proof.Machine

/-- The address of an access of the given kind. -/
inductive Acc | load | store | fetch | scalarLoad | scalarStore
  deriving DecidableEq, Repr

/-- Why an address fails (R185): non-canonical or refused by a window; no translation or no permission; a poisoned
page-table entry (R340). -/
inductive Bad | addr | miss | ecc
  deriving DecidableEq, Repr

/-- Where an address leads, the CLASS of its page (0 for a window), and how many bytes from it on lie in order. -/
structure Xlat where
  loc : Loc
  cls : Nat
  run : Nat
  deriving DecidableEq, Repr

-- records and packs (R321, R332)

/-- Word `k` (8 bytes) of a continuation record. -/
def recWord (r : Rec) (k : Nat) : Word := r.extractLsb' (64 * k) 64
def recScratch (r : Rec) : Nat := fld (recWord r 0) 48 13
def recSlots (r : Rec) : Nat := fld (recWord r 0) 32 9
def recVlcap (r : Rec) : Nat := fld (recWord r 0) 28 4
def recOctets (r : Rec) : Nat := fld (recWord r 0) 24 4
def recThreads (r : Rec) : Nat := fld (recWord r 0) 16 7
def recPrio (r : Rec) : Nat := fld (recWord r 0) 4 5
def recKind (r : Rec) : Nat := fld (recWord r 0) 0 4

def packOf (s : State) (id : Nat) : Option Pack := s.packs.find? (·.id == id)

/-- A pack holds a core's scratchpad: SCRATCH > 0 and a thread of it running on the core (R42). -/
def holdsScratch (s : State) (id cid : Nat) : Bool :=
  match packOf s id with
  | some p => decide (0 < recScratch p.record) && p.state == .running &&
      p.members.any fun m => !m.ended && 32 * p.sett + m.core == cid
  | none => false

/-- A pack that holds the scratchpad of a core, running there or reserving it (R312, R333). -/
def scratchHolder (s : State) (cid : Nat) : Bool :=
  s.packs.any fun p => decide (0 < recScratch p.record) && p.state != .dead && p.state != .starting &&
    p.members.any fun m => !m.ended && 32 * p.sett + m.core == cid

/-- The window an address lies in (R42, R348): a scratchpad by core and offset, or the context window by offset. -/
inductive Window
  | scratch (cid off : Nat)
  | context (off : Nat)
  deriving DecidableEq, Repr

def windowOf (t : Thread) (a : Nat) : Option Window :=
  if Config.scratchOwn ≤ a ∧ a < Config.scratchOwn + 0x400000 then some (.scratch (cidOf t) (a - Config.scratchOwn))
  else if Config.scratchPeer ≤ a ∧ a < Config.scratchPeer + 0x8000000 then
    some (.scratch (32 * t.sett + (a - Config.scratchPeer) / 0x400000) ((a - Config.scratchPeer) % 0x400000))
  else if Config.contextWindow ≤ a ∧ a < Config.contextWindow + 0x100000000 then some (.context (a - Config.contextWindow))
  else none

/-- The place of offset `off` of a core's scratchpad. -/
def scratchLoc (s : State) (cid off : Nat) : Loc := .store cid (scratchSlot (coreOf s cid) * Config.slotBytes + off)

/-- BOUND of the landing header at byte `w` of a core's store (R304). -/
def boundAt (s : State) (cid w : Nat) : Bool := (byteAt s (.store cid (w + 12))).getLsbD 6

/-- Whether a window byte can be reached by a pack: inside the scratchpad, held by the pack (R42), and not in a landing slot
whose header is BOUND (R310). -/
def scratchOkP (s : State) (pack : Nat) (cid off : Nat) : Bool :=
  let c := coreOf s cid
  decide (off < scratchSize c) && holdsScratch s pack cid &&
    !c.bound.any fun (k, w) => k == scratchSlot c + off / Config.slotBytes && boundAt s cid w
def scratchOk (s : State) (t : Thread) (cid off : Nat) : Bool := scratchOkP s t.pack cid off

/-- The physical address of frame byte `off`, for offsets below SFCOUNT × 64 KiB (R347, R348). -/
def framePa (s : State) (off : Nat) : Option Nat :=
  match s.pkg.sf with
  | some (b, n) => if off < n * 65536 then some (b + off) else none
  | none => none

def inSup (t : Thread) : Bool := wbit t.ctl.estat 0

-- page tables (R339-R343)

structure Leaf where
  pa : Nat
  w : Bool
  x : Bool
  cls : Nat
  gang : Nat
  deriving DecidableEq, Repr

def inManaged (a : Nat) : Bool := decide (Config.wbase ≤ a) && decide (a < Config.wbase + Config.wlen)

def pteAddr (e : Word) : Nat := fld e 12 40 * 4096

/-- A present leaf at the given level that keeps the rules of R340 and R365 for virtual address `a`. -/
def leafOk (s : State) (e : Word) (lev : Nat) (a : Nat) : Bool :=
  let size := 2 ^ (12 + 9 * (lev - 1))
  fld e 52 12 == 0 && fld e 10 2 == 0 && (fld e 7 2 == 3 || fld e 5 2 != 3) && (lev == 1 || !wbit e 4) &&
  pteAddr e % size == 0 && (fld e 7 2 != 1 || inManaged a) && paOk s (pteAddr e) && paOk s (pteAddr e + size - 1)

def leafAt (e : Word) (size a : Nat) : Leaf :=
  ⟨pteAddr e / size * size + a % size, wbit e 1, wbit e 2, fld e 7 2, fld e 9 1⟩

/-- The unit's bytes stand as stores through mappings of the other GANG put them (R343). -/
def mixed (s : State) (l : Leaf) : Bool :=
  let k := tget s.gang 0 (l.pa / 65536) % 4
  k != 0 && k != 1 + l.gang
/-- The place of atom `a` in the order of the free keys: the atoms of a unit change places (R343, log entry 22). -/
def gangRank (a : Nat) : Nat :=
  ((List.range 2048).filter fun b => decide (Config.gangKey b < Config.gangKey a) ||
    (Config.gangKey b == Config.gangKey a && decide (b < a))).length
/-- The atom of a unit that an access of GANG `g` meets in place of atom `a`, where the unit stands in the other arrangement. What one
GANG permutes the other puts back. -/
def gangAtom (g a : Nat) : Nat := if g = 1 then gangRank a else ((List.range 2048).find? fun b => gangRank b == a).getD a
/-- A sector that was last written by physical address stands where it is (R343). -/
def isPlain (s : State) (k : Nat) : Bool := tget s.plain 0 k != 0
/-- From atom `a` on in its cycle, the first that is not plain. -/
def gangNext (s : State) (u g : Nat) : Nat → Nat → Nat
  | 0, a => a
  | n + 1, a => let b := gangAtom g a; if isPlain s (2048 * u + b) then gangNext s u g n b else b
/-- The same among the atoms of unit `u` that are not plain, which alone change places. -/
def gangMove (s : State) (u g a : Nat) : Nat := if isPlain s (2048 * u + a) then a else gangNext s u g 2048 a
/-- A store through a leaf gives the unit the arrangement of its GANG (R343, log entry 22): at once where the unit has none, else from
the next step on, when the bytes are put in order (`settleUnits`). -/
def noteUnit (l : Leaf) (s : State) : State :=
  let u := l.pa / 65536
  let k := tget s.gang 0 u
  let k' := if k = 0 || k % 4 = 1 + l.gang then 1 + l.gang else k % 4 + 4 * (1 + l.gang)
  if k = k' then s else { s with gang := tset s.gang 0 u k' }
/-- Physical byte `pa` of unit `u` where the unit's bytes stand in the arrangement of GANG `g` and no longer in the other. -/
def homeByte (s : State) (u g pa : Nat) : Nat :=
  if pa / 65536 = u then u * 65536 + gangMove s u (1 - g) (pa % 65536 / 32) * 32 + pa % 32 else pa
/-- The bytes of unit `u`, and their poison, in the arrangement of GANG `g` (R343). -/
def arrangeUnit (u g : Nat) (s : State) : State :=
  { s with
    mem := (s.mem.filter (·.1 / 65536 == u)).foldl (fun m c => tset m Memory.blank (homeByte s u g c.1) c.2) (s.mem.filter (·.1 / 65536 != u))
    poison := ((s.poison.filter (· / 2048 == u)).map fun k => homeByte s u g (32 * k) / 32).foldl sinsert (s.poison.filter (· / 2048 != u))
    written := s.written.map fun c => (homeByte s u g c.1, c.2)
    gang := tset s.gang 0 u (1 + g) }
/-- Units that the last step has stored to through mappings of the other GANG are put in order, and sectors that it has stored to through
any are plain no longer. -/
def settleUnits (s : State) : State :=
  let s := (s.gang.filter (4 ≤ ·.2)).foldl (fun s (u, k) => arrangeUnit u (k / 4 - 1) s) s
  { s with plain := s.plain.filter (·.2 < 2) }
/-- The place of byte `i` from a leaf's address on: where the mappings of the unit disagree on GANG, that of a byte of the same unit in
another arrangement (R343, log entry 22). -/
def arranged (s : State) (l : Leaf) (i : Nat) : Loc :=
  let p := l.pa + i
  if mixed s l then .phys (p / 65536 * 65536 + gangMove s (p / 65536) l.gang (p % 65536 / 32) * 32 + p % 32) else .phys p
/-- Bytes from address `a` on that lie in order. -/
def runFrom (s : State) (l : Leaf) (a : Nat) : Nat := if mixed s l then 32 - a % 32 else 4096 - a % 4096
/-- The places of `n` bytes of a page. -/
def leafLocs (s : State) (l : Leaf) (n : Nat) : List Loc := (List.range n).map (arranged s l)

/-- The word of a page table at `ea`, under earlier values of some words, the earliest first. -/
def pteAt (s : State) (was : List (Nat × Word)) (ea : Nat) : Word :=
  match was.find? (·.1 == ea) with
  | some (_, w) => w
  | none => rdWord s ea

/-- The level-1 entry `e` at physical address `ea`, for address `a`: alone, or as one of a C64 group, whose entries need
not agree: then any present entry of the group may serve (R341; the choice is free, log entry 5), and a poisoned one that the walk
reads traps ECC (R340). -/
def leafL1 (s : State) (was : List (Nat × Word)) (ea : Nat) (e : Word) (a : Nat) : Except Bad Leaf :=
  let own : Except Bad Leaf :=
    if wbit e 0 && wbit e 3 && leafOk s e 1 a then .ok (leafAt e 4096 a) else .error .miss
  let g := ea / 128 * 128
  let es := (List.range 16).map fun i => pteAt s was (g + 8 * i)
  let bad (i : Nat) : Bool := badPhys s (g + 8 * i) 8
  let live := ((List.range 16).zip es).filter fun (i, x) => bad i || (wbit x 0 && wbit x 3 && leafOk s x 1 a)
  if !live.any (fun (i, x) => !bad i && wbit x 4) then own
  else
    let base := pteAddr (es.getD 0 0)
    let same := decide (base % 65536 = 0) && (List.range 16).all fun i => !bad i &&
      es.getD i 0 == setFld (es.getD 0 0) 12 40 ((base + 4096 * i) / 4096)
    if same then own
    else
      match Config.freeNat s.walkTick (2 ^ 63 + a / 4096) % (live.length + 1) with
      | 0 => own
      | k + 1 => match live[k]? with
        | some (i, x) => if bad i then .error .ecc else .ok (leafAt x 65536 a)
        | none => own

/-- The walk from a table of level `lev` at `base` (R339, R340), under earlier values of some words. -/
def walkFrom (s : State) (was : List (Nat × Word)) (a : Nat) (lev : Nat) (base : Nat) : Except Bad Leaf :=
  match lev with
  | 0 => .error .miss
  | l + 1 =>
    let ea := base + 8 * (a / 2 ^ (12 + 9 * l) % 512)
    if badPhys s ea 8 then .error .ecc
    else
      let e := pteAt s was ea
      if l = 0 then leafL1 s was ea e a
      else if !wbit e 0 then .error .miss
      else if wbit e 3 then
        if l < 3 && leafOk s e (l + 1) a then .ok (leafAt e (2 ^ (12 + 9 * l)) a) else .error .miss
      else if fld e 52 12 == 0 && fld e 1 11 == 0 && paOk s (pteAddr e) then walkFrom s was a l (pteAddr e)
      else .error .miss

/-- The walk of address `a` under a root. -/
def walkWas (s : State) (was : List (Nat × Word)) (pgroot : Word) (a : Nat) : Except Bad Leaf :=
  walkFrom s was a 5 (pteAddr pgroot)

/-- A translation grants no more than another to the same place: a grant of W or X takes effect at once (R345). -/
def coveredBy (x y : Leaf) : Bool := x.pa == y.pa && x.cls == y.cls && x.gang == y.gang && (!x.w || y.w) && (!x.x || y.x)

/-- A translation beside those found before: none where it is covered by one of them. -/
def addLeaf (r : Except Bad Leaf) (found : List Leaf) : List Leaf :=
  match r with
  | .ok x => if found.any (coveredBy x) then found else found ++ [x]
  | .error _ => found

/-- Translations of address `a` that the tables under a root gave at some time since its last shootdown and since a thread first ran
under that root, the latest first: `found` and those that differ from the later ones (R344, R345). -/
def heldLeaves (s : State) (pgroot : Word) (a : Nat) : List (Nat × Word) → List Leaf → List Past → List Leaf
  | _, found, [] => found
  | was, found, .root g :: l => if g = pgroot && !l.contains (.root g) then found else heldLeaves s pgroot a was found l
  | was, found, .shot asid lo hi :: l =>
    if asid = fld pgroot 52 12 && decide (lo ≤ a) && decide (a < hi) then found else heldLeaves s pgroot a was found l
  | was, found, .word ea w :: l =>
    let was := (ea, w) :: was
    heldLeaves s pgroot a was (addLeaf (walkWas s was pgroot a) found) l

/-- The roots of an address space under which threads have run since the last shootdown of address `a` in it: a TLB's entries are tagged
with the ASID alone, so that any of these roots may have given what it holds (R344). -/
def rootsSince (asid a : Nat) : List Past → List Word
  | [] => []
  | .root g :: l => if fld g 52 12 = asid then g :: rootsSince asid a l else rootsSince asid a l
  | .shot k lo hi :: l => if k = asid && decide (lo ≤ a) && decide (a < hi) then [] else rootsSince asid a l
  | .word .. :: l => rootsSince asid a l

/-- Translations of address `a` that a TLB may hold for the ASID of a root: those of that root's tables, then those of other roots. -/
def tlbLeaves (s : State) (pgroot : Word) (a : Nat) (now : Except Bad Leaf) : List Leaf :=
  ((rootsSince (fld pgroot 52 12) a s.past).filter (· != pgroot)).foldl
    (fun found g => heldLeaves s g a [] (addLeaf (walkWas s [] g a) found) s.past)
    (heldLeaves s pgroot a [] now.toOption.toList s.past)

/-- Translation under a page-table root (PGROOT's ADDR): what the tables give, or until a shootdown what they gave before a change or what
the tables of another root of the same ASID gave; which is a free choice, one for each page and step (R344, R345, log entry 21). -/
def walk (s : State) (pgroot : Word) (addr : Nat) : Except Bad Leaf :=
  let a := addr % 2 ^ 57
  let now := walkWas s [] pgroot a
  if !s.past.contains (.root pgroot) then now
  else
    match (tlbLeaves s pgroot a now).map Except.ok ++ (if now.toOption.isNone then [now] else []) with
    | [x] => x
    | l => l.getD (Config.freeNat s.walkTick (2 ^ 64 + pgroot.toNat / 2 ^ 52 * 2 ^ 45 + a / 4096) % l.length) now

/-- The words of page tables that the walk of an address reads (R339). -/
def walkReads (s : State) (a : Nat) (lev : Nat) (base : Nat) : List Loc :=
  match lev with
  | 0 => []
  | l + 1 =>
    let ea := base + 8 * (a / 2 ^ (12 + 9 * l) % 512)
    let e := rdWord s ea
    physLocs ea 8 ++ if l = 0 || !wbit e 0 || wbit e 3 || badPhys s ea 8 then [] else walkReads s a l (pteAddr e)
/-- Those of an access of `n` bytes under a root. -/
def tableReads (s : State) (pgroot a : Word) (n : Nat) : List Loc :=
  if (windowOf {} a.toNat).isSome then []
  else [a.toNat, a.toNat + (n - 1)].flatMap fun x => walkReads s (x % 2 ^ 57) 5 (pteAddr pgroot)

/-- A store through a leaf at a sector that is plain: it is so no longer from the next step on. -/
def noteSector (l : Leaf) (s : State) : State :=
  if tget s.plain 0 (l.pa / 32) = 1 then { s with plain := tset s.plain 0 (l.pa / 32) 2 } else s
/-- A store at an address under page tables sets the arrangement of the unit it reaches. -/
def noteAt (s0 : State) (pgroot : Word) (s : State) (a : Nat) : State :=
  match walk s0 pgroot a with
  | .ok l => noteSector l (noteUnit l s)
  | .error _ => s
/-- A store of `n` bytes at an address under page tables sets the arrangement of the units it reaches, and its sectors are plain no longer
(R343). -/
def noteStore (s0 : State) (pgroot : Word) (a n : Nat) (s : State) : State :=
  if (windowOf {} a).isSome then s
  else ((if s.plain.isEmpty then [a] else (List.range (n / 32 + 1)).map fun i => a + min (32 * i) (n - 1)) ++ [a + (n - 1)]).foldl (noteAt s0 pgroot) s

/-- The permission of R342. -/
def permits (l : Leaf) (k : Acc) : Bool :=
  match k with
  | .load | .scalarLoad => true
  | .store | .scalarStore => l.w
  | .fetch => l.x

/-- Where the byte at `a` lies for thread `t` (R42, R185, R339-R348). A fetch and an access to data make their own choices where a walk
leaves one (R341, R345). -/
def xlat (s : State) (t : Thread) (a : Word) (k : Acc) : Except Bad Xlat :=
  let rest := 4096 - a.toNat % 4096
  if !canonical a then .error .addr
  else
    match windowOf t a.toNat with
    | some (.scratch cid off) => if scratchOk s t cid off then .ok ⟨scratchLoc s cid off, 0, rest⟩ else .error .addr
    | some (.context off) =>
      if inSup t && (k == .scalarLoad || k == .scalarStore) then
        match framePa s off with
        | some pa => .ok ⟨.phys pa, 0, rest⟩
        | none => .error .addr
      else .error .addr
    | none =>
      match walk (if k == .fetch then { s with walkTick := 2 ^ 64 + s.walkTick } else s) t.ctl.pgroot a.toNat with
      | .error b => .error b
      | .ok l => if permits l k then .ok ⟨arranged s l 0, l.cls, runFrom s l a.toNat⟩ else .error .miss

def locAdd (l : Loc) (i : Nat) : Loc :=
  match l with
  | .phys pa => .phys (pa + i)
  | .store cid b => .store cid (b + i)

/-- Places of `n` bytes from `a`, run by run; an error names the first address that fails. -/
def xlatPages (s : State) (t : Thread) (k : Acc) : Nat → Word → Nat → Except (Bad × Word) (List Loc × Nat)
  | 0, _, _ => .ok ([], 0)
  | fuel + 1, a, n =>
    if n = 0 then .ok ([], 0)
    else
      match xlat s t a k with
      | .error b => .error (b, a)
      | .ok x =>
        let m := min n x.run
        match xlatPages s t k fuel (a + BitVec.ofNat 64 m) (n - m) with
        | .error e => .error e
        | .ok (ls, _) => .ok ((List.range m).map (locAdd x.loc) ++ ls, x.cls)

/-- Places of the `n` bytes at `a`, and the CLASS of the first page. -/
def xlatN (s : State) (t : Thread) (a : Word) (n : Nat) (k : Acc) : Except (Bad × Word) (List Loc × Nat) :=
  xlatPages s t k (n / 32 + 2) a n

/-- First poisoned byte of an access: its index. -/
def firstBad (s : State) (ls : List Loc) : Option Nat := ls.findIdx? (poisoned s)

end Sys2Proof.Machine
end

