-- ==== Sys2Proof/Machine/Ops.lean ====
section
/-! DEFINITION. The named operations over registers, memory, traps and the program counter that every meaning uses
(01 R13-R33; 04 R114-R141). -/

namespace Sys2Proof.Machine

abbrev Out := Host.Outcome State Fault Refusal

def modT (f : Thread → Thread) (s : State) : State := { s with cur := f s.cur }
def modC (f : Ctl → Ctl) (t : Thread) : Thread := { t with ctl := f t.ctl }
def modPkg (f : Pkg → Pkg) (s : State) : State := { s with pkg := f s.pkg }

/-- Element `i` of a vector of registers, or `d` beyond it. -/
def vnth {α : Type} {n : Nat} (v : Vector α n) (d : α) (i : Nat) : α := if h : i < n then v[i] else d
def vput {α : Type} {n : Nat} (v : Vector α n) (i : Nat) (x : α) : Vector α n := if h : i < n then v.set i x h else v

-- trap causes (R138)
def cILL : Nat := 0x01
def cRSV : Nat := 0x02
def cZERO : Nat := 0x03
def cPRIV : Nat := 0x04
def cADDR : Nat := 0x05
def cTRAP : Nat := 0x06
def cVLX : Nat := 0x08
def cSTALL : Nat := 0x09
def cLOOP : Nat := 0x0A
def cPFLD : Nat := 0x10
def cPFST : Nat := 0x11
def cPFGA : Nat := 0x12
def cPFTL : Nat := 0x13
def cMAPF : Nat := 0x14
def cHEAP : Nat := 0x18
def cECC : Nat := 0x19
def cLINK : Nat := 0x1A
def cSYNC : Nat := 0x1B
def cBRKPT : Nat := 0x20
def cSTEP : Nat := 0x21
def cWATCH : Nat := 0x22

-- register files (R14)

/-- The value of a scalar register; s0 reads as zero. -/
def sreg (t : Thread) (r : SReg) : Word := if r = 0 then 0 else t.s[r]

/-- A write of a scalar register that later reads see at once; s0 discards it (R14). -/
def setS (d : SReg) (x : Word) (t : Thread) : Thread :=
  if d = 0 then t else { t with s := t.s.set d x, pend := t.pend.filter (·.reg != d) }

/-- A write of latency 4 (R114): the old value is kept beside it with the distance counted so far. -/
def setS4 (w : Nat) (d : SReg) (x : Word) (t : Thread) : Thread :=
  if d = 0 then t
  else { t with s := t.s.set d x, pend := t.pend.filter (·.reg != d) ++ [⟨d, t.s[d], w⟩] }

/-- Whether a read of `r` now would come at a distance below 4 (R114, R115). -/
def isEarly (t : Thread) (r : SReg) : Bool := t.pend.any fun p => p.reg == r && decide (p.dist < 3)

/-- An operand read (R115): at a distance below the latency with SCHK.EN = 0 it is the old or the new value, a free choice
for each read (log entry 5). -/
def rs (j : Nat) (s : State) (r : SReg) : Word :=
  match s.cur.pend.find? fun p => p.reg == r && decide (p.dist < 3) with
  | some p => if Config.freeBit s.tick j then p.old else sreg s.cur r
  | none => sreg s.cur r

/-- The value of a mask register; k0 reads as all ones. -/
def kreg (t : Thread) (r : KReg) : KBits := if r = 0 then BitVec.allOnes 512 else t.k[r]

/-- A write of a mask register; k0 discards it. The value held before stays available to R33. -/
def setK (d : KReg) (x : KBits) (t : Thread) : Thread :=
  if d = 0 then t else { t with k := t.k.set d x, kheld := (d.val, t.k[d]) :: t.kheld }

def vreg (t : Thread) (r : VReg) : VBits := t.v[r]
/-- A write of a vector register; the value held before stays available to R33. -/
def setV (d : VReg) (x : VBits) (t : Thread) : Thread :=
  { t with v := t.v.set d x, vheld := (d.val, t.v[d]) :: t.vheld }

def hreg (t : Thread) (r : HReg) : Word := t.h[r]
def setH (d : HReg) (x : Word) (t : Thread) : Thread := { t with h := t.h.set d x }
def oreg (t : Thread) (r : OReg) : Word := t.o[r]
def setO (d : OReg) (x : Word) (t : Thread) : Thread := { t with o := t.o.set d x }

-- control-register fields (R22)
def vlOf (t : Thread) : Nat := fld t.ctl.vl 0 10
def vstartOf (t : Thread) : Nat := fld t.ctl.vstart 0 9
def eprogOf (t : Thread) : Nat := fld t.ctl.eprog 0 12
def sewOf (t : Thread) : Nat :=
  match fld t.ctl.vtype 0 2 with
  | 0 => 16
  | 1 => 32
  | _ => 64
def isInt (t : Thread) : Bool := wbit t.ctl.vtype 2
def blkOf (t : Thread) : Nat := fld t.ctl.vtype 8 3
def segOf (t : Thread) : Nat := fld t.ctl.vtype 11 4
def sclOf (t : Thread) : Bool := wbit t.ctl.vtype 15
def rowsOf (t : Thread) : Nat := fld t.ctl.mshape 0 7
def colsOf (t : Thread) : Nat := fld t.ctl.mshape 8 7
def stepsOf (t : Thread) : Nat := fld t.ctl.mshape 16 7
/-- Applied lanes: 8 for each octet of the grant (R15, R22). -/
def lanesOf (t : Thread) : Nat := 8 * fld t.ctl.lanes 0 4
def depthOf (t : Thread) : Nat := fld t.ctl.ldepth 0 3

/-- The largest power of two not above `n`. -/
def pow2Below (n : Nat) : Nat := if n = 0 then 0 else 2 ^ Nat.log2 n

/-- grant_max and cap of R32, at an element width. -/
def grantMax (t : Thread) (sew : Nat) : Nat := lanesOf t * 128 / sew
def capOf (t : Thread) (sew : Nat) : Nat :=
  let g := fld t.ctl.vlcap 0 4
  if sew = 16 then 2 ^ (g + 1) else if sew = 32 then 2 ^ g else max 1 (2 ^ (g - 1))
/-- VLMAX of R32. -/
def vlmax (t : Thread) (sew : Nat) : Nat :=
  let m := min (grantMax t sew) (capOf t sew)
  if wbit t.ctl.vlcap 4 then pow2Below m else m

def setVl (n : Nat) (t : Thread) : Thread := modC (fun c => { c with vl := BitVec.ofNat 64 n }) t
def setVstart (n : Nat) (t : Thread) : Thread := modC (fun c => { c with vstart := BitVec.ofNat 64 n }) t
def setEprog (n : Nat) (t : Thread) : Thread := modC (fun c => { c with eprog := BitVec.ofNat 64 n }) t
def setMstart (n : Nat) (t : Thread) : Thread := modC (fun c => { c with mstart := BitVec.ofNat 64 n }) t
/-- FFLAGS are sticky (R67). -/
def orFlags (f : Flags) (t : Thread) : Thread := modC (fun c => { c with fflags := c.fflags ||| f.zeroExtend 64 }) t

-- instruction fetch (R83, R126, R342)

/-- The instruction word of a meaning's own instruction, which several traps report (R138). -/
def wordOf (i : Instr) : Word := BitVec.ofNat 64 ((encode i).getD 0)

/-- The word at an address, or the trap its fetch takes (R126, R342, R348, R190). -/
def fetchAt (s : State) (t : Thread) (a : Word) : Except TrapInfo Nat :=
  match xlatN s t a 4 .fetch with
  | .error (.addr, _) => .error ⟨if canonical a then cADDR else cPFLD, a, 0⟩
  | .error (.miss, _) => .error ⟨cPFLD, a, 0⟩
  | .error (.ecc, _) => .error ⟨cECC, a, 0⟩
  | .ok (ls, _) => if ls.any (poisoned s) then .error ⟨cECC, a, 0⟩ else .ok (ofBytes (readBytes s ls))

/-- What EPC, LBEGn and LENDn hold of an address: bits [56:2], the others being reserved (R11, R22). -/
def wordAddr (a : Word) : Word := a &&& 0x01FFFFFFFFFFFFFC
/-- The address that a register with an ADDR field of bits up to 56 stands for: the canonical one (R22, R339; log entry 42). -/
def vaOf (w : Word) : Word := (w.truncate 57).signExtend 64

/-- EVEC can be entered: it is not 0 and the fetch there succeeds (R139). -/
def evecOk (s : State) : Bool :=
  s.cur.ctl.evec != 0 && match fetchAt s s.cur (vaOf s.cur.ctl.evec) with
    | .ok _ => true
    | .error _ => false

-- traps (R139, R140)

/-- The trap registers. -/
def setTrapRegs (epc : Word) (i : TrapInfo) (t : Thread) : Thread :=
  modC (fun c => { c with epc := wordAddr epc, ecause := BitVec.ofNat 64 i.cause, eval := i.eval, erec := i.erec }) t

/-- What every issued instruction leaves behind: results in flight are complete (R115), the sequence number rises (R402), a
new free value is drawn next. -/
def issued (t : Thread) : Thread :=
  { t with pend := [], seq := t.seq + 1, issued := t.issued + 1, wait := none, elim := none, brkSkip := none }

/-- MSI-X vector `v` is signalled (R366): a message, or the pending bit of a masked vector; further signals coalesce. -/
def signal (v : Nat) (p : Pkg) : Pkg :=
  if vnth p.msixMask false v then { p with msixPending := vput p.msixPending v true } else { p with msix := vput p.msix v true }
/-- A vector has a message that the host has not taken, or is pending. -/
def signalled (p : Pkg) (v : Nat) : Bool := vnth p.msix false v || vnth p.msixPending false v

/-- A record added to an event log, with MSI-X vector 2 (R366); a full log drops it and counts it (R369). -/
def logEvent (log : Nat) (e : EventRec) (p : Pkg) : Pkg :=
  if (vnth p.logs [] log).length < Config.logCapacity log then
    signal 2 { p with logs := vput p.logs log (vnth p.logs [] log ++ [e]) }
  else { p with logLost := vput p.logLost log (vnth p.logLost 0 log + 1) }

/-- A telemetry event (R453): its record with HEALTH after the event, in the log of the given number. -/
def telemetry (log kind unit index : Nat) (s : State) : State :=
  modPkg (fun p => logEvent log
    ⟨false, BitVec.ofNat 128 (kind + unit * 2 ^ 8 + index * 2 ^ 16 + p.health.toNat * 2 ^ 64)⟩ p) s

/-- An uncorrectable error is consumed in a sett (R451 UECC, R453 KIND 11). -/
def consumedError (sett : Nat) (s : State) : State :=
  telemetry 1 11 sett 0 (modPkg (fun p => { p with health := setFld p.health 8 8 (min 255 (fld p.health 8 8 + 1)) }) s)

/-- Trap entry (R139): PSUP takes SUP, SUP is set, the trap registers are written, the PC goes to EVEC. Where EVEC cannot
be entered only the trap registers are written and the pack is to be parked with KIND 2, to resume at EPC. -/
def trapAt (epc : Word) (i : TrapInfo) (s : State) : State :=
  let s := { s with tick := s.tick + 1 }
  let s := if i.cause = cECC then consumedError s.cur.sett s else s
  if evecOk s then
    modT (fun t => { issued (setTrapRegs epc i (modC (fun c =>
      { c with estat := setFld (setFld c.estat 2 1 (fld c.estat 0 1)) 0 1 1 }) t)) with pc := vaOf t.ctl.evec, trapped := true }) s
  else
    let s := modT (fun t => { issued (setTrapRegs epc i t) with pc := vaOf epc, parking := some 2, trapped := true }) s
    { s with work := s.work ++ [.packSave s.cur.pack []] }

/-- A trap at the instruction the thread is at. -/
def trap (i : TrapInfo) (s : State) : State := trapAt s.cur.pc i s
/-- A trap that reports the instruction word. -/
def trapWord (cause : Nat) (i : Instr) (s : State) : State := trap ⟨cause, wordOf i, 0⟩ s

/-- SCHK.EN = 1 and an operand that comes too early (R115). Of several the first of the instruction's operand list is named, which
the rule leaves open: DESIGN CHOICE (log entry 50). -/
def stallOf (t : Thread) (l : List SReg) : Option SReg := if wbit t.ctl.schk 0 then l.find? (isEarly t) else none

/-- Runs `k` unless an operand is read too early under SCHK.EN = 1, which traps STALL before any effect (R115). -/
def guardS (l : List SReg) (s : State) (k : State) : State :=
  match stallOf s.cur l with
  | some r => trap ⟨cSTALL, BitVec.ofNat 64 r.val, 0⟩ s
  | none => k

-- loops and the program counter (R125-R132)

def lvl (v : Vector Word 6) (n : Nat) : Word := vnth v 0 n
/-- First and last address of the body of level `n`. -/
def lbegOf (t : Thread) (n : Nat) : Word := vaOf (lvl t.ctl.lbeg n)
def lendOf (t : Thread) (n : Nat) : Word := vaOf (lvl t.ctl.lend n)
def setDepth (n : Nat) (t : Thread) : Thread := modC (fun c => { c with ldepth := BitVec.ofNat 64 n }) t

/-- s20-s23 advance by VL × ASCALE (R128). A result still in flight to one of them is read as complete and not as an early read; the
manual does not place this read under the stall rule: DESIGN CHOICE (log entry 50). -/
def advanceStreams (t : Thread) : Thread :=
  let n : Word := BitVec.ofNat 64 (vlOf t)
  let go (r : SReg) (lo : Nat) (t : Thread) : Thread := setS r (sreg t r + n * BitVec.ofNat 64 (fld t.ctl.ascale lo 16)) t
  go 23 48 (go 22 32 (go 21 16 (go 20 0 t)))

/-- The back-edges of the levels below `n` that end at `x` (R128): the thread with its next PC, and the LBEG at which a
LOOPV back-edge that finds VL = 0 traps. -/
def backEdge (x : Word) : Nat → Thread → Thread × Option Word
  | 0, t => ({ t with pc := x + 4 }, none)
  | n + 1, t =>
    if lendOf t n != x then ({ t with pc := x + 4 }, none)
    else if vnth t.lkind false n then
      let t := advanceStreams t
      let left := (lvl t.ctl.lcnt n).toNat
      if vlOf t = 0 then ({ t with pc := lbegOf t n }, some (lbegOf t n))
      else if left ≤ vlOf t then backEdge x n (setDepth n t)
      else
        let rest := left - vlOf t
        let t := modC (fun c => { c with lcnt := vput c.lcnt n (BitVec.ofNat 64 rest) }) t
        ({ setVl (min rest (vlmax t (sewOf t))) t with pc := lbegOf t n }, none)
    else if (lvl t.ctl.lcnt n).toNat ≤ 1 then backEdge x n (setDepth n t)
    else ({ modC (fun c => { c with lcnt := vput c.lcnt n (lvl c.lcnt n - 1) }) t with pc := lbegOf t n }, none)

/-- Distances of the results in flight after an instruction with stall count `w` (R114). -/
def agePend (w : Nat) (t : Thread) : Thread :=
  { t with pend := (t.pend.map fun p => { p with dist := p.dist + 1 + w }).filter fun p => decide (p.dist < 3) }

/-- An instruction has issued and completed. -/
def counted (t : Thread) : Thread :=
  { t with seq := t.seq + 1, issued := t.issued + 1, wait := none, elim := none, brkSkip := none }

/-- An instruction completes without transferring control: its results `f` are written and the PC moves on, through the
back-edges that end here (R128, user mode only). -/
def finish (w : Nat) (f : Thread → Thread) (s : State) : State :=
  let s := { s with tick := s.tick + 1 }
  let t := counted (f (agePend w s.cur))
  if inSup t then { s with cur := { t with pc := t.pc + 4 } }
  else
    match backEdge t.pc (depthOf t) t with
    | (t, none) => { s with cur := t }
    | (t, some lb) => trapAt lb ⟨cLOOP, 6, 0⟩ { s with cur := { t with seq := t.seq - 1, issued := t.issued - 1 } }

/-- Levels below `n` that a transfer from `x` to `y` leaves (R132). -/
def popLevels (x y : Word) : Nat → Thread → Thread
  | 0, t => t
  | n + 1, t =>
    let b := (lbegOf t n).toNat
    let e := (lendOf t n).toNat
    if b ≤ x.toNat && x.toNat ≤ e && !(b ≤ y.toNat && y.toNat ≤ e) then popLevels x y n (setDepth n t) else t

/-- An instruction completes by transferring control to `y`; `pops`: it is of the kind that leaves loop levels (R132). -/
def transfer (w : Nat) (pops : Bool) (y : Word) (f : Thread → Thread) (s : State) : State :=
  let s := { s with tick := s.tick + 1 }
  let t := counted (f (agePend w s.cur))
  let t := if pops && !inSup t then popLevels t.pc y (depthOf t) t else t
  { s with cur := { t with pc := y } }

/-- R131: an instruction that may not stand at LEND of the innermost level. -/
def atLoopEnd (t : Thread) : Bool :=
  !inSup t && match depthOf t with
    | 0 => false
    | n + 1 => lendOf t n == t.pc

def guardEnd (s : State) (k : State) : State := if atLoopEnd s.cur then trap ⟨cLOOP, 3, 0⟩ s else k

/-- A vector instruction completes: VSTART becomes 0 (R24), or is kept for the later members of a stopped chain group, of
which one less remains (R192). A handler's instructions leave the count alone (R358). -/
def finishV (f : Thread → Thread) (s : State) : State :=
  finish 0 (fun t => let t := f t
    if t.chain = 0 || inSup t then setVstart 0 t else { t with chain := t.chain - 1 }) s

/-- The thread waits in its instruction (R137). -/
def waitIn (i : Instr) (s : State) : State := { modT (fun t => { t with wait := some i }) s with tick := s.tick + 1 }

/-- The trap of a scalar access that fails (R124). -/
def badTrap (miss : Nat) (b : Bad) (a : Word) : TrapInfo :=
  match b with
  | .addr => ⟨cADDR, a, 0⟩
  | .miss => ⟨miss, a, 0⟩
  | .ecc => ⟨cECC, a, 0⟩

/-- Places of an aligned access of `n` bytes, checked in the order of R124. -/
def placesOf (s : State) (a : Word) (n : Nat) (k : Acc) (miss : Nat) : Except TrapInfo (List Loc × Nat) :=
  if !canonical a then .error ⟨cADDR, a, 0⟩
  else if a.toNat % n != 0 then .error ⟨cADDR, a, 0⟩
  else match xlatN s s.cur a n k with
    | .error (b, _) => .error (badTrap miss b a)
    | .ok p => .ok p

/-- Whether a place lies in a package behind a fenced port (R459). -/
def locFenced (s : State) (l : Loc) : Bool :=
  match l with
  | .phys pa => paFenced s pa
  | .store .. => false

/-- A place in another package. -/
def locRemote (s : State) (l : Loc) : Bool :=
  match l with
  | .phys pa => match paPkg pa with
    | some p => p != s.pkg.index
    | none => false
  | .store .. => false

/-- The reply of an operation at a home is abandoned: its link has failed, or a stop has waited for it too long (R193, R360). `at'` says
which elements the abandonment reaches. -/
def replyLost (t : Thread) (at' : Nat → Bool) : Bool :=
  match t.elim with
  | some (g, .abandon) => at' g
  | _ => false

/-- An atomic at this home traps LINK (R360, R378, R459): its port is fenced, or it is in another package and the reply is abandoned. -/
def homeLost (s : State) (at' : Nat → Bool) (l : Loc) : Bool := locFenced s l || (locRemote s l && replyLost s.cur at')
/-- The same for an atomic that has one element. -/
def oneLost (s : State) (l : Loc) : Bool := homeLost s (fun _ => true) l

/-- The bytes of a scalar load (R124). A home behind a fenced port traps LINK (R378, R459). -/
def loadBytes (s : State) (a : Word) (n : Nat) (k : Acc) : Except TrapInfo (List Byte) :=
  match placesOf s a n k cPFLD with
  | .error e => .error e
  | .ok (ls, _) =>
    if ls.any (locFenced s) then .error ⟨cLINK, 2, 0⟩
    else if ls.any (poisoned s) then .error ⟨cECC, a, 0⟩ else .ok (readBytes s ls)

/-- The places of a scalar store (R124). -/
def storePlaces (s : State) (a : Word) (n : Nat) (k : Acc) : Except TrapInfo (List Loc) :=
  match placesOf s a n k cPFST with
  | .error e => .error e
  | .ok (ls, _) => if ls.any (locFenced s) then .error ⟨cLINK, 2, 0⟩ else .ok ls

-- threads by frame

/-- The places of an atomic whose home it has lost and that is performed there although it traps LINK, a free choice (R360, log entry
5); else none. `ok`: the classes of page on which the atomic traps nothing else. -/
def lostPlaces (s : State) (ok : Nat → Bool) (a : Word) (n : Nat) : List Loc :=
  match placesOf s a n .store cPFST with
  | .error _ => []
  | .ok (ls, cls) => if ls.any (oneLost s) && ok cls && !ls.any (poisoned s) && Config.freeBit s.tick 71 then ls else []

/-- Brings the thread that holds save frame `f` into focus. -/
def focus (f : Nat) (s : State) : Option State :=
  if s.cur.live && s.cur.frame == f then some s
  else match s.others.find? fun t => t.live && t.frame == f with
    | some t => some { s with
        cur := t
        others := s.others.filter (fun u => !(u.live && u.frame == f)) ++ (if s.cur.live then [s.cur] else []) }
    | none => none

/-- All threads on contexts, and a change to the one that holds frame `f`. -/
def threads (s : State) : List Thread := (s.cur :: s.others).filter (·.live)
def threadOf (s : State) (f : Nat) : Option Thread := (threads s).find? (·.frame == f)
def modFrame (f : Nat) (g : Thread → Thread) (s : State) : State :=
  let h (t : Thread) : Thread := if t.live && t.frame == f then g t else t
  { s with cur := h s.cur, others := s.others.map h }

/-- The stack that holds an offset of local memory (R380). -/
def stackOf (x : Nat) : Nat := 2 * (x / (96 * 10 ^ 9)) + x / 2 ^ 16 % 2
/-- A stack leaves self-refresh (R456). -/
def awaken (stack : Nat) (s : State) : State := modPkg (fun p => { p with selfRefresh := p.selfRefresh.filter (· != stack) }) s
/-- Accesses to these places wake the stacks that hold them (R456). -/
def wakeLocs (ls : List Loc) (s : State) : State :=
  if s.pkg.selfRefresh.isEmpty then s
  else ((ls.filterMap fun l => match l with
    | .phys pa => if pa / 2 ^ 39 = s.pkg.index then some (stackOf (pa % 2 ^ 39)) else none
    | .store .. => none).eraseDups).foldl (fun s k => awaken k s) s

/-- Work that a step makes due. -/
def addWork (i : Instr) (s : State) : State := { s with work := s.work ++ [i] }
def bump (s : State) : State := { s with tick := s.tick + 1 }

end Sys2Proof.Machine
end

