-- ==== Sys2Proof/Machine/LoadStore.lean ====
section
/-! DEFINITION. Scalar loads and stores (04 R123, R124), majors 0x0B-0x15. -/

namespace Sys2Proof.Machine

/-- ea := s_A + sign-extended IMM13 (R123). -/
def eaOf (s : State) (j : Nat) (a : SReg) (i : BitVec 13) : Word := rs j s a + i.signExtend 64

/-- A load of `n` bytes, converted by `f` (R123, R124); its result is scoreboarded. -/
def scalarLoad (n : Nat) (f : Nat → Word) (d a : SReg) (i : BitVec 13) (w : Stall) (s : State) : State :=
  guardS [a] s (
    match loadBytes s (eaOf s 0 a i) n .scalarLoad with
    | .error e => trap e s
    | .ok bs => finish w (setS d (f (ofBytes bs))) s)

/-- A store of the low `n` bytes of s_D (R123, R124). -/
def scalarStore (n : Nat) (d a : SReg) (i : BitVec 13) (w : Stall) (s : State) : State :=
  guardS [a, d] s (
    match storePlaces s (eaOf s 0 a i) n .scalarStore with
    | .error e => trap e s
    | .ok ls => finish w id (writeAll (wrBytes ls (leBytes n (rs 1 s d).toNat)) s))

/-- Sign extension of the low `n` bits. -/
def sextNat (n x : Nat) : Word := BitVec.ofInt 64 (BitVec.ofNat n x).toInt
def zextNat (x : Nat) : Word := BitVec.ofNat 64 x

/-- LD.B (R123). -/
def execLdB (d a : SReg) (i : BitVec 13) (w : Stall) (s : State) : Out := .next (scalarLoad 1 (sextNat 8) d a i w s)
/-- LD.BU (R123). -/
def execLdBu (d a : SReg) (i : BitVec 13) (w : Stall) (s : State) : Out := .next (scalarLoad 1 zextNat d a i w s)
/-- LD.H (R123). -/
def execLdH (d a : SReg) (i : BitVec 13) (w : Stall) (s : State) : Out := .next (scalarLoad 2 (sextNat 16) d a i w s)
/-- LD.HU (R123). -/
def execLdHu (d a : SReg) (i : BitVec 13) (w : Stall) (s : State) : Out := .next (scalarLoad 2 zextNat d a i w s)
/-- LD.W (R123). -/
def execLdW (d a : SReg) (i : BitVec 13) (w : Stall) (s : State) : Out := .next (scalarLoad 4 (sextNat 32) d a i w s)
/-- LD.WU (R123). -/
def execLdWu (d a : SReg) (i : BitVec 13) (w : Stall) (s : State) : Out := .next (scalarLoad 4 zextNat d a i w s)
/-- LD.D (R123). -/
def execLdD (d a : SReg) (i : BitVec 13) (w : Stall) (s : State) : Out := .next (scalarLoad 8 zextNat d a i w s)
/-- ST.B (R123). -/
def execStB (d a : SReg) (i : BitVec 13) (w : Stall) (s : State) : Out := .next (scalarStore 1 d a i w s)
/-- ST.H (R123). -/
def execStH (d a : SReg) (i : BitVec 13) (w : Stall) (s : State) : Out := .next (scalarStore 2 d a i w s)
/-- ST.W (R123). -/
def execStW (d a : SReg) (i : BitVec 13) (w : Stall) (s : State) : Out := .next (scalarStore 4 d a i w s)
/-- ST.D (R123). -/
def execStD (d a : SReg) (i : BitVec 13) (w : Stall) (s : State) : Out := .next (scalarStore 8 d a i w s)

end Sys2Proof.Machine
end

