-- ==== Sys2Proof/Machine/Flags.lean ====
section
/-! DEFINITION. Element arithmetic by kind and the flags it raises (02 R63-R69, R74): the results of the scalar, vector and
reduction instructions. -/

namespace Sys2Proof.Machine

/-- The canonical FP32 pattern for a number that is not rounded: minimum, maximum (R65). -/
def keep32 (v : Num) : F32 := (to32 .rne (v, 0)).1

def min32 (a b : F32) : F32 := keep32 (minNum (num32 a) (num32 b))
def max32 (a b : F32) : F32 := keep32 (maxNum (num32 a) (num32 b))

/-- A comparison of numbers; a NaN operand makes `ordered` false and, for the ordered ones, sets NV (R67, R121, R156). -/
def cmpFlags (a b : Num) : Flags := if isNan a || isNan b then fNV else 0
def eqNum (a b : Num) : Bool := !isNan a && !isNan b && cmpNum a b == 0
def ltNum (a b : Num) : Bool := !isNan a && !isNan b && decide (cmpNum a b < 0)
def leNum (a b : Num) : Bool := !isNan a && !isNan b && decide (cmpNum a b ≤ 0)

/-- FCMP (R121). -/
def fcmpNum (c : FCond) (a b : Num) : Bool × Flags :=
  match c with
  | .eq => (eqNum a b, 0)
  | .ne => (!eqNum a b, 0)
  | .lt => (ltNum a b, cmpFlags a b)
  | .le => (leNum a b, cmpFlags a b)
  | .un => (isNan a || isNan b, 0)

/-- Signed bounds of `n` bits. -/
def sMin (n : Nat) : Int := -(2 ^ (n - 1))
def sMax (n : Nat) : Int := 2 ^ (n - 1) - 1

/-- FCVT (R69, R122): the 64-bit result and its flags. -/
def fcvt (k : FConv) (m : Rm) (x : Word) : Word × Flags :=
  let n := num32 (x.truncate 32)
  match k with
  | .toi32 => let (i, f) := toIntRange m (sMin 32) (sMax 32) n; (BitVec.ofInt 64 i, f)
  | .toi64 => let (i, f) := toIntRange m (sMin 64) (sMax 64) n; (BitVec.ofInt 64 i, f)
  | .fromi32 => let (r, f) := to32 m (numInt (x.truncate 32 : BitVec 32).toInt, 0); (r.zeroExtend 64, f)
  | .fromi64 => let (r, f) := to32 m (numInt x.toInt, 0); (r.zeroExtend 64, f)
  | .tobf16 => let (r, f) := toB16 m (n, 0); (r.zeroExtend 64, f)
  | .frombf16 => let (r, f) := to32 .rne (numB16 (x.truncate 16), 0); (r.zeroExtend 64, f)

/-- An element kind of a register operand (R49). -/
inductive Kind | bf16 | fp32 | i16 | i32 | i64
  deriving DecidableEq, Repr

def Kind.width : Kind → Nat
  | .bf16 | .i16 => 16
  | .fp32 | .i32 => 32
  | .i64 => 64

/-- The kind VTYPE selects; SEW 64 with KIND 0 has none (R49). -/
def kindOf (t : Thread) : Option Kind :=
  match sewOf t, isInt t with
  | 16, false => some .bf16
  | 32, false => some .fp32
  | 16, true => some .i16
  | 32, true => some .i32
  | _, true => some .i64
  | _, false => none

/-- The number in a float element. -/
def numK (k : Kind) (x : Nat) : Num :=
  match k with
  | .bf16 => numOf formB16 x
  | _ => numOf form32 x
/-- The signed integer in an integer element. -/
def intK (k : Kind) (x : Nat) : Int := if x < 2 ^ (k.width - 1) then x else (x : Int) - 2 ^ k.width
def wrapK (k : Kind) (i : Int) : Nat := (i % 2 ^ k.width).toNat
/-- One rounding to the element format (R63). -/
def packK (k : Kind) (v : Num × Flags) : Nat × Flags :=
  let (w, f) := packNum (if k = .bf16 then formB16 else form32) .rne v.1
  (w, v.2 ||| f)
def isFloat : Kind → Bool
  | .bf16 | .fp32 => true
  | _ => false

/-- The element-wise operations of R152. -/
inductive Arith | add | sub | mul | min | max | div | fma | fms
  deriving DecidableEq, Repr

/-- Integer results, modulo 2^SEW (R152, R153). -/
def arithInt (o : Arith) (k : Kind) (a b d : Int) : Nat :=
  match o with
  | .add => wrapK k (a + b)
  | .sub => wrapK k (a - b)
  | .mul => wrapK k (a * b)
  | .min => wrapK k (min a b)
  | .max => wrapK k (max a b)
  | .div => if b = 0 then 2 ^ k.width - 1 else wrapK k (Int.tdiv a b)
  | .fma => wrapK k (a * b + d)
  | .fms => wrapK k (d - a * b)

/-- Float results before rounding (R152). -/
def arithNum (o : Arith) (a b d : Num) : Num × Flags :=
  match o with
  | .add => addNum .rne a b
  | .sub => addNum .rne a (negNum b)
  | .mul => mulNum a b
  | .min => (minNum a b, 0)
  | .max => (maxNum a b, 0)
  | .div => divNum a b
  | .fma => fmaNum .rne a b d
  | .fms => fmaNum .rne (negNum a) b d

def arith (o : Arith) (k : Kind) (a b d : Nat) : Nat × Flags :=
  if isFloat k then packK k (arithNum o (numK k a) (numK k b) (numK k d))
  else (arithInt o k (intK k a) (intK k b) (intK k d), 0)

/-- VABS and VNEG (R152): canonical NaN for a NaN, no flag. -/
def absK (k : Kind) (a : Nat) : Nat :=
  if isFloat k then (if isNan (numK k a) then (packK k (.nan, 0)).1 else a % 2 ^ (k.width - 1))
  else wrapK k (if intK k a < 0 then -intK k a else intK k a)
def negK (k : Kind) (a : Nat) : Nat :=
  if isFloat k then
    (if isNan (numK k a) then (packK k (.nan, 0)).1
     else if a < 2 ^ (k.width - 1) then a + 2 ^ (k.width - 1) else a - 2 ^ (k.width - 1))
  else wrapK k (-intK k a)

/-- VCMP (R156). -/
def vcmpK (c : VCond) (k : Kind) (a b : Nat) : Bool × Flags :=
  if isFloat k then
    let x := numK k a
    let y := numK k b
    match c with
    | .eq => (eqNum x y, 0)
    | .ne => (!eqNum x y, 0)
    | .lt => (ltNum x y, cmpFlags x y)
    | .le => (leNum x y, cmpFlags x y)
    | .gt => (ltNum y x, cmpFlags x y)
    | .ge => (leNum y x, cmpFlags x y)
    | .ltu | .geu => (false, 0)
  else
    let x := intK k a
    let y := intK k b
    (match c with
     | .eq => x == y
     | .ne => x != y
     | .lt => decide (x < y)
     | .le => decide (x ≤ y)
     | .gt => decide (y < x)
     | .ge => decide (y ≤ x)
     | .ltu => decide (a < b)
     | .geu => decide (b ≤ a), 0)

/-- One node of a reduction (R74). -/
def redK (u : RedOp) (k : Kind) (a b : Nat) : Nat × Flags :=
  match u with
  | .sum => arith .add k a b 0
  | .max => arith .max k a b 0
  | .min => arith .min k a b 0
/-- The identity of a reduction (R74). -/
def identityK (u : RedOp) (k : Kind) : Nat :=
  match u, isFloat k with
  | .sum, true => 2 ^ (k.width - 1)
  | .sum, false => 0
  | .max, true => packInf (if k = .bf16 then formB16 else form32) true
  | .min, true => packInf (if k = .bf16 then formB16 else form32) false
  | .max, false => wrapK k (sMin k.width)
  | .min, false => wrapK k (sMax k.width)

/-- One level of the tree of R74: neighbours combined. -/
def pairUp (f : Nat → Nat → Nat × Flags) : List Nat → List Nat × Flags
  | a :: b :: l =>
    let (r, g) := f a b
    let (rest, g') := pairUp f l
    (r :: rest, g ||| g')
  | l => (l, 0)

/-- The tree of R74 over a list whose length is a power of two below 2^`fuel`. -/
def treeK (f : Nat → Nat → Nat × Flags) : Nat → List Nat → Nat × Flags
  | 0, l => (l.headD 0, 0)
  | n + 1, l =>
    match l with
    | [] => (0, 0)
    | [x] => (x, 0)
    | l =>
      let (l', g) := pairUp f l
      let (r, g') := treeK f n l'
      (r, g ||| g')

/-- The smallest power of two not below `n`. -/
def pow2Above (n : Nat) : Nat := if n ≤ 1 then 1 else 2 ^ (Nat.log2 (n - 1) + 1)

/-- A reduction of R74: the list padded with the identity to a power of two. -/
def reduceK (u : RedOp) (k : Kind) (l : List Nat) : Nat × Flags :=
  treeK (redK u k) 10 (l ++ List.replicate (pow2Above l.length - l.length) (identityK u k))

/-- VCVT and its two kinds (R69, R169). -/
def convKinds : VConv → Kind × Kind
  | .fp32bf16 => (.fp32, .bf16)
  | .bf16fp32 => (.bf16, .fp32)
  | .bf16int16 => (.bf16, .i16)
  | .fp32int32 => (.fp32, .i32)
  | .fp32int64 => (.fp32, .i64)
  | .int16bf16 => (.i16, .bf16)
  | .int32fp32 => (.i32, .fp32)
  | .int64fp32 => (.i64, .fp32)
  | .int32int16 => (.i32, .i16)
  | .int64int32 => (.i64, .i32)
  | .int32int64 => (.i32, .i64)
  | .int16int32 => (.i16, .i32)

/-- Saturation to a signed range (R69); no flag. -/
def satK (k : Kind) (i : Int) : Nat := wrapK k (max (sMin k.width) (min (sMax k.width) i))

/-- A register conversion (R69): destination kind, source kind, source element. -/
def convK (d a : Kind) (x : Nat) : Nat × Flags :=
  match isFloat d, isFloat a with
  | true, true => packK d (numK a x, 0)
  | true, false => packK d (numInt (intK a x), 0)
  | false, true => let (i, f) := toIntRange .rne (sMin d.width) (sMax d.width) (numK a x); (wrapK d i, f)
  | false, false => (satK d (intK a x), 0)

end Sys2Proof.Machine
end

