-- ==== Sys2Proof/Machine/Operands.lean ====
section
/-! DEFINITION. Vector and mask operands: elements, activity, damage, and how a vector instruction of each class starts,
stops and completes (01 R15-R16, R24, R27-R29; 05 R142-R151). -/

namespace Sys2Proof.Machine

/-- Element `i` of width `w` of a vector register's bytes (R15). -/
def eltAt (x : VBits) (w i : Nat) : Nat := x.toNat >>> (w * i) % 2 ^ w
/-- The bytes with element `i` of width `w` replaced. -/
def putElt (w : Nat) (x : VBits) (i n : Nat) : VBits :=
  (x &&& ~~~((BitVec.ofNat 8192 (2 ^ w - 1)) <<< (w * i))) ||| (BitVec.ofNat 8192 (n % 2 ^ w) <<< (w * i))
/-- Element `i` of vector register `r`. -/
def elt (t : Thread) (r : VReg) (w i : Nat) : Nat := eltAt (vreg t r) w i

/-- Writes elements of width `w` of a vector register, in order; a written element is undamaged (R151). -/
def writeElts (d : VReg) (w : Nat) (l : List (Nat × Nat)) (t : Thread) : Thread :=
  let t' := setV d (l.foldl (fun x (i, n) => putElt w x i n) (vreg t d)) t
  { t' with vbad := t.vbad.filter fun (r, j) => !(r == d.val && l.any fun (i, _) => 8 * j / w == i) }

/-- Writes bits of a mask register, in order. -/
def putBit (x : KBits) (i : Nat) (b : Bool) : KBits := if b then x ||| ((1 : KBits) <<< i) else x &&& ~~~((1 : KBits) <<< i)
def writeBits (d : KReg) (l : List (Nat × Bool)) (t : Thread) : Thread :=
  let t' := setK d (l.foldl (fun x (i, b) => putBit x i b) (kreg t d)) t
  { t' with kbad := t.kbad.filter fun (r, j) => !(r == d.val && l.any fun (i, _) => i == j) }

/-- The governing mask (R27): KSEL names it; 0 means every element. -/
def kselOf (t : Thread) : KReg := ⟨fld t.ctl.ksel 0 3 % 8, Nat.mod_lt _ (by decide)⟩
def governed (t : Thread) (i : Nat) : Bool := kselOf t == 0 || (kreg t (kselOf t)).getLsbD i
/-- Active elements in [lo, hi) (R27). -/
def actives (t : Thread) (lo hi : Nat) : List Nat := (List.range hi).filter fun i => decide (lo ≤ i) && governed t i

/-- The last source of R93 at an element width: an element, or the low bits of a scalar (R143). -/
def srcElt (s : State) (w : Nat) (b : VSrc) (i : Nat) : Nat :=
  match b with
  | .vec r => elt s.cur r w i
  | .scl r => (rs 0 s r).toNat % 2 ^ w
def srcRegs (b : VSrc) : List SReg :=
  match b with
  | .vec _ => []
  | .scl r => [r]
def srcVecs (b : VSrc) : List VReg :=
  match b with
  | .vec r => [r]
  | .scl _ => []

-- damage (R151)

def eccV (r : VReg) : TrapInfo := ⟨cECC, BitVec.ofNat 64 (2 ^ 63 + 0x100 + r.val), 0⟩
def eccK (r : KReg) : TrapInfo := ⟨cECC, BitVec.ofNat 64 (2 ^ 63 + 0x200 + r.val), 0⟩
def eltBad (t : Thread) (r : VReg) (w i : Nat) : Bool := t.vbad.any fun (q, j) => q == r.val && 8 * j / w == i
def bitBad (t : Thread) (r : KReg) (i : Nat) : Bool := r != 0 && t.kbad.any fun (q, j) => q == r.val && j == i

/-- The damage element `i` meets: its governing-mask bit, then its sources in order. Where several are damaged the manual does
not say which one EVAL names: DESIGN CHOICE (log entry 50). -/
def dmgAt (t : Thread) (srcs : List (VReg × Nat)) (ks : List KReg) (i : Nat) : Option TrapInfo :=
  if kselOf t != 0 && bitBad t (kselOf t) i then some (eccK (kselOf t))
  else if !governed t i then none
  else match srcs.find? fun (r, w) => eltBad t r w i with
    | some (r, _) => some (eccV r)
    | none => (ks.find? fun k => bitBad t k i).map eccK

/-- The first damaged element in [lo, hi) and its trap. -/
def firstDmg (t : Thread) (srcs : List (VReg × Nat)) (ks : List KReg) (lo hi : Nat) : Option (Nat × TrapInfo) :=
  if t.vbad.isEmpty && t.kbad.isEmpty then none
  else ((List.range hi).filter (lo ≤ ·)).findSome? fun i => (dmgAt t srcs ks i).map fun e => (i, e)

/-- The stops an instruction admits beside its traps: a request at a multiple of `every` above its first element (never, where
that is 0), the abandonment of its replies, and whether an abandoned reply may still be written (R147, R193, R211). -/
structure StopRule where
  every : Nat
  replies : Bool := false
  late : Bool := true
  deriving DecidableEq, Repr

/-- Element groups (R147, R193): boundaries are multiples of 4 × L. -/
def groups (t : Thread) : StopRule := { every := 4 * lanesOf t }

/-- A stop at element `g` takes effect in an instruction with elements [lo, hi). -/
def admits (r : StopRule) (lo hi g : Nat) (why : Stop) : Bool :=
  decide (g < hi) && match why with
    | .request => decide (lo < g) && g % r.every == 0
    | .abandon => r.replies && decide (lo ≤ g)
    | .group => true
    | .trap _ => decide (lo ≤ g)

/-- Where an instruction with elements [lo, hi) stops: at damage, or at the element a stop or a breakpoint names (R147,
R151, R192, R407), whichever is lower; at one element the stop comes first. Only an element it loads can be abandoned (R193). -/
def stopAt (t : Thread) (r : StopRule) (lo hi : Nat) (dmg : Option (Nat × TrapInfo)) : Option (Nat × Stop) :=
  let d := dmg.map fun (i, x) => (i, Stop.trap x)
  match t.elim with
  | none => d
  | some (g, why) =>
    if !admits r lo hi g why || (why == .abandon && !governed t g) then d
    else match d with
      | some (i, x) => if i < g then some (i, x) else some (g, why)
      | none => some (g, why)

/-- The thread, its progress recorded, ends its instruction short of completion; an instruction that stopped issues again later
under a new number (R402). -/
def stopBy (why : Stop) (s : State) : State :=
  match why with
  | .trap e => trap e s
  | why => { modT (fun t => { issued t with cut := some (why == .abandon) }) s with tick := s.tick + 1 }

/-- A class-E instruction (R146, R147): `body hi` performs the active elements in [VSTART, hi). -/
def runE (n : Nat) (dmg : Option (Nat × TrapInfo)) (body : Nat → Thread → Thread) (s : State) : State :=
  match stopAt s.cur (groups s.cur) (vstartOf s.cur) n dmg with
  | none => finishV (body n) s
  | some (g, why) => stopBy why (modT (fun t => setVstart g (body g t)) s)

/-- VL exceeds what the grant holds at element width `w` (R145). -/
def overVlx (t : Thread) (w : Nat) : Bool := decide (grantMax t w < vlOf t)

/-- The checks of a vector compute instruction: the stall rule, the VTYPE setting (R142), then VLX (R145). The manual gives no
order among STALL, ILL and VLX and the ILL of a non-zero VSTART (R146): DESIGN CHOICE (log entry 50). -/
def guardV (i : Instr) (regs : List SReg) (ok : Bool) (w : Nat) (s : State) (k : State) : State :=
  guardS regs s (if !ok then trapWord cILL i s else if overVlx s.cur w then trapWord cVLX i s else k)

/-- A stop request abandons a class-W instruction where it names one of its elements; else the instruction completes (R148). -/
def abandoned (t : Thread) : Bool :=
  match t.elim with
  | some (g, .request) => decide (g < vlOf t)
  | _ => false

/-- A class-W instruction (R146, R148): a non-zero VSTART below VL traps ILL; damage or a stop abandons it with VSTART = 0;
`body` runs when VSTART is 0, `idle` when no element is active because VSTART is at least VL. -/
def runW (i : Instr) (dmg : Option TrapInfo) (body idle : Thread → Thread) (s : State) : State :=
  let t := s.cur
  if vlOf t ≤ vstartOf t then finishV idle s
  else if vstartOf t != 0 then trapWord cILL i s
  else if abandoned t then stopBy .abandon s
  else match dmg with
    | some e => trap e (modT (setVstart 0) s)
    | none => finishV body s

end Sys2Proof.Machine
end

