-- ==== Sys2Proof/Machine/Convert.lean ====
section
/-! DEFINITION. Memory formats: what a load makes of a memory element and a store of a register element (02 R52-R62). -/

namespace Sys2Proof.Machine

/-- Element size of a format, in bits (R174). -/
def esz (f : Fmt) : Nat :=
  match f with
  | .fp4 | .q4n => 4
  | .fp8e4 | .fp8e5 | .int8 | .uint8 => 8
  | .bf16 | .int16 | .half => 16
  | .fp32 | .int32 => 32
  | .int64 => 64

/-- Bytes an element's access touches. -/
def ebytes (f : Fmt) : Nat := max 1 (esz f / 8)

/-- The pairs of R56. It lists no FP32 pair for FMT 4 or 5, although R69 speaks of the one-step conversion of an FP32 value to four
bits: such a pair traps ILL, DESIGN CHOICE (log entry 50). -/
def pairOk (f : Fmt) (k : Option Kind) : Bool :=
  match f, k with
  | .fp32, some .fp32 | .half, some .fp32 => true
  | .bf16, some .bf16 | .fp8e4, some .bf16 | .fp8e5, some .bf16 | .fp4, some .bf16 | .q4n, some .bf16 => true
  | .int8, some .bf16 | .uint8, some .bf16 | .int8, some .i32 | .uint8, some .i32 => true
  | .int16, some .i16 | .int32, some .i32 | .int64, some .i64 => true
  | _, _ => false

/-- Q4N levels, as BF16 patterns, code 0 first (R55). -/
def q4nLevels : List Nat :=
  [0xBF80, 0xBF35, 0xBF0B, 0xBED5, 0xBE9F, 0xBE5D, 0xBE02, 0xBD2C,
   0x3D2C, 0x3E02, 0x3E5D, 0x3E9F, 0x3ED5, 0x3F0B, 0x3F35, 0x3F80]
def q4nLevel (q : Nat) : Num := numOf formB16 (q4nLevels.getD q 0)

/-- The number in a memory element of a float format or Q4N (R52, R55). -/
def memNum (f : Fmt) (x : Nat) : Num :=
  match f with
  | .fp8e4 => numE4 x
  | .fp8e5 => numOf formE5 x
  | .fp4 => numE2 x
  | .q4n => q4nLevel x
  | .half => numOf formHalf x
  | .bf16 => numOf formB16 x
  | _ => numOf form32 x

/-- Whether a format is scaled by SF under the present VTYPE (R56, R60). -/
def scaled (t : Thread) (f : Fmt) : Bool :=
  match f with
  | .q4n => true
  | .fp8e4 | .fp8e5 | .fp4 => sclOf t
  | _ => false

/-- The scale-file entry of element `e` (R58). -/
def sfOf (t : Thread) (e : Nat) : F32 := vnth t.sf 0 (e / 2 ^ blkOf t % 64)

def sint (n x : Nat) : Int := if x < 2 ^ (n - 1) then x else (x : Int) - 2 ^ n

/-- load_convert (R56-R58): the register element of kind `k` from memory element `x`, at register index `e`. -/
def loadConv (t : Thread) (f : Fmt) (k : Kind) (e x : Nat) : Nat × Flags :=
  match f with
  | .fp32 | .bf16 | .int16 | .int32 | .int64 => (x, 0)
  | .half => packK .fp32 (memNum f x, 0)
  | .int8 => if k = .bf16 then packK .bf16 (numInt (sint 8 x), 0) else (wrapK .i32 (sint 8 x), 0)
  | .uint8 => if k = .bf16 then packK .bf16 (numInt x, 0) else (x, 0)
  | .fp8e4 | .fp8e5 | .fp4 | .q4n =>
    if scaled t f then packK .bf16 (mulNum (memNum f x) (num32 (sfOf t e))) else packK .bf16 (memNum f x, 0)

/-- A saturating format (FP8E4M3, FP4E2M1): the pattern of ±m × 2^e, with `top` the greatest magnitude pattern (R60). -/
def packSat (f : FForm) (top : Nat) (s : Bool) (m : Nat) (e : Int) : Nat × Flags :=
  let sign := s.toNat * 2 ^ (f.p - 1 + f.eb)
  if m = 0 then (sign, 0)
  else
    let (u, q, x) := roundTo f .rne s m e
    let w := packUnits f false u q
    if f.emax < q + Nat.log2 u || top < w then (sign + top, fOF ||| fNX)
    else (sign + w, (if x then fNX else 0) ||| (if x && isTiny f .rne s m e then fUF else 0))

/-- The sign and exact |a·d − b| comparison of R61: code whose level lies nearest to x / y, the lower on a tie. Distances
are compared as |level × y − x|. -/
def q4nDist (q : Nat) (x y : Num) : Int × Int :=
  match q4nLevel q, y, x with
  | .fin s1 m1 e1, .fin s2 m2 e2, .fin s3 m3 e3 =>
    let e := min (e1 + e2) e3
    let d := sgn (s1 != s2) (m1 * m2) * 2 ^ (e1 + e2 - e).toNat - sgn s3 m3 * 2 ^ (e3 - e).toNat
    (if d < 0 then -d else d, e)
  | _, _, _ => (0, 0)

/-- The nearest code among those from `q` up, `best` so far with its distance (R61). -/
def q4nBest (x y : Num) (best : Nat) (d : Num) : List Nat → Nat × Num
  | [] => (best, d)
  | q :: l =>
    let (m, e) := q4nDist q x y
    let n : Num := .fin false m.natAbs e
    if cmpNum n d < 0 then q4nBest x y q n l else q4nBest x y best d l

/-- The Q4N code of x / y for finite, non-zero y (R61). -/
def q4nCode (x y : Num) : Nat × Flags :=
  match x with
  | .nan => (8, fNV)
  | .inf s => (if (s != signOf y) then 0 else 15, fNX)
  | .fin .. =>
    let (m, e) := q4nDist 0 x y
    let (q, d) := q4nBest x y 0 (.fin false m.natAbs e) (List.range' 1 15)
    (q, match d with
      | .fin _ 0 _ => 0
      | _ => fNX)

/-- A number stored to a narrow float format (R60). -/
def storeNum (f : Fmt) (v : Num) : Nat × Flags :=
  match f, v with
  | .fp8e4, .nan => (0x7F, 0)
  | .fp8e4, .inf s => (s.toNat * 128 + 0x7E, fOF ||| fNX)
  | .fp8e4, .fin s m e => packSat formE4 0x7E s m e
  | .fp4, .nan => (0, fNV)
  | .fp4, .inf s => (s.toNat * 8 + 7, fOF ||| fNX)
  | .fp4, .fin s m e => packSat formE2 7 s m e
  | .fp8e5, v => packNum formE5 .rne v
  | .half, v => packNum formHalf .rne v
  | _, v => packNum formB16 .rne v

/-- What a scaled store writes where its scale is zero, infinite or NaN (R60). -/
def badScale (f : Fmt) : Nat :=
  match f with
  | .fp8e4 => 0x7F
  | .fp8e5 => 0x7E
  | .fp4 => 0
  | _ => 8

def finiteNonzero (v : Num) : Bool :=
  match v with
  | .fin _ m _ => m != 0
  | _ => false

/-- store_convert (R60, R61): the memory element from register element `x` of kind `k` at register index `e`. A BF16 element that
saturates into INT8 or UINT8 raises NV alone; the manual's NX row may be read to add NX: DESIGN CHOICE (log entry 50). -/
def storeConv (t : Thread) (f : Fmt) (k : Kind) (e x : Nat) : Nat × Flags :=
  match f with
  | .fp32 | .bf16 | .int16 | .int32 | .int64 => (x, 0)
  | .half => storeNum .half (numOf form32 x)
  | .int8 =>
    if k = .bf16 then (let (i, g) := toIntRange .rne (-128) 127 (numOf formB16 x); ((i % 256).toNat, g))
    else ((max (-128) (min 127 (intK .i32 x)) % 256).toNat, 0)
  | .uint8 =>
    if k = .bf16 then (let (i, g) := toIntRange .rne 0 255 (numOf formB16 x); (i.toNat, g))
    else ((max 0 (min 255 (intK .i32 x))).toNat, 0)
  | .fp8e4 | .fp8e5 | .fp4 | .q4n =>
    let v := numOf formB16 x
    if scaled t f then
      let y := num32 (sfOf t e)
      if !finiteNonzero y then (badScale f, fNV)
      else if f = .q4n then q4nCode v y
      else storeNum f (divNum v y).1
    else storeNum f v

end Sys2Proof.Machine
end

