-- ==== Sys2Proof/Machine/VectorMem.lean ====
section
/-! DEFINITION. Vector and tile memory instructions (06 R170-R193), majors 0x40-0x47: addresses, translation outcomes,
trimming, stops and the PFGA record (13 R353). -/

namespace Sys2Proof.Machine

/-- One element of an access: its register index, byte address, and nibble (for a four-bit format). -/
structure Item where
  e : Nat
  addr : Word
  nib : Nat
  deriving DecidableEq, Repr

/-- An element at bit position `p`, modulo 2^67 (R174). -/
def itemAt (e : Nat) (p : Int) : Item :=
  let q := (p % 2 ^ 67).toNat
  ⟨e, BitVec.ofNat 64 (q / 8), q / 4 % 2⟩

def wInt (w : Word) : Int := w.toInt

/-- Element `e` of a VLD, VST or VPREF (R174). -/
def vmItem (s : State) (b : SReg) (f : Fmt) (m : VMode) (x : BitVec 6) (e : Nat) : Item :=
  let t := s.cur
  let a : Int := (rs 0 s b).toNat
  match m with
  | .unit => itemAt e (8 * (a + 64 * x.toInt) + e * esz f)
  | .strided => itemAt e (8 * (a + x.toInt * wInt t.ctl.vstride + e * wInt t.ctl.vstride))
  | .tile => itemAt e (8 * (a + x.toInt * wInt t.ctl.vpitch + (e / vlOf t : Nat) * wInt t.ctl.vpitch) + (e % vlOf t : Nat) * esz f)

/-- Element `e` of an indexed access (R174): index elements are unsigned, at VTYPE.SEW. -/
def idxItem (s : State) (b : SReg) (f : Fmt) (i : VReg) (e : Nat) : Item :=
  itemAt e (8 * ((rs 0 s b).toNat : Int) + elt s.cur i (sewOf s.cur) e * esz f)

/-- How the address of one element comes out: its places, or why it fails. -/
def itemPlaces (s : State) (f : Fmt) (k : Acc) (it : Item) : Except Bad (List Loc × Nat) :=
  match xlatN s s.cur it.addr (ebytes f) k with
  | .ok p => .ok p
  | .error (b, _) => .error b

def misaligned (f : Fmt) (it : Item) : Bool := it.addr.toNat % ebytes f != 0

/-- The memory element at an item's places (R54, R176). -/
def itemRead (s : State) (f : Fmt) (it : Item) (ls : List Loc) : Nat :=
  let x := ofBytes (readBytes s ls)
  if esz f = 4 then x / 16 ^ it.nib % 16 else x

/-- The writes that store memory element `x` (R62, R177). -/
def itemWrite (f : Fmt) (it : Item) (ls : List Loc) (x : Nat) : List Wr :=
  if esz f = 4 then ls.map fun l => ⟨l, BitVec.ofNat 8 (15 * 16 ^ it.nib), BitVec.ofNat 8 (x * 16 ^ it.nib)⟩
  else wrBytes ls (leBytes (ebytes f) x)

/-- An active element with its address and the outcome of its translation. -/
structure Elem where
  it : Item
  out : Except Bad (List Loc × Nat)

def elemsOf (s : State) (f : Fmt) (k : Acc) (item : Nat → Item) (lo hi : Nat) : List Elem :=
  (actives s.cur lo hi).map fun e => ⟨item e, itemPlaces s f k (item e)⟩

def elemBad (x : Elem) : Option Bad :=
  match x.out with
  | .ok _ => none
  | .error b => some b
def elemLocs (x : Elem) : List Loc :=
  match x.out with
  | .ok (ls, _) => ls
  | .error _ => []

/-- The lowest element whose address fails (R185). -/
def firstFail (l : List Elem) : Option (Item × Bad) :=
  l.findSome? fun x => (elemBad x).map fun b => (x.it, b)

/-- The first element, in ascending order, that reads poisoned data (R190). -/
def firstPoison (s : State) (l : List Elem) : Option (Nat × TrapInfo) :=
  (l.find? fun x => (elemLocs x).any (poisoned s)).map fun x => (x.it.e, ⟨cECC, x.it.addr, 0⟩)

/-- Some element's home lies behind a fenced port (R378, R459). -/
def anyFenced (s : State) (l : List Elem) : Bool := l.any fun x => (elemLocs x).any (locFenced s)
/-- The elements below `e`. -/
def below (e : Nat) (l : List Elem) : List Elem := l.filter (·.it.e < e)
/-- Runs `k` unless an element the access performs, below the one it stops at, has its home behind a fenced port, which traps LINK
(R378, R411, R459, log entry 41). -/
def guardFenced (l : List Elem) (stop : Option (Nat × Stop)) (s : State) (k : State) : State :=
  if anyFenced s (match stop with
    | some (g, _) => below g l
    | none => l) then trap ⟨cLINK, 2, 0⟩ s else k

/-- The lower of two stops; at one element the first, so that the ECC of a damaged source comes before the failing address of the same
element; the manual gives no order: DESIGN CHOICE (log entry 50). -/
def minStop (a b : Option (Nat × TrapInfo)) : Option (Nat × TrapInfo) :=
  match a, b with
  | some (i, x), some (j, y) => if i ≤ j then some (i, x) else some (j, y)
  | some x, none => some x
  | none, y => y

/-- The elements below `hi` loaded into v_D, with their conversions and flags (R176). -/
def loadElts (s : State) (d : VReg) (f : Fmt) (k : Kind) (l : List Elem) (hi : Nat) (t : Thread) : Thread :=
  let r := (l.filter fun x => decide (x.it.e < hi)).map fun x => (x.it.e, loadConv s.cur f k x.it.e (itemRead s f x.it (elemLocs x)))
  orFlags (r.foldl (fun g (_, _, h) => g ||| h) 0) (writeElts d k.width (r.map fun (e, x, _) => (e, x)) t)

/-- The memory writes of the elements below `hi`, in ascending order, and their flags (R177). -/
def storeElts (s : State) (v : VReg) (f : Fmt) (k : Kind) (l : List Elem) (hi : Nat) : List Wr × Flags :=
  (l.filter fun x => decide (x.it.e < hi)).foldl (fun (ws, g) x =>
    let (y, h) := storeConv s.cur f k x.it.e (elt s.cur v k.width x.it.e)
    (ws ++ itemWrite f x.it (elemLocs x) y, g ||| h)) ([], 0)

/-- Sectors a `.last` load touched are dropped: each byte reads as it stands, or as a value an earlier store wrote there, a
free choice (R180, log entry 7). -/
def dropByte (n : Nat) (s : State) (pa : Nat) : State :=
  let vs := byteAt s (.phys pa) :: (s.written.filter (·.1 == pa)).map (·.2)
  { s with mem := tset s.mem Memory.blank pa (vs.getD (Config.freeNat s.tick (2 ^ 40 + n) % vs.length) 0) }
def dropSectors (l : List Nat) (s : State) : State :=
  l.foldl (fun s k => (List.range 32).foldl (fun s i => dropByte (32 * k + i) s (32 * k + i)) s) s
/-- The sectors of memory that places lie in, where the page is not of CLASS device-io, which ignores HINT (R179). -/
def hintSectors (l : List (List Loc × Nat)) : List Nat :=
  (l.flatMap fun (ls, cls) => if cls = 3 then [] else ls.filterMap fun x => match sectorOf x with
    | .phys k => some k
    | .store .. => none).eraseDups
def elemSectors (l : List Elem) : List Nat :=
  hintSectors (l.filterMap fun x => match x.out with
    | .ok p => some p
    | .error _ => none)
/-- The key under which the sectors of a stopped load are kept: its address and mode. -/
def touchKey (pc : Word) (sup : Bool) : Nat := 2 * pc.toNat + sup.toNat
/-- The sectors that earlier parts of the load at this thread's PC have touched, where it goes on at the element `lo` they stopped
at (R180). -/
def touchedAt (t : Thread) (lo : Nat) : List Nat :=
  let (g, q) := tget t.touched (0, []) (touchKey t.pc (inSup t))
  if g = lo then q else []
/-- A load with hint `h` that began in `s0` at element `lo` has completed: the sectors it touched are dropped, those of the parts
before a stop among them. -/
def afterHint (h : Hint) (q : List Nat) (lo : Nat) (s0 s : State) : State :=
  if h.val = 3 then
    modT (fun t => { t with touched := terase t.touched (touchKey s0.cur.pc (inSup s0.cur)) }) (dropSectors (touchedAt s0.cur lo ++ q).eraseDups s)
  else s
/-- A load with hint `h` that began at element `lo` stops at `g`: the sectors it has touched are kept until it goes on there and
completes. -/
def keepHint (h : Hint) (q : List Nat) (lo g : Nat) (t : Thread) : Thread :=
  if h.val = 3 then
    let q := (touchedAt t lo ++ q).eraseDups
    { t with touched := tset t.touched (0, []) (touchKey t.pc (inSup t)) (if q.isEmpty then (0, []) else (g, q)) }
  else t

/-- The fault of a failing element where it is taken (R186, R187, R189). -/
def failInfo (miss : Nat) (b : Bad) (it : Item) : TrapInfo := badTrap miss b it.addr

/-- The fault of element `e`, before which a stop or a breakpoint at an element from `lo` to it comes, for which `run` performs the
elements below it (R407, R411). -/
def failAt (r : StopRule) (lo e : Nat) (info : TrapInfo) (run : State → State) (s : State) : State :=
  if (stopAt s.cur r lo (e + 1) none).isSome then run s else trap info s

def setTrim (x : Bool) (t : Thread) : Thread :=
  modC (fun c => { c with vstat := setFld c.vstat 1 1 (if x then 1 else 0) }) t

/-- What a load whose replies are abandoned may have written above the stop (R193): any of its elements whose data and mask bits are
good, a free choice for each (log entry 5). The resumed load writes them again, and raises their flags. -/
def lateElts (s : State) (d : VReg) (f : Fmt) (k : Kind) (l : List Elem) (g : Nat) (bad : Option (Nat × TrapInfo)) (t : Thread) : Thread :=
  let good (e : Nat) : Bool := match bad with
    | some (i, _) => decide (e < i)
    | none => true
  let r := l.filter fun x => decide (g ≤ x.it.e) && good x.it.e && Config.freeBit s.tick (2000 + x.it.e)
  if r.isEmpty then t
  else writeElts d k.width (r.map fun x => (x.it.e, (loadConv s.cur f k x.it.e (itemRead s f x.it (elemLocs x))).1)) t

/-- A load of active elements [lo, hi), all translated: it stops at poison, at a damaged mask bit, or where a stop or
breakpoint names (R190, R193, R407); its memory effect is that of its hint. `fin` completes it, `stop` records progress. -/
def loadRun (r : StopRule) (d : VReg) (f : Fmt) (k : Kind) (h : Hint) (l : List Elem) (lo hi : Nat)
    (dmg : Option (Nat × TrapInfo)) (fin : (Thread → Thread) → State → State) (stop : Nat → Thread → Thread) (s : State) : State :=
  let bad := minStop dmg (firstPoison s l)
  let at' := stopAt s.cur r lo hi bad
  guardFenced l at' s (match at' with
    | none => afterHint h (elemSectors l) lo s (fin (loadElts s d f k l hi) s)
    | some (g, why) =>
      let late := if why = .abandon && r.late then lateElts s d f k l g bad else id
      stopBy why (modT (fun t => keepHint h (elemSectors (below g l)) lo g (stop g (late (loadElts s d f k l g t)))) s))

/-- A store of active elements [lo, hi), all translated; its replies are never abandoned (R193). -/
def storeRun (r : StopRule) (v : VReg) (f : Fmt) (k : Kind) (l : List Elem) (lo hi : Nat) (dmg : Option (Nat × TrapInfo))
    (fin : (Thread → Thread) → State → State) (stop : Nat → Thread → Thread) (s : State) : State :=
  let at' := stopAt s.cur r lo hi dmg
  guardFenced l at' s (match at' with
    | none =>
      let (ws, g) := storeElts s v f k l hi
      fin (orFlags g) (writeAll ws s)
    | some (g, why) =>
      let (ws, fl) := storeElts s v f k l g
      stopBy why (writeAll ws (modT (fun t => stop g (orFlags fl t)) s)))

/-- A tile access completes: EPROG and VSTART become 0 (R24, R173). -/
def finishTile (f : Thread → Thread) (s : State) : State := finish 0 (fun t => setVstart 0 (setEprog 0 (f t))) s

/-- Number of elements of an access (R172). -/
def countOf (t : Thread) (m : VMode) : Nat :=
  match m with
  | .tile => vlOf t * fld t.ctl.vrows 0 7
  | _ => vlOf t
/-- First element of an access: VSTART, or EPROG for a tile (R173). -/
def firstOf (t : Thread) (m : VMode) : Nat :=
  match m with
  | .tile => eprogOf t
  | _ => vstartOf t

/-- The checks of R172 and R175 before any element is accessed: the format pair, VLX, alignment. An access of a format that converts
nothing traps ILL at SEW 64 with KIND 0 too, which R56 lists with no format (R49 speaks of every SEW and KIND); and VLX is taken before
a misaligned ADDR, for which the manual gives no order: DESIGN CHOICE (log entry 50). -/
def guardMem (i : Instr) (regs : List SReg) (f : Fmt) (n : Nat) (item : Nat → Item) (lo : Nat) (s : State)
    (k : Kind → State) : State :=
  guardS regs s (
    match kindOf s.cur with
    | some kd =>
      if !pairOk f (some kd) then trapWord cILL i s
      else if decide (grantMax s.cur (sewOf s.cur) < n) then trapWord cVLX i s
      else match ((actives s.cur lo n).map item).find? (misaligned f) with
        | some it => trap ⟨cADDR, it.addr, 0⟩ s
        | none => k kd
    | none => trapWord cILL i s)

/-- Where a unit-stride, strided or indexed load stops (R193), and where a tile access does. -/
def loadRule (t : Thread) : StopRule := { groups t with replies := true }
def tileRule (t : Thread) : StopRule := { every := vlOf t }

/-- VLD (R176, R186, R189, R190). A poisoned table entry above the first element traps ECC with no element performed; the manual
gives no more than ECC there (R340); and a first active element that fails traps before a damaged
bit of the governing mask at it or below: DESIGN CHOICE (log entry 50). VL and T change only where the trimmed load completes (R90, R354). -/
def execVld (v : VReg) (b : SReg) (f : Fmt) (m : VMode) (h : Hint) (x : BitVec 6) (s : State) : Out :=
  let t := s.cur
  let n := countOf t m
  let lo := firstOf t m
  let item := vmItem s b f m x
  .next (guardMem (.vld v b f m h x) [b] f n item lo s fun k =>
    let l := elemsOf s f .load item lo n
    let md (hi : Nat) := firstDmg t [] [] lo hi
    match m with
    | .tile =>
      match firstFail l with
      | none => loadRun (tileRule t) v f k h l lo n (md n) finishTile setEprog s
      | some (it, bad) =>
        let r := it.e / vlOf t * vlOf t
        loadRun (tileRule t) v f k h (below r l) lo n (minStop (md n) (some (r, failInfo cPFTL bad it))) finishTile setEprog s
    | _ =>
      match firstFail l with
      | none => loadRun (loadRule t) v f k h l lo n (md n) finishV setVstart (modT (setTrim false) s)
      | some (it, bad) =>
        if l.head?.map (·.it.e) = some it.e || bad = .ecc then
          failAt (loadRule t) lo it.e (failInfo cPFLD bad it)
            (loadRun (loadRule t) v f k h (below it.e l) lo (it.e + 1) (md it.e) finishV setVstart) (modT (setTrim false) s)
        else
          loadRun (loadRule t) v f k h (below it.e l) lo it.e (md it.e)
            (fun g => finishV (fun t => setTrim true (setVl it.e (g t)))) setVstart (modT (setTrim false) s))

/-- VST (R177, R187, R189, R190). A poisoned table entry above the first element traps ECC with no element performed; the manual
gives no more than ECC there (R340): DESIGN CHOICE (log entry 50). -/
def execVst (v : VReg) (b : SReg) (f : Fmt) (m : VMode) (h : Hint) (x : BitVec 6) (s : State) : Out :=
  let t := s.cur
  let n := countOf t m
  let lo := firstOf t m
  let item := vmItem s b f m x
  .next (guardMem (.vst v b f m h x) [b] f n item lo s fun k =>
    let l := elemsOf s f .store item lo n
    let md := firstDmg t [(v, k.width)] [] lo n
    match m, firstFail l with
    | .tile, none => storeRun (tileRule t) v f k l lo n md finishTile setEprog s
    | .tile, some (it, bad) =>
      let r := it.e / vlOf t * vlOf t
      storeRun (tileRule t) v f k (below r l) lo n (minStop md (some (r, failInfo cPFTL bad it))) finishTile setEprog s
    | _, none => storeRun (groups t) v f k l lo n md finishV setVstart s
    | _, some (it, bad) =>
      if bad = .ecc then failAt (groups t) lo it.e (failInfo cPFST bad it)
        (storeRun (groups t) v f k (below it.e l) lo (it.e + 1) md finishV setVstart) s
      else storeRun (groups t) v f k (below it.e l) lo n (minStop md (some (it.e, failInfo cPFST bad it))) finishV setVstart s)

-- indexed accesses (R188, R353)

/-- Insertion into a rising list of page addresses. -/
def pagesOf (l : List Elem) : List Nat :=
  l.foldl (fun ps x => match elemBad x with
    | some .miss => sinsert ps (x.it.addr.toNat / 4096 * 4096)
    | _ => ps) []

/-- The fault record of R353, as bytes from the frame's offset 0x40. -/
def gatherRecord (acc : Nat) (l : List Elem) : List Byte :=
  let pages := pagesOf l
  let nc := l.any fun x => elemBad x == some .addr
  let mask := l.foldl (fun m x => if (elemBad x).isSome then m ||| 2 ^ x.it.e else m) 0
  let w0 := 1 + acc * 2 ^ 8 + nc.toNat * 2 ^ 10 + (if 16 < pages.length then 2 ^ 11 else 0) + min 16 pages.length * 2 ^ 12
  leBytes 8 w0 ++ leBytes 8 0 ++ leBytes 64 mask ++ (List.range 16).flatMap (fun i => leBytes 8 (pages.getD i 0)) ++ leBytes 48 0

/-- The address of a thread's fault record (R353), and the record written to its frame. -/
def erecOf (t : Thread) : Word := BitVec.ofNat 64 (Config.contextWindow + t.frame * 65536 + 0x40)
def writeRecord (bs : List Byte) (s : State) : State :=
  match framePa s (s.cur.frame * 65536 + 0x40) with
  | some pa => writeAll (wrBytes (physLocs pa bs.length) bs) s
  | none => s

/-- The outcome of translating an indexed access (R188): a poisoned table entry, a gather fault with its record, or `k`. The ECC of the
entry comes first, whatever the indices of the two elements; the manual gives no order: DESIGN CHOICE (log entry 50). -/
def guardXlat (acc : Nat) (base : Word) (l : List Elem) (s : State) (k : State) : State :=
  match l.find? fun x => elemBad x == some .ecc with
  | some x => trap ⟨cECC, x.it.addr, 0⟩ s
  | none =>
    if (firstFail l).isSome then trap ⟨cPFGA, base, erecOf s.cur⟩ (writeRecord (gatherRecord acc l) s)
    else k

/-- VLDX (R176, R188, R190). An index element that holds an uncorrectable error still forms its address, so that PFGA or ADDR comes
before the ECC of the damage; the manual gives no order: DESIGN CHOICE (log entry 50). The same holds of VSTX and VAMOADD. -/
def execVldx (v : VReg) (b : SReg) (f : Fmt) (h : Hint) (i : VReg) (s : State) : Out :=
  let t := s.cur
  let lo := vstartOf t
  let item := idxItem s b f i
  .next (guardMem (.vldx v b f h i) [b] f (vlOf t) item lo s fun k =>
    let l := elemsOf s f .load item lo (vlOf t)
    guardXlat 0 (rs 0 s b) l s
      (loadRun { loadRule t with late := v != i } v f k h l lo (vlOf t) (firstDmg t [(i, sewOf t)] [] lo (vlOf t)) finishV setVstart s))

/-- VSTX (R177, R188). -/
def execVstx (v : VReg) (b : SReg) (f : Fmt) (h : Hint) (i : VReg) (s : State) : Out :=
  let t := s.cur
  let lo := vstartOf t
  let item := idxItem s b f i
  .next (guardMem (.vstx v b f h i) [b] f (vlOf t) item lo s fun k =>
    let l := elemsOf s f .store item lo (vlOf t)
    guardXlat 1 (rs 0 s b) l s
      (storeRun (groups t) v f k l lo (vlOf t) (firstDmg t [(i, sewOf t), (v, k.width)] [] lo (vlOf t)) finishV setVstart s))

/-- VPREF (R181): nothing but VSTART, and EPROG in tile mode. -/
def execVpref (b : SReg) (_f : Fmt) (m : VMode) (_h : Hint) (_x : BitVec 6) (s : State) : Out :=
  .next (guardS [b] s (match m with
    | .tile => finishTile id s
    | _ => finishV id s))

-- all-or-nothing accesses (R182, R183)

/-- Byte by byte from `a`: the places, or the failing addresses with their reasons, lowest first. -/
def spanPlaces (s : State) (k : Acc) (a : Word) (n : Nat) : List (Word × Except Bad Xlat) :=
  (List.range n).map fun j => (a + BitVec.ofNat 64 j, xlat s s.cur (a + BitVec.ofNat 64 j) k)

def spanLocs (l : List (Word × Except Bad Xlat)) : List Loc :=
  l.filterMap fun (_, r) => match r with
    | .ok x => some x.loc
    | .error _ => none
/-- The lowest failing address and its trap. -/
def spanFail (miss : Nat) (l : List (Word × Except Bad Xlat)) : Option TrapInfo :=
  l.foldl (fun best (a, r) => match r with
    | .ok _ => best
    | .error b => match best with
      | some i => if i.eval.toNat ≤ a.toNat then best else some (badTrap miss b a)
      | none => some (badTrap miss b a)) none
/-- The lowest poisoned address (R190): of several poisoned bytes of a VLDSC the manual names none: DESIGN CHOICE (log entry 50). -/
def spanPoison (s : State) (l : List (Word × Except Bad Xlat)) : Option TrapInfo :=
  l.foldl (fun best (a, r) => match r with
    | .error _ => best
    | .ok x => if !poisoned s x.loc then best else match best with
      | some i => if i.eval.toNat ≤ a.toNat then best else some ⟨cECC, a, 0⟩
      | none => some ⟨cECC, a, 0⟩) none

/-- The sectors of an access by places. -/
def spanSectors (l : List (Word × Except Bad Xlat)) : List Nat :=
  hintSectors (l.filterMap fun (_, r) => match r with
    | .ok x => some ([x.loc], x.cls)
    | .error _ => none)

/-- VLDSC (R59, R182): all 64 entries of the scale file, or nothing. The manual gives its traps no order: a super-scale base that is
no multiple of 4 comes before any other failing address, and a home behind a fenced port (LINK) before poison (ECC): DESIGN CHOICE
(log entry 50). -/
def execVldsc (b : SReg) (h : Hint) (x : SReg) (s : State) : Out :=
  let sup := rs 1 s x
  .next (guardS [b, x] s (
    if sup.toNat % 4 != 0 then trap ⟨cADDR, sup, 0⟩ s
    else
      let lb := spanPlaces s .load (rs 0 s b) 64
      let lx := spanPlaces s .load sup 64
      match spanFail cPFLD (lb ++ lx) with
      | some e => trap e s
      | none =>
        if (spanLocs (lb ++ lx)).any (locFenced s) then trap ⟨cLINK, 2, 0⟩ s
        else match spanPoison s (lb ++ lx) with
          | some e => trap e s
          | none =>
            let bs := readBytes s (spanLocs lb)
            let ws := readBytes s (spanLocs lx)
            let entry (j : Nat) : R32 :=
              to32 .rne (mulNum (num32 (BitVec.ofNat 32 (ofBytes ((ws.drop (j / 4 * 4)).take 4)))) (numInt (bs.getD j 0).toNat))
            afterHint h (spanSectors (lb ++ lx)) 0 s (finishV (fun t =>
              orFlags ((List.range 64).foldl (fun g j => g ||| (entry j).2) 0)
                { t with sf := Vector.ofFn fun j => (entry j.val).1 }) s)))

/-- base of VLDK and VSTK (R183). -/
def maskBase (s : State) (b : SReg) (x : BitVec 6) : Word := rs 0 s b + 64 * x.signExtend 64

/-- VLDK (R183): bits [0, VL) of k_V from packed bytes, or nothing. A home behind a fenced port comes before poison: DESIGN CHOICE
(log entry 50). -/
def execVldk (k : KReg) (b : SReg) (h : Hint) (x : BitVec 6) (s : State) : Out :=
  let t := s.cur
  .next (guardS [b] s (
    if 8 * lanesOf t < vlOf t then trapWord cVLX (.vldk k b h x) s
    else
      let l := spanPlaces s .load (maskBase s b x) ((vlOf t + 7) / 8)
      match spanFail cPFLD l with
      | some e => trap e s
      | none =>
        if (spanLocs l).any (locFenced s) then trap ⟨cLINK, 2, 0⟩ s
        else match spanPoison s l with
          | some e => trap e s
          | none =>
            let bs := ofBytes (readBytes s (spanLocs l))
            afterHint h (spanSectors l) 0 s (finishV (writeBits k ((List.range (vlOf t)).map fun i => (i, bs.testBit i))) s)))

/-- VSTK (R183): ⌈VL / 8⌉ whole bytes, or nothing. A damaged bit of k traps ECC after the checks of the addresses, with no byte
stored and VSTART as it was: DESIGN CHOICE (log entry 50). -/
def execVstk (k : KReg) (b : SReg) (h : Hint) (x : BitVec 6) (s : State) : Out :=
  let t := s.cur
  .next (guardS [b] s (
    if 8 * lanesOf t < vlOf t then trapWord cVLX (.vstk k b h x) s
    else
      let n := (vlOf t + 7) / 8
      let l := spanPlaces s .store (maskBase s b x) n
      match spanFail cPFST l with
      | some e => trap e s
      | none =>
        if (spanLocs l).any (locFenced s) then trap ⟨cLINK, 2, 0⟩ s
        else if (List.range (8 * n)).any (bitBad t k) then trap (eccK k) s
        else finishV id (writeAll (wrBytes (spanLocs l) (leBytes n (kreg t k).toNat)) s)))

end Sys2Proof.Machine
end

