-- ==== Sys2Proof/Machine/Atomic.lean ====
section
/-! DEFINITION. PHASE, FENCE, the scalar atomics, AMONIB and VAMOADD (10 R285-R291), majors 0x48-0x4C. Every step of the model
is performed whole in one order, so release and acquire points change no state (log entry 4). -/

namespace Sys2Proof.Machine

/-- The operations of R288. -/
inductive Amo | add | min | max | and | or | swp | cas
  deriving DecidableEq, Repr

/-- The value written, with old value `o`, operand `b` and compare value `e`, at width `w` (R288). -/
def amoNew (p : Amo) (w o b e : Nat) : Nat :=
  match p with
  | .add => (o + b) % 2 ^ w
  | .min => if sint w o ≤ sint w b then o else b
  | .max => if sint w o ≤ sint w b then b else o
  | .and => o &&& b
  | .or => o ||| b
  | .swp => b
  | .cas => if o = e then b else o

/-- The places of an atomic of `n` bytes at `a`, with the checks of R289. One whose home is both lost (R360, R459) and poisoned traps LINK
and not ECC; the manual gives no order: DESIGN CHOICE (log entry 50). -/
def amoPlaces (s : State) (a : Word) (n : Nat) : Except TrapInfo (List Loc) :=
  match placesOf s a n .store cPFST with
  | .error e => .error e
  | .ok (ls, cls) =>
    if cls = 3 then .error ⟨cADDR, a, 0⟩
    else if ls.any (oneLost s) then .error ⟨cLINK, 2, 0⟩
    else if ls.any (poisoned s) then .error ⟨cECC, a, 0⟩
    else .ok ls

/-- A scalar atomic of `n` bytes (R289). -/
def amo (p : Amo) (n : Nat) (d a b : SReg) (w : Stall) (s : State) : State :=
  guardS ([a, b] ++ if p = .cas then [d] else []) s (
    let addr := rs 0 s a
    let put (ls : List Loc) : State :=
      let x := amoNew p (8 * n) (ofBytes (readBytes s ls)) ((rs 1 s b).toNat % 2 ^ (8 * n)) ((rs 2 s d).toNat % 2 ^ (8 * n))
      writeAll (wrBytes ls (leBytes n x)) s
    match amoPlaces s addr n with
    | .error e => trap e (put (lostPlaces s (· != 3) addr n))
    | .ok ls => finish w (setS d (sextNat (8 * n) (ofBytes (readBytes s ls)))) (put ls))

/-- AMOADD.W (R288, R289). -/
def execAmoaddW (d a b : SReg) (_aq _rl : Bool) (_c : Scope) (w : Stall) (s : State) : Out := .next (amo .add 4 d a b w s)
/-- AMOMIN.W (R288, R289). -/
def execAmominW (d a b : SReg) (_aq _rl : Bool) (_c : Scope) (w : Stall) (s : State) : Out := .next (amo .min 4 d a b w s)
/-- AMOMAX.W (R288, R289). -/
def execAmomaxW (d a b : SReg) (_aq _rl : Bool) (_c : Scope) (w : Stall) (s : State) : Out := .next (amo .max 4 d a b w s)
/-- AMOAND.W (R288, R289). -/
def execAmoandW (d a b : SReg) (_aq _rl : Bool) (_c : Scope) (w : Stall) (s : State) : Out := .next (amo .and 4 d a b w s)
/-- AMOOR.W (R288, R289). -/
def execAmoorW (d a b : SReg) (_aq _rl : Bool) (_c : Scope) (w : Stall) (s : State) : Out := .next (amo .or 4 d a b w s)
/-- AMOSWP.W (R288, R289). -/
def execAmoswpW (d a b : SReg) (_aq _rl : Bool) (_c : Scope) (w : Stall) (s : State) : Out := .next (amo .swp 4 d a b w s)
/-- AMOCAS.W (R288, R289). -/
def execAmocasW (d a b : SReg) (_aq _rl : Bool) (_c : Scope) (w : Stall) (s : State) : Out := .next (amo .cas 4 d a b w s)
/-- AMOADD.D (R288, R289). -/
def execAmoaddD (d a b : SReg) (_aq _rl : Bool) (_c : Scope) (w : Stall) (s : State) : Out := .next (amo .add 8 d a b w s)
/-- AMOMIN.D (R288, R289). -/
def execAmominD (d a b : SReg) (_aq _rl : Bool) (_c : Scope) (w : Stall) (s : State) : Out := .next (amo .min 8 d a b w s)
/-- AMOMAX.D (R288, R289). -/
def execAmomaxD (d a b : SReg) (_aq _rl : Bool) (_c : Scope) (w : Stall) (s : State) : Out := .next (amo .max 8 d a b w s)
/-- AMOAND.D (R288, R289). -/
def execAmoandD (d a b : SReg) (_aq _rl : Bool) (_c : Scope) (w : Stall) (s : State) : Out := .next (amo .and 8 d a b w s)
/-- AMOOR.D (R288, R289). -/
def execAmoorD (d a b : SReg) (_aq _rl : Bool) (_c : Scope) (w : Stall) (s : State) : Out := .next (amo .or 8 d a b w s)
/-- AMOSWP.D (R288, R289). -/
def execAmoswpD (d a b : SReg) (_aq _rl : Bool) (_c : Scope) (w : Stall) (s : State) : Out := .next (amo .swp 8 d a b w s)
/-- AMOCAS.D (R288, R289). -/
def execAmocasD (d a b : SReg) (_aq _rl : Bool) (_c : Scope) (w : Stall) (s : State) : Out := .next (amo .cas 8 d a b w s)

/-- The nibble AMONIB writes (R290). -/
def nibNew (p : NibOp) (o v : Nat) : Nat :=
  match p with
  | .add => (o + v) % 16
  | .and => o &&& v
  | .or => o ||| v
  | .swp => v

/-- AMONIB (R290). -/
def execAmonib (d a b : SReg) (p : NibOp) (_aq _rl : Bool) (_c : Scope) (w : Stall) (s : State) : Out :=
  .next (guardS [a, b] s (
    let na := (rs 0 s a).toNat
    let addr : Word := BitVec.ofNat 64 (na / 2)
    let sh := 16 ^ (na % 2)
    let old (ls : List Loc) : Nat := ofBytes (readBytes s ls) / sh % 16
    let put (ls : List Loc) : State :=
      writeAll (ls.map fun l => ⟨l, BitVec.ofNat 8 (15 * sh), BitVec.ofNat 8 (nibNew p (old ls) ((rs 1 s b).toNat % 16) * sh)⟩) s
    match amoPlaces s addr 1 with
    | .error e => trap e (put (lostPlaces s (· != 3) addr 1))
    | .ok ls => finish w (setS d (BitVec.ofNat 64 (old ls))) (put ls)))

/-- VAMOADD accepts FP32, INT32 and INT64, each with its own VTYPE (R291). -/
def vamoOk (f : Fmt) (k : Option Kind) : Bool :=
  match f, k with
  | .fp32, some .fp32 | .int32, some .i32 | .int64, some .i64 => true
  | _, _ => false

/-- One element of VAMOADD: its write and its flags. -/
def vamoElt (v : VReg) (k : Kind) (x : Elem) (s : State) : State × Flags :=
  let w := k.width
  let (y, g) := arith .add k (ofBytes (readBytes s (elemLocs x))) (elt s.cur v w x.it.e) 0
  (writeAll (wrBytes (elemLocs x) (leBytes (w / 8) y)) s, g)

/-- The elements below `hi`, in ascending order. -/
def vamoElts (v : VReg) (k : Kind) (l : List Elem) (hi : Nat) (s : State) : State × Flags :=
  (l.filter fun x => decide (x.it.e < hi)).foldl (fun (s, g) x => let (s, h) := vamoElt v k x s; (s, g ||| h)) (s, 0)

/-- The first element, in ascending order, whose home lies behind a fenced port (R459), or in another package with its reply abandoned
(R360), as those from the element the abandonment names on are. -/
def firstFenced (s : State) (l : List Elem) : Option (Nat × TrapInfo) :=
  (l.find? fun x => (elemLocs x).any (homeLost s fun g => decide (g ≤ x.it.e))).map fun x => (x.it.e, ⟨cLINK, 2, 0⟩)
/-- Element `g` of a VAMOADD that traps LINK may still be performed at its home (R360), a free choice (log entry 5). -/
def vamoLost (v : VReg) (k : Kind) (l : List Elem) (g : Nat) (why : Stop) (s0 s : State) : State :=
  match why, l.find? fun x => x.it.e == g with
  | .trap e, some x => if e.cause = cLINK && Config.freeBit s0.tick 71 then (vamoElt v k x s).1 else s
  | _, _ => s

/-- VAMOADD (R291): translation and class are checked before any element; poison and a lost home are met in element order. At one
element the ECC of poison or damage comes before LINK; the manual gives no order: DESIGN CHOICE (log entry 50). -/
def execVamoadd (v : VReg) (b : SReg) (f : Fmt) (c : Scope) (aq rl : Bool) (i : VReg) (s : State) : Out :=
  let t := s.cur
  let lo := vstartOf t
  let hi := vlOf t
  let item := idxItem s b f i
  let ins : Instr := .vamoadd v b f c aq rl i
  .next (if !vamoOk f (kindOf t) then guardS [b] s (trapWord cILL ins s)
    else guardMem ins [b] f hi item lo s fun k =>
      let l := elemsOf s f .store item lo hi
      guardXlat 2 (rs 0 s b) l s (
        match l.find? fun x => match x.out with
          | .ok (_, cls) => cls == 3
          | .error _ => false with
        | some x => trap ⟨cADDR, x.it.addr, 0⟩ s
        | none =>
          match stopAt t (groups t) lo hi (minStop
              (minStop (firstDmg t [(i, sewOf t), (v, k.width)] [] lo hi) (firstPoison s l)) (firstFenced s l)) with
          | none => let (s, g) := vamoElts v k l hi s; finishV (orFlags g) s
          | some (g, why) =>
            let (s', fl) := vamoElts v k l g s
            stopBy why (modT (fun t => setVstart g (orFlags fl t)) (vamoLost v k l g why s s'))))

/-- PHASE (R287): nothing but its two ordering points, which the model's single order already gives. -/
def execPhase (_c : Scope) (s : State) : Out := .next (finish 0 id s)
/-- FENCE (R287). -/
def execFence (_c : Scope) (s : State) : Out := .next (finish 0 id s)

end Sys2Proof.Machine
end

