-- ==== Sys2Proof/Machine/Branch.lean ====
section
/-! DEFINITION. Branches, jumps, hardware loops, mask branches and SETVL (01 R31-R37; 04 R125-R134), majors 0x16-0x1F. -/

namespace Sys2Proof.Machine

/-- The target of a BR instruction: its address + 4 × OFF15 (R88, R125). -/
def brTarget (s : State) (o : BitVec 15) : Word := s.cur.pc + 4 * o.signExtend 64

/-- A branch on two scalars (R125); at the end of a loop body it traps (R131). Where STALL and LOOP both apply to a branch, JALR or
LOOP the manual gives no order: STALL comes first, DESIGN CHOICE (log entry 50). -/
def branch2 (c : Word → Word → Bool) (a b : SReg) (o : BitVec 15) (s : State) : State :=
  guardS [a, b] s (guardEnd s (
    if c (rs 0 s a) (rs 1 s b) then transfer 0 true (brTarget s o) id s else finish 0 id s))

/-- BEQ (R125). -/
def execBeq (a b : SReg) (o : BitVec 15) (s : State) : Out := .next (branch2 (fun a b => a == b) a b o s)
/-- BNE (R125). -/
def execBne (a b : SReg) (o : BitVec 15) (s : State) : Out := .next (branch2 (fun a b => a != b) a b o s)
/-- BLT (R125). -/
def execBlt (a b : SReg) (o : BitVec 15) (s : State) : Out := .next (branch2 (fun a b => a.slt b) a b o s)
/-- BGE (R125). -/
def execBge (a b : SReg) (o : BitVec 15) (s : State) : Out := .next (branch2 (fun a b => !a.slt b) a b o s)
/-- BLTU (R125). -/
def execBltu (a b : SReg) (o : BitVec 15) (s : State) : Out := .next (branch2 (fun a b => a.ult b) a b o s)
/-- BGEU (R125). -/
def execBgeu (a b : SReg) (o : BitVec 15) (s : State) : Out := .next (branch2 (fun a b => !a.ult b) a b o s)

/-- JAL (R126): a call unless D is s0 (R132). -/
def execJal (d : SReg) (o : BitVec 20) (s : State) : Out :=
  .next (guardEnd s (transfer 0 (d == 0) (s.cur.pc + 4 * o.signExtend 64) (setS d (s.cur.pc + 4)) s))

/-- JALR (R126): the target is formed before the link is written. EVAL 3 of LOOP comes before the ADDR of its target, which R131
leaves open: DESIGN CHOICE (log entry 50). -/
def execJalr (d a : SReg) (i : BitVec 13) (w : Stall) (s : State) : Out :=
  .next (guardS [a] s (guardEnd s (
    let t := rs 0 s a + i.signExtend 64
    if t.toNat % 4 != 0 then trap ⟨cADDR, t, 0⟩ s
    else transfer w (d == 0) t (setS d (s.cur.pc + 4)) s)))

/-- The push of LOOP and LOOPV (R127): LCNT, LBEG and LEND of the next level, and the new depth. -/
def pushLevel (isV : Bool) (c : Word) (x e : Word) (t : Thread) : Thread :=
  let n := depthOf t
  setDepth (n + 1) (modC (fun k => { k with lcnt := vput k.lcnt n c, lbeg := vput k.lbeg n (wordAddr (x + 4)), lend := vput k.lend n (wordAddr e) })
    { t with lkind := vput t.lkind n isV })

/-- LOOP and LOOPV (R127), in the order of its checks. EVAL 3 of R131 comes before EVAL 1, 5 and 6, which no rule orders: DESIGN
CHOICE (log entry 50). -/
def loopWith (isV : Bool) (a : SReg) (o : BitVec 15) (s : State) : State :=
  guardS [a] s (guardEnd s (
    let t := s.cur
    let c := rs 0 s a
    let x := t.pc
    let e := x + 4 * o.signExtend 64 - 4
    let n := depthOf t
    let vm := vlmax t (sewOf t)
    if inSup t then trap ⟨cLOOP, 4, 0⟩ s
    else if c = 0 then transfer 0 false (brTarget s o) id s
    else if 6 ≤ n then trap ⟨cLOOP, 1, 0⟩ s
    else if 0 < n && (lendOf t (n - 1)).toNat < e.toNat then trap ⟨cLOOP, 5, 0⟩ s
    else if isV && vm == 0 then trap ⟨cLOOP, 6, 0⟩ s
    else transfer 0 false (x + 4) (fun t => pushLevel isV c x e (if isV then setVl (min c.toNat vm) t else t)) s))

/-- LOOP (R127). -/
def execLoop (a : SReg) (o : BitVec 15) (s : State) : Out := .next (loopWith false a o s)
/-- LOOPV (R127). -/
def execLoopv (a : SReg) (o : BitVec 15) (s : State) : Out := .next (loopWith true a o s)

/-- Bits [0, VL) of a mask register (R133). -/
def maskBits (t : Thread) (k : KReg) : List Bool := (List.range (vlOf t)).map fun i => (kreg t k).getLsbD i

/-- A mask branch (R133). A bit that holds an uncorrectable error is read as it stands, without a trap: DESIGN CHOICE (log entry
50). -/
def branchK (c : List Bool → Bool) (k : KReg) (o : BitVec 15) (s : State) : State :=
  guardEnd s (if c (maskBits s.cur k) then transfer 0 true (brTarget s o) id s else finish 0 id s)

/-- BKANY (R133): with VL = 0 not taken. -/
def execBkany (k : KReg) (o : BitVec 15) (s : State) : Out := .next (branchK (fun l => l.any id) k o s)
/-- BKNONE (R133): with VL = 0 taken. -/
def execBknone (k : KReg) (o : BitVec 15) (s : State) : Out := .next (branchK (fun l => l.all (!·)) k o s)
/-- BKALL (R133): with VL = 0 taken. -/
def execBkall (k : KReg) (o : BitVec 15) (s : State) : Out := .next (branchK (fun l => l.all id) k o s)

-- the grant (R31-R38)

/-- Octets [first, first + count) as a mask. -/
def octets (first count : Nat) : Nat := (2 ^ count - 1) * 2 ^ first
/-- The octets a LANES value names (R22). -/
def lanesMask (w : Word) : Nat := octets (fld w 4 4) (fld w 0 4)

/-- The target of a context under LANEPART.P (R31): [0, P) for context 0, [P, 8) for context 1. -/
def targetMask (c : Core) (ctx : Nat) : Nat :=
  let p := fld c.lanepart 0 4
  if ctx = 0 then octets 0 p else octets p (8 - p)

/-- The octets that the thread on the other context of the core still holds. -/
def otherMask (s : State) (t : Thread) : Nat :=
  (s.others.filter fun u => u.live && cidOf u == cidOf t && u.ctx != t.ctx).foldl (fun m u => m ||| lanesMask u.ctl.lanes) 0

/-- First octet of a contiguous mask, and the LANES value of it (R22): FIRST is 0 for an empty grant. -/
def lowBit (m : Nat) : Nat := (List.range 8).find? (fun i => m.testBit i) |>.getD 0
def onesOf (m : Nat) : Nat := (List.range 8).countP fun i => m.testBit i
def lanesWord (m : Nat) : Word := if m = 0 then 0 else BitVec.ofNat 64 (16 * lowBit m + onesOf m)

/-- The applied grant a SETVL forms now (R31 step 2): target octets that the other context does not hold. -/
def newGrant (s : State) (t : Thread) : Nat := targetMask (coreOf s (cidOf t)) t.ctx &&& (255 - otherMask s t % 256)

/-- The bytes of one vector register after a regrant (R33): every byte is one the thread held at that place or zero, a free
choice (log entry 6); a logged thread reads zeros (R416). -/
def regrantV (tick : Nat) (logged : Bool) (r : Nat) (now : VBits) (held : List (Nat × VBits)) : VBits :=
  if logged then 0
  else
    let vs := 0 :: now :: (held.filter (·.1 == r)).map (·.2)
    BitVec.ofNat 8192 (ofBytes ((List.range 1024).map fun j =>
      (vs.getD (Config.freeNat tick (r * 1024 + j) % vs.length) 0).extractLsb' (8 * j) 8))

/-- The bits of one mask register after a regrant (R33). -/
def regrantK (tick : Nat) (logged : Bool) (r : Nat) (now : KBits) (held : List (Nat × KBits)) : KBits :=
  if logged then 0
  else
    let vs := 0 :: now :: (held.filter (·.1 == r)).map (·.2)
    (List.range 512).foldl (fun acc i =>
      if (vs.getD (Config.freeNat tick (40000 + r * 512 + i) % vs.length) 0).getLsbD i then acc ||| ((1 : KBits) <<< i) else acc) 0

/-- The low `n` bytes of a vector register. -/
def lowBytes (n : Nat) (x : VBits) : VBits := x &&& BitVec.ofNat 8192 (2 ^ (8 * n) - 1)

/-- The effects of a regrant from `lOld` to `lNew` lanes on the vector and mask files (R33). The values replaced are among those the
thread has held. -/
def regrantFiles (tick lOld lNew : Nat) (t : Thread) : Thread :=
  { t with
    v := Vector.ofFn fun r =>
      if r.val = 0 then lowBytes (16 * min lOld lNew) t.v[0] else regrantV tick t.logged r.val t.v[r] t.vheld
    k := Vector.ofFn fun r => if r.val = 0 then t.k[0] else regrantK tick t.logged r.val t.k[r] t.kheld
    vheld := (t.v.toList.zipIdx).map (fun (x, i) => (i, x)) ++ t.vheld
    kheld := (t.k.toList.zipIdx).map (fun (x, i) => (i, x)) ++ t.kheld
    vbad := t.vbad.filter fun (r, j) => r == 0 && decide (j < 16 * min lOld lNew)
    kbad := [] }

/-- R31 steps 2-4: the new applied grant, a regrant where it differs, and VSTAT.C. -/
def applyGrant (s : State) (t : Thread) : Thread :=
  let lw := lanesWord (newGrant s t)
  let old := lanesOf t
  let t := if lw = t.ctl.lanes then t
    else
      let t := modC (fun c => { c with lanes := lw, vstat := setFld c.vstat 0 1 1 }) t
      regrantFiles s.tick old (lanesOf t) t
  modC (fun c => { c with vstat := setFld c.vstat 2 1 (if capOf t (sewOf t) < grantMax t (sewOf t) then 1 else 0) }) t

/-- SETVL (R31-R34, R134): one indivisible step. -/
def execSetvl (d a : SReg) (w : Stall) (s : State) : Out :=
  .next (guardS [a] s (
    let c := (rs 0 s a).toNat
    finish w (fun t =>
      let t := applyGrant s t
      let n := min c (vlmax t (sewOf t))
      setS d (BitVec.ofNat 64 n) (setVl n t)) s))

end Sys2Proof.Machine
end

