-- ==== Sys2Proof/Machine/Heap.lean ====
section
/-! DEFINITION. The managed heap: regions, the barrier, and the reference instructions (09 R242-R266), majors 0x70-0x77. -/

namespace Sys2Proof.Machine

/-- A region entry as a core holds it (R243, R254). -/
structure Region where
  good : Nat
  olds : List Nat
  state : Nat
  fwd : Nat
  deriving DecidableEq, Repr

def regionPa (hreg : Word) (n : Nat) : Nat := pteAddr hreg + 32 * n

/-- The word at +0 of a region entry as a core holds it: the one from before a flip it has not acknowledged (R254). -/
def regionWord (s : State) (cid pa : Nat) : Word :=
  match (coreOf s cid).oldEntry.find? fun (k, _) => k == pa with
  | some (_, w) => w
  | none => rdWord s pa

/-- A region entry decoded from its two words; none if malformed (R243). -/
def regionMk (w0 w8 : Word) : Option Region :=
  if fld w0 50 2 = 3 || fld w0 48 2 = 3 || fld w0 0 48 != 0 || fld w8 52 12 != 0 || fld w8 0 12 != 0 then none
  else some ⟨fld w0 60 4, [fld w0 56 4, fld w0 52 4].take (fld w0 50 2), fld w0 48 2, pteAddr w8⟩

/-- The region of a reference as its entry stands in memory. Where software has written +0 or +8 of an ACTIVE or FLIPPING entry R243
lets each core use the old or the new value; the model reads the new one: DESIGN CHOICE (log entry 55). -/
def regionOf (s : State) (cid : Nat) (hreg : Word) (n : Nat) : Option Region :=
  regionMk (regionWord s cid (regionPa hreg n)) (rdWord s (regionPa hreg n + 8))

/-- ADDR of a reference, HABUF or NEW, as a byte address (R244, R250). -/
def refAddr (x : Word) : Nat := fld x 4 53 * 16
/-- C(x, c) of R247. -/
def recolour (x : Word) (c : Nat) : Word := setFld x 60 4 c

inductive Use | load | store | heal
  deriving DecidableEq, Repr

/-- What the barrier answers (R247): the reference with its address and whether it read the old copy of a COPYING entry; a
HEAP trap; a poisoned table word (DEDUCED from R190, log entry 14); or a wait for DONE. -/
inductive Res
  | ok (ref : Word) (addr : Nat) (copying : Bool)
  | heap
  | ecc (addr : Nat)
  | wait
  deriving DecidableEq, Repr

/-- The addresses of the forwarding entries that the binary search of R251 compares, in its order: the last is the one it finds, if it
finds one. It goes no further at an entry whose word is poisoned. -/
def probesFwd (s : State) (base o : Nat) : Nat → Nat → Nat → List Nat
  | 0, _, _ => []
  | n + 1, lo, hi =>
    if hi ≤ lo then []
    else
      let mid := (lo + hi) / 2
      let pa := base + 16 * mid
      let old := fld (rdWord s pa) 0 12
      pa :: if badPhys s pa 8 || old = o then [] else if old < o then probesFwd s base o n (mid + 1) hi else probesFwd s base o n lo mid

/-- What the search of R251 answers: the entry's physical address; or an error, where a word it compares is poisoned. -/
def lookupFwd (s : State) (base o n lo hi : Nat) : Except Unit (Option Nat) :=
  match (probesFwd s base o n lo hi).getLast? with
  | none => .ok none
  | some pa => if badPhys s pa 8 then .error () else .ok (if fld (rdWord s pa) 0 12 = o then some pa else none)

/-- Where the forwarding entry of an address is looked up, by its page's directory entry (R246, R247, R251). -/
def fwdProbes (s : State) (gpa a : Nat) : List Nat :=
  probesFwd s (fld (rdWord s (gpa + 8)) 4 48 * 16) (a / 16 % 4096) 14 0 (fld (rdWord s gpa) 0 13)
def fwdEntry (s : State) (gpa a : Nat) : Except Unit (Option Nat) :=
  lookupFwd s (fld (rdWord s (gpa + 8)) 4 48 * 16) (a / 16 % 4096) 14 0 (fld (rdWord s gpa) 0 13)

/-- The physical address of the directory entry of an address's page (R246). -/
def pageDir (e : Region) (a : Nat) : Nat := e.fwd + 16 * (a / 65536 % 16384)

/-- The slow path of R247, once the colour is an older one still served. -/
def resolveSlow (s : State) (e : Region) (x : Word) (a : Nat) (u : Use) : Res :=
  let gpa := pageDir e a
  if badPhys s gpa 16 then .ecc a
  else
    let st := fld (rdWord s gpa) 62 2
    if st = 0 then .ok (recolour x e.good) a false
    else if st = 3 then .heap
    else
      match fwdEntry s gpa a with
      | .error _ => .ecc a
      | .ok none => if st = 1 then .ok x a false else .heap
      | .ok (some pa) =>
        if badPhys s pa 16 then .ecc a
        else match fld (rdWord s pa) 62 2 with
          | 0 => if st = 1 then .ok x a false else .heap
          | 3 => .heap
          | 1 => if u = .load then .ok x a true else .wait
          | _ =>
            let new := refAddr (rdWord s (pa + 8))
            .ok (recolour (BitVec.ofNat 64 new) e.good) new false

/-- The barrier (R247) on core `cid` under `hreg`. -/
def resolve (s : State) (cid : Nat) (hreg x : Word) (u : Use) : Res :=
  if x = 0 || fld x 57 3 != 0 || fld x 0 4 != 0 then .heap
  else
    let a := refAddr x
    if !inManaged a then .heap
    else
      let n := (a - Config.wbase) / 2 ^ 30
      if badPhys s (regionPa hreg n) 16 then .ecc a
      else match regionOf s cid hreg n with
        | none => .heap
        | some e =>
          if e.state = 0 then .heap
          else if fld x 60 4 = e.good then .ok x a false
          else if !e.olds.contains (fld x 60 4) then .heap
          else resolveSlow s e x a u

/-- The words of the region, directory and forwarding tables that the barrier reads for a reference (R247, R251): these reads wake their
stacks (R456). -/
def resolveReads (s : State) (cid : Nat) (hreg x : Word) : List Loc :=
  let a := refAddr x
  if x = 0 || fld x 57 3 != 0 || fld x 0 4 != 0 || !inManaged a then []
  else
    let n := (a - Config.wbase) / 2 ^ 30
    physLocs (regionPa hreg n) 16 ++ match regionOf s cid hreg n with
      | none => []
      | some e =>
        if badPhys s (regionPa hreg n) 16 || e.state = 0 || fld x 60 4 = e.good || !e.olds.contains (fld x 60 4) then []
        else
          let gpa := pageDir e a
          let st := fld (rdWord s gpa) 62 2
          physLocs gpa 16 ++ if badPhys s gpa 16 || st = 0 || st = 3 then [] else (fwdProbes s gpa a).flatMap fun pa => physLocs pa 16

/-- The barrier for the thread in focus. -/
def resolveT (s : State) (x : Word) (u : Use) : Res := resolve s (cidOf s.cur) s.cur.ctl.hreg x u

def heapTrap (x : Word) : TrapInfo := ⟨cHEAP, x, 0⟩

/-- Runs `k` on the reference, address and COPYING mark the barrier answers (R247, R260): a store that meets COPYING waits. -/
def withRef (i : Instr) (x : Word) (u : Use) (s : State) (k : Word → Nat → Bool → State) : State :=
  match resolveT s x u with
  | .ok r a c => k r a c
  | .heap => trap (heapTrap x) s
  | .ecc a => trap ⟨cECC, BitVec.ofNat 64 a, 0⟩ s
  | .wait => waitIn i s

/-- Places of a heap access of `n` bytes (R242, R259 steps 3-5). -/
def heapPlaces (s : State) (x ea : Word) (n : Nat) (k : Acc) : Except TrapInfo (List Loc) :=
  match placesOf s ea n k (if k = .load then cPFLD else cPFST) with
  | .error e => .error e
  | .ok (ls, cls) =>
    if cls != 1 then .error (heapTrap x)
    else if ls.any (locFenced s) then .error ⟨cLINK, 2, 0⟩
    else .ok ls
/-- The same for an access that reads its bytes; one for `store` is an atomic, which completes at its home or traps LINK (R360). -/
def heapRead (s : State) (x ea : Word) (n : Nat) (k : Acc) : Except TrapInfo (List Loc) :=
  match heapPlaces s x ea n k with
  | .error e => .error e
  | .ok ls =>
    if k = .store && ls.any (oneLost s) then .error ⟨cLINK, 2, 0⟩
    else if ls.any (poisoned s) then .error ⟨cECC, ea, 0⟩ else .ok ls

def orTrap {α : Type} (r : Except TrapInfo α) (s : State) (k : α → State) : State :=
  match r with
  | .error e => trap e s
  | .ok x => k x

/-- The address of a heap access (R259). -/
def heapEa (a : Nat) (o : BitVec 13) : Word := BitVec.ofNat 64 a + o.signExtend 64

/-- Bytes and extension of an HLD width (R123, R261). -/
def ldBytes : LdWidth → Nat
  | .b | .bu => 1
  | .h | .hu => 2
  | .w | .wu => 4
  | .d => 8
def ldExt (n : LdWidth) (x : Nat) : Word :=
  match n with
  | .b => sextNat 8 x
  | .h => sextNat 16 x
  | .w => sextNat 32 x
  | _ => zextNat x
def stBytes : StWidth → Nat
  | .b => 1
  | .h => 2
  | .w => 4
  | .d => 8

/-- HLD (R261). -/
def execHld (d : SReg) (h : HReg) (o : BitVec 13) (n : LdWidth) (s : State) : Out :=
  let x := hreg s.cur h
  .next (withRef (.hld d h o n) x .load s fun r a _ =>
    orTrap (heapRead s x (heapEa a o) (ldBytes n) .load) s fun ls =>
      finish 0 (fun t => setS d (ldExt n (ofBytes (readBytes s ls))) (setH h r t)) s)

/-- HST (R261). -/
def execHst (d : SReg) (h : HReg) (o : BitVec 13) (n : StWidth) (s : State) : Out :=
  let x := hreg s.cur h
  .next (guardS [d] s (withRef (.hst d h o n) x .store s fun r a _ =>
    orTrap (heapPlaces s x (heapEa a o) (stBytes n) .store) s fun ls =>
      finish 0 (setH h r) (writeAll (wrBytes ls (leBytes (stBytes n) (rs 0 s d).toNat)) s)))

/-- The reference LDH leaves (R262): `r` itself where it cannot be resolved at once. -/
def healed (s : State) (r : Word) : Word :=
  match resolveT s r .heal with
  | .ok r' _ _ => r'
  | _ => r

/-- LDH (R262). A field that is to be healed on a page without W traps PFST with nothing loaded: R342 refuses the store of the heal, and
the manual does not say what becomes of the load: DESIGN CHOICE (log entry 55). -/
def execLdh (d : HReg) (h : HReg) (o : BitVec 13) (s : State) : Out :=
  let x := hreg s.cur h
  .next (withRef (.ldh d h o) x .load s fun r a c =>
    let ea := heapEa a o
    orTrap (heapRead s x ea 8 .load) s fun ls =>
      let v : Word := BitVec.ofNat 64 (ofBytes (readBytes s ls))
      let v' := healed s v
      let fin := fun s => finish 0 (fun t => setH d v' (setH h r t)) s
      if v' = v || c then fin s
      else orTrap (heapPlaces s x ea 8 .store) s fun ls => fin (writeAll (wrBytes ls (leBytes 8 v'.toNat)) s))

/-- STH (R262): all 64 bits as held. -/
def execSth (d : HReg) (h : HReg) (o : BitVec 13) (s : State) : Out :=
  let x := hreg s.cur h
  .next (withRef (.sth d h o) x .store s fun r a _ =>
    orTrap (heapPlaces s x (heapEa a o) 8 .store) s fun ls =>
      finish 0 (setH h r) (writeAll (wrBytes ls (leBytes 8 (hreg s.cur d).toNat)) s))

/-- Whether `y` and the expected reference name the same object, or none where COPYING makes HCAS wait (R262). -/
def sameObject (s : State) (y e : Word) : Option Bool :=
  if e = 0 || y = 0 then some (y == e)
  else match resolveT s e .heal with
    | .wait => none
    | .ok _ a _ =>
      if y = e then some true
      else match resolveT s y .heal with
        | .wait => none
        | .ok _ b _ => some (a == b)
        | _ => some false
    | _ => some (y == e)

def nextH (d : HReg) : HReg := ⟨(d.val + 1) % 16, Nat.mod_lt _ (by decide)⟩

/-- HCAS (R262). With HA = D + 1 the word stored is h_(D+1) as it was before the heal of the base register: DESIGN CHOICE (log entry
55). -/
def execHcas (d : HReg) (h : HReg) (o : BitVec 13) (s : State) : Out :=
  let x := hreg s.cur h
  .next (withRef (.hcas d h o) x .store s fun r a _ =>
    let ea := heapEa a o
    let old (ls : List Loc) : Word := BitVec.ofNat 64 (ofBytes (readBytes s ls))
    let put (b : Bool) (ls : List Loc) : State :=
      if b then writeAll (wrBytes ls (leBytes 8 (hreg s.cur (nextH d)).toNat)) s else s
    let same (ls : List Loc) : Option Bool := sameObject s (old ls) (hreg s.cur d)
    match heapRead s x ea 8 .store with
    | .error e => trap e (let ls := lostPlaces s (· == 1) ea 8; put (same ls == some true) ls)
    | .ok ls => match same ls with
      | none => waitIn (.hcas d h o) s
      | some b => finish 0 (fun t => setH d (healed s (old ls)) (setH h r t)) (put b ls))

-- vector accesses through a reference (R263)

/-- Element `e` at a resolved base. -/
def heapItem (f : Fmt) (a : Nat) (o : BitVec 13) (e : Nat) : Item := itemAt e (8 * ((a : Int) + o.toInt) + e * esz f)

/-- The first element that fails, with its trap: HEAP for a page of another class (R242), which trims no load (`false`). Above the first
element the manual gives that trap and no progress: VLDH loads nothing, and VSTH performs the elements below and leaves VSTART there:
DESIGN CHOICE (log entry 55). -/
def heapFail (miss : Nat) (x : Word) (l : List Elem) : Option (Nat × Bool × TrapInfo) :=
  l.findSome? fun y => match y.out with
    | .ok (_, 1) => none
    | .ok _ => some (y.it.e, false, heapTrap x)
    | .error b => some (y.it.e, b == .miss || b == .addr, failInfo miss b y.it)

/-- Checks of R259 step 1, the barrier, then alignment. -/
def guardVh (i : Instr) (h : HReg) (o : BitVec 13) (f : Fmt) (u : Use) (s : State)
    (k : Kind → Word → (Nat → Item) → State) : State :=
  let t := s.cur
  match kindOf t with
  | none => trapWord cILL i s
  | some kd =>
    if !pairOk f (some kd) then trapWord cILL i s
    else if grantMax t (sewOf t) < vlOf t then trapWord cVLX i s
    else withRef i (hreg t h) u s fun r a _ =>
      let item := heapItem f a o
      match ((actives t (vstartOf t) (vlOf t)).map item).find? (misaligned f) with
      | some it => trap ⟨cADDR, it.addr, 0⟩ s
      | none => k kd r item

/-- VLDH (R263): fault-only-first, as a unit-stride VLD. -/
def execVldh (d : VReg) (h : HReg) (o : BitVec 13) (f : Fmt) (s : State) : Out :=
  let t := s.cur
  let x := hreg t h
  let lo := vstartOf t
  let n := vlOf t
  .next (guardVh (.vldh d h o f) h o f .load s fun k r item =>
    let l := elemsOf s f .load item lo n
    let md (hi : Nat) := firstDmg t [] [] lo hi
    let fin := fun g => finishV (fun t => setH h r (g t))
    match heapFail cPFLD x l with
    | none => loadRun (loadRule t) d f k 0 l lo n (md n) fin setVstart (modT (setTrim false) s)
    | some (e, trims, info) =>
      if l.head?.map (·.it.e) = some e || !trims then
        failAt (loadRule t) lo e info (loadRun (loadRule t) d f k 0 (below e l) lo (e + 1) (md e) fin setVstart) (modT (setTrim false) s)
      else loadRun (loadRule t) d f k 0 (below e l) lo e (md e) (fun g => fin (fun t => setTrim true (setVl e (g t)))) setVstart
        (modT (setTrim false) s))

/-- VSTH (R263), as a unit-stride VST of heap stores. -/
def execVsth (d : VReg) (h : HReg) (o : BitVec 13) (f : Fmt) (s : State) : Out :=
  let t := s.cur
  let x := hreg t h
  let lo := vstartOf t
  let n := vlOf t
  .next (guardVh (.vsth d h o f) h o f .store s fun k r item =>
    let l := elemsOf s f .store item lo n
    let md := firstDmg t [(d, k.width)] [] lo n
    let fin := fun g => finishV (fun t => setH h r (g t))
    match heapFail cPFST x l with
    | none => storeRun (groups t) d f k l lo n md fin setVstart s
    | some (e, _, info) =>
      if info.cause = cECC then
        failAt (groups t) lo e info (storeRun (groups t) d f k (below e l) lo (e + 1) md fin setVstart) s
      else storeRun (groups t) d f k (below e l) lo n (minStop md (some (e, info))) fin setVstart s)

-- pins, heals and comparisons (R264)

/-- The pin count in the header word at +0 of an object (R245, R264), read and written as one step: HEAP where `f` refuses it. -/
def pinRmw (i : Instr) (h : HReg) (f : Nat → Option Nat) (fin : Word → Nat → Thread → Thread) (s : State) : State :=
  let x := hreg s.cur h
  withRef i x .heal s fun r a _ =>
    let put (ls : List Loc) : Option State :=
      let w : Word := BitVec.ofNat 64 (ofBytes (readBytes s ls))
      (f (fld w 32 16)).map fun n => writeAll (wrBytes ls (leBytes 8 (setFld w 32 16 n).toNat)) s
    match heapRead s x (BitVec.ofNat 64 a) 8 .store with
    | .error e => trap e ((put (lostPlaces s (· == 1) (BitVec.ofNat 64 a) 8)).getD s)
    | .ok ls => match put ls with
      | some s' => finish 0 (fin r a) s'
      | none => trap (heapTrap x) s

/-- HPIN (R264). -/
def execHpin (d : SReg) (h : HReg) (s : State) : Out :=
  .next (pinRmw (.hpin d h) h (fun n => if n = 65535 then none else some (n + 1))
    (fun r a t => setS d (BitVec.ofNat 64 a) (setH h r t)) s)

/-- HUNPIN (R264). -/
def execHunpin (h : HReg) (s : State) : Out :=
  .next (pinRmw (.hunpin h) h (fun n => if n = 0 then none else some (n - 1)) (fun r _ t => setH h r t) s)

/-- HHEAL (R264): a null reference does nothing. -/
def execHheal (h : HReg) (s : State) : Out :=
  .next (if hreg s.cur h = 0 then finish 0 id s
    else withRef (.hheal h) (hreg s.cur h) .heal s fun r _ _ => finish 0 (setH h r) s)

/-- HCMP (R264). -/
def execHcmp (d : SReg) (h g : HReg) (s : State) : Out :=
  let x := hreg s.cur h
  let y := hreg s.cur g
  .next (if x = 0 || y = 0 then finish 0 (setS d (if x = y then 1 else 0)) s
    else withRef (.hcmp d h g) x .heal s fun r a _ => withRef (.hcmp d h g) y .heal s fun q b _ =>
      finish 0 (fun t => setS d (if a = b then 1 else 0) (setH g q (setH h r t))) s)

/-- HALLOC of `n` granules (R265). A page at `b` of another class than managed traps HEAP (R242), and a poisoned region entry ECC; EVAL
is `b`, since HALLOC has no base reference to report: DESIGN CHOICE (log entry 55). -/
def halloc (d : HReg) (n : Nat) (s : State) : State :=
  let t := s.cur
  let b := refAddr t.ctl.habuf
  let l := refAddr t.ctl.halim
  let miss := trap (heapTrap (BitVec.ofNat 64 b)) s
  if !inManaged b || !inManaged (l - 1) || l = 0 || (b - Config.wbase) / 2 ^ 30 != (l - 1 - Config.wbase) / 2 ^ 30 then miss
  else if badPhys s (regionPa t.ctl.hreg ((b - Config.wbase) / 2 ^ 30)) 16 then trap ⟨cECC, BitVec.ofNat 64 b, 0⟩ s
  else match regionOf s (cidOf t) t.ctl.hreg ((b - Config.wbase) / 2 ^ 30) with
    | none => miss
    | some e =>
      if e.state = 0 || l < b + 16 * n then miss
      else orTrap (heapPlaces s (BitVec.ofNat 64 b) (BitVec.ofNat 64 b) 16 .store) s fun ls =>
        finish 0 (fun t => setH d (recolour (BitVec.ofNat 64 b) e.good)
            (modC (fun c => { c with habuf := setFld c.habuf 4 53 (b / 16 + n) }) t))
          (writeAll (wrBytes ls (leBytes 16 n)) s)

/-- HALLOC with an immediate size (R265). -/
def execHallocImmediate (d : HReg) (n : BitVec 13) (s : State) : Out := .next (halloc d n.toNat s)
/-- HALLOC with a size in a register (R265). -/
def execHallocRegister (d : HReg) (r : SReg) (s : State) : Out :=
  .next (guardS [r] s (
    let n := (rs 0 s r).toNat
    if n = 0 || 16777215 < n then trapWord cILL (.hallocRegister d r) s else halloc d n s))

/-- A branch on a reference (R266). -/
def branchH (c : Bool) (o : BitVec 13) (s : State) : State :=
  guardEnd s (if c then transfer 0 true (s.cur.pc + 4 * o.signExtend 64) id s else finish 0 id s)
/-- HNUL (R266). -/
def execHnul (h : HReg) (o : BitVec 13) (s : State) : Out := .next (branchH (hreg s.cur h == 0) o s)
/-- HNUL.N (R266). -/
def execHnulN (h : HReg) (o : BitVec 13) (s : State) : Out := .next (branchH (hreg s.cur h != 0) o s)

end Sys2Proof.Machine
end

