-- ==== Sys2Proof/Machine/Trace.lean ====
section
/-! DEFINITION. Trace records and their queues (16 R394-R402), frames in memory (13 R347-R349) and postings to the host
fault queue (13 R355, R356). -/

namespace Sys2Proof.Machine

-- records (R398, R400)

/-- A record of two words. -/
def mkRec (w0 w1 : Nat) : BitVec 128 := BitVec.ofNat 128 (w0 % 2 ^ 64 + w1 % 2 ^ 64 * 2 ^ 64)

/-- Word 0 of a record (R398): the pipe or marker type, KIND, context, DELTA and the low half. -/
def recWord0 (pipe kind ctx delta low : Nat) : Nat :=
  pipe * 2 ^ 61 + kind * 2 ^ 59 + ctx * 2 ^ 58 + delta * 2 ^ 32 + low % 2 ^ 32

/-- DELTA of a record: cycles are not modelled, so it is a free value (R401, log entry 8). -/
def deltaOf (s : State) (c : Core) (k : Nat) : Nat := (Config.freeDelta s.tick (c.ring.queue.length + k)).toNat

/-- The clock of a step in MHz (R451 PSTEP, R400). -/
def clockMHz (p : Pkg) : Nat := 2400 - 150 * fld p.health 56 4

/-- A TIMESYNC with a free TCLK (R400, R401, log entry 8). -/
def timeSync (s : State) (k : Nat) : BitVec 128 :=
  mkRec (recWord0 0 3 0 0 (clockMHz s.pkg)) (Config.freeCycles (s.tick + k)).toNat

/-- DELTA of record `k` of a step would exceed its field, so that a TIMESYNC comes before the record (R401): time is not modelled,
so this is a free choice (log entry 8). -/
def deltaLate (s : State) (k : Nat) : Bool := Config.freeBit s.tick (1000 + k)
/-- Records that carry a time, each after the TIMESYNC it needs. -/
def timed (s : State) (rs : List (BitVec 128)) : List (BitVec 128) :=
  rs.zipIdx.flatMap fun (r, k) => if deltaLate s k then [timeSync s k, r] else [r]

/-- The ring takes `n` more records (R396): the queue of 64 and, where the ring does not wrap, the ring itself. -/
def ringTakes (c : Core) (n : Nat) : Bool :=
  let q := c.ring.queue.length + c.ring.owed + n + (if c.ring.dropped then 2 else 0)
  decide (q ≤ 64) && (c.ring.wrap || decide ((c.ring.tail - c.ring.head).toNat + q ≤ 2 ^ c.ring.log2))

/-- The core queues these records and keeps room for `owe` more (R396, R397); while a record of a logged thread waits for the
queue, no other enters it (R413). -/
def ringAccepts (c : Core) (n owe : Nat) : Bool := c.ring.en && c.ring.held.isEmpty && ringTakes c (n + owe)

/-- The markers a ring writes after it has dropped records: LOST, then TIMESYNC (R400, R401). -/
def lostMarks (s : State) (r : Ring) : List (BitVec 128) :=
  if r.dropped then [mkRec (recWord0 1 3 0 (Config.freeDelta s.tick 1100).toNat 0) r.lost.toNat, timeSync s 61] else []

/-- The work a core owes once a record is queued. -/
def owesTail (cid : Nat) (s : State) : State :=
  if s.work.contains (.traceTailWrite cid) then s else { s with work := s.work ++ [.traceTailWrite cid] }

/-- Records `rs` and the raw data `data` that follow the last of them go into the queue, or are dropped together and counted in
LOST (R396, R397). Those of a logged thread that may not be dropped (`who`, its frame) are held until the core can queue them
(R413). `owe` end records come later. -/
def putRecs (cid owe : Nat) (who : Option Nat) (rs data : List (BitVec 128)) (s : State) : State :=
  let c := coreOf s cid
  let l := timed s rs ++ data
  if ringAccepts c l.length owe then
    owesTail cid (setCore cid { c with ring := { c.ring with
      queue := c.ring.queue ++ lostMarks s c.ring ++ l, owed := c.ring.owed + owe, dropped := false } } s)
  else match who with
    | some f => owesTail cid (setCore cid { c with ring := { c.ring with held := c.ring.held ++ [(f, l)] } } s)
    | none =>
      if !c.ring.en then s
      else setCore cid { c with ring := { c.ring with
        lost := BitVec.ofNat 32 (min (2 ^ 32 - 1) (c.ring.lost.toNat + rs.length + owe)), dropped := true } } s

/-- The TIMESYNC of a change of clock in a ring that is active, also one whose EN has fallen and that still owes end records (R394,
R401, R457); dropped where the ring does not take it. -/
def putClock (cid : Nat) (s : State) : State :=
  let c := coreOf s cid
  if !c.ring.act then s
  else if c.ring.held.isEmpty && ringTakes c 1 then
    owesTail cid (setCore cid { c with ring := { c.ring with queue := c.ring.queue ++ lostMarks s c.ring ++ [timeSync s cid], dropped := false } } s)
  else setCore cid { c with ring := { c.ring with lost := BitVec.ofNat 32 (min (2 ^ 32 - 1) (c.ring.lost.toNat + 1)), dropped := true } } s

/-- Held records with one more behind the first group. -/
def afterFirst (r : BitVec 128) : List (Nat × List (BitVec 128)) → List (Nat × List (BitVec 128))
  | [] => []
  | (f, g) :: l => (f, g ++ [r]) :: l

/-- An end record whose begin record was taken (R397); it does not come between the records of a log that is written in part (R415). -/
def putOwed (cid : Nat) (r : BitVec 128) (s : State) : State :=
  let c := coreOf s cid
  if c.ring.owed = 0 then s
  else if c.ring.cutLog && !c.ring.held.isEmpty then
    setCore cid { c with ring := { c.ring with held := afterFirst r c.ring.held, owed := c.ring.owed - 1 } } s
  else
    let l := if ringTakes c 1 then timed s [r] else [r]
    owesTail cid (setCore cid { c with ring := { c.ring with queue := c.ring.queue ++ l, owed := c.ring.owed - 1 } } s)

/-- A marker (R400); a logged thread's markers of TYPE 2-6 are not dropped (R413). -/
def putMarker (t : Thread) (type low w1 : Nat) (s : State) : State :=
  putRecs (cidOf t) 0 (if t.logged then some t.frame else none)
    [mkRec (recWord0 type 3 t.ctx (deltaOf s (coreOf s (cidOf t)) 0) low) w1] [] s

/-- LOG records: one header, with context and DELTA as R400 lays them out, and its data records (R415). -/
def putLog (t : Thread) (kind : Nat) (seq : Nat) (w1 : Word) (data : List (BitVec 128)) (s : State) : State :=
  if !t.logged then s
  else putRecs (cidOf t) 0 (some t.frame)
    [mkRec (recWord0 7 3 t.ctx (deltaOf s (coreOf s (cidOf t)) 0) (kind * 2 ^ 24 + seq % 2 ^ 24)) w1.toNat] data s

-- frames (R347, R349)

def frameRd (s : State) (frame off n : Nat) : Nat :=
  match framePa s (frame * 65536 + off) with
  | some pa => rdPhys s pa n
  | none => 0
def frameWr (frame off n x : Nat) (s : State) : State :=
  match framePa s (frame * 65536 + off) with
  | some pa => wrPhys pa n x s
  | none => s

-- the host fault queue (R355, R356)

/-- Posts an entry; its SEQ is given when the ring has room for it. -/
def postFault (ws : List Word) (s : State) : State :=
  let s := modPkg (fun p => { p with fqWait := p.fqWait ++ [ws] }) s
  { s with work := s.work ++ [.faultQueuePost] }

/-- The entry of KIND 1, 2, 4 or 5 (R356). -/
def faultEntry (kind asid frame : Nat) (place ecause epc eval erec : Word) : List Word :=
  [BitVec.ofNat 64 (kind + asid * 2 ^ 16 + frame * 2 ^ 32), place, ecause, epc, eval, erec, 0, 0]

end Sys2Proof.Machine
end

