-- ==== Sys2Proof/Machine/MapUnit.lean ====
section
/-! DEFINITION. The matrix register map (07 R194-R207): entries, slots, the map step, spills and fills, and landing slots
that leave their register (11 R313). -/

namespace Sys2Proof.Machine

-- entries and slots

def entryOf (m : NMap MapEntry) (r : Nat) : Entry := (tget m {} r).entry
def setEntry (r : Nat) (e : Entry) (m : NMap MapEntry) : NMap MapEntry := tset m {} r { tget m {} r with entry := e }
def setAge (r age pos : Nat) (m : NMap MapEntry) : NMap MapEntry := tset m {} r { tget m {} r with age := age, pos := pos }

/-- The partition [lo, hi) of a context (R196). -/
def partOf (c : Core) (ctx : Nat) : Nat × Nat :=
  if ctx = 0 then (0, splitC0 c) else (splitC0 c, splitC0 c + splitC1 c)

/-- A register's slot, when it is RESIDENT. -/
def slotOf (m : NMap MapEntry) (r : Nat) : Option (Nat × Bool × Bool) :=
  match entryOf m r with
  | .resident k d l => some (k, d, l)
  | _ => none
def isResident (m : NMap MapEntry) (r : Nat) : Bool := (slotOf m r).isSome

/-- Registers held, with their slots. -/
structure HeldSlot where
  reg : Nat
  slot : Nat
  dirty : Bool
  land : Bool
  age : Nat
  pos : Nat
  deriving DecidableEq, Repr

def heldSlots (m : NMap MapEntry) : List HeldSlot :=
  m.filterMap fun (r, e) => match e.entry with
    | .resident k d l => some ⟨r, k, d, l, e.age, e.pos⟩
    | _ => none

/-- How an operand is accessed (R199); `fillFrom` takes a slot and is filled from another register's backing tile (R219). -/
inductive MAcc | read | full | partial' | readWrite | fillFrom (src : Nat)
  deriving DecidableEq, Repr

/-- One movement of a map step, in the order of its events (R202). -/
inductive Mv
  | alloc (r slot : Nat) (zero : Bool)
  | fill (r src slot : Nat)
  | spill (r slot : Nat) (land : Bool)
  | evict (r slot : Nat) (land : Bool)
  | drop (r slot : Nat) (land : Bool)
  | retag (d r slot : Nat)
  | bind (r slot : Nat)
  | foreignOut (slot : Nat)
  deriving DecidableEq, Repr

/-- A map step being formed: the entries, the foreign slots left, the movements so far. -/
structure MapPlan where
  map : NMap MapEntry
  foreign : List Nat
  moves : List Mv
  deriving DecidableEq, Repr

/-- The held slot of smallest recency. -/
def oldest (l : List HeldSlot) : Option HeldSlot :=
  l.foldl (fun b x => match b with
    | none => some x
    | some y => if x.age < y.age || (x.age == y.age && x.pos < y.pos) then some x else b) none

/-- Victims of choose_slot in order of recency until one lies in the partition (R200). -/
def evictUntil (lo hi : Nat) : Nat → List HeldSlot → MapPlan → Option (Nat × MapPlan)
  | 0, _, _ => none
  | n + 1, l, p =>
    match oldest l with
    | none => none
    | some v =>
      let p := { p with
        map := setEntry v.reg .backed p.map
        moves := p.moves ++ [if v.dirty then .spill v.reg v.slot v.land else .evict v.reg v.slot v.land] }
      if v.land then evictUntil lo hi n (l.filter (· != v)) p else some (v.slot, p)

/-- choose_slot (R200, R201): none where no slot of the partition may be used. -/
def chooseSlot (lo hi : Nat) (operands : List Nat) (p : MapPlan) : Option (Nat × MapPlan) :=
  let held := heldSlots p.map
  let used := held.map (·.slot)
  match ((List.range hi).filter (lo ≤ ·)).find? fun k => !used.contains k && !p.foreign.contains k with
  | some k => some (k, p)
  | none =>
    match p.foreign.filter fun k => decide (lo ≤ k) && decide (k < hi) with
    | k :: _ => some (k, { p with foreign := p.foreign.filter (· != k), moves := p.moves ++ [.foreignOut k] })
    | [] =>
      let c := held.filter fun h => !operands.contains h.reg
      if c.any fun h => decide (lo ≤ h.slot) && decide (h.slot < hi) then evictUntil lo hi (c.length + 1) c p else none

/-- A register whose slot is not dirty goes back to its backing tile. -/
def dropClean (r : Nat) (m : NMap MapEntry) : NMap MapEntry :=
  match entryOf m r with
  | .resident _ false _ => setEntry r .backed m
  | _ => m

def markDirty (r : Nat) (m : NMap MapEntry) : NMap MapEntry :=
  match entryOf m r with
  | .resident k _ l => setEntry r (.resident k true l) m
  | _ => m

/-- One operand of the map step (R200). -/
def mapOperand (lo hi age : Nat) (operands : List Nat) (pos : Nat) (r : Nat) (a : MAcc) (p : MapPlan) : Option MapPlan :=
  let touch (p : MapPlan) : MapPlan :=
    let m := setAge r age pos p.map
    { p with map := if a = .read then m else markDirty r m }
  let take (f : Nat → MapPlan → MapPlan) : Option MapPlan := (chooseSlot lo hi operands p).map fun (k, p) => touch (f k p)
  let res (k : Nat) (d : Bool) (v : Mv) (p : MapPlan) : MapPlan :=
    { p with map := setEntry r (.resident k d false) p.map, moves := p.moves ++ [v] }
  match a, entryOf p.map r with
  | .fillFrom src, .resident k _ _ => some (touch { p with moves := p.moves ++ [.fill r src k] })
  | .fillFrom src, _ => take fun k => res k true (.fill r src k)
  | _, .resident .. => some (touch p)
  | .read, .zero => some p
  | .full, _ => take fun k => res k true (.alloc r k false)
  | _, .zero => take fun k => res k true (.alloc r k true)
  | _, .backed => take fun k => res k false (.fill r r k)

def mapOperands (lo hi age : Nat) (operands : List Nat) : Nat → List (Nat × MAcc) → MapPlan → Option MapPlan
  | _, [], p => some p
  | pos, (r, a) :: l, p =>
    match mapOperand lo hi age operands pos r a p with
    | some p => mapOperands lo hi age operands (pos + 1) l p
    | none => none

def startPlan (s : State) : MapPlan := ⟨s.cur.map, tkeys (coreOf s (cidOf s.cur)).tags, []⟩

/-- The plan of a map step with the given operands, or none (R201). -/
def planOf (s : State) (ops : List (Nat × MAcc)) : Option MapPlan :=
  let (lo, hi) := partOf (coreOf s (cidOf s.cur)) s.cur.ctx
  mapOperands lo hi s.cur.issued (ops.map (·.1)) 0 ops (startPlan s)

-- backing tiles (R194, R197)

def backAddr (t : Thread) (r : Nat) : Word := vaOf t.ctl.mapbase + BitVec.ofNat 64 (Config.slotBytes * r)

/-- A backing page: present, of CLASS normal, no window, and writable where a spill goes to it, a fill being a load (R194, R197, R342;
DEDUCED for the windows, log entry 13). -/
def backPage (s : State) (write : Bool) (pgroot : Word) (a : Word) : Except Bad (List Loc) :=
  if !canonical a || (windowOf {} a.toNat).isSome then .error .miss
  else match walk s pgroot a.toNat with
    | .error b => .error b
    | .ok l => if (!write || l.w) && l.cls == 0 then .ok (leafLocs s l 4096) else .error .miss

/-- The places of a backing tile, or its lowest failing address. -/
def backPlaces (s : State) (write : Bool) (pgroot : Word) (a : Word) : Except (Bad × Word) (List Loc) :=
  (List.range 4).foldl (fun acc p => match acc with
    | .error e => .error e
    | .ok ls => match backPage s write pgroot (a + BitVec.ofNat 64 (4096 * p)) with
      | .ok page => .ok (ls ++ page)
      | .error b => .error (b, a + BitVec.ofNat 64 (4096 * p))) (.ok [])

/-- Backing tiles of the thread that the movements read, or write (true). -/
def ownTiles (l : List Mv) : List (Nat × Bool) :=
  l.filterMap fun v => match v with
    | .fill _ src _ => some (src, false)
    | .spill r _ _ => some (r, true)
    | _ => none

/-- The check of R197 and R200 before a map step: the trap with the lowest failing address. -/
def checkTiles (s : State) (rs : List (Nat × Bool)) : Option TrapInfo :=
  let bad := rs.filterMap fun (r, w) => match backPlaces s w s.cur.ctl.pgroot (backAddr s.cur r) with
    | .error e => some e
    | .ok _ => none
  match bad.foldl (fun b (x, a) => match b with
    | some (_, c) => if a.toNat < c.toNat then some (x, a) else b
    | none => some (x, a)) (none : Option (Bad × Word)) with
  | some (.ecc, a) => some ⟨cECC, a, 0⟩
  | some (_, a) => some ⟨cMAPF, a, 0⟩
  | none =>
    if rs.any fun (r, w) => match backPlaces s w s.cur.ctl.pgroot (backAddr s.cur r) with
      | .ok ls => ls.any (locFenced s)
      | .error _ => false
    then some ⟨cLINK, 2, 0⟩ else none

-- slots and their data

def slotLocs (cid slot : Nat) : List Loc := (List.range Config.slotBytes).map fun i => .store cid (slot * Config.slotBytes + i)

/-- Elements of a slot that hold an uncorrectable error (R212), and the same cleared. -/
def slotBad (c : Core) (slot : Nat) : List Nat := (c.bad.filter fun e => e / 4096 == slot).map (· % 4096)
def clearSlotBad (slot : Nat) (p : Nat → Bool) (c : Core) : Core :=
  { c with bad := c.bad.filter fun e => !(e / 4096 == slot && p (e % 4096)) }

/-- A slot written to memory: a bad element poisons its sector there (R212). -/
def tileOut (cid slot : Nat) (ls : List Loc) (s : State) : State :=
  let c := coreOf s cid
  let s := writeAll (wrBytes ls (leBytes Config.slotBytes (tileOf c slot).toNat)) s
  (slotBad c slot).foldl (fun s e => match ls[4 * e]? with
    | some l => poisonSector (sectorOf l) s
    | none => s) s

/-- A tile written to its backing pages sets the arrangement of their units (R343). -/
def noteTile (s0 : State) (pgroot a : Word) (s : State) : State :=
  (List.range 4).foldl (fun s p => noteStore s0 pgroot (a + BitVec.ofNat 64 (4096 * p)).toNat 4096 s) s

/-- A slot loaded from memory: a poisoned sector makes its eight elements bad (R212). -/
def tileIn (cid slot : Nat) (ls : List Loc) (s : State) : State :=
  let bad := (List.range 4096).filter fun e => match ls[4 * e]? with
    | some l => poisoned s l
    | none => false
  let x : Tile := BitVec.ofNat 131072 (ofBytes (readBytes s ls))
  modCore cid (fun c => let c := clearSlotBad slot (fun _ => true) (setTile slot x c)
    { c with bad := bad.foldl (fun l e => sinsert l (slot * 4096 + e)) c.bad }) s

-- landing headers (R304, R310, R313)

/-- A field of a sync word or landing header; `w` is the word's byte in the core's matrix store. -/
def hdrLocs (cid w n : Nat) : List Loc := (List.range n).map fun i => .store cid (w + i)
def hdrRd (s : State) (cid w n : Nat) : Nat := ofBytes (readBytes s (hdrLocs cid w n))
def hdrWr (cid w n x : Nat) (s : State) : State := writeAll (wrBytes (hdrLocs cid w n) (leBytes n x)) s

/-- FLAGS of a sync word (R304). -/
def flagsRd (s : State) (cid w : Nat) : Word := BitVec.ofNat 64 (hdrRd s cid (w + 12) 4)
def flagsWr (cid w : Nat) (f : Word) (s : State) : State := hdrWr cid (w + 12) 4 f.toNat s

/-- Whether SLOT of a landing header names a slot of the core's scratchpad (R310). Software that changes it to another value breaks
R304's "must not", and what it sends then goes nowhere, so that no slot of another thread changes: DESIGN CHOICE (R10, log entry
31). -/
def dataSlot (c : Core) (slot : Nat) : Bool := decide (scratchSlot c ≤ slot) && decide (slot < 256)

/-- A change of the data slot of a landing header (R310). -/
def intoSlot (cid slot : Nat) (f : Core → Core) (s : State) : State :=
  if dataSlot (coreOf s cid) slot then modCore cid f s else s

/-- A word that SARM, MRECV or a merge has handled, as one that may be a merging landing header (R372). -/
def noteHeader (cid w : Nat) (s : State) : State := modCore cid (fun c => { c with headers := sinsert c.headers w }) s

/-- The data slot and MS of a merging landing as SARM leaves them (R305). -/
def resetMerge (cid w : Nat) (s : State) : State :=
  let slot := hdrRd s cid (w + 16) 4
  let s := intoSlot cid slot (fun c => clearSlotBad slot (fun _ => true) (setTile slot 0 c)) s
  (List.range 8).foldl (fun s h => hdrWr cid (w + 64 + 8 * h) 8 0x00000000FF800000 s) s

/-- A bound landing slot leaves its register (R313). -/
def unbind (cid slot : Nat) (s : State) : State :=
  let c := coreOf s cid
  match (c.bound.find? fun (k, _) => k == slot) with
  | none => s
  | some (_, w) =>
    let s := noteHeader cid w (setCore cid { c with bound := terase c.bound slot } s)
    let f := setFld (flagsRd s cid w) 6 1 0
    if wbit f 1 then
      let s := flagsWr cid w (setFld (setFld f 0 1 1) 4 1 1) (hdrWr cid (w + 4) 4 0 s)
      if wbit f 30 then resetMerge cid w s else s
    else flagsWr cid w f s

-- events (R202, R399)

/-- INFO of a map event. -/
def mapInfo (ev reg src slot : Nat) (foreign : Bool) : Nat :=
  ev * 2 ^ 28 + reg * 2 ^ 19 + src * 2 ^ 10 + slot * 4 + foreign.toNat * 2

/-- A map event of thread `t` that is one point (R397). -/
def mapPoint (t : Thread) (ev reg src slot : Nat) (foreign : Bool) (s : State) : State :=
  if !wbit t.ctl.trctl 7 then s
  else putRecs (cidOf t) 0 none
    [mkRec (recWord0 7 2 t.ctx (deltaOf s (coreOf s (cidOf t)) 0) t.seq)
      ((inSup t).toNat * 2 ^ 38 + mapInfo ev reg src slot foreign)] [] s

/-- A byte of a memory stack, in this package or another, and not of the host's memory (R365). -/
def inStack : Loc → Bool
  | .phys pa => pa / 2 ^ 49 == 0
  | .store .. => false

/-- A FILL or SPILL of the tile at `ls` begins; its end comes with the completion of the transfer (R397). -/
def mapSpan (t : Thread) (spill : Bool) (reg slot : Nat) (foreign : Bool) (ls : List Loc) (s : State) : State :=
  let info := mapInfo (if spill then 2 else 1) reg 0 slot foreign
  let c := coreOf s (cidOf t)
  let rs := [mkRec (recWord0 7 0 t.ctx (deltaOf s c 0) t.seq) ((inSup t).toNat * 2 ^ 38 + info)]
  let traced := wbit t.ctl.trctl 7 && ringAccepts c (timed s rs).length 1
  let s := if wbit t.ctl.trctl 7 then putRecs (cidOf t) 1 none rs [] s else s
  let s := modCore (cidOf t) (fun c => { c with xfers := c.xfers ++
    [⟨t.frame, t.ctx, t.seq, spill, BitVec.ofNat 32 info, inSup t, traced, ls.any inStack⟩] }) s
  { s with work := s.work ++ [.mapTransferComplete (cidOf t)] }

/-- The pack of a saved thread is parked after a failed foreign spill (R197 steps 2-4). -/
def lostSpill (frame reg : Nat) (addr : Word) (s : State) : State :=
  let e := frameRd s frame (0xC00 + 2 * reg) 2
  let s := frameWr frame (0xC00 + 2 * reg) 2 (e % 0x1000 + 0x1000 + e / 0x2000 * 0x2000) s
  let h := BitVec.ofNat 64 (frameRd s frame 0 8)
  let s := frameWr frame 0 8 (setFld h 8 2 2).toNat s
  let s := { s with packs := s.packs.map fun p =>
    if (p.state == .saved || p.state == .resuming) && p.members.any (fun m => m.frame == frame && !m.ended) then { p with state := .parked } else p }
  postFault (faultEntry 5 (fld h 48 12) frame (BitVec.ofNat 64 (frameRd s frame 8 8)) (BitVec.ofNat 64 cMAPF)
    (BitVec.ofNat 64 (frameRd s frame 16 8)) addr 0) s

/-- Who emits the events of a release by the dispatcher: the saved thread, with the TRCTL and mode of its frame. The manual names
no thread for them: DESIGN CHOICE (log entry 50). -/
def savedEmitter (s : State) (cid frame : Nat) : Thread :=
  let c : Ctl := { trctl := BitVec.ofNat 64 (frameRd s frame 0x500 8), estat := BitVec.ofNat 64 (frameRd s frame 0x7B0 8) }
  { frame := frame, sett := cid / 32, core := cid % 32, ctx := frameRd s frame 8 8 / 2 ^ 12 % 2, ctl := c }

/-- A foreign slot is released: SPILL if dirty, else EVICT (R197, R200, R205, R206), on account of a running thread or, with none,
of the dispatcher. The backing address that a lost spill posts is that of the lowest page that fails, or the tile's where its home is
fenced: DESIGN CHOICE (log entry 54). -/
def foreignOut (by' : Option Thread) (cid slot : Nat) (s : State) : State :=
  let c := coreOf s cid
  match c.tags.find? fun (k, _) => k == slot with
  | none => s
  | some (_, g) =>
    let s := setCore cid { c with tags := terase c.tags slot } s
    let emit := by'.getD (savedEmitter s cid g.frame)
    if !g.dirty then mapPoint emit 3 g.reg 0 slot true s
    else match backPlaces s true g.pgroot g.addr with
      | .ok ls =>
        if ls.any (locFenced s) then lostSpill g.frame g.reg g.addr (mapPoint emit 4 g.reg 0 slot true s)
        else noteTile s g.pgroot g.addr (tileOut cid slot ls (mapSpan emit true g.reg slot true ls s))
      | .error (_, a) => lostSpill g.frame g.reg a (mapPoint emit 4 g.reg 0 slot true s)

/-- One movement, with its data and its event. -/
def applyMv (s : State) (v : Mv) : State :=
  let t := s.cur
  let cid := cidOf t
  let out (r slot : Nat) (land : Bool) (s : State) : State :=
    let s := match backPlaces s true t.ctl.pgroot (backAddr t r) with
      | .ok ls => noteTile s t.ctl.pgroot (backAddr t r) (tileOut cid slot ls s)
      | .error _ => s
    if land then unbind cid slot s else s
  match v with
  | .alloc r k zero =>
    mapPoint t 0 r 0 k false (if zero then modCore cid (fun c => clearSlotBad k (fun _ => true) (setTile k 0 c)) s else s)
  | .fill r src k =>
    match backPlaces s false t.ctl.pgroot (backAddr t src) with
    | .ok ls => mapSpan t false r k false ls (tileIn cid k ls s)
    | .error _ => mapSpan t false r k false [] s
  | .spill r k land => out r k land (mapSpan t true r k false ((backPlaces s true t.ctl.pgroot (backAddr t r)).toOption.getD []) s)
  | .evict r k land => (if land then unbind cid k else id) (mapPoint t 3 r 0 k false s)
  | .drop r k land => (if land then unbind cid k else id) (mapPoint t 4 r 0 k false s)
  | .retag d r k => mapPoint t 5 d r k false s
  | .bind r k => mapPoint t 6 r 0 k false s
  | .foreignOut k => foreignOut (some t) cid k s

/-- A formed map step takes place. -/
def applyPlan (p : MapPlan) (s : State) : State :=
  let s := p.moves.foldl applyMv s
  modT (fun t => { t with map := p.map }) s

/-- The movement that frees a register's slot, and the entry ZERO (R203, R219). -/
def dropPlan (r : Nat) (p : MapPlan) : MapPlan :=
  let v : List Mv := match slotOf p.map r with
    | some (k, _, l) => [.drop r k l]
    | none => []
  { p with map := terase p.map r, moves := p.moves ++ v }

/-- Last-use reads and MDEAD: each register's entry becomes ZERO (R203). -/
def dropRegs (l : List Nat) (s : State) : State := applyPlan (l.foldl (fun p r => dropPlan r p) (startPlan s)) s

-- follow-ons in the way (R301, R302)

/-- The register a follow-on word names. -/
def folReg (f : FollowOn) : Nat := f.word.toNat / 65536 % 512

/-- The instruction waits for pending follow-ons of registers it names, and takes the trap of one that an uncorrectable error stopped
(R301, R302). -/
def guardFol (rs : List Nat) (s : State) (k : State) : State :=
  match s.cur.folBad.find? fun (r, _) => rs.contains r with
  | some (r, v) => trap ⟨cECC, v, 0⟩ (modT (fun t => { t with folBad := t.folBad.filter (·.1 != r) }) s)
  | none => if s.cur.fols.any fun f => rs.contains (folReg f) then s else k

def mvReg : Mv → List Nat
  | .alloc r _ _ | .fill r _ _ | .spill r _ _ | .evict r _ _ | .drop r _ _ | .bind r _ => [r]
  | .retag d r _ => [d, r]
  | .foreignOut _ => []

/-- The map step of an instruction (R200): ILL without a slot, MAPF where a tile fails, or the step and then `k`. It waits for the
pending follow-on of a register that it moves, as a victim too, and takes no trap for one that an error stopped (R302). -/
def mapPlan (i : Instr) (p : Option MapPlan) (s : State) (k : State → State) : State :=
  match p with
  | none => trapWord cILL i s
  | some p =>
    match checkTiles s (ownTiles p.moves) with
    | some e => trap e s
    | none => if s.cur.fols.any fun f => (p.moves.flatMap mvReg).contains (folReg f) then s else k (applyPlan p s)

def mapStep (i : Instr) (ops : List (Nat × MAcc)) (s : State) (k : State → State) : State :=
  guardFol (ops.map (·.1)) s (mapPlan i (planOf s ops) s k)

-- values (R194)

/-- Element number 64 i + j of a tile. -/
def tileElt (x : Tile) (e : Nat) : F32 := x.extractLsb' (32 * e) 32
/-- A tile from its elements. -/
def tileMk (f : Nat → F32) : Tile := BitVec.ofNat 131072 ((List.range 4096).foldr (fun e n => (f e).toNat + 2 ^ 32 * n) 0)

/-- The value of a register whose entry is ZERO or RESIDENT. -/
def mval (s : State) (r : Nat) : Tile :=
  match slotOf s.cur.map r with
  | some (k, _, _) => tileOf (coreOf s (cidOf s.cur)) k
  | none => 0

/-- The first element among `es` that holds an uncorrectable error, and the trap of R212. -/
def mBad (s : State) (r : Nat) (es : Nat → Bool) : Option Nat :=
  match slotOf s.cur.map r with
  | some (k, _, _) => (slotBad (coreOf s (cidOf s.cur)) k).find? es
  | none => none
def eccM (r : Nat) : TrapInfo := ⟨cECC, BitVec.ofNat 64 (2 ^ 63 + 0x3000 + r), 0⟩

/-- Elements `es` of a RESIDENT register take the values of `f`; they are then good (R212). -/
def mwrite (r : Nat) (es : Nat → Bool) (f : Nat → F32) (s : State) : State :=
  match slotOf s.cur.map r with
  | some (k, _, _) =>
    modCore (cidOf s.cur) (fun c =>
      let x := tileOf c k
      clearSlotBad k es (setTile k (tileMk fun e => if es e then f e else tileElt x e) c)) s
  | none => s

/-- The completion of a transfer: its end record (R397), with REFRESH as a free bit where the tile lies in stacked memory (R385, log
entry 8). -/
def execMapTransferComplete (cid : Nat) (s : State) : Out :=
  let c := coreOf s cid
  match c.xfers with
  | [] => .next s
  | x :: l =>
    let s := setCore cid { c with xfers := l } s
    .next { (if x.traced then putOwed cid
      (mkRec (recWord0 7 1 x.ctx (deltaOf s c 0) x.seq) (x.sup.toNat * 2 ^ 38 + (x.stacked && Config.freeBit s.tick 62).toNat * 2 ^ 32 + x.info.toNat)) s else s) with tick := s.tick + 1 }

-- MSPLIT and MAPBASE (R205, R207)

/-- Some slot of the core holds a register of a thread now on a context (R205). -/
def coreHolds (s : State) (cid : Nat) : Bool :=
  (s.cur :: s.others).any fun u => u.live && cidOf u == cid && !(heldSlots u.map).isEmpty

/-- Slots that change role hold free bytes (R205, log entry 7), and no landing header any longer (R372). -/
def freshSlots (tick : Nat) (slots : List Nat) (c : Core) : Core :=
  let c := { c with headers := c.headers.filter fun w => !slots.contains (w / Config.slotBytes) }
  slots.foldl (fun c k => clearSlotBad k (fun _ => true) (setTile k (BitVec.ofNat 131072
    (ofBytes ((List.range Config.slotBytes).map fun j => Config.freeByte tick (k * Config.slotBytes + j)))) c)) c

/-- A write of MSPLIT (R205): foreign slots are released before the new value takes effect, in ascending slot number, which R449 leaves
to the device: DESIGN CHOICE (log entry 50). -/
def writeMsplit (by' : Option Thread) (cid : Nat) (v : Word) (s : State) : State :=
  let c := coreOf s cid
  if v = c.msplit then s
  else
    let s := (tkeys c.tags).foldl (fun s k => foreignOut by' cid k s) s
    let old := splitC0 c + splitC1 c
    let new := fld v 0 9 + fld v 16 9
    let changed := (List.range 256).filter fun k => decide (min old new ≤ k) && decide (k < max old new)
    modCore cid (fun c => freshSlots s.tick changed { c with msplit := v }) s

end Sys2Proof.Machine
end

