-- ==== Sys2Proof/Machine/Matrix.lean ====
section
/-! DEFINITION. Matrix instructions (07 R208-R220), majors 0x58-0x5F. -/

namespace Sys2Proof.Machine

/-- Element numbers of the active shape (R209). -/
def inShape (t : Thread) (e : Nat) : Bool := decide (e / 64 < rowsOf t) && decide (e % 64 < colsOf t)

/-- The span check of R210. -/
def guardSpan (i : Instr) (sew n : Nat) (s : State) (k : State) : State :=
  if lanesOf s.cur = 0 || vlmax s.cur sew < n then trapWord cVLX i s else k

/-- A vector source read over its low `n` bytes that holds an uncorrectable error (R151, R212). -/
def guardVec (l : List (VReg × Nat)) (s : State) (k : State) : State :=
  match l.find? fun (r, n) => s.cur.vbad.any fun (q, j) => q == r.val && decide (j < n) with
  | some (r, _) => trap (eccV r) s
  | none => k

/-- A matrix source read at elements `es` (R212). -/
def guardMat (r : Nat) (es : Nat → Bool) (s : State) (k : State) : State :=
  match mBad s r es with
  | some _ => trap (eccM r) s
  | none => k

/-- Elements of the shape with the value and flags a function gives them. -/
def shapeOut (t : Thread) (f : Nat → Nat → R32) : List (Nat × R32) :=
  (List.range (rowsOf t)).flatMap fun i => (List.range (colsOf t)).map fun j => (64 * i + j, f i j)

/-- Those values written into a register, and their flags. -/
def shapeWrite (r : Nat) (out : List (Nat × R32)) (s : State) : State :=
  let a : Array F32 := (out.map fun (_, x, _) => x).toArray
  let c := max 1 (colsOf s.cur)
  mwrite r (inShape s.cur) (fun e => a.getD (e / 64 * c + e % 64) 0) s
def outFlags (out : List (Nat × R32)) : Flags := out.foldl (fun g (_, _, h) => g ||| h) 0

def bf16At (l : Array Nat) (i : Nat) : Num := numB16 (BitVec.ofNat 16 (l.getD i 0))

/-- Elements of width `w` of a vector register, as an array. -/
def vecElts (t : Thread) (r : VReg) (w n : Nat) : Array Nat := ((List.range n).map (elt t r w)).toArray

/-- One rank-4 step of R70 over the shape, from a register's value and two operand arrays. -/
def rank4 (t : Thread) (m : Tile) (a b : Array Nat) (sub : Bool) : List (Nat × R32) :=
  shapeOut t fun i j => mac32 (tileElt m (64 * i + j))
    ((List.range 4).map fun k => mulNum (bf16At a (4 * i + k)) (bf16At b (4 * j + k))) sub

/-- MOPA.B and MOPS.B (R213). A damaged vector operand is reported before a damaged accumulator: DESIGN CHOICE (log entry 54). -/
def mopB (i : Instr) (sub : Bool) (m : MReg) (a b : VReg) (s : State) : State :=
  let t := s.cur
  guardSpan i 16 (4 * max (rowsOf t) (colsOf t)) s (mapStep i [(m, .readWrite)] s fun s =>
    guardVec [(a, 8 * rowsOf t), (b, 8 * colsOf t)] s (guardMat m (inShape t) s (
      let out := rank4 t (mval s m) (vecElts t a 16 (4 * rowsOf t)) (vecElts t b 16 (4 * colsOf t)) sub
      finish 0 (orFlags (outFlags out)) (shapeWrite m out s))))

/-- MOPA.F and MOPS.F (R213, R71). -/
def mopF (i : Instr) (sub : Bool) (m : MReg) (a b : VReg) (s : State) : State :=
  let t := s.cur
  guardSpan i 32 (max (rowsOf t) (colsOf t)) s (mapStep i [(m, .readWrite)] s fun s =>
    guardVec [(a, 4 * rowsOf t), (b, 4 * colsOf t)] s (guardMat m (inShape t) s (
      let av := vecElts t a 32 (rowsOf t)
      let bv := vecElts t b 32 (colsOf t)
      let x := mval s m
      let out := shapeOut t fun i j =>
        let p := num32 (BitVec.ofNat 32 (av.getD i 0))
        to32 .rne (fmaNum .rne (if sub then negNum p else p) (num32 (BitVec.ofNat 32 (bv.getD j 0))) (num32 (tileElt x (64 * i + j))))
      finish 0 (orFlags (outFlags out)) (shapeWrite m out s))))

/-- MOPA.B (R213). -/
def execMopaB (m : MReg) (a b : VReg) (s : State) : Out := .next (mopB (.mopaB m a b) false m a b s)
/-- MOPA.F (R213). -/
def execMopaF (m : MReg) (a b : VReg) (s : State) : Out := .next (mopF (.mopaF m a b) false m a b s)
/-- MOPS.B (R213). -/
def execMopsB (m : MReg) (a b : VReg) (s : State) : Out := .next (mopB (.mopsB m a b) true m a b s)
/-- MOPS.F (R213). -/
def execMopsF (m : MReg) (a b : VReg) (s : State) : Out := .next (mopF (.mopsF m a b) true m a b s)

-- MMAS (R214)

/-- The fixed operands of an MMAS, at issue or as a follow-on (R214, R301). -/
structure MmasArgs where
  rows : Nat
  cols : Nat
  base : Nat
  tpitch : Nat
  rpitch : Nat
  deriving DecidableEq, Repr

def mmasArgs (mshape a b : Word) : MmasArgs :=
  ⟨fld mshape 0 7, fld mshape 8 7, fld a 0 22, fld b 0 22, fld a 32 16⟩

/-- Reserved descriptor bits (R214). -/
def mmasReserved (a b : Word) : Bool := fld a 48 16 != 0 || fld a 22 10 != 0 || fld b 36 28 != 0 || fld b 22 10 != 0

/-- First offset of the A and B operands of step `k`, and their lengths. -/
def mmasSpans (g : MmasArgs) (k : Nat) : List (Nat × Nat) :=
  [(g.base + k * g.rpitch, 8 * g.rows), (g.base + g.tpitch + k * g.rpitch, 8 * g.cols)]

/-- The lowest operand byte of steps [lo, hi) at or beyond the scratchpad's size. -/
def mmasBeyond (size : Nat) (g : MmasArgs) (lo hi : Nat) : Option Nat :=
  (((List.range hi).filter (lo ≤ ·)).flatMap (mmasSpans g)).foldl (fun best (o, n) =>
    if o + n ≤ size then best else match best with
      | some b => some (min b (max o size))
      | none => some (max o size)) none

/-- The address checks of MMAS, before any step: the EVAL of the ADDR trap. Their order, and that operand bytes in a BOUND landing slot
are read without a trap, are DESIGN CHOICES (log entry 54). -/
def mmasCheck (s : State) (g : MmasArgs) (lo hi : Nat) : Option Word :=
  let at' (o : Nat) : Word := BitVec.ofNat 64 (Config.scratchOwn + o)
  let cid := cidOf s.cur
  if g.base % 64 != 0 || g.rpitch % 64 != 0 || g.tpitch % 64 != 0 then some (at' g.base)
  else if !holdsScratch s s.cur.pack cid then some (at' g.base)
  else (mmasBeyond (scratchSize (coreOf s cid)) g lo hi).map at'

/-- The lowest poisoned byte of step `k`. -/
def mmasPoison (s : State) (cid : Nat) (g : MmasArgs) (k : Nat) : Option Nat :=
  (((mmasSpans g k).flatMap fun (o, n) => (List.range n).map (o + ·)).filter fun o => poisoned s (scratchLoc s cid o)).min?

/-- Steps [k, k + n) performed on the value `x` (R71). -/
def mmasSteps (s : State) (t : Thread) (cid : Nat) (g : MmasArgs) : Nat → Nat → Array F32 × Flags → Array F32 × Flags
  | 0, _, x => x
  | n + 1, k, (x, fl) =>
    let arr (o c : Nat) : Array Nat :=
      ((List.range c).map fun e => ofBytes (readBytes s [scratchLoc s cid (o + 2 * e), scratchLoc s cid (o + 2 * e + 1)])).toArray
    match mmasSpans g k with
    | [(oa, na), (ob, nb)] =>
      let a := arr oa (na / 2)
      let b := arr ob (nb / 2)
      let out := (List.range g.rows).flatMap fun i => (List.range g.cols).map fun j => (64 * i + j,
        mac32 (x.getD (64 * i + j) 0) ((List.range 4).map fun k => mulNum (bf16At a (4 * i + k)) (bf16At b (4 * j + k))) false)
      mmasSteps s t cid g n (k + 1) (out.foldl (fun x (e, v, _) => x.setIfInBounds e v) x, fl ||| outFlags out)
    | _ => (x, fl)

/-- The value of a register after steps [lo, hi), written back, and its flags; without a step nothing is written (R212). -/
def mmasRun (m : Nat) (g : MmasArgs) (lo hi : Nat) (s : State) : State × Flags :=
  if hi ≤ lo then (s, 0)
  else let x := mval s m
  let (y, fl) := mmasSteps s s.cur (cidOf s.cur) g (hi - lo) lo (((List.range 4096).map (tileElt x)).toArray, 0)
  (mwrite m (fun e => decide (e / 64 < g.rows) && decide (e % 64 < g.cols)) (fun e => y.getD e 0) s, fl)

/-- MMAS (R214). A damaged accumulator is reported before a poisoned operand of the same step: DESIGN CHOICE (log entry 54). -/
def execMmas (m : MReg) (a b : SReg) (s : State) : Out :=
  let t := s.cur
  let i : Instr := .mmas m a b
  let wa := rs 0 s a
  let wb := rs 1 s b
  .next (guardS [a, b] s (
    if mmasReserved wa wb then trapWord cILL i s
    else
      let g := mmasArgs t.ctl.mshape wa wb
      let lo := fld t.ctl.mstart 0 7
      let hi := max lo (stepsOf t)
      match mmasCheck s g lo hi with
      | some v => trap ⟨cADDR, v, 0⟩ s
      | none => mapStep i [(m, .readWrite)] s fun s =>
        let bad := if lo < hi then (mBad s m (inShape t)).map fun _ => (lo, eccM m) else none
        let poison := ((List.range hi).filter (lo ≤ ·)).findSome? fun k =>
          (mmasPoison s (cidOf t) g k).map fun o => (k, (⟨cECC, BitVec.ofNat 64 (Config.scratchOwn + o), 0⟩ : TrapInfo))
        match stopAt t { every := 1 } lo hi (minStop bad poison) with
        | none =>
          let (s, fl) := mmasRun m g lo hi s
          finish 0 (fun t => setMstart 0 (orFlags fl t)) s
        | some (k, why) =>
          let (s, fl) := mmasRun m g lo k s
          stopBy why (modT (fun t => setMstart k (orFlags fl t)) s)))

-- map control (R219)

/-- MZERO (R219). -/
def execMzero (m : MReg) (s : State) : Out :=
  let t := s.cur
  let i : Instr := .mzero m
  .next (if rowsOf t = 64 && colsOf t = 64 then guardFol [m] s (finish 0 id (dropRegs [m] s))
    else mapStep i [(m, .partial')] s fun s => finish 0 id (mwrite m (inShape t) (fun _ => 0) s))

/-- N's slot passes to m_D (R219). The recency of m_D is that of the MMOV's one operand, which R199 leaves open: DESIGN CHOICE (log
entry 54). -/
def retagPlan (d n : Nat) (p : MapPlan) (age : Nat) : MapPlan :=
  match slotOf p.map n with
  | some (k, _, l) =>
    let p := match slotOf p.map d with
      | some (q, _, ld) => { p with moves := p.moves ++ [Mv.drop d q ld] }
      | none => p
    { p with map := setAge d age 1 (setEntry d (.resident k true l) (terase p.map n)), moves := p.moves ++ [Mv.retag d n k] }
  | none => p

/-- MMOV (R219). Onto itself and by passing the slot on it reads no element, so that damage stays unreported: DESIGN CHOICE (log
entry 54). -/
def execMmov (m n : MReg) (l : Bool) (s : State) : Out :=
  let i : Instr := .mmov m n l
  .next (
    if m = n then (if l then trapWord cILL i s else finish 0 id s)
    else guardFol [n, m] s (match entryOf s.cur.map n, l with
      | .zero, _ => finish 0 id (dropRegs [m] s)
      | .resident .., true => finish 0 id (applyPlan (retagPlan m n (startPlan s) s.cur.issued) s)
      | .backed, true =>
        mapPlan i ((planOf s [(m, .fillFrom n)]).map (dropPlan n)) s fun s => finish 0 id s
      | _, false => mapStep i [(n, .read), (m, .full)] s fun s =>
        guardMat n (fun _ => true) s (
          let x := mval s n
          finish 0 id (mwrite m (fun _ => true) (tileElt x) s))))

/-- MDEAD (R219). -/
def execMdead (m : MReg) (s : State) : Out := .next (guardFol [m] s (finish 0 id (dropRegs [m] s)))

/-- MPREF (R219): cancelled without a trap where any check of its map step fails. -/
def execMpref (m : MReg) (s : State) : Out :=
  .next (match planOf s [(m, .read)] with
    | none => finish 0 id s
    | some p =>
      if (checkTiles s (ownTiles p.moves)).isSome then finish 0 id s
      else if s.cur.fols.any fun f => (m.val :: p.moves.flatMap mvReg).contains (folReg f) then s
      else finish 0 id (applyPlan p s))

/-- The write-back of one RESIDENT register (R219). -/
def flushReg (p : MapPlan) (h : HeldSlot) : MapPlan :=
  { p with
    map := setEntry h.reg .backed p.map
    moves := p.moves ++ [if h.dirty then .spill h.reg h.slot h.land else .evict h.reg h.slot h.land] }

/-- MFLUSH (R219). -/
def execMflush (m : MReg) (s : State) : Out :=
  let i : Instr := .mflush m
  .next (guardFol [m] s (mapPlan i (some (((heldSlots s.cur.map).filter (·.reg == m.val)).foldl flushReg (startPlan s))) s
    fun s => finish 0 id s))

/-- Some SPILL of the thread has not been acknowledged (R202, R219). -/
def spilling (s : State) (t : Thread) : Bool := (coreOf s (cidOf t)).xfers.any fun x => x.frame == t.frame && x.spill

/-- MFLUSHALL (R219): every RESIDENT register in ascending number, after the follow-ons (R302). A stop after `k` write-backs
abandons it (R211). It waits until its write-backs have been acknowledged, when it finds no register RESIDENT. -/
def execMflushall (s : State) : Out :=
  let t := s.cur
  let held := heldSlots t.map
  .next (match t.folBad with
    | (r, v) :: _ => trap ⟨cECC, v, 0⟩ (modT (fun t => { t with folBad := t.folBad.filter (·.1 != r) }) s)
    | [] =>
      if !t.fols.isEmpty then s
      else match checkTiles s (ownTiles (held.foldl flushReg (startPlan s)).moves) with
        | some e => trap e s
        | none => match stopAt t { every := 1 } 0 held.length none with
          | some (k, why) => stopBy why (applyPlan ((held.take k).foldl flushReg (startPlan s)) s)
          | none =>
            let s := applyPlan (held.foldl flushReg (startPlan s)) s
            if spilling s s.cur then waitIn .mflushall s else finish 0 id s)

-- tile memory (R215-R217)

/-- Element `e` of the shape: its address (R215). -/
def mldItem (base vpitch step : Word) (cols : Nat) (e : Nat) : Item :=
  ⟨e, base + BitVec.ofNat 64 (e / cols) * vpitch + BitVec.ofNat 64 (e % cols) * step, 0⟩

def mfmtOf : MFmt → Fmt
  | .fp32 => .fp32
  | .bf16 => .bf16

def mElems (s : State) (f : MFmt) (k : Acc) (item : Nat → Item) (lo hi : Nat) : List Elem :=
  ((List.range hi).filter (lo ≤ ·)).map fun e => ⟨item e, itemPlaces s (mfmtOf f) k (item e)⟩

/-- The first misaligned element of the shape (R215). -/
def mMisaligned (f : MFmt) (item : Nat → Item) (n : Nat) : Option Item :=
  ((List.range n).map item).find? (misaligned (mfmtOf f))

/-- The row stop of R217. -/
def rowStop (cols : Nat) (l : List Elem) : Option (Nat × TrapInfo) :=
  (firstFail l).map fun (it, b) => (it.e / cols * cols, failInfo cPFTL b it)

/-- The elements of the rows below the one that fails (R217). -/
def rowsBelow (cols : Nat) (l : List Elem) : List Elem :=
  match rowStop cols l with
  | some (r, _) => below r l
  | none => l

/-- load_convert of MLD (R216). -/
def mldValue (f : MFmt) (x : Nat) : F32 :=
  match f with
  | .fp32 => BitVec.ofNat 32 x
  | .bf16 => (to32 .rne (numB16 (BitVec.ofNat 16 x), 0)).1

/-- Elements [lo, g) of the shape loaded into a register; with `full` every element outside the shape becomes +0 (R216). -/
def mldWrite (m : Nat) (f : MFmt) (rows cols lo g : Nat) (full : Bool) (l : List Elem) (s : State) : State :=
  let a : Array F32 := ((l.filter fun x => decide (x.it.e < g)).map fun x =>
    mldValue f (ofBytes (readBytes s (elemLocs x)))).toArray
  let outside (e : Nat) : Bool := !(decide (e / 64 < rows) && decide (e % 64 < cols))
  let ord (e : Nat) : Nat := e / 64 * cols + e % 64
  mwrite m (fun e => if outside e then full else decide (lo ≤ ord e) && decide (ord e < g))
    (fun e => if outside e then 0 else a.getD (ord e - lo) 0) s

/-- MLD (R215-R217). -/
def execMld (m : MReg) (b x : SReg) (h : Hint) (f : MFmt) (s : State) : Out :=
  let t := s.cur
  let i : Instr := .mld m b x h f
  let c := max 1 (colsOf t)
  let n := rowsOf t * c
  let lo := eprogOf t
  let item := mldItem (rs 0 s b) t.ctl.vpitch (rs 1 s x) c
  .next (guardS [b, x] s (match mMisaligned f item n with
    | some it => trap ⟨cADDR, it.addr, 0⟩ s
    | none => mapStep i [(m, if lo = 0 then .full else .partial')] s fun s =>
      let l := mElems s f .load item lo n
      let stop := stopAt t { every := c } lo n (minStop (rowStop c l) (firstPoison s (rowsBelow c l)))
      guardFenced (rowsBelow c l) stop s (match stop with
        | none => afterHint h (elemSectors l) lo s
          (finish 0 (fun t => setVstart 0 (setEprog 0 t)) (mldWrite m f (rowsOf t) c lo n (lo == 0) l s))
        | some (g, why) =>
          stopBy why (modT (fun t => keepHint h (elemSectors (below g l)) lo g (setEprog g t))
            (mldWrite m f (rowsOf t) c lo g (lo == 0) l s)))))

/-- store_convert of MST (R216). -/
def mstValue (f : MFmt) (x : F32) : Nat × Flags :=
  match f with
  | .fp32 => (x.toNat, 0)
  | .bf16 => let (y, g) := toB16 .rne (num32 x, 0); (y.toNat, g)

/-- MST (R215-R217). -/
def execMst (m : MReg) (b x : SReg) (last : Bool) (h : Hint) (f : MFmt) (s : State) : Out :=
  let t := s.cur
  let i : Instr := .mst m b x last h f
  let c := max 1 (colsOf t)
  let n := rowsOf t * c
  let lo := eprogOf t
  let item := mldItem (rs 0 s b) t.ctl.vpitch (rs 1 s x) c
  .next (guardS [b, x] s (match mMisaligned f item n with
    | some it => trap ⟨cADDR, it.addr, 0⟩ s
    | none => mapStep i [(m, .read)] s fun s =>
      let l := mElems s f .store item lo n
      let at' (e : Nat) : Nat := 64 * (e / c) + e % c
      let bad := ((List.range n).filter (lo ≤ ·)).find? fun e => (mBad s m (· == at' e)).isSome
      let v := mval s m
      let out (g : Nat) : List (Wr) × Flags := (l.filter fun x => decide (x.it.e < g)).foldl (fun (ws, fl) x =>
        let (y, h) := mstValue f (tileElt v (at' x.it.e))
        (ws ++ wrBytes (elemLocs x) (leBytes (ebytes (mfmtOf f)) y), fl ||| h)) ([], 0)
      let stop := stopAt t { every := c } lo n (minStop (rowStop c l) (bad.map fun e => (e, eccM m)))
      guardFenced (rowsBelow c l) stop s (match stop with
        | none =>
          let (ws, fl) := out n
          let s := writeAll ws s
          finish 0 (fun t => setVstart 0 (setEprog 0 (orFlags fl t))) (if last then dropRegs [m] s else s)
        | some (g, why) =>
          let (ws, fl) := out g
          stopBy why (modT (fun t => setEprog g (orFlags fl t)) (writeAll ws s)))))

-- rows and column groups (R218)

/-- MROW (R218). A row above 63 traps ILL before the span is checked: DESIGN CHOICE (log entry 54). -/
def execMrow (m : MReg) (v : VReg) (x : SReg) (l : Bool) (s : State) : Out :=
  let t := s.cur
  let i : Instr := .mrow m v x l
  let r := (rs 0 s x).toNat
  .next (guardS [x] s (
    if 63 < r then trapWord cILL i s
    else guardSpan i 32 (colsOf t) s (mapStep i [(m, .read)] s fun s =>
      guardMat m (fun e => e / 64 == r && decide (e % 64 < colsOf t)) s (
        let y := mval s m
        finish 0 (writeElts v 32 ((List.range (colsOf t)).map fun j => (j, (tileElt y (64 * r + j)).toNat)))
          (if l then dropRegs [m] s else s)))))

/-- MCOL4 (R218). -/
def execMcol4 (m : MReg) (v : VReg) (x : SReg) (l : Bool) (s : State) : Out :=
  let t := s.cur
  let i : Instr := .mcol4 m v x l
  let r := (rs 0 s x).toNat
  .next (guardS [x] s (
    if 15 < r then trapWord cILL i s
    else guardSpan i 16 (4 * rowsOf t) s (mapStep i [(m, .read)] s fun s =>
      guardMat m (fun e => decide (e / 64 < rowsOf t) && e % 64 / 4 == r) s (
        let y := mval s m
        let out := (List.range (4 * rowsOf t)).map fun e =>
          (e, toB16 .rne (num32 (tileElt y (64 * (e / 4) + 4 * r + e % 4)), 0))
        finish 0 (fun t => orFlags (out.foldl (fun g (_, _, h) => g ||| h) 0)
            (writeElts v 16 (out.map fun (e, z, _) => (e, z.toNat)) t))
          (if l then dropRegs [m] s else s)))))

/-- MWROW (R218). -/
def execMwrow (m : MReg) (v : VReg) (x : SReg) (s : State) : Out :=
  let t := s.cur
  let i : Instr := .mwrow m v x
  let r := (rs 0 s x).toNat
  .next (guardS [x] s (
    if 63 < r then trapWord cILL i s
    else guardSpan i 32 (colsOf t) s (mapStep i [(m, .partial')] s fun s =>
      guardVec [(v, 4 * colsOf t)] s (
        finish 0 id (mwrite m (fun e => e / 64 == r && decide (e % 64 < colsOf t))
          (fun e => BitVec.ofNat 32 (elt t v 32 (e % 64))) s)))))

/-- The value of MSTAT (R220). -/
def mstatWord (s : State) (m : Nat) : Word :=
  let c := coreOf s (cidOf s.cur)
  let (lo, hi) := partOf c s.cur.ctx
  let used := (heldSlots s.cur.map).map (·.slot)
  let free := ((List.range hi).filter (lo ≤ ·)).countP fun k => !used.contains k && !(tkeys c.tags).contains k
  let (slot, st) := match entryOf s.cur.map m with
    | .zero => (0, 0)
    | .backed => (0, 1)
    | .resident k d _ => (k, if d then 3 else 2)
  BitVec.ofNat 64 (free * 2 ^ 32 + (hi - lo) * 2 ^ 16 + slot * 256 + st)

/-- MSTAT (R220). -/
def execMstat (m : MReg) (d : SReg) (s : State) : Out := .next (finish 0 (setS d (mstatWord s m)) s)

end Sys2Proof.Machine
end

