-- ==== Sys2Proof/Machine/VectorArith.lean ====
section
/-! DEFINITION. Element-wise vector arithmetic and logic (05 R152-R155), majors 0x20-0x22, and VCVT (R169), major 0x28. -/

namespace Sys2Proof.Machine

/-- The elements a class-E instruction writes, with their flags ORed in (R68). -/
def eltwise (d : VReg) (w : Nat) (f : Nat → Nat × Flags) (hi : Nat) (t : Thread) : Thread :=
  let l := (actives t (vstartOf t) hi).map fun i => (i, f i)
  orFlags (l.foldl (fun g (_, _, h) => g ||| h) 0) (writeElts d w (l.map fun (i, x, _) => (i, x)) t)

/-- An arithmetic instruction of R152: kinds by VTYPE, `third` when the destination is also a source. -/
def vArith (i : Instr) (o : Arith) (third : Bool) (d a : VReg) (b : VSrc) (s : State) : State :=
  let t := s.cur
  let w := sewOf t
  guardV i (srcRegs b) (kindOf t).isSome w s (
    match kindOf t with
    | none => s
    | some k =>
      let srcs := (a :: srcVecs b ++ if third then [d] else []).map fun r => (r, w)
      runE (vlOf t) (firstDmg t srcs [] (vstartOf t) (vlOf t))
        (eltwise d w fun j => arith o k (elt t a w j) (srcElt s w b j) (elt t d w j)) s)

/-- VABS and VNEG (R152). -/
def vSign (i : Instr) (f : Kind → Nat → Nat) (d a : VReg) (s : State) : State :=
  let t := s.cur
  let w := sewOf t
  guardV i [] (kindOf t).isSome w s (
    match kindOf t with
    | none => s
    | some k => runE (vlOf t) (firstDmg t [(a, w)] [] (vstartOf t) (vlOf t)) (eltwise d w fun j => (f k (elt t a w j), 0)) s)

/-- A function of R154: BF16 or FP32 only; `f16` at SEW 16, `f32` at SEW 32. -/
def vUnary (i : Instr) (f16 : BitVec 16 → BitVec 16 × Flags) (f32 : F32 → R32) (d a : VReg) (s : State) : State :=
  let t := s.cur
  let w := sewOf t
  guardV i [] (!isInt t && w != 64) w s (
    runE (vlOf t) (firstDmg t [(a, w)] [] (vstartOf t) (vlOf t)) (eltwise d w fun j =>
      if w = 16 then (let (x, g) := f16 (BitVec.ofNat 16 (elt t a w j)); (x.toNat, g))
      else (let (x, g) := f32 (BitVec.ofNat 32 (elt t a w j)); (x.toNat, g))) s)

/-- A bit-pattern operation of R155. -/
def vLogic (i : Instr) (f : Nat → Nat → Nat → Nat) (d a : VReg) (b : VSrc) (s : State) : State :=
  let t := s.cur
  let w := sewOf t
  guardV i (srcRegs b) true w s (
    runE (vlOf t) (firstDmg t ((a :: srcVecs b).map fun r => (r, w)) [] (vstartOf t) (vlOf t))
      (eltwise d w fun j => (f w (elt t a w j) (srcElt s w b j), 0)) s)

/-- Shifts take the amount modulo the width (R155). -/
def sllE (w a b : Nat) : Nat := a * 2 ^ (b % w) % 2 ^ w
def srlE (w a b : Nat) : Nat := a / 2 ^ (b % w)
def sraE (w a b : Nat) : Nat :=
  if a < 2 ^ (w - 1) then a / 2 ^ (b % w) else 2 ^ w - 1 - (2 ^ w - 1 - a) / 2 ^ (b % w)

/-- VADD (R152). -/
def execVadd (d a : VReg) (b : VSrc) (s : State) : Out := .next (vArith (.vadd d a b) .add false d a b s)
/-- VSUB (R152). -/
def execVsub (d a : VReg) (b : VSrc) (s : State) : Out := .next (vArith (.vsub d a b) .sub false d a b s)
/-- VMUL (R152). -/
def execVmul (d a : VReg) (b : VSrc) (s : State) : Out := .next (vArith (.vmul d a b) .mul false d a b s)
/-- VMIN (R152). -/
def execVmin (d a : VReg) (b : VSrc) (s : State) : Out := .next (vArith (.vmin d a b) .min false d a b s)
/-- VMAX (R152). -/
def execVmax (d a : VReg) (b : VSrc) (s : State) : Out := .next (vArith (.vmax d a b) .max false d a b s)
/-- VDIV (R152). -/
def execVdiv (d a : VReg) (b : VSrc) (s : State) : Out := .next (vArith (.vdiv d a b) .div false d a b s)
/-- VFMA (R152). -/
def execVfma (d a : VReg) (b : VSrc) (s : State) : Out := .next (vArith (.vfma d a b) .fma true d a b s)
/-- VFMS (R152). -/
def execVfms (d a : VReg) (b : VSrc) (s : State) : Out := .next (vArith (.vfms d a b) .fms true d a b s)
/-- VABS (R152). -/
def execVabs (d a : VReg) (s : State) : Out := .next (vSign (.vabs d a) absK d a s)
/-- VNEG (R152). -/
def execVneg (d a : VReg) (s : State) : Out := .next (vSign (.vneg d a) negK d a s)
/-- VSQRT (R154): correctly rounded at both widths. -/
def execVsqrt (d a : VReg) (s : State) : Out :=
  .next (vUnary (.vsqrt d a) (fun x => toB16 .rne (sqrtNum (numB16 x))) (sqrt32 .rne) d a s)
/-- VRCP (R81, R154). -/
def execVrcp (d a : VReg) (s : State) : Out := .next (vUnary (.vrcp d a) (atB16 vrcpT) vrcpT d a s)
/-- VRSQRT (R82, R154). -/
def execVrsqrt (d a : VReg) (s : State) : Out := .next (vUnary (.vrsqrt d a) (atB16 vrsqrtT) vrsqrtT d a s)
/-- VEXP2 (R78, R154). -/
def execVexp2 (d a : VReg) (s : State) : Out := .next (vUnary (.vexp2 d a) (atB16 vexp2T) vexp2T d a s)
/-- VEXP (R79, R154). -/
def execVexp (d a : VReg) (s : State) : Out := .next (vUnary (.vexp d a) (atB16 vexpT) vexpT d a s)
/-- VLN2 (R80, R154). -/
def execVln2 (d a : VReg) (s : State) : Out := .next (vUnary (.vln2 d a) (atB16 vln2T) vln2T d a s)
/-- VAND (R155). -/
def execVand (d a : VReg) (b : VSrc) (s : State) : Out := .next (vLogic (.vand d a b) (fun _ a b => a &&& b) d a b s)
/-- VOR (R155). -/
def execVor (d a : VReg) (b : VSrc) (s : State) : Out := .next (vLogic (.vor d a b) (fun _ a b => a ||| b) d a b s)
/-- VXOR (R155). -/
def execVxor (d a : VReg) (b : VSrc) (s : State) : Out := .next (vLogic (.vxor d a b) (fun _ a b => a ^^^ b) d a b s)
/-- VSLL (R155). -/
def execVsll (d a : VReg) (b : VSrc) (s : State) : Out := .next (vLogic (.vsll d a b) sllE d a b s)
/-- VSRL (R155). -/
def execVsrl (d a : VReg) (b : VSrc) (s : State) : Out := .next (vLogic (.vsrl d a b) srlE d a b s)
/-- VSRA (R155). -/
def execVsra (d a : VReg) (b : VSrc) (s : State) : Out := .next (vLogic (.vsra d a b) sraE d a b s)

/-- VCVT (R169): element i of the source width into element i of the destination width. -/
def execVcvt (d a : VReg) (c : VConv) (s : State) : Out :=
  let t := s.cur
  let (kd, ka) := convKinds c
  .next (guardV (.vcvt d a c) [] true (max kd.width ka.width) s (
    runE (vlOf t) (firstDmg t [(a, ka.width)] [] (vstartOf t) (vlOf t))
      (eltwise d kd.width fun j => convK kd ka (elt t a ka.width j)) s))

end Sys2Proof.Machine
end

