-- ==== Sys2Proof/Machine/Scalar.lean ====
section
/-! DEFINITION. Scalar integer instructions (04 R116-R118), majors 0x01, 0x02 and 0x04-0x0A. -/

namespace Sys2Proof.Machine

/-- A two-operand instruction of latency 1 (R114, R116). -/
def alu2 (f : Word → Word → Word) (d a b : SReg) (w : Stall) (s : State) : State :=
  guardS [a, b] s (finish w (setS d (f (rs 0 s a) (rs 1 s b))) s)
/-- A one-operand instruction of latency 1. -/
def alu1 (f : Word → Word) (d a : SReg) (w : Stall) (s : State) : State :=
  guardS [a] s (finish w (setS d (f (rs 0 s a))) s)
/-- An instruction of latency 4. -/
def mul2 (f : Word → Word → Word) (d a b : SReg) (w : Stall) (s : State) : State :=
  guardS [a, b] s (finish w (setS4 w d (f (rs 0 s a) (rs 1 s b))) s)

def boolWord (b : Bool) : Word := if b then 1 else 0

/-- Leading zero bits, 0-64. -/
def clz64 (x : Word) : Word := if x = 0 then 64 else BitVec.ofNat 64 (63 - Nat.log2 x.toNat)
/-- One bits of the low `n` bits. -/
def popBits (x : Nat) : Nat → Nat
  | 0 => 0
  | n + 1 => (if x.testBit n then 1 else 0) + popBits x n
def popc64 (x : Word) : Word := BitVec.ofNat 64 (popBits x.toNat 64)
/-- Bits [127:64] of the signed and the unsigned product (R116). -/
def mulhS (a b : Word) : Word := BitVec.ofInt 64 (a.toInt * b.toInt / 2 ^ 64)
def mulhU (a b : Word) : Word := BitVec.ofNat 64 (a.toNat * b.toNat / 2 ^ 64)
/-- Division truncates toward zero; the corners are those of R117. -/
def divS (a b : Word) : Word := if b = 0 then BitVec.allOnes 64 else BitVec.ofInt 64 (Int.tdiv a.toInt b.toInt)
def divU (a b : Word) : Word := if b = 0 then BitVec.allOnes 64 else BitVec.ofNat 64 (a.toNat / b.toNat)
def remS (a b : Word) : Word := if b = 0 then a else BitVec.ofInt 64 (Int.tmod a.toInt b.toInt)
def remU (a b : Word) : Word := if b = 0 then a else BitVec.ofNat 64 (a.toNat % b.toNat)
def minS (a b : Word) : Word := if a.toInt ≤ b.toInt then a else b
def maxS (a b : Word) : Word := if a.toInt ≤ b.toInt then b else a
def minUW (a b : Word) : Word := if a.toNat ≤ b.toNat then a else b
def maxUW (a b : Word) : Word := if a.toNat ≤ b.toNat then b else a
def shAmt (b : Word) : Nat := b.toNat % 64

/-- ADD (R116): a + b mod 2^64. -/
def execAdd (d a b : SReg) (w : Stall) (s : State) : Out := .next (alu2 (· + ·) d a b w s)
/-- SUB (R116): a − b mod 2^64. -/
def execSub (d a b : SReg) (w : Stall) (s : State) : Out := .next (alu2 (· - ·) d a b w s)
/-- AND (R116): bitwise. -/
def execAnd (d a b : SReg) (w : Stall) (s : State) : Out := .next (alu2 (· &&& ·) d a b w s)
/-- OR (R116): bitwise. -/
def execOr (d a b : SReg) (w : Stall) (s : State) : Out := .next (alu2 (· ||| ·) d a b w s)
/-- XOR (R116): bitwise. -/
def execXor (d a b : SReg) (w : Stall) (s : State) : Out := .next (alu2 (· ^^^ ·) d a b w s)
/-- SLL (R116): a shifted left by b[5:0]. -/
def execSll (d a b : SReg) (w : Stall) (s : State) : Out := .next (alu2 (fun a b => a <<< shAmt b) d a b w s)
/-- SRL (R116): zeros enter. -/
def execSrl (d a b : SReg) (w : Stall) (s : State) : Out := .next (alu2 (fun a b => a >>> shAmt b) d a b w s)
/-- SRA (R116): a[63] enters. -/
def execSra (d a b : SReg) (w : Stall) (s : State) : Out := .next (alu2 (fun a b => a.sshiftRight (shAmt b)) d a b w s)
/-- MIN (R116): signed. -/
def execMin (d a b : SReg) (w : Stall) (s : State) : Out := .next (alu2 minS d a b w s)
/-- MAX (R116): signed. -/
def execMax (d a b : SReg) (w : Stall) (s : State) : Out := .next (alu2 maxS d a b w s)
/-- MIN.U (R116): unsigned. -/
def execMinU (d a b : SReg) (w : Stall) (s : State) : Out := .next (alu2 minUW d a b w s)
/-- MAX.U (R116): unsigned. -/
def execMaxU (d a b : SReg) (w : Stall) (s : State) : Out := .next (alu2 maxUW d a b w s)
/-- SLT (R116): 1 if a < b signed. -/
def execSlt (d a b : SReg) (w : Stall) (s : State) : Out := .next (alu2 (fun a b => boolWord (a.slt b)) d a b w s)
/-- SLTU (R116): 1 if a < b unsigned. -/
def execSltu (d a b : SReg) (w : Stall) (s : State) : Out := .next (alu2 (fun a b => boolWord (a.ult b)) d a b w s)
/-- CLZ (R116). -/
def execClz (d a : SReg) (w : Stall) (s : State) : Out := .next (alu1 clz64 d a w s)
/-- POPC (R116). -/
def execPopc (d a : SReg) (w : Stall) (s : State) : Out := .next (alu1 popc64 d a w s)
/-- MUL (R116); latency 4. -/
def execMul (d a b : SReg) (w : Stall) (s : State) : Out := .next (mul2 (· * ·) d a b w s)
/-- MULH (R116); latency 4. -/
def execMulh (d a b : SReg) (w : Stall) (s : State) : Out := .next (mul2 mulhS d a b w s)
/-- MULH.U (R116); latency 4. -/
def execMulhU (d a b : SReg) (w : Stall) (s : State) : Out := .next (mul2 mulhU d a b w s)
/-- DIV (R116, R117); scoreboarded. -/
def execDiv (d a b : SReg) (w : Stall) (s : State) : Out := .next (alu2 divS d a b w s)
/-- DIV.U (R116, R117); scoreboarded. -/
def execDivU (d a b : SReg) (w : Stall) (s : State) : Out := .next (alu2 divU d a b w s)
/-- REM (R116, R117); scoreboarded. -/
def execRem (d a b : SReg) (w : Stall) (s : State) : Out := .next (alu2 remS d a b w s)
/-- REM.U (R116, R117); scoreboarded. -/
def execRemU (d a b : SReg) (w : Stall) (s : State) : Out := .next (alu2 remU d a b w s)
/-- ADDI (R118). -/
def execAddi (d a : SReg) (i : BitVec 13) (w : Stall) (s : State) : Out := .next (alu1 (· + i.signExtend 64) d a w s)
/-- ANDI (R118). -/
def execAndi (d a : SReg) (i : BitVec 13) (w : Stall) (s : State) : Out := .next (alu1 (· &&& i.signExtend 64) d a w s)
/-- ORI (R118). -/
def execOri (d a : SReg) (i : BitVec 13) (w : Stall) (s : State) : Out := .next (alu1 (· ||| i.signExtend 64) d a w s)
/-- XORI (R118). -/
def execXori (d a : SReg) (i : BitVec 13) (w : Stall) (s : State) : Out := .next (alu1 (· ^^^ i.signExtend 64) d a w s)
/-- SLTI (R118). -/
def execSlti (d a : SReg) (i : BitVec 13) (w : Stall) (s : State) : Out := .next (alu1 (fun a => boolWord (a.slt (i.signExtend 64))) d a w s)
/-- SLLI (R118). -/
def execSlli (d a : SReg) (n : Fin 64) (w : Stall) (s : State) : Out := .next (alu1 (· <<< n.val) d a w s)
/-- SRLI (R118). -/
def execSrli (d a : SReg) (n : Fin 64) (w : Stall) (s : State) : Out := .next (alu1 (· >>> n.val) d a w s)
/-- SRAI (R118). -/
def execSrai (d a : SReg) (n : Fin 64) (w : Stall) (s : State) : Out := .next (alu1 (fun a => a.sshiftRight n.val) d a w s)
/-- LUI (R118): sign-extended IMM20 × 4,096. -/
def execLui (d : SReg) (i : BitVec 20) (s : State) : Out := .next (finish 0 (setS d (i.signExtend 64 <<< 12)) s)

end Sys2Proof.Machine
end

