-- ==== Sys2Proof/Machine/VectorMask.lean ====
section
/-! DEFINITION. Vector compares and mask instructions (05 R156-R158), majors 0x23 and 0x24. -/

namespace Sys2Proof.Machine

/-- VCMP (R156): bit i of k_D for each active element; flags are raised even into k0. -/
def execVcmp (d : KReg) (a : VReg) (b : VSrc) (c : VCond) (s : State) : Out :=
  let t := s.cur
  let w := sewOf t
  let unsigned := c == .ltu || c == .geu
  .next (guardV (.vcmp d a b c) (srcRegs b) ((kindOf t).isSome && (!unsigned || isInt t)) w s (
    match kindOf t with
    | none => s
    | some k =>
      runE (vlOf t) (firstDmg t ((a :: srcVecs b).map fun r => (r, w)) [] (vstartOf t) (vlOf t)) (fun hi t' =>
        let l := (actives t (vstartOf t) hi).map fun j => (j, vcmpK c k (elt t a w j) (srcElt s w b j))
        orFlags (l.foldl (fun g (_, _, h) => g ||| h) 0) (writeBits d (l.map fun (j, x, _) => (j, x)) t')) s))

/-- Damage among bits [lo, hi) of mask registers (R151). -/
def kDmg (t : Thread) (ks : List KReg) (lo hi : Nat) : Option TrapInfo :=
  if t.kbad.isEmpty then none
  else (ks.find? fun k => ((List.range hi).filter (lo ≤ ·)).any (bitBad t k)).map eccK

/-- KAND to KNOT (R157): every bit in [VSTART, VL), ungoverned; damage abandons them with VSTART = 0. -/
def kLogic (i : Instr) (f : Bool → Bool → Bool) (d a b : KReg) (s : State) : State :=
  let t := s.cur
  if overVlx t 16 then trapWord cVLX i s
  else match kDmg t [a, b] (vstartOf t) (vlOf t) with
    | some e => trap e (modT (setVstart 0) s)
    | none => finishV (fun t' => writeBits d (((List.range (vlOf t)).filter (vstartOf t ≤ ·)).map fun j =>
        (j, f ((kreg t a).getLsbD j) ((kreg t b).getLsbD j))) t') s

/-- KAND (R157). -/
def execKand (d a b : KReg) (s : State) : Out := .next (kLogic (.kand d a b) (· && ·) d a b s)
/-- KOR (R157). -/
def execKor (d a b : KReg) (s : State) : Out := .next (kLogic (.kor d a b) (· || ·) d a b s)
/-- KXOR (R157). -/
def execKxor (d a b : KReg) (s : State) : Out := .next (kLogic (.kxor d a b) (fun x y => x != y) d a b s)
/-- KNOT (R157). -/
def execKnot (d a : KReg) (s : State) : Out := .next (kLogic (.knot d a) (fun x _ => !x) d a a s)

/-- KPOP and KFIRST (R158): bits [0, VL) of k_A, whatever KSEL and VSTART. -/
def kScalar (i : Instr) (f : List Bool → Word) (d : SReg) (a : KReg) (s : State) : State :=
  let t := s.cur
  if overVlx t 16 then trapWord cVLX i s
  else match kDmg t [a] 0 (vlOf t) with
    | some e => trap e (modT (setVstart 0) s)
    | none => finishV (setS d (f ((List.range (vlOf t)).map fun j => (kreg t a).getLsbD j))) s

/-- KPOP (R158). -/
def execKpop (d : SReg) (a : KReg) (s : State) : Out :=
  .next (kScalar (.kpop d a) (fun l => BitVec.ofNat 64 (l.countP id)) d a s)
/-- KFIRST (R158): all ones where no bit is 1. -/
def execKfirst (d : SReg) (a : KReg) (s : State) : Out :=
  .next (kScalar (.kfirst d a) (fun l => match l.findIdx? id with
    | some j => BitVec.ofNat 64 j
    | none => BitVec.allOnes 64) d a s)

end Sys2Proof.Machine
end

