-- ==== Sys2Proof/Machine/VectorPerm.lean ====
section
/-! DEFINITION. Compaction, index, scan, slides, permutation, moves and reductions (05 R159-R168), majors 0x25-0x27. -/

namespace Sys2Proof.Machine

/-- Damage among the listed elements of a register. -/
def eltsDmg (t : Thread) (r : VReg) (w : Nat) (l : List Nat) : Option TrapInfo :=
  if t.vbad.isEmpty then none else if l.any (eltBad t r w) then some (eccV r) else none
/-- Damage in the governing mask below VL. -/
def maskDmg (t : Thread) : Option TrapInfo := if kselOf t = 0 then none else kDmg t [kselOf t] 0 (vlOf t)
/-- The governing-mask bit of element `i` is damaged. -/
def maskBit (t : Thread) (i : Nat) : Bool := kselOf t != 0 && bitBad t (kselOf t) i
def orElseInfo (a b : Option TrapInfo) : Option TrapInfo :=
  match a with
  | some x => some x
  | none => b

/-- The selection of R159. -/
def selected (t : Thread) (k : KReg) : List Nat :=
  (List.range (vlOf t)).filter fun i => (kreg t k).getLsbD i && governed t i

/-- VCOMPRESS (R159). A damaged bit of k_B traps ECC wherever it lies below VL, under an inactive element too; R29 and R151 speak of
active and of source elements only; and k_B is looked at before v_A: DESIGN CHOICE (log entry 50). -/
def execVcompress (d a : VReg) (b : KReg) (s : State) : Out :=
  let t := s.cur
  let w := sewOf t
  let l := selected t b
  .next (guardV (.vcompress d a b) [] true w s (
    runW (.vcompress d a b) (orElseInfo (maskDmg t) (orElseInfo (kDmg t [b] 0 (vlOf t)) (eltsDmg t a w l)))
      (writeElts d w (l.zipIdx.map fun (i, j) => (j, elt t a w i))) id s))

/-- VEXPAND (R160); k_B as for VCOMPRESS (log entry 50). -/
def execVexpand (d a : VReg) (b : KReg) (s : State) : Out :=
  let t := s.cur
  let w := sewOf t
  let l := selected t b
  .next (guardV (.vexpand d a b) [] true w s (
    runW (.vexpand d a b) (orElseInfo (maskDmg t) (orElseInfo (kDmg t [b] 0 (vlOf t)) (eltsDmg t a w (List.range l.length))))
      (writeElts d w (l.zipIdx.map fun (i, j) => (i, elt t a w j))) id s))

/-- One bits of a mask register below `i`. -/
def bitsBelow (t : Thread) (a : KReg) (i : Nat) : Nat := (List.range i).countP fun j => (kreg t a).getLsbD j

/-- VIOTA (R161): KSEL governs the writes, not the count. Element i reads the bits of k_A below i (R151). -/
def execViota (d : VReg) (a : KReg) (s : State) : Out :=
  let t := s.cur
  let w := sewOf t
  let dmg := if t.kbad.isEmpty then none else ((List.range (vlOf t)).filter (vstartOf t ≤ ·)).findSome? fun i =>
    if kselOf t != 0 && bitBad t (kselOf t) i then some (i, eccK (kselOf t))
    else if governed t i && (List.range i).any (bitBad t a) then some (i, eccK a) else none
  .next (guardV (.viota d a) [] true w s (
    runE (vlOf t) dmg (eltwise d w fun i => (bitsBelow t a i, 0)) s))

/-- VID (R161). -/
def execVid (d : VReg) (s : State) : Out :=
  let t := s.cur
  let w := sewOf t
  .next (guardV (.vid d) [] true w s (
    runE (vlOf t) (firstDmg t [] [] (vstartOf t) (vlOf t)) (eltwise d w fun i => (i, 0)) s))

/-- The inclusive prefix of R162 over (index, element) pairs. -/
def scanFrom (u : RedOp) (k : Kind) (acc : Nat) : List (Nat × Nat) → List (Nat × Nat) × Flags
  | [] => ([], 0)
  | (i, x) :: l =>
    let (y, g) := redK u k acc x
    let (r, h) := scanFrom u k y l
    ((i, y) :: r, g ||| h)
def scanList (u : RedOp) (k : Kind) (l : List (Nat × Nat)) : List (Nat × Nat) × Flags :=
  match l with
  | [] => ([], 0)
  | (i, x) :: r => let (q, g) := scanFrom u k x r; ((i, x) :: q, g)

/-- VSCAN (R162). -/
def execVscan (d a : VReg) (u : RedOp) (s : State) : Out :=
  let t := s.cur
  let w := sewOf t
  let act := actives t 0 (vlOf t)
  .next (guardV (.vscan d a u) [] (kindOf t).isSome w s (
    match kindOf t with
    | none => s
    | some k =>
      let (l, g) := scanList u k (act.map fun i => (i, elt t a w i))
      runW (.vscan d a u) (orElseInfo (maskDmg t) (eltsDmg t a w act)) (fun t' => orFlags g (writeElts d w l t')) id s))

/-- VSLIDEUP (R163): all 64 bits of the offset count. -/
def execVslideup (d a : VReg) (b : SReg) (s : State) : Out :=
  let t := s.cur
  let w := sewOf t
  let n := (rs 0 s b).toNat
  let l := (actives t 0 (vlOf t)).filter (n ≤ ·)
  .next (guardV (.vslideup d a b) [b] true w s (
    runW (.vslideup d a b) (orElseInfo (maskDmg t) (eltsDmg t a w (l.map (· - n))))
      (writeElts d w (l.map fun i => (i, elt t a w (i - n)))) id s))

/-- Element `i` of VSLIDEDN by `n` meets damage (R151). -/
def slideBad (t : Thread) (a : VReg) (n i : Nat) : Bool :=
  (maskBit t i) || (governed t i && decide (i + n < vlOf t) && eltBad t a (sewOf t) (i + n))
/-- Element `i` of VPERM meets damage: in its index, or in the element that names. -/
def permBad (t : Thread) (a b : VReg) (i : Nat) : Bool :=
  let j := elt t b (sewOf t) i
  (maskBit t i) || (governed t i && (eltBad t b (sewOf t) i || (decide (j < vlOf t) && eltBad t a (sewOf t) j)))

/-- VSLIDEDN (R163). -/
def execVslidedn (d a : VReg) (b : SReg) (s : State) : Out :=
  let t := s.cur
  let w := sewOf t
  let n := (rs 0 s b).toNat
  let l := actives t 0 (vlOf t)
  .next (guardV (.vslidedn d a b) [b] true w s (
    runW (.vslidedn d a b) (orElseInfo (maskDmg t) (eltsDmg t a w ((l.map (· + n)).filter (· < vlOf t))))
      (writeElts d w (l.map fun i => (i, if i + n < vlOf t then elt t a w (i + n) else 0))) id s))

/-- VPERM (R164). The indices v_B are looked at for damage before v_A: DESIGN CHOICE (log entry 50). -/
def execVperm (d a b : VReg) (s : State) : Out :=
  let t := s.cur
  let w := sewOf t
  let l := actives t 0 (vlOf t)
  .next (guardV (.vperm d a b) [] true w s (
    runW (.vperm d a b) (orElseInfo (maskDmg t) (orElseInfo (eltsDmg t b w l)
        (eltsDmg t a w ((l.map (elt t b w)).filter (· < vlOf t)))))
      (writeElts d w (l.map fun i => (i, if elt t b w i < vlOf t then elt t a w (elt t b w i) else 0))) id s))

/-- VBCAST (R165). -/
def execVbcast (d : VReg) (a : SReg) (s : State) : Out :=
  let t := s.cur
  let w := sewOf t
  .next (guardV (.vbcast d a) [a] true w s (
    runE (vlOf t) (firstDmg t [] [] (vstartOf t) (vlOf t)) (eltwise d w fun _ => (srcElt s w (.scl a) 0, 0)) s))

/-- VMVS to a scalar (R165): element 0, extended by KIND; with an empty grant VLX. -/
def execVmvsToScalar (d : SReg) (a : VReg) (s : State) : Out :=
  let t := s.cur
  let w := sewOf t
  .next (
    if lanesOf t = 0 then trapWord cVLX (.vmvsToScalar d a) s
    else if eltBad t a w 0 then trap (eccV a) (modT (setVstart 0) s)
    else finishV (setS d (if isInt t then sextNat w (elt t a w 0) else zextNat (elt t a w 0))) s)

/-- VMVS to element 0 of a vector (R165). -/
def execVmvsToVector (d : VReg) (a : SReg) (s : State) : Out :=
  let t := s.cur
  let w := sewOf t
  .next (guardS [a] s (
    if lanesOf t = 0 then trapWord cVLX (.vmvsToVector d a) s
    else finishV (writeElts d w [(0, srcElt s w (.scl a) 0)]) s))

/-- VMERGE (R166): KSEL selects; KSEL = 0 traps ILL. Damage counts in the source that is selected, not in the other one, of which the
manual says nothing: DESIGN CHOICE (log entry 50). -/
def execVmerge (d a b : VReg) (s : State) : Out :=
  let t := s.cur
  let w := sewOf t
  let k := kselOf t
  let pick (i : Nat) : VReg := if (kreg t k).getLsbD i then a else b
  let dmg := ((List.range (vlOf t)).filter (vstartOf t ≤ ·)).findSome? fun i =>
    if bitBad t k i then some (i, eccK k) else if eltBad t (pick i) w i then some (i, eccV (pick i)) else none
  .next (guardV (.vmerge d a b) [] (k != 0) w s (
    runE (vlOf t) dmg (fun hi t' =>
      writeElts d w (((List.range hi).filter (vstartOf t ≤ ·)).map fun i => (i, elt t (pick i) w i)) t') s))

/-- How a reduction's result stands in a scalar register (R167). -/
def redWord (k : Kind) (x : Nat) : Word := if isFloat k then zextNat x else sextNat k.width x

/-- VREDSUM, VREDMAX, VREDMIN (R74, R167): op(init, tree over the active elements). With no active element the result is
op(init, identity); the manual calls it init, which differs where init is a NaN: DESIGN CHOICE (log entry 50). -/
def vReduce (i : Instr) (u : RedOp) (d : SReg) (a : VReg) (b : SReg) (s : State) : State :=
  let t := s.cur
  let w := sewOf t
  guardV i [b] (kindOf t).isSome w s (
    match kindOf t with
    | none => s
    | some k =>
      let init := (rs 0 s b).toNat % 2 ^ w
      let act := actives t 0 (vlOf t)
      let res (l : List Nat) (t' : Thread) : Thread :=
        let (x, g) := reduceK u k l
        let (y, h) := redK u k init x
        orFlags (g ||| h) (setS d (redWord k y) t')
      runW i (orElseInfo (maskDmg t) (eltsDmg t a w act))
        (res ((List.range (vlOf t)).map fun j => if governed t j then elt t a w j else identityK u k))
        (fun t' => let (y, h) := redK u k init (identityK u k); orFlags h (setS d (redWord k y) t')) s)

/-- VREDSUM (R167). -/
def execVredsum (d : SReg) (a : VReg) (b : SReg) (s : State) : Out := .next (vReduce (.vredsum d a b) .sum d a b s)
/-- VREDMAX (R167). -/
def execVredmax (d : SReg) (a : VReg) (b : SReg) (s : State) : Out := .next (vReduce (.vredmax d a b) .max d a b s)
/-- VREDMIN (R167). -/
def execVredmin (d : SReg) (a : VReg) (b : SReg) (s : State) : Out := .next (vReduce (.vredmin d a b) .min d a b s)

/-- VSEGRED (R168): the tree of R74 over each segment of 2^SEG elements. -/
def execVsegred (d a : VReg) (u : RedOp) (s : State) : Out :=
  let t := s.cur
  let w := sewOf t
  let g := 2 ^ segOf t
  let n := (vlOf t + g - 1) / g
  .next (guardV (.vsegred d a u) [] (kindOf t).isSome w s (
    match kindOf t with
    | none => s
    | some k =>
      let seg (q : Nat) : Nat × Flags := reduceK u k ((List.range g).map fun j =>
        let e := q * g + j
        if decide (e < vlOf t) && governed t e then elt t a w e else identityK u k)
      let l := (List.range n).map fun q => (q, seg q)
      runW (.vsegred d a u) (orElseInfo (maskDmg t) (eltsDmg t a w (actives t 0 (vlOf t))))
        (fun t' => orFlags (l.foldl (fun f (_, _, h) => f ||| h) 0) (writeElts d w (l.map fun (q, x, _) => (q, x)) t')) id s))

end Sys2Proof.Machine
end

