-- ==== Sys2Proof/Machine/Attention.lean ====
section
/-! DEFINITION. SETVLR, the online-softmax registers, the attention chain and VTOPK (08 R221-R235), majors 0x68-0x6D. -/

namespace Sys2Proof.Machine

-- SETVLR (R221-R223)

/-- An 8-byte word of a block table, read as a load of the thread. -/
def tableRead (s : State) (x : Word) (a : Nat) : Except TrapInfo Word :=
  match heapRead s x (BitVec.ofNat 64 a) 8 .load with
  | .error e => .error e
  | .ok ls => .ok (BitVec.ofNat 64 (ofBytes (readBytes s ls)))

/-- TBYTES and DOFF of a table's word at +16, unless it is malformed (R221). -/
def tableShape (w rsv : Word) : Option (Nat × Nat) :=
  let tb := fld w 32 16
  let d := fld w 48 16
  if tb = 0 || tb % 16 != 0 || d = 0 || d % 16 != 0 || rsv != 0 then none else some (tb, d)

/-- SETVLR (R222, R223): one indivisible step. -/
def execSetvlr (d a b : SReg) (h : HReg) (w : Stall) (s : State) : Out :=
  let i : Instr := .setvlr d a b h w
  let x := hreg s.cur h
  .next (guardS [a, b] s (
    let p := (rs 0 s a).toNat
    let c := (rs 1 s b).toNat
    withRef i x .load s fun r tbl _ =>
      orTrap (tableRead s x (tbl + 16)) s fun w16 => orTrap (tableRead s x (tbl + 24)) s fun w24 =>
        match tableShape w16 w24 with
        | none => trap (heapTrap x) s
        | some (tb, doff) =>
          if fld w16 0 32 ≤ p / 16 then trap (heapTrap x) s
          else orTrap (tableRead s x (tbl + 32 + 8 * (p / 16))) s fun ref =>
            withRef i ref .load s fun _ blk _ =>
              finish w (fun t =>
                let t := setH h r (applyGrant s t)
                setS d (BitVec.ofNat 64 (blk + doff + p % 16 * tb))
                  (setVl (min (min c (16 - p % 16)) (vlmax t (sewOf t))) t)) s))

-- online-softmax registers (R224, R225)

/-- OSGET (R225). -/
def execOsget (d : SReg) (o : OReg) (w : Stall) (s : State) : Out := .next (finish w (fun t => setS d (oreg t o) t) s)
/-- OSPUT (R225). -/
def execOsput (a : SReg) (o : OReg) (w : Stall) (s : State) : Out := .next (guardS [a] s (finish w (setO o (rs 0 s a)) s))
/-- OSZERO (R224, R225): M = −∞ and S = +0. -/
def execOszero (o : OReg) (w : Stall) (s : State) : Out := .next (finish w (setO o 0x00000000FF800000) s)

-- the attention group (R226-R232)

/-- The word of a group member: the instruction, or the trap of R226. -/
def memberAt (own : Word) (maj : Nat) (w : Nat) : Except TrapInfo Instr :=
  if w / 2 ^ 25 % 128 != maj then .error ⟨cILL, own, 0⟩
  else match decode w with
    | .ok i => .ok i
    | .error .rsv => .error ⟨cRSV, BitVec.ofNat 64 w, 0⟩
    | .error .zero => .error ⟨cILL, own, 0⟩
    | .error .ill => .error ⟨cILL, BitVec.ofNat 64 w, 0⟩

/-- The fetch of a following word (R226): it fails with PFLD. -/
def memberFetch (s : State) (a : Word) : Except TrapInfo Nat :=
  match fetchAt s s.cur a with
  | .ok w => .ok w
  | .error _ => .error ⟨cPFLD, a, 0⟩

/-- The formation check of R226: the words of ATEX and ATAC, the first o-register, and the ATAC's M, N. -/
def formGroup (own : Word) (m : MReg) (s : State) : Except TrapInfo (Nat × Nat × OReg × MReg × MReg) :=
  let t := s.cur
  match memberFetch s (t.pc + 4), memberFetch s (t.pc + 8) with
  | .error e, _ => .error e
  | _, .error e => .error e
  | .ok w1, .ok w2 =>
    match memberAt own 0x6A w1, memberAt own 0x6B w2 with
    | .error e, _ => .error e
    | _, .error e => .error e
    | .ok (.atex f), .ok (.atac am an _ o) =>
      if ((List.range (depthOf t)).any fun n => lendOf t n == t.pc || lendOf t n == t.pc + 4) ||
          o != f || am = m || am = an then .error ⟨cILL, own, 0⟩
      else .ok (w1, w2, f, am, an)
    | _, _ => .error ⟨cILL, own, 0⟩

def zeroProd : Num × Flags := (.fin false 0 0, 0)

/-- A dot product in groups of four, one rounding for each (R72). -/
def dot4 (acc : F32) (f : Nat → Num × Flags) (n : Nat) : Nat → Nat → R32
  | 0, _ => (acc, 0)
  | k + 1, g =>
    let (x, h) := mac32 acc ((List.range 4).map fun j => if 4 * g + j < n then f (4 * g + j) else zeroProd) false
    let (y, h') := dot4 x f n k (g + 1)
    (y, h ||| h')

/-- The size bias of R73. -/
def sizeBias (z : F32) : R32 :=
  let (l, f) := vln2T z
  let (r, g) := mul32 .rne l 0x3F317218
  (r, f ||| g)

/-- One active score (R228). -/
def scoreOf (q : Array Nat) (key : Tile) (scale : F32) (z : Option F32) (h d e : Nat) : R32 :=
  let (dot, f) := dot4 0 (fun c => mulNum (num32 (BitVec.ofNat 32 (q.getD (h * d + c) 0))) (num32 (tileElt key (64 * e + c)))) d ((d + 3) / 4) 0
  let (t, g) := mul32 .rne dot scale
  match z with
  | none => (t, f ||| g)
  | some z =>
    let (b, g2) := sizeBias z
    let (t, g3) := add32 .rne t b
    (t, f ||| g ||| g2 ||| g3)

/-- ATEX on one head (R229): the new (M, S), what it delivers, and its flags. -/
def atexHead (o : Word) (ts : List F32) : Word × HeadOut × Flags :=
  let m : F32 := o.truncate 32
  let sum : F32 := (o >>> 32).truncate 32
  let (mx, f0) := treeK (redK .max .fp32) 20 (ts.map (·.toNat))
  let mn := max32 m (BitVec.ofNat 32 mx)
  if mn = ninf32 then (o, ⟨one32, false, true, ts.map fun _ => 0⟩, f0)
  else
    let reset := m == ninf32
    let (dm, f1) := sub32 .rne m mn
    let (c, f2) := if reset then ((0 : F32), (0 : Flags)) else (let (c, g) := vexpT dm; (c, f1 ||| g))
    let ps := ts.map fun x => let (dx, g) := sub32 .rne x mn; let (p, g') := vexpT dx; (p, g ||| g')
    let (tot, f3) := treeK (redK .sum .fp32) 20 (ps.map fun (p, _) => p.toNat)
    let (sc, f4) := mul32 .rne sum c
    let (s', f5) := add32 .rne sc (BitVec.ofNat 32 tot)
    ((s'.zeroExtend 64 <<< 32) ||| mn.zeroExtend 64, ⟨c, reset, false, ps.map (·.1)⟩,
      f0 ||| f2 ||| f3 ||| f4 ||| f5 ||| ps.foldl (fun g (_, h) => g ||| h) 0)

/-- Elements an active score of head `h` reads, as damage (R232): the mask bit, the query, the size and the key row. Which of several
EVAL names is left open; the order is this one: DESIGN CHOICE (log entry 54). -/
def headDamage (s : State) (m : MReg) (a : VReg) (z : Option VReg) (g d n h : Nat) : Option TrapInfo :=
  let t := s.cur
  let es := (List.range' (h * g) (min g (n - h * g))).filter fun e => decide (e < n)
  let act := es.filter (governed t)
  if kselOf t != 0 && es.any (bitBad t (kselOf t)) then some (eccK (kselOf t))
  else if !act.isEmpty && (List.range d).any (fun c => eltBad t a 32 (h * d + c)) then some (eccV a)
  else match z with
    | some z =>
      if act.any (eltBad t z 32) then some (eccV z)
      else (mBad s m fun x => act.contains (x / 64) && decide (x % 64 < d)).map fun _ => eccM m
    | none => (mBad s m fun x => act.contains (x / 64) && decide (x % 64 < d)).map fun _ => eccM m

/-- The damage ATAC meets on a head it changes (R232): its value rows, then the output row, an order that is the model's: DESIGN
CHOICE (log entry 54). -/
def outDamage (s : State) (am an : MReg) (g d n h : Nat) (r : HeadOut) : Option TrapInfo :=
  if r.skip then none
  else match mBad s an fun x => decide (h * g ≤ x / 64) && decide (x / 64 < min n ((h + 1) * g)) && decide (x % 64 < d) with
    | some _ => some (eccM an)
    | none => if r.reset then none else (mBad s am fun x => x / 64 == h && decide (x % 64 < d)).map fun _ => eccM am

/-- The head at which a stop or a breakpoint ends a group of heads of `g` scores (R232, R407). A handler's group is not stopped
(R358). -/
def groupLimit (t : Thread) (g v0 n : Nat) : Option (Nat × Stop) :=
  match t.elim with
  | some (e, why) =>
    let ok := match why with
      | .trap _ => true
      | .request | .abandon => !inSup t
      | .group => false
    if ok && v0 ≤ e && e < n then some (e / g, why) else none
  | none => none

/-- ATSC (R226-R228): the checks of the group, its one map step, and the scores of the heads that can be performed. In supervisor
mode no stop state of a group forms (R358): damage to a head above the first traps before any has been performed (log entry 51).
STALL, the formation traps of R226 and VLX come before the two ILL checks of R227: DESIGN CHOICE (log entry 50). -/
def atsc (i : Instr) (m : MReg) (a : VReg) (b : SReg) (z : Option VReg) (s : State) : State :=
  guardS [b] s (
    let t := s.cur
    match formGroup (wordOf i) m s with
    | .error e => trap e s
    | .ok (w1, w2, f, am, an) =>
      let n := vlOf t
      let g := 2 ^ segOf t
      let nh := (n + g - 1) / g
      let d := colsOf t
      let v0 := vstartOf t
      let base : Group := ⟨t.pc, m.val, w1, w2, 0, 0, 0, .request, [], [], 0⟩
      if n ≤ v0 then finish 0 (fun t => { t with grp := some base }) s
      else if lanesOf t = 0 || 64 < n || vlmax t 32 < nh * d || (z.isSome && vlmax t 32 < n) then trapWord cVLX i s
      else if 7 < f.val + nh - 1 || v0 % g != 0 then trapWord cILL i s
      else mapStep i [(m, .read), (an, .read), (am, .readWrite)] s fun s =>
        let t := s.cur
        let q := vecElts t a 32 (nh * d)
        let key := mval s m
        let scale : F32 := (rs 0 s b).truncate 32
        let score (e : Nat) : R32 :=
          if decide (v0 ≤ e) && decide (e < n) && governed t e then
            scoreOf q key scale (z.map fun z => BitVec.ofNat 32 (elt t z 32 e)) (e / g) d e
          else (ninf32, 0)
        let headScores (h : Nat) : List R32 := (List.range' (h * g) g).map score
        let hs := List.range' (v0 / g) (nh - v0 / g)
        let limit := groupLimit t g v0 n
        let dmg := hs.findSome? fun h => match headDamage s m a z g d n h with
          | some e => some (h, e)
          | none =>
            let o : OReg := ⟨(f.val + h) % 8, Nat.mod_lt _ (by decide)⟩
            (outDamage s am an g d n h (atexHead (oreg t o) ((headScores h).map (·.1))).2.1).map fun e => (h, e)
        let (last, stop) : Nat × Stop := match dmg, limit with
          | some (h, e), some (k, why) => if h < k then (h, .trap e) else (k, why)
          | some (h, e), none => (h, .trap e)
          | none, some (k, why) => (k, why)
          | none, none => (nh, .request)
        if last = v0 / g || (inSup t && last < nh) then stopBy stop s
        else
          let rs := (List.range' (v0 / g) (last - v0 / g)).flatMap headScores
          finish 0 (fun t => { t with grp := some { base with
            first := v0 / g, last := last, total := nh, stop := stop
            scores := rs.map (·.1), flags := outFlags (rs.map fun r => (0, r)) } }) s)

/-- ATSC (R228). -/
def execAtsc (m : MReg) (a : VReg) (b : SReg) (s : State) : Out := .next (atsc (.atsc m a b) m a b none s)
/-- ATSC with the size bias (R228). -/
def execAtscBias (m : MReg) (a : VReg) (b : SReg) (z : VReg) (s : State) : Out :=
  .next (atsc (.atscBias m a b z) m a b (some z) s)

/-- ATEX on the heads [h, h + n) from their scores, `g` each. -/
def atexHeads (f : Nat) (g : Nat) : Nat → Nat → List F32 → Thread → Thread × List HeadOut × Flags
  | 0, _, _, t => (t, [], 0)
  | n + 1, h, l, t =>
    let o : OReg := ⟨(f + h) % 8, Nat.mod_lt _ (by decide)⟩
    let (w, r, fl) := atexHead (oreg t o) (l.take g)
    let (t, rs, fl') := atexHeads f g n (h + 1) (l.drop g) (setO o w t)
    (t, r :: rs, fl ||| fl')

/-- ATEX (R229), reached directly from its ATSC (R226). -/
def execAtex (o : OReg) (s : State) : Out :=
  let t := s.cur
  .next (match t.grp with
    | none => trapWord cILL (.atex o) s
    | some p =>
      if t.pc != p.addr + 4 then trapWord cILL (.atex o) s
      else
        finish 0 (fun t =>
          let (t', rs, fl) := atexHeads o.val (2 ^ segOf t) (p.last - p.first) p.first p.scores t
          { t' with grp := some { p with heads := rs, flags := p.flags ||| fl } }) s)

/-- One element of an output row (R230). -/
def atacElt (g n : Nat) (v : Tile) (r : HeadOut) (h d : Nat) (old : F32) : R32 :=
  let (acc, f) := if r.reset then ((0 : F32), (0 : Flags)) else mul32 .rne old r.c
  let p := r.p.toArray
  let (x, f') := dot4 acc (fun k => if h * g + k < n then
    mulNum (num32 (p.getD k 0)) (num32 (tileElt v (64 * (h * g + k) + d))) else zeroProd) g (max 1 (min (g / 4) 17)) 0
  (x, f ||| f')

/-- The output rows of the heads performed, with their flags. -/
def atacRows (g n d first : Nat) (v o : Tile) (hs : List HeadOut) : List (Nat × R32) :=
  (hs.zipIdx).flatMap fun (r, k) =>
    if r.skip then []
    else (List.range d).map fun c => (64 * (first + k) + c, atacElt g n v r (first + k) c (tileElt o (64 * (first + k) + c)))

/-- ATAC (R230-R232), reached directly from its ATEX: the output rows, and the end of the group. -/
def execAtac (m n : MReg) (l : Bool) (o : OReg) (s : State) : Out :=
  let t := s.cur
  .next (match t.grp with
    | none => trapWord cILL (.atac m n l o) s
    | some p =>
      if t.pc != p.addr + 8 then trapWord cILL (.atac m n l o) s
      else
        let out := atacRows (2 ^ segOf t) (vlOf t) (colsOf t) p.first (mval s n) (mval s m) p.heads
        let s := if out.isEmpty then s
          else mwrite m (fun e => out.any fun (k, _) => k == e) (fun e => ((out.find? fun (k, _) => k == e).map (·.2.1)).getD 0) s
        let fl := p.flags ||| outFlags out
        let done (t : Thread) : Thread := { orFlags fl t with grp := none }
        if p.last < p.total then
          let s := modT (fun t => { setVstart (p.last * 2 ^ segOf t) (done t) with pc := p.addr }) s
          stopBy p.stop s
        else finish 0 (fun t => setVstart 0 (done t)) (if l && 0 < p.total then dropRegs [n] s else s))

-- VTOPK (R235)

/-- The order of R235: `x` comes strictly before `y` (it is greater). -/
def beats (k : Kind) (x y : Nat) : Bool :=
  if isFloat k then
    match isNan (numK k x), isNan (numK k y) with
    | true, _ => false
    | false, true => true
    | false, false => lessNum (numK k y) (numK k x)
  else decide (intK k y < intK k x)

/-- Insertion of an index after the indices whose value it does not beat. -/
def topInsert (k : Kind) (v : Nat → Nat) (i : Nat) : List Nat → List Nat
  | [] => [i]
  | j :: l => if beats k (v i) (v j) then i :: j :: l else j :: topInsert k v i l

/-- VTOPK (R235). -/
def execVtopk (d a : VReg) (b : SReg) (s : State) : Out :=
  let t := s.cur
  let w := sewOf t
  let i : Instr := .vtopk d a b
  .next (guardV i [b] (kindOf t).isSome w s (
    match kindOf t with
    | none => s
    | some k =>
      let act := actives t 0 (vlOf t)
      let order := act.foldl (fun l i => topInsert k (elt t a w) i l) []
      let l := (order.take (min order.length (rs 0 s b).toNat)).zipIdx.map fun (i, r) => (r, i)
      runW i (orElseInfo (maskDmg t) (eltsDmg t a w act)) (writeElts d w l) id s))

end Sys2Proof.Machine
end

