-- ==== Sys2Proof/Machine/TokenMerge.lean ====
section
/-! DEFINITION. Token merging: TMATCH, TMERGE and TUNMRG (08 R236-R240), majors 0x6E and 0x6F, and the resumption of heap
instructions that waited on COPYING (09 R247, R256). -/

namespace Sys2Proof.Machine

/-- A merge map as read (R236). -/
structure MMap where
  valid : Bool
  nin : Nat
  nr : Nat
  rsv : Nat
  parent : Word
  dest : Array Nat
  size : Array F32
  deriving DecidableEq, Repr

def mapBytes : Nat := 352

def mapOf (bs : List Byte) : MMap :=
  let at' (o n : Nat) : Nat := ofBytes ((bs.drop o).take n)
  { valid := at' 16 4 == 1, nin := at' 20 1, nr := at' 21 1, rsv := at' 22 2, parent := BitVec.ofNat 64 (at' 24 8)
    dest := ((List.range 64).map fun t => at' (32 + t) 1).toArray
    size := ((List.range 64).map fun o => BitVec.ofNat 32 (at' (96 + 4 * o) 4)).toArray }

def destRow (m : MMap) (t : Nat) : Nat := m.dest.getD t 0 % 128

/-- A map is usable (R236). -/
def usable (m : MMap) : Bool :=
  m.valid && decide (2 ≤ m.nin) && decide (m.nin ≤ 64) && decide (m.nr ≤ (m.nin + 1) / 2) && m.rsv == 0 &&
    (List.range m.nin).all fun t => decide (destRow m t < m.nin - m.nr)

/-- A map's reference through the barrier with use load: healed, with the object's address. -/
def mapRef (s : State) (x : Word) : Except TrapInfo (Word × Nat) :=
  match resolveT s x .load with
  | .heap | .wait => .error (heapTrap x)
  | .ecc a => .error ⟨cECC, BitVec.ofNat 64 a, 0⟩
  | .ok r a _ => .ok (r, a)

/-- An 8-byte word of a map, as a load of the thread. -/
def mapWord (s : State) (x : Word) (a : Nat) : Except TrapInfo (List Byte) :=
  match heapRead s x (BitVec.ofNat 64 a) 8 .load with
  | .error e => .error e
  | .ok ls => .ok (readBytes s ls)

/-- The fields of the map at `a` (R236); its header is not read. -/
def mapFields (s : State) (x : Word) (a : Nat) : Except TrapInfo MMap :=
  match (List.range (mapBytes / 8 - 2)).mapM fun k => mapWord s x (a + 16 + 8 * k) with
  | .error e => .error e
  | .ok ws => .ok (mapOf (List.replicate 16 0 ++ ws.flatten))

/-- A map read through the barrier: the healed reference, its address, and the map. -/
def readMap (s : State) (x : Word) : Except TrapInfo (Word × Nat × MMap) :=
  match mapRef s x with
  | .error e => .error e
  | .ok (r, a) => match mapFields s x a with
    | .error e => .error e
    | .ok m => .ok (r, a, m)

/-- The parent of a map, when it has one (R236). -/
def readParent (s : State) (m : MMap) : Except TrapInfo (Option MMap) :=
  if m.parent = 0 then .ok none
  else match readMap s m.parent with
    | .error e => .error e
    | .ok (_, _, p) => .ok (some p)

/-- The input size of token `t` (R236). -/
def sizeIn (p : Option MMap) (t : Nat) : F32 :=
  match p with
  | some p => p.size.getD t 0
  | none => one32

/-- The parent serves a map of `n` input tokens (R237, R239). -/
def parentOk (p : Option MMap) (n : Nat) : Bool :=
  match p with
  | some p => usable p && p.nin - p.nr == n
  | none => true

/-- The address of a map's parent, when it names one. -/
def parentRef (s : State) (p : Word) : Except TrapInfo (Option Nat) :=
  if p = 0 then .ok none
  else match mapRef s p with
    | .error e => .error e
    | .ok (_, b) => .ok (some b)

/-- What TMATCH reads of its maps, with its checks in the order of R237: both references, the object's size, then the parent. -/
def matchParent (s : State) (x : Word) : Except TrapInfo (Option MMap) :=
  match mapRef s x with
  | .error e => .error e
  | .ok (_, a) => match mapWord s x (a + 24) with
    | .error e => .error e
    | .ok bs =>
      let p : Word := BitVec.ofNat 64 (ofBytes bs)
      match parentRef s p with
      | .error e => .error e
      | .ok par => match mapWord s x a with
        | .error e => .error e
        | .ok hs =>
          if 16 * (ofBytes hs % 2 ^ 24) < mapBytes then .error (heapTrap x)
          else match par with
            | none => .ok none
            | some b => match mapFields s p b with
              | .error e => .error e
              | .ok m => .ok (some m)

-- TMATCH (R237, R238)

/-- The lowest column whose value is greatest, of columns below `c` (R237). -/
def bestCol (x : Tile) (i c : Nat) : Nat :=
  (List.range c).foldl (fun b j => if beats .fp32 (tileElt x (64 * i + j)).toNat (tileElt x (64 * i + b)).toNat then j else b) 0

/-- DEST and SIZE of a match (R237), with the flags of the sums. An output token with one input token takes the bits of its w[t] as they
are, a negative zero or a NaN too, since the manual gives the sum no start value: DESIGN CHOICE (log entry 54). -/
def matchOut (x : Tile) (rn cn r : Nat) (w : Nat → F32) : List Nat × List R32 :=
  let best := ((List.range rn).map fun i => bestCol x i cn).toArray
  let sc (i : Nat) : Nat := (tileElt x (64 * i + best.getD i 0)).toNat
  let order := (List.range rn).foldl (fun l i => topInsert .fp32 sc i l) []
  let merged := order.take r
  let n := rn + cn
  let isM (t : Nat) : Bool := t % 2 == 0 && merged.contains (t / 2)
  let outOf (t : Nat) : Nat := (List.range t).countP fun u => !isM u
  let dest (t : Nat) : Nat := if isM t then 128 + outOf (2 * best.getD (t / 2) 0 + 1) else outOf t
  let sizeOf (o : Nat) : R32 :=
    match (List.range n).filter fun t => dest t % 128 == o with
    | [] => (0, 0)
    | t :: l => l.foldl (fun (a, f) u => let (y, g) := add32 .rne a (w u); (y, f ||| g)) (w t, 0)
  ((List.range 64).map fun t => if t < n then dest t else 0,
   (List.range 64).map fun o => if o < n - r then sizeOf o else (0, 0))

/-- The bytes TMATCH stores: from +16 to +24, then from +32 to +352 (R236, R237). -/
def matchBytes (n r : Nat) (dest : List Nat) (size : List R32) : List (Nat × List Byte) :=
  [(16, leBytes 4 0), (20, leBytes 4 (n + 256 * r)), (32, dest.flatMap (leBytes 1)),
   (96, size.flatMap fun x => leBytes 4 x.1.toNat), (16, leBytes 4 1)]

/-- Places of the 8-byte words of a map that TMATCH stores to. -/
def matchPlaces (s : State) (x : Word) (a : Nat) : Except TrapInfo (List (List Loc)) :=
  (List.range (mapBytes / 8)).foldl (fun (acc : Except TrapInfo (List (List Loc))) k => match acc with
    | .error e => .error e
    | .ok ls => if k < 2 || k = 3 then .ok (ls ++ [[]])
      else match heapPlaces s x (BitVec.ofNat 64 (a + 8 * k)) 8 .store with
        | .error e => .error e
        | .ok l => .ok (ls ++ [l])) (.ok [])

/-- The first store of a TMATCH that a later store's trap abandons: VALID := 0 (R238). -/
def invalidate (x : Word) (a : Nat) (s : State) : State :=
  match heapPlaces s x (BitVec.ofNat 64 (a + 16)) 4 .store with
  | .ok ls => writeAll (wrBytes ls (leBytes 4 0)) s
  | .error _ => s

/-- The stores of a match in order, byte by byte, from the places of its words. -/
def matchStores (all : List Loc) (l : List (Nat × List Byte)) : List Wr :=
  l.flatMap fun (o, bs) => wrBytes ((all.drop (if o < 32 then o - 16 else o - 24)).take bs.length) bs

/-- What an abandoned TMATCH has stored (R238): VALID := 0, and of the other bytes below the last store of VALID any, a free choice
for each. -/
def mixedStores (tick : Nat) (l : List Wr) : List Wr :=
  l.take 4 ++ (((l.drop 4).take (l.length - 8)).zipIdx.filter fun (_, j) => Config.freeBit tick (100 + j)).map (·.1)

/-- A stop request has reached the thread. -/
def requested (t : Thread) : Bool :=
  match t.elim with
  | some (_, .request) => true
  | _ => false

/-- A shape or a count that TMATCH refuses before it reads anything (R237). -/
def badMatch (rn cn r : Nat) : Bool := decide (32 < rn) || (cn != rn && cn + 1 != rn) || cn == 0 || decide (rn < r)

/-- TMATCH (R237): its checks in order, its map step, then the whole map, VALID last; it waits on COPYING before any store. A stop
request abandons it after its first store (R238), and the ECC of a similarity is met after that store.
An abandonment by a trap leaves the other fields as they were: DESIGN CHOICE (log entry 54). -/
def execTmatch (m : MReg) (a : SReg) (h : HReg) (s : State) : Out :=
  let t := s.cur
  let i : Instr := .tmatch m a h
  let rn := rowsOf t
  let cn := colsOf t
  let r := (rs 0 s a).toNat
  let x := hreg t h
  .next (guardS [a] s (
    if badMatch rn cn r then trapWord cILL i s
    else orTrap (matchParent s x) s fun par =>
      if !parentOk par (rn + cn) then trapWord cILL i s
      else withRef i x .store s fun ref addr _ =>
        mapStep i [(m, .read)] s fun s =>
          orTrap (heapPlaces s x (BitVec.ofNat 64 (addr + 16)) 8 .store) s fun _ =>
          guardMat m (fun e => decide (e / 64 < rn) && decide (e % 64 < cn)) (invalidate x addr s) (
            let (dest, size) := matchOut (mval s m) rn cn r (sizeIn par)
            match matchPlaces s x addr with
            | .error e => trap e (invalidate x addr s)
            | .ok ls =>
              let stores := matchStores ls.flatten (matchBytes (rn + cn) r dest size)
              if requested t then stopBy .request (writeAll (mixedStores s.tick stores) s)
              else finish 0 (fun t => orFlags (size.foldl (fun g (_, f) => g ||| f) 0) (setH h ref t)) (writeAll stores s))))

-- TMERGE and TUNMRG (R239)

/-- A merge of the operand tile's rows into the destination, with its flags. -/
def mergeWrite (m n : MReg) (l : Bool) (h : HReg) (ref : Word) (out : List (Nat × R32)) (s : State) : State :=
  let a := out.foldl (fun (x : Array F32) (e, v, _) => x.setIfInBounds e v) (Array.replicate 4096 (0 : F32))
  let s := mwrite m (fun _ => true) (fun e => a.getD e 0) s
  finish 0 (fun t => orFlags (outFlags out) (setH h ref t)) (if l then dropRegs [n] s else s)

/-- Row `o` of TMERGE's result, column `d` (R239). -/
def mergedElt (x : Tile) (mp : MMap) (w : Nat → F32) (o d : Nat) : R32 :=
  match (List.range mp.nin).filter fun t => destRow mp t == o with
  | [t] => (tileElt x (64 * t + d), 0)
  | ts =>
    let (num, f) := ts.foldl (fun (a, f) t =>
      let (y, g) := fma32 .rne (w t) (tileElt x (64 * t + d)) a
      (y, f ||| g)) ((0 : F32), (0 : Flags))
    let (y, g) := div32 .rne num (mp.size.getD o 0)
    (y, f ||| g)

/-- TMERGE (R239). -/
def execTmerge (m n : MReg) (l : Bool) (h : HReg) (s : State) : Out :=
  let t := s.cur
  let i : Instr := .tmerge m n l h
  .next (orTrap (readMap s (hreg t h)) s fun (ref, _, mp) =>
    if !usable mp then trapWord cILL i s
    else orTrap (readParent s mp) s fun par =>
      if !parentOk par mp.nin then trapWord cILL i s
      else mapStep i [(n, .read), (m, .full)] s fun s =>
        guardMat n (fun e => decide (e / 64 < mp.nin) && decide (e % 64 < colsOf t)) s (
          let x := mval s n
          mergeWrite m n l h ref ((List.range (mp.nin - mp.nr)).flatMap fun o => (List.range (colsOf t)).map fun d =>
            (64 * o + d, mergedElt x mp (sizeIn par) o d)) s))

/-- The chain of a map up to its root (R239): none where a check fails or it is longer than the fuel. The PARENT of the 64th map is
still read, so that its failure comes before the ILL of a chain that is too long: DESIGN CHOICE (log entry 54). -/
def chainOf (s : State) : Nat → MMap → Except TrapInfo (Option (List MMap))
  | 0, _ => .ok none
  | k + 1, mp =>
    if !usable mp then .ok none
    else if mp.parent = 0 then .ok (some [mp])
    else match readMap s mp.parent with
      | .error e => .error e
      | .ok (_, _, p) =>
        if mp.nin != p.nin - p.nr then .ok none
        else match chainOf s k p with
          | .error e => .error e
          | .ok none => .ok none
          | .ok (some l) => .ok (some (l ++ [mp]))

/-- TUNMRG (R239). -/
def execTunmrg (m n : MReg) (l : Bool) (h : HReg) (s : State) : Out :=
  let t := s.cur
  let i : Instr := .tunmrg m n l h
  .next (orTrap (readMap s (hreg t h)) s fun (ref, _, mp) =>
    orTrap (chainOf s 64 mp) s fun ch => match ch with
      | none => trapWord cILL i s
      | some ms =>
        mapStep i [(n, .read), (m, .full)] s fun s =>
          guardMat n (fun e => decide (e / 64 < mp.nin - mp.nr) && decide (e % 64 < colsOf t)) s (
            let x := mval s n
            let root := (ms.head?.map (·.nin)).getD 0
            mergeWrite m n l h ref ((List.range root).flatMap fun r => (List.range (colsOf t)).map fun d =>
              (64 * r + d, tileElt x (64 * (ms.foldl (fun q mp => destRow mp q) r) + d), 0)) s))

-- resumption (R247, R260)

/-- The instructions that wait on COPYING. -/
def heapAgain (i : Instr) (s : State) : Option Out :=
  match i with
  | .hst d h o n => some (execHst d h o n s)
  | .sth d h o => some (execSth d h o s)
  | .hcas d h o => some (execHcas d h o s)
  | .vsth d h o f => some (execVsth d h o f s)
  | .hpin d h => some (execHpin d h s)
  | .hunpin h => some (execHunpin h s)
  | .hheal h => some (execHheal h s)
  | .hcmp d h g => some (execHcmp d h g s)
  | .tmatch m a h => some (execTmatch m a h s)
  | _ => none

/-- A heap store or HPIN stalled on COPYING proceeds (R247, R256): it waits again while the entry is still COPYING. -/
def execHeapStoreResume (s : State) : Out :=
  match s.cur.wait with
  | some i => (heapAgain i s).getD (.next s)
  | none => .next s

end Sys2Proof.Machine
end

