-- ==== Sys2Proof/Machine/Access.lean ====
section
/-! DEFINITION. What an instruction shows to a debugger: the data it accesses (16 R408), its records in the trace ring (R397-R399)
and its log (R413-R415). -/

namespace Sys2Proof.Machine

/-- An access of an instruction (R408): the element it belongs to, its first byte and length; an atomic is both a load and a
store. -/
structure Access where
  e : Nat
  addr : Word
  bytes : Nat
  load : Bool
  store : Bool
  deriving DecidableEq, Repr

def ldAcc (a : Word) (n : Nat) : List Access := [⟨0, a, n, true, false⟩]
def stAcc (a : Word) (n : Nat) : List Access := [⟨0, a, n, false, true⟩]
def rmwAcc (a : Word) (n : Nat) : List Access := [⟨0, a, n, true, true⟩]

/-- Accesses of the active elements in [lo, hi). -/
def itemAcc (s : State) (f : Fmt) (ld st : Bool) (item : Nat → Item) (lo hi : Nat) : List Access :=
  (actives s.cur lo hi).map fun e => ⟨e, (item e).addr, ebytes f, ld, st⟩

/-- Accesses through a reference, at its resolved address. -/
def refAcc (s : State) (x : Word) (u : Use) (k : Nat → List Access) : List Access :=
  match resolveT s x u with
  | .ok _ a _ => k a
  | _ => []

/-- What an instruction obtains, one item after another (R414): it passes a reference through the barrier, loads, or finds a value. -/
inductive LogStep
  | ref (x : Word) (u : Use)
  | load (x : Access)
  | value (w : Word)
  deriving DecidableEq, Repr

def loadSteps (l : List Access) : List LogStep := l.map .load
/-- The loads among them. -/
def loadsIn (l : List LogStep) : List Access :=
  l.filterMap fun x => match x with
    | .load a => some a
    | .ref .. | .value _ => none

/-- The map of a token-merging instruction and the maps it reads behind it, up to `n` in all; `child` is the map below, which the
one it names has to serve (R236, R239). -/
def mapSteps (s : State) (child : Option MMap) : Nat → Word → List LogStep
  | 0, _ => []
  | n + 1, x => .ref x .load :: match readMap s x with
    | .error _ => []
    | .ok (_, a, m) =>
      let fits : Bool := match child with
        | some c => c.nin == m.nin - m.nr
        | none => true
      .load ⟨0, BitVec.ofNat 64 (a + 16), mapBytes - 16, true, false⟩ ::
        if m.parent = 0 || !usable m || !fits then [] else mapSteps s (some m) n m.parent

/-- PARENT of a map, as TMATCH reads it. -/
def parentWord (s : State) (x : Word) (a : Nat) : Word :=
  match mapWord s x (a + 24) with
  | .ok bs => BitVec.ofNat 64 (ofBytes bs)
  | .error _ => 0

/-- What TMATCH reads (R237): PARENT and the header of its map, and the parent where its map is large enough. -/
def matchSteps (s : State) (x : Word) : List LogStep :=
  .ref x .load :: match resolveT s x .load with
    | .ok _ a _ =>
      let p := parentWord s x a
      let small : Bool := match mapWord s x a with
        | .ok hs => decide (16 * (ofBytes hs % 2 ^ 24) < mapBytes)
        | .error _ => true
      loadSteps (ldAcc (BitVec.ofNat 64 (a + 24)) 8) ++ (if p = 0 then [] else [.ref p .load]) ++
        loadSteps (ldAcc (BitVec.ofNat 64 a) 8) ++ if p = 0 || small then [] else loadSteps (loadsIn (mapSteps s none 1 p))
    | _ => []

/-- What SETVLR reads: its table's words, and the block that the entry names (R221, R222). -/
def blockSteps (s : State) (p : Nat) (x : Word) : List LogStep :=
  .ref x .load :: match resolveT s x .load with
    | .ok _ a _ =>
      loadSteps (ldAcc (BitVec.ofNat 64 (a + 16)) 8 ++ ldAcc (BitVec.ofNat 64 (a + 24)) 8) ++
        match tableRead s x (a + 16), tableRead s x (a + 24) with
        | .ok w16, .ok w24 =>
          if (tableShape w16 w24).isNone || fld w16 0 32 ≤ p / 16 then []
          else loadSteps (ldAcc (BitVec.ofNat 64 (a + 32 + 8 * (p / 16))) 8) ++ match tableRead s x (a + 32 + 8 * (p / 16)) with
            | .ok b => [.ref b .load]
            | .error _ => []
        | _, _ => []
    | _ => []

/-- The elements of a tile access of the matrix unit (R215). -/
def tileAcc (s : State) (b x : SReg) (f : MFmt) (ld st : Bool) : List Access :=
  let t := s.cur
  let c := max 1 (colsOf t)
  ((List.range (rowsOf t * c)).filter (eprogOf t ≤ ·)).map fun e =>
    ⟨e, (mldItem (rs 0 s b) t.ctl.vpitch (rs 1 s x) c e).addr, ebytes (mfmtOf f), ld, st⟩

/-- The operands of the steps of an MMAS (R214). -/
def mmasAcc (s : State) (a b : SReg) : List Access :=
  let t := s.cur
  let g := mmasArgs t.ctl.mshape (rs 0 s a) (rs 1 s b)
  ((List.range (stepsOf t)).filter (fld t.ctl.mstart 0 7 ≤ ·)).flatMap fun k =>
    (mmasSpans g k).map fun (o, n) => ⟨k, BitVec.ofNat 64 (Config.scratchOwn + o), n, true, false⟩

/-- Accesses of an instruction that is about to issue (R408), in program order. Fills, spills, VPREF, copy commands and
follow-ons are none. -/
def accessesOf (i : Instr) (s : State) : List Access :=
  let t := s.cur
  let vh (h : HReg) (o : BitVec 13) (f : Fmt) (u : Use) (ld st : Bool) : List Access :=
    refAcc s (hreg t h) u fun a => itemAcc s f ld st (heapItem f a o) (vstartOf t) (vlOf t)
  let amoAcc (a : SReg) (n : Nat) : List Access := rmwAcc (rs 0 s a) n
  match i with
  | .ldB _ a o _ | .ldBu _ a o _ => ldAcc (eaOf s 0 a o) 1
  | .ldH _ a o _ | .ldHu _ a o _ => ldAcc (eaOf s 0 a o) 2
  | .ldW _ a o _ | .ldWu _ a o _ => ldAcc (eaOf s 0 a o) 4
  | .ldD _ a o _ => ldAcc (eaOf s 0 a o) 8
  | .stB _ a o _ => stAcc (eaOf s 0 a o) 1
  | .stH _ a o _ => stAcc (eaOf s 0 a o) 2
  | .stW _ a o _ => stAcc (eaOf s 0 a o) 4
  | .stD _ a o _ => stAcc (eaOf s 0 a o) 8
  | .vld _ b f m _ x => itemAcc s f true false (vmItem s b f m x) (firstOf t m) (countOf t m)
  | .vst _ b f m _ x => itemAcc s f false true (vmItem s b f m x) (firstOf t m) (countOf t m)
  | .vldx _ b f _ v => itemAcc s f true false (idxItem s b f v) (vstartOf t) (vlOf t)
  | .vstx _ b f _ v => itemAcc s f false true (idxItem s b f v) (vstartOf t) (vlOf t)
  | .vamoadd _ b f _ _ _ v => itemAcc s f true true (idxItem s b f v) (vstartOf t) (vlOf t)
  | .vldsc b _ x => ldAcc (rs 0 s b) 64 ++ ldAcc (rs 1 s x) 64
  | .vldk _ b _ x => ldAcc (maskBase s b x) ((vlOf t + 7) / 8)
  | .vstk _ b _ x => stAcc (maskBase s b x) ((vlOf t + 7) / 8)
  | .amoaddW _ a _ _ _ _ _ | .amominW _ a _ _ _ _ _ | .amomaxW _ a _ _ _ _ _ | .amoandW _ a _ _ _ _ _
  | .amoorW _ a _ _ _ _ _ | .amoswpW _ a _ _ _ _ _ | .amocasW _ a _ _ _ _ _ => amoAcc a 4
  | .amoaddD _ a _ _ _ _ _ | .amominD _ a _ _ _ _ _ | .amomaxD _ a _ _ _ _ _ | .amoandD _ a _ _ _ _ _
  | .amoorD _ a _ _ _ _ _ | .amoswpD _ a _ _ _ _ _ | .amocasD _ a _ _ _ _ _ => amoAcc a 8
  | .amonib _ a _ _ _ _ _ _ => rmwAcc (BitVec.ofNat 64 ((rs 0 s a).toNat / 2)) 1
  | .mld _ b x _ f => tileAcc s b x f true false
  | .mst _ b x _ _ f => tileAcc s b x f false true
  | .mmas _ a b => mmasAcc s a b
  | .setvlr _ a _ h _ => loadsIn (blockSteps s (rs 0 s a).toNat (hreg t h))
  | .hld _ h o n => refAcc s (hreg t h) .load fun a => ldAcc (heapEa a o) (ldBytes n)
  | .hst _ h o n => refAcc s (hreg t h) .store fun a => stAcc (heapEa a o) (stBytes n)
  | .ldh _ h o => match resolveT s (hreg t h) .load with
    | .ok _ a c =>
      let v : Word := match heapRead s (hreg t h) (heapEa a o) 8 .load with
        | .ok ls => BitVec.ofNat 64 (ofBytes (readBytes s ls))
        | .error _ => 0
      ldAcc (heapEa a o) 8 ++ if healed s v = v || c then [] else stAcc (heapEa a o) 8
    | _ => []
  | .sth _ h o => refAcc s (hreg t h) .store fun a => stAcc (heapEa a o) 8
  | .hcas _ h o => refAcc s (hreg t h) .store fun a => rmwAcc (heapEa a o) 8
  | .vldh _ h o f => vh h o f .load true false
  | .vsth _ h o f => vh h o f .store false true
  | .hpin _ h | .hunpin h => refAcc s (hreg t h) .heal fun a => rmwAcc (BitVec.ofNat 64 a) 8
  | .hallocImmediate .. | .hallocRegister .. => stAcc (BitVec.ofNat 64 (refAddr t.ctl.habuf)) 16
  | .tmatch _ _ h => loadsIn (matchSteps s (hreg t h)) ++
      refAcc s (hreg t h) .store fun a => stAcc (BitVec.ofNat 64 (a + 16)) 8 ++ stAcc (BitVec.ofNat 64 (a + 32)) 320
  | .tmerge _ _ _ h => loadsIn (mapSteps s none 2 (hreg t h))
  | .tunmrg _ _ _ h => loadsIn (mapSteps s none 65 (hreg t h))
  | _ => []

/-- The scratch-window bytes of SARM, SWAIT and MRECV (R305, R307, R313), which a watch sees beside the loads and stores (R408). -/
def syncAcc (i : Instr) (s : State) : List Access :=
  match i with
  | .sarm a =>
    let x := rs 0 s a
    ldAcc x 16 ++ stAcc (x + 4) 4 ++ stAcc (x + 12) 4
  | .swait _ a => ldAcc (rs 1 s a + 8) 8
  | .mrecv _ x => ldAcc (rs 0 s x) 64 ++ stAcc (rs 0 s x + 12) 4
  | _ => []

/-- The lowest byte of an access inside [a, a + n) (R408). -/
def lowestIn (a : Word) (n : Nat) (x : Access) : Option Nat :=
  let lo := max a.toNat x.addr.toNat
  if lo < a.toNat + n && lo < x.addr.toNat + x.bytes then some lo else none

-- pipes and elements (R397, R398)

/-- The major opcode of an instruction's word (R84). -/
def majorOf (i : Instr) : Nat := match encode i with
  | some w => w / 2 ^ 25
  | none => 0

/-- The pipe of an instruction that the trace records as it issues; copy commands are recorded by their engine (R397). -/
def pipeOf (i : Instr) : Option Nat :=
  match i with
  | .div .. | .divU .. | .rem .. | .remU .. | .fdiv .. | .fsqrt .. | .getc .. | .setvl .. | .setvlr .. | .amonib .. | .hcas ..
  | .hpin .. | .hcmp .. | .hallocImmediate .. | .hallocRegister .. | .hld .. | .ldh .. | .wait | .swait .. | .bar | .spawn ..
  | .endThread => some 0
  | .vtopk .. => some 1
  | .vamoadd .. | .vldh .. | .vsth .. => some 2
  | .mrecv .. => some 3
  | .msend .. | .msendm .. => some 6
  | i =>
    let m := majorOf i
    if 0x0B ≤ m && m ≤ 0x11 then some 0
    else if 0x20 ≤ m && m ≤ 0x28 then some 1
    else if 0x40 ≤ m && m ≤ 0x47 then some 2
    else if 0x48 ≤ m && m ≤ 0x4A then some 0
    else if 0x58 ≤ m && m ≤ 0x5F then some 3
    else if 0x69 ≤ m && m ≤ 0x6B then some 4
    else if m = 0x6E || m = 0x6F then some 5
    else none

/-- First element and element count of an instruction that is about to issue (R398); both 0 where it has none. -/
def extentOf (i : Instr) (t : Thread) : Nat × Nat :=
  match i with
  | .vld _ _ _ m _ _ | .vst _ _ _ m _ _ | .vpref _ _ m _ _ => (firstOf t m, countOf t m)
  | .vldsc .. => (0, 64)
  | .vldk .. | .vstk .. | .kpop .. | .kfirst .. => (0, vlOf t)
  | .vmvsToScalar .. | .vmvsToVector .. => (0, 1)
  | .mmas .. => (fld t.ctl.mstart 0 7, stepsOf t)
  | .mld .. | .mst .. => (eprogOf t, rowsOf t * max 1 (colsOf t))
  | .atex _ | .atac .. => (match t.grp with
    | some p => p.first * 2 ^ segOf t
    | none => vstartOf t, vlOf t)
  | i => match pipeOf i with
    | some 1 | some 2 | some 4 => (vstartOf t, vlOf t)
    | _ => (0, 0)

/-- Where an instruction that did not complete stands (R398). -/
def reachedOf (i : Instr) (t : Thread) : Nat :=
  match i with
  | .vld _ _ _ .tile _ _ | .vst _ _ _ .tile _ _ | .mld .. | .mst .. => eprogOf t
  | .mmas .. => fld t.ctl.mstart 0 7
  | i => match pipeOf i with
    | some 1 | some 2 | some 4 => vstartOf t
    | _ => 0

/-- Instructions that stop at an interior element (R407); any other stops before it starts. -/
def stopsInside (i : Instr) : Bool :=
  match i with
  | .vcompress .. | .vexpand .. | .vscan .. | .vslideup .. | .vslidedn .. | .vperm .. | .vredsum .. | .vredmax ..
  | .vredmin .. | .vsegred .. | .vtopk .. | .vldsc .. | .vldk .. | .vstk .. | .vpref .. | .kand .. | .kor .. | .kxor ..
  | .knot .. | .kpop .. | .kfirst .. | .vmvsToScalar .. | .vmvsToVector .. | .atex .. | .atac .. => false
  | i => majorOf i != 0

/-- How an instruction left its pipe: completed, with a trap of a cause, or at a stop point without one. -/
inductive Ending
  | done
  | trapped (cause : Nat)
  | stopped
  deriving DecidableEq, Repr

/-- The VL to which a load that completes trims itself (R186, R263), from the state in which it issued. -/
def trimOf (i : Instr) (s : State) : Option Nat :=
  let t := s.cur
  let cut (l : List Elem) (e : Option (Nat × Bool)) : Option Nat :=
    match e with
    | some (e, trims) => if trims && l.head?.map (·.it.e) != some e then some e else none
    | none => none
  match i with
  | .vld _ b f m _ x =>
    let l := elemsOf s f .load (vmItem s b f m x) (vstartOf t) (vlOf t)
    if m = .tile then none else cut l ((firstFail l).map fun (it, bad) => (it.e, bad != .ecc))
  | .vldh _ h o f => match resolveT s (hreg t h) .load with
    | .ok _ a _ =>
      let l := elemsOf s f .load (heapItem f a o) (vstartOf t) (vlOf t)
      cut l ((heapFail cPFLD 0 l).map fun (e, trims, _) => (e, trims))
    | _ => none
  | _ => none

/-- The first element not finished (R398), of an instruction issued in `s0` and left in `t1`: for a group, the heads performed so
far; for a load that trimmed itself, its new VL, whatever a back-edge has made of VL since. -/
def endOf (i : Instr) (s0 : State) (t1 : Thread) (e : Ending) : Nat :=
  let t0 := s0.cur
  let n := (extentOf i t0).2
  let heads (g : Option Group) : Nat := match g with
    | some p => if p.last = p.total then n else min n (p.last * 2 ^ segOf t0)
    | none => n
  match i, e with
  | .atsc .., .done | .atscBias .., .done | .atex _, .done => heads t1.grp
  | .atac .., _ => heads t0.grp
  | .vld .., .done | .vldh .., .done => (trimOf i s0).getD n
  | _, .done => n
  | _, _ => reachedOf i t1

/-- An instruction that performs its accesses element by element. -/
def byElement (i : Instr) : Bool :=
  match i with
  | .vldsc .. | .vldk .. | .vstk .. | .vpref .. => false
  | .mld .. | .mst .. | .mmas .. => true
  | i => pipeOf i == some 2

/-- The places of an access. -/
def accPlaces (s : State) (x : Access) : List Loc :=
  match xlatN s s.cur x.addr x.bytes .scalarLoad with
  | .ok (ls, _) => ls
  | .error _ => []

/-- An access of an instruction that was issued in `s0` and ended so, `hi` its first element not finished, was made: of a load that was
abandoned any may have been; a read that meets poison is made and traps, at the element and address that the trap reports where the
instruction goes element by element, and a store that a damaged source keeps back is none (R151, R190, R193). -/
def performed (i : Instr) (s0 : State) (t1 : Thread) (hi : Nat) (e : Ending) (x : Access) : Bool :=
  match e with
  | .done => !byElement i || decide (x.e < hi)
  | .stopped => byElement i && (t1.cut == some true || decide (x.e < hi))
  | .trapped c => (byElement i && decide (x.e < hi)) ||
    (c == cECC && x.load && (!byElement i || (x.e == hi && x.addr == t1.ctl.eval)) && (accPlaces s0 x).any (poisoned s0))

/-- The places that a VPREF fetches: of the addresses that it does not skip (R181). -/
def prefPlaces (s : State) (b : SReg) (f : Fmt) (m : VMode) (x : BitVec 6) : List Loc :=
  (elemsOf s f .load (vmItem s b f m x) (firstOf s.cur m) (countOf s.cur m)).flatMap fun y =>
    if misaligned f y.it then [] else match y.out with
      | .ok (ls, cls) => if cls = 3 then [] else ls
      | .error _ => []

/-- A refresh may have delayed an access (R385): one of the vector memory pipe, or of a tile load or store, that was made to a memory
stack, the fetches of a VPREF that completes among them (R115: one that traps has had no effect). -/
def meetsRefresh (i : Instr) (s0 : State) (t1 : Thread) (hi : Nat) (e : Ending) : Bool :=
  let made (l : List Access) : Bool := l.any fun x => performed i s0 t1 hi e x && (accPlaces s0 x).any inStack
  match i with
  | .vpref b f m _ x => e == .done && (prefPlaces s0 b f m x).any inStack
  | .mld .. | .mst .. => made (accessesOf i s0)
  | i => pipeOf i == some 2 && made (accessesOf i s0)

/-- The instruction's begin record (R397, R398) on issue in `s0`; `chain`: it is a later member of a chain group or attention group. -/
def beginRec (i : Instr) (p : Nat) (s0 : State) (chain : Bool) (s : State) : BitVec 128 :=
  let t := s0.cur
  let (lo, n) := extentOf i t
  mkRec (recWord0 p 0 t.ctx (deltaOf s (coreOf s (cidOf t)) 0) t.seq)
    (lo * 2 ^ 52 + n * 2 ^ 39 + (inSup t).toNat * 2 ^ 38 + chain.toNat * 2 ^ 33 + (encode i).getD 0)

/-- A later member of an attention group (R226, R398); under single-step none is marked (R412). -/
def laterMember (i : Instr) (t : Thread) : Bool :=
  t.grp.isSome && !(wbit t.ctl.estat 3 && !inSup t) && match i with
    | .atex _ | .atac .. => true
    | _ => false

/-- What the thread waits for is a store of a chain group that resumes, at an instruction of the group (R192, R260). -/
def groupWaits (t : Thread) : Bool := t.wait.isSome && t.chain != 0 && !inSup t

/-- The instruction is in its pipe already, waiting there; a send enters its pipe at its reservation (R397), and a chain group its pipes
as it goes on. -/
def inPipe (t : Thread) : Bool :=
  match t.wait with
  | none => false
  | some i => match i with
    | .msend .. | .msendm .. => t.sent
    | _ => !groupWaits t

/-- The thread's instruction waits in its pipe: its begin record, and room for the end (R397). -/
def traceEntry (i : Instr) (s0 s : State) : State :=
  match pipeOf i with
  | none => s
  | some p =>
    if !wbit s0.cur.ctl.trctl p || inPipe s0.cur || !inPipe s.cur then s
    else
      let rs := [beginRec i p s0 false s]
      let takes := ringAccepts (coreOf s (cidOf s0.cur)) (timed s rs).length 1
      let s := putRecs (cidOf s0.cur) 1 none rs [] s
      if takes then modT (fun t => { t with begun := true }) s else s

/-- The begin and end records of an instruction (R397-R399) issued in `s0` and left in `t1`; `chain`: it is a later member of a
chain group. Of one that has waited in its pipe the begin record came at its entry. REFRESH is a free bit (R385, log entry 8). -/
def traceIssue (i : Instr) (s0 : State) (t1 : Thread) (e : Ending) (chain : Bool) (s : State) : State :=
  let t0 := s0.cur
  match pipeOf i with
  | none => s
  | some p =>
    if !wbit t0.ctl.trctl p then s
    else
      let c := coreOf s (cidOf t0)
      let chain := chain || laterMember i t0
      let (lo, n) := extentOf i t0
      let hi := endOf i s0 t1 e
      let trims := e == .done && (trimOf i s0).isSome
      let both := (inSup t0).toNat * 2 ^ 38 + chain.toNat * 2 ^ 33
      let (code, trapped) : Nat × Bool := match e with
        | .trapped c => (c % 256, true)
        | _ => (0, false)
      let stop := e == .stopped || (decide (hi < n) && !trims && decide (lo < hi))
      let abandon := t1.cut == some true || (trapped && p == 1 && !stopsInside i && code == cECC)
      let fin := both + trims.toNat * 2 ^ 37 + abandon.toNat * 2 ^ 36 + trapped.toNat * 2 ^ 35 + stop.toNat * 2 ^ 34 +
        (meetsRefresh i s0 t1 hi e && Config.freeBit s.tick 62).toNat * 2 ^ 32
      let last := mkRec (recWord0 p 1 t0.ctx (deltaOf s c 1) t0.seq) (lo * 2 ^ 52 + hi * 2 ^ 39 + fin + code)
      if !inPipe t0 then putRecs (cidOf t0) 0 none [beginRec i p s0 chain s, last] [] s
      else if t0.begun then modFrame t0.frame (fun t => { t with begun := false }) (putOwed (cidOf t0) last s)
      else s

/-- A stop abandons the wait of the thread in focus (R137, R314): the instruction has left its pipe at a stop point and issues
again later under a new number (R402), which is another execution for an entry that an ERET passed over (R410). A send that waits for FREE
has not entered its pipe. -/
def abandonWait (s : State) : State :=
  match s.cur.wait with
  | none => s
  | some i =>
    let t := s.cur
    let s := if inPipe t then traceIssue i s t .stopped false s else s
    modT (fun t => { t with wait := none, spawned := none, brkSkip := none, seq := t.seq + 1, issued := t.issued + 1 }) s

-- the log (R413-R415)

/-- The 32-byte sectors of an access, in order. -/
def sectorsOf (x : Access) : List Nat :=
  (List.range ((x.addr.toNat % 32 + x.bytes + 31) / 32)).map fun k => x.addr.toNat / 32 * 32 + 32 * k

/-- A logged sector as the thread saw it in state `s0`. -/
def logSector (s0 : State) (a : Nat) (s : State) : State :=
  let bs := match xlatN s0 s0.cur (BitVec.ofNat 64 a) 32 .scalarLoad with
    | .ok (ls, _) => readBytes s0 ls
    | .error _ => []
  putLog s0.cur 1 s0.cur.seq (BitVec.ofNat 64 a)
    [BitVec.ofNat 128 (ofBytes (bs.take 16)), BitVec.ofNat 128 (ofBytes (bs.drop 16))] s

/-- The word that a reference instruction reads through `x` at an offset, where it can. -/
def wordThrough (s : State) (x : Word) (u : Use) (o : BitVec 13) : Option Word :=
  match resolveT s x u with
  | .ok _ a _ => match heapRead s x (heapEa a o) 8 (if u = .load then .load else .store) with
    | .ok ls => some (BitVec.ofNat 64 (ofBytes (readBytes s ls)))
    | .error _ => none
  | _ => none

/-- The references of its registers that an instruction passes through the barrier before it accesses memory, with their uses (R259). -/
def refsOf (i : Instr) (t : Thread) : List (Word × Use) :=
  match i with
  | .hld _ h _ _ | .vldh _ h _ _ | .ldh _ h _ => [(hreg t h, .load)]
  | .hst _ h _ _ | .sth _ h _ | .vsth _ h _ _ | .hcas _ h _ => [(hreg t h, .store)]
  | .hpin _ h | .hunpin h | .hheal h => [(hreg t h, .heal)]
  | .hcmp _ h g => if hreg t h = 0 || hreg t g = 0 then [] else [(hreg t h, .heal), (hreg t g, .heal)]
  | _ => []

/-- The barrier answers `x` from its slow path, with this reference (R247). -/
def slowRef (s : State) (x : Word) (u : Use) : Option Word :=
  match resolveT s x u with
  | .ok r a _ => match regionOf s (cidOf s.cur) s.cur.ctl.hreg ((refAddr x - Config.wbase) / 2 ^ 30) with
    | some e => if fld x 60 4 = e.good || a = 0 then none else some r
    | none => none
  | _ => none

/-- The value an atomic of the state finds, as its register form (R289, R290). -/
def amoOld (s : State) (a : Word) (n : Nat) (f : Nat → Word) : Option Word :=
  match amoPlaces s a n with
  | .ok ls => some (f (ofBytes (readBytes s ls)))
  | .error _ => none

/-- The value an instruction obtains from outside its thread (R414): of an atomic the value found, whatever its destination; of the
others what it wrote, from the thread after it. -/
def valueOf (i : Instr) (s0 : State) (t1 : Thread) : Option Word :=
  let reg (d : SReg) : Option Word := if d = 0 then none else some (sreg t1 d)
  match i with
  | .amoaddW _ a _ _ _ _ _ | .amominW _ a _ _ _ _ _ | .amomaxW _ a _ _ _ _ _ | .amoandW _ a _ _ _ _ _
  | .amoorW _ a _ _ _ _ _ | .amoswpW _ a _ _ _ _ _ | .amocasW _ a _ _ _ _ _ => amoOld s0 (rs 0 s0 a) 4 (sextNat 32)
  | .amoaddD _ a _ _ _ _ _ | .amominD _ a _ _ _ _ _ | .amomaxD _ a _ _ _ _ _ | .amoandD _ a _ _ _ _ _
  | .amoorD _ a _ _ _ _ _ | .amoswpD _ a _ _ _ _ _ | .amocasD _ a _ _ _ _ _ => amoOld s0 (rs 0 s0 a) 8 (sextNat 64)
  | .amonib _ a _ _ _ _ _ _ =>
    let na := (rs 0 s0 a).toNat
    amoOld s0 (BitVec.ofNat 64 (na / 2)) 1 fun x => BitVec.ofNat 64 (x / 16 ^ (na % 2) % 16)
  | .setvl d _ _ | .setvlr d _ _ _ _ | .hpin d _ | .hcmp d _ _ => reg d
  | .getc d c => if [0x018, 0x019, 0x01A, 0x01B].contains c.toNat then reg d else none
  | .hallocImmediate d _ | .hallocRegister d _ => some (hreg t1 d)
  | _ => none

/-- The old values that VAMOADD finds at its elements below `hi`, in ascending order (R291). -/
def vamoOld (v : VReg) (b : SReg) (f : Fmt) (x : VReg) (hi : Nat) (s0 : State) : List Word :=
  match kindOf s0.cur with
  | none => []
  | some k =>
    let l := (elemsOf s0 f .store (idxItem s0 b f x) (vstartOf s0.cur) (vlOf s0.cur)).filter fun y => decide (y.it.e < hi)
    (l.foldl (fun (ws, s) y => (ws ++ [BitVec.ofNat 64 (ofBytes (readBytes s (elemLocs y)))], (vamoElt v k y s).1)) ([], s0)).1

/-- An instruction that ended so had passed the checks it makes before the barrier and its loads (R237, R239, R247, R259). A breakpoint
that ends it has stopped it at an element. -/
def pastChecks (i : Instr) (t : Thread) (a : Nat) (e : Ending) : Bool :=
  match e with
  | .trapped c =>
    if c = cILL then match i with
      | .tmerge .. | .tunmrg .. => true
      | .tmatch .. => !badMatch (rowsOf t) (colsOf t) a
      | _ => false
    else !([cVLX, cSTALL, cPRIV].contains c)
  | _ => true

/-- The loads of an instruction that ended so, as far as it can have made them: by elements those below `hi`; none of an access that
fails as a whole or is misaligned. -/
def loadsMade (i : Instr) (s0 : State) (hi : Nat) (e : Ending) : List LogStep :=
  let l := (accessesOf i s0).filter fun x => x.load && !x.store
  loadSteps (if byElement i then l.filter fun x => decide (x.e < hi)
    else if e == .done then l
    else match i with
      | .vldsc .. | .vldk .. => []
      | _ => if e == .trapped cADDR then [] else l)

/-- What an instruction issued in state `s0` and left in `s`, which ended so, obtains from outside its thread, in the order it does
(R222, R236, R239, R262, R291, R414). -/
def logSteps (i : Instr) (s0 s : State) (hi : Nat) (e : Ending) : List LogStep :=
  let t := s0.cur
  let wrote := if e == .done then (valueOf i s0 s.cur).toList.map .value else []
  let refs := (refsOf i t).map fun (x, u) => LogStep.ref x u
  match i with
  | .setvlr _ a _ h _ => blockSteps s0 (rs 0 s0 a).toNat (hreg t h) ++ wrote
  | .ldh _ h o => refs ++ loadsMade i s0 hi e ++ (wordThrough s0 (hreg t h) .load o).toList.map (.ref · .heal)
  | .hcas d h o =>
    let y := (wordThrough s0 (hreg t h) .store o).toList
    refs ++ y.map .value ++ (if hreg t d = 0 || y == [0] || y.isEmpty then [] else [.ref (hreg t d) .heal]) ++ y.map (.ref · .heal)
  | .tmatch _ _ h => matchSteps s0 (hreg t h) ++ if e == .trapped cILL then [] else [.ref (hreg t h) .store]
  | .tmerge _ _ _ h => mapSteps s0 none 2 (hreg t h)
  | .tunmrg _ _ _ h => mapSteps s0 none 65 (hreg t h)
  | .vamoadd v b f _ _ _ x => (vamoOld v b f x hi s0).map .value
  | i => refs ++ loadsMade i s0 hi e ++ wrote

/-- The barrier answers a reference with an address. -/
def answered (s : State) (x : Word) (u : Use) : Bool :=
  match resolveT s x u with
  | .ok .. => true
  | _ => false
/-- The words that the barrier reads for the references among the steps of an instruction (R247, R456); one that did not complete goes no
further than the first reference that fails. -/
def refReads (s0 : State) (done : Bool) : List LogStep → List Loc
  | [] => []
  | .ref x u :: l =>
    resolveReads s0 (cidOf s0.cur) s0.cur.ctl.hreg x ++ if done || answered s0 x u then refReads s0 done l else []
  | _ :: l => refReads s0 done l

/-- A load brings its data: it is translated, its home can be reached, and it meets no poison. -/
def loadable (s : State) (x : Access) : Bool :=
  match xlatN s s.cur x.addr x.bytes .scalarLoad with
  | .ok (ls, _) => !ls.any fun q => locFenced s q || poisoned s q
  | .error _ => false

/-- The log of what an instruction issued in `s0` obtains, a sector once; one that did not complete obtains no more than what comes
before the first reference or load that fails. -/
def putSteps (s0 : State) (done : Bool) : List LogStep → List Nat → State → State
  | [], _, s => s
  | .ref x u :: l, seen, s =>
    if done || answered s0 x u then
      putSteps s0 done l seen (match slowRef s0 x u with
        | some r => putLog s0.cur 2 s0.cur.seq r [] s
        | none => s)
    else s
  | .load x :: l, seen, s =>
    if done || loadable s0 x then
      putSteps s0 done l (seen ++ sectorsOf x) (((sectorsOf x).filter (!seen.contains ·)).foldl (fun s a => logSector s0 a s) s)
    else s
  | .value w :: l, seen, s => putSteps s0 done l seen (putLog s0.cur 2 s0.cur.seq w [] s)

/-- What the log holds of an instruction (R414), issued in state `s0` and left in `s`, for elements below `hi`. -/
def logIssue (i : Instr) (s0 : State) (hi : Nat) (e : Ending) (s : State) : State :=
  let t := s0.cur
  let done := e == .done
  let arg : Nat := match i with
    | .tmatch _ a _ => (rs 0 s0 a).toNat
    | _ => 0
  if !t.logged then s
  else
    let s := if pastChecks i t arg e then putSteps s0 done (logSteps i s0 s hi e) [] s else s
    if !done then s
    else match i with
      | .vld .. | .vldh .. => match trimOf i s0 with
        | some n => putLog t 3 t.seq (BitVec.ofNat 64 n) [] s
        | none => s
      | .mrecv m _ =>
        let x := mval s m
        putLog t 4 t.seq (BitVec.ofNat 64 m.val) ((List.range 1024).map fun k =>
          BitVec.ofNat 128 (ofBytes ((List.range 16).map fun j => tileByte x (16 * k + j)))) s
      | _ => s

/-- The TRAPIN marker and the log of a trap entry (R400, R414); `seq` is the number of the instruction that took it (R415). -/
def traceTrap (seq : Nat) (s : State) : State :=
  let t := s.cur
  let s := putMarker t 3 (fld t.ctl.ecause 0 8) t.ctl.epc.toNat s
  putLog t 6 seq t.ctl.eval [BitVec.ofNat 128 (t.ctl.ecause.toNat + t.ctl.erec.toNat * 2 ^ 64)] s

end Sys2Proof.Machine
end

