-- ==== Sys2Proof/Machine/Engine.lean ====
section
/-! DEFINITION. Sync words, pack barriers, copy commands, follow-ons and relocation (11 R292-R308; 09 R253-R256), majors 0x78
and 0x79. -/

namespace Sys2Proof.Machine

-- sync words (R304-R307)

/-- A thread's scratch-window address as a core and a byte of its store (R42). -/
def scratchAt (s : State) (t : Thread) (a : Word) : Option (Nat × Nat) :=
  match windowOf t a.toNat with
  | some (.scratch cid off) =>
    if scratchOk s t cid off then some (cid, scratchSlot (coreOf s cid) * Config.slotBytes + off) else none
  | _ => none

/-- A sync word's address, or the ADDR trap (R305); a poisoned word traps ECC. -/
def syncWord (s : State) (a : Word) : Except TrapInfo (Nat × Nat) :=
  if a.toNat % 16 != 0 then .error ⟨cADDR, a, 0⟩
  else match scratchAt s s.cur a with
    | none => .error ⟨cADDR, a, 0⟩
    | some (cid, w) => if (hdrLocs cid w 16).any (poisoned s) then .error ⟨cECC, a, 0⟩ else .ok (cid, w)

/-- ERR and the first error code (R306). -/
def errFlags (code : Nat) (f : Word) : Word :=
  let f := setFld f 2 1 1
  if fld f 16 8 = 0 then setFld f 16 8 code else f

/-- Changes to the commands of every sett. -/
def modCmds (g : Cmd → Cmd) (s : State) : State :=
  { s with setts := s.setts.map fun k => { k with cmds := k.cmds.map g } }
def allCmds (s : State) : List Cmd := s.setts.toList.flatMap (·.cmds)

/-- An advance (R284, R306). -/
def advanceWord (cid w : Nat) (s : State) : State :=
  let s := hdrWr cid (w + 8) 4 ((hdrRd s cid (w + 8) 4 + 1) % 2 ^ 32) s
  let f := flagsRd s cid w
  let f := if wbit f 31 then setFld (setFld f 5 1 1) 4 1 0 else f
  let s := if wbit f 1 && !wbit f 31 then flagsWr cid w f (hdrWr cid (w + 4) 4 0 s) else flagsWr cid w (setFld f 0 1 0) s
  modCmds (fun c => if c.sync = some (cid, w) then { c with counted := 0, defers := false } else c) s

def isSuspended (c : Cmd) : Bool :=
  match c.state with
  | .suspended .. => true
  | _ => false

/-- Counting `n` bytes into a word (R306); `who` is the command that delivered them. -/
def syncCount (cid w : Nat) (who : Option (Nat × BitVec 32)) : Nat → Nat → State → State
  | 0, _, s => s
  | fuel + 1, n, s =>
    if n = 0 then s
    else
      let f := flagsRd s cid w
      let target := hdrRd s cid w 4
      let count := hdrRd s cid (w + 4) 4
      if !wbit f 0 || count = target then
        flagsWr cid w (errFlags 4 (if target != 0 && count = target then setFld f 3 1 1 else f)) s
      else
        let k := if count < target then min n (target - count) else n
        let s := hdrWr cid (w + 4) 4 ((count + k) % 2 ^ 32) s
        let s := match who with
          | some (sett, id) => modSett sett (fun q => { q with
              cmds := q.cmds.map fun c => if c.id = id then { c with counted := c.counted + k } else c }) s
          | none => s
        if count + k != target then syncCount cid w who fuel (n - k) s
        else
          let late (c : Cmd) : Bool := c.sync = some (cid, w) && c.counted != 0 && isSuspended c
          let s := if (allCmds s).any late then modCmds (fun c => if late c then { c with defers := true } else c) s
            else advanceWord cid w s
          syncCount cid w who fuel (n - k) s

/-- A deferred advance whose last deferring command has gone (R306). -/
def syncDue (cid w : Nat) (s : State) : State :=
  let target := hdrRd s cid w 4
  if wbit (flagsRd s cid w) 0 && target != 0 && hdrRd s cid (w + 4) 4 == target &&
      !(allCmds s).any (fun c => c.sync = some (cid, w) && c.defers) then advanceWord cid w s
  else s

/-- A malformed landing header (R310), for its FLAGS and TARGET. A word at a multiple of 16 that is no multiple of 128, or whose 128
bytes run past the end of the scratchpad, is in no case that R310 lists and is armed: DESIGN CHOICE (log entry 31). -/
def malformedHeader (s : State) (cid w : Nat) (f : Word) (target : Nat) : Bool :=
  let slot := hdrRd s cid (w + 16) 4
  slot < scratchSlot (coreOf s cid) || 255 < slot || (w + 127) / Config.slotBytes == slot || w / Config.slotBytes == slot ||
    (if wbit f 30 then target % 8 != 0 else target != 16384) || hdrRd s cid (w + 20) 4 != 0 || hdrRd s cid (w + 32) 32 != 0

/-- SARM (R305): one indivisible step. -/
def execSarm (a : SReg) (s : State) : Out :=
  .next (guardS [a] s (orTrap (syncWord s (rs 0 s a)) s fun (cid, w) =>
    let f := flagsRd s cid w
    let target := hdrRd s cid w 4
    let stop (n : Nat) : State := trap ⟨cSYNC, BitVec.ofNat 64 n, 0⟩ s
    if target = 0 then stop 1
    else if wbit f 0 && (hdrRd s cid (w + 4) 4 != 0 || wbit f 6) then stop 2
    else if fld f 24 6 != 0 || fld f 7 9 != 0 || (wbit f 31 && malformedHeader s cid w f target) then stop 3
    else if wbit f 31 && wbit f 30 && s.pkg.mbt.isNone then stop 7
    else
      let f' : Word := BitVec.ofNat 64 (fld f 30 2 * 2 ^ 30 + fld f 1 1 * 2 + 1 + (wbit f 31 || wbit f 4).toNat * 16)
      let s := flagsWr cid w f' (hdrWr cid (w + 4) 4 0 s)
      let s := noteHeader cid w s
      finish 0 id (if wbit f 31 && wbit f 30 then resetMerge cid w s else s)))

/-- GEN has passed a value (R284). -/
def passed (gen v : Nat) : Bool :=
  let d := (gen + 2 ^ 32 - v % 2 ^ 32) % 2 ^ 32
  decide (1 ≤ d) && decide (d < 2 ^ 31)

/-- SWAIT (R307): it completes at once when its condition already holds, else it waits. -/
def execSwait (d a : SReg) (s : State) : Out :=
  .next (guardS [d, a] s (orTrap (syncWord s (rs 1 s a)) s fun (cid, w) =>
    if passed (hdrRd s cid (w + 8) 4) (rs 0 s d).toNat || wbit (flagsRd s cid w) 2 then finish 0 id s
    else waitIn (.swait d a) s))

/-- The return of a waiting SWAIT (R307). -/
def execSwaitReturn (s : State) : Out :=
  match s.cur.wait with
  | some (.swait d a) => execSwait d a s
  | _ => .next s

-- barriers (R308)

/-- Every thread of the pack has arrived at least `n` times, or has ended (R308). -/
def barPassed (s : State) (n : Nat) : Bool :=
  match packOf s s.cur.pack with
  | none => true
  | some p => p.members.all fun m => m.ended || (threads s).any fun t => t.frame == m.frame && decide (n ≤ t.barCount)

/-- The wait of a BAR after its arrival. -/
def barGo (s : State) : State :=
  if barPassed s s.cur.barCount then finish 0 (fun t => { t with barWait := false }) s
  else waitIn .bar (modT (fun t => { t with barWait := true }) s)

/-- BAR (R308): a thread restored at a BAR it has arrived at does not arrive again. -/
def execBar (s : State) : Out :=
  .next (barGo (if s.cur.barWait then s else modT (fun t => { t with barCount := t.barCount + 1 }) s))

/-- The departure from a BAR (R308). -/
def execBarDeparture (s : State) : Out :=
  .next (if s.cur.wait = some .bar && s.cur.barWait && barPassed s s.cur.barCount then
    finish 0 (fun t => { t with barWait := false }) s else s)

-- issue (R292-R295)

/-- A field of c0-c7 that R293 or R294 refuses. -/
def badCmd (op : CmdOp) (w8 : Vector Word 8) : Bool :=
  let c0 := w8[0]
  let sub := fld c0 28 4
  let twod := wbit c0 9
  let rows := fld w8[3] 32 16
  fld c0 32 32 != 0 || fld c0 0 7 != 0 || 4 < fld c0 11 3 || fld c0 7 2 = 3 ||
  match op with
  | .reloc =>
    1 < sub || (sub = 1 && fld c0 24 4 != 0) || fld c0 7 9 != 0 || fld w8[3] 15 49 != 0 || fld w8[3] 0 15 = 0 ||
      16384 < fld w8[3] 0 15 || fld w8[4] 32 32 != 0 || w8[5] != 0 || w8[6] != 0 || w8[7] != 0
  | _ =>
    fld c0 16 16 != 0 || fld w8[3] 48 16 != 0 || fld w8[3] 0 32 = 0 || (!wbit c0 10 && w8[6] != 0) ||
    match op with
    | .cgath => twod || rows = 0 || fld w8[7] 1 31 != 0
    | _ => (rows = 0) == twod || (!twod && (w8[4] != 0 || w8[5] != 0)) || (if op = .cpy then w8[7] != 0 else fld w8[7] 32 32 != 0)

/-- The ranges that a command's fields name (R294): first address and length. -/
def cmdSpans (op : CmdOp) (w8 : Vector Word 8) : List (Word × Nat) :=
  let len := fld w8[3] 0 32
  let n := max 1 (fld w8[3] 32 16)
  let k (i : Nat) : Word := BitVec.ofNat 64 i
  match op with
  | .reloc => [(w8[1], 4 * fld w8[3] 0 15), (w8[2], 8 + 8 * fld w8[4] 0 32)]
  | .cgath => [(w8[1], 8), (w8[4], 4 * n)] ++ (List.range n).map fun i => (w8[2] + k i * w8[5], len)
  | _ => (List.range n).flatMap fun i => [(w8[1] + k i * w8[4], len), (w8[2] + k i * w8[5], len)]

/-- The part of [a, a + n) in one window that begins at `w`, and whether R42 admits all of it. -/
def spanOk (s : State) (pack cid w a n : Nat) : Bool :=
  let lo := max a w
  let hi := min (a + n) (w + 0x400000)
  if hi ≤ lo then true
  else holdsScratch s pack cid && decide (hi - w ≤ scratchSize (coreOf s cid)) &&
    !(coreOf s cid).bound.any fun (k, h) => boundAt s cid h &&
      decide ((scratchSlot (coreOf s cid) + (lo - w) / Config.slotBytes) ≤ k) &&
      decide (k ≤ scratchSlot (coreOf s cid) + (hi - 1 - w) / Config.slotBytes)

/-- The scratch-window bytes of a range are the thread's (R294). -/
def windowsOk (s : State) (t : Thread) (a n : Nat) : Bool :=
  spanOk s t.pack (cidOf t) Config.scratchOwn a n &&
    (List.range 32).all fun i => spanOk s t.pack (32 * t.sett + i) (Config.scratchPeer + i * 0x400000) a n

/-- Every byte of a range shorter than the hole between the canonical halves is canonical: its first and its last are (R339). -/
def spanCanonical (a : Word) (n : Nat) : Bool := canonical a && canonical (a + BitVec.ofNat 64 (n - 1))

/-- A command names an address it may not (R295 code 3): what its fields name is every byte of their ranges, rows and elements under
the pitches among them (R294). -/
def badAddr (s : State) (op : CmdOp) (w8 : Vector Word 8) : Bool :=
  let t := s.cur
  let sync := op != .reloc && wbit w8[0] 10
  !((cmdSpans op w8).all fun (a, n) => windowsOk s t a.toNat n && spanCanonical a n) ||
  (op = .cgath && (w8[1].toNat % 8 != 0 || w8[4].toNat % 4 != 0)) ||
  (op = .reloc && (w8[1].toNat % 4 != 0 || w8[2].toNat % 8 != 0)) ||
  (sync && (w8[6].toNat % 16 != 0 || (scratchAt s t w8[6]).isNone))

-- follow-ons (R300-R302)

/-- The MLD of a follow-on as item addresses. -/
def folItem (mshape vpitch s1 s2 : Word) (e : Nat) : Item := mldItem s1 vpitch s2 (max 1 (fld mshape 8 7)) e
def folCount (mshape : Word) : Nat := fld mshape 0 7 * max 1 (fld mshape 8 7)

/-- An address in the own scratch window. -/
def inOwnWindow (a : Word) : Bool := decide (Config.scratchOwn ≤ a.toNat) && decide (a.toNat < Config.scratchOwn + 0x400000)

/-- A follow-on word that R300 accepts: the instruction. -/
def folInstr (s : State) (w : Nat) : Option Instr :=
  match decode w with
  | .ok (.mmas m a b) => some (.mmas m a b)
  | .ok (.mld m b x h f) =>
    let t := s.cur
    if (List.range (folCount t.ctl.mshape)).all fun e =>
        inOwnWindow (folItem t.ctl.mshape t.ctl.vpitch (rs 10 s b) (rs 11 s x) e).addr
    then some (.mld m b x h f) else none
  | _ => none

/-- The check of a follow-on's span at the CPYM (R301). -/
def folCheck (s : State) (i : Instr) : Option TrapInfo :=
  let t := s.cur
  match i with
  | .mmas _ a b =>
    if mmasReserved (rs 10 s a) (rs 11 s b) then some ⟨cILL, 0, 0⟩
    else (mmasCheck s (mmasArgs t.ctl.mshape (rs 10 s a) (rs 11 s b)) 0 (fld t.ctl.mshape 16 7)).map fun v => ⟨cADDR, v, 0⟩
  | .mld _ b x _ f =>
    let item := folItem t.ctl.mshape t.ctl.vpitch (rs 10 s b) (rs 11 s x)
    match mMisaligned f item (folCount t.ctl.mshape) with
    | some it => some ⟨cADDR, it.addr, 0⟩
    | none => (((List.range (folCount t.ctl.mshape)).map item).find? fun it => (scratchAt s t it.addr).isNone).map
        fun it => ⟨cADDR, it.addr, 0⟩
  | _ => none

/-- The map operand of a follow-on (R199, R301). -/
def folOps (i : Instr) : List (Nat × MAcc) :=
  match i with
  | .mmas m _ _ => [(m, .readWrite)]
  | .mld m _ _ _ _ => [(m, .full)]
  | _ => []

/-- The value a register had, put into the slot that an ALLOC gave it: a follow-on that is discarded leaves it (R301). Where its backing
tile cannot be read now the slot is not dirty, and the tile stays the value. -/
def keepValue (r : Nat) (was : Entry) (s : State) : State :=
  match slotOf s.cur.map r, was with
  | some (k, _, _), .zero => modCore (cidOf s.cur) (fun c => clearSlotBad k (fun _ => true) (setTile k 0 c)) s
  | some (k, _, l), .backed => match backPlaces s false s.cur.ctl.pgroot (backAddr s.cur r) with
    | .ok ls => tileIn (cidOf s.cur) k ls s
    | .error _ => modT (fun t => { t with map := setEntry r (.resident k false l) t.map }) s
  | _, _ => s

/-- Acceptance of a command (R295, R296): it gets its CMDID, and an engine will take it up. -/
def acceptCmd (i : Instr) (op : CmdOp) (w8 : Vector Word 8) (s : State) : State :=
  let t := s.cur
  let q := settOf s t.sett
  let sync := if op != .reloc && wbit w8[0] 10 then scratchAt s t w8[6] else none
  let cmd : Cmd := {
    id := q.nextCmd, word := (wordOf i).truncate 32, seq := t.seq, traced := wbit t.ctl.trctl 6, sup := inSup t
    op := op, c := w8, pgroot := t.ctl.pgroot, hreg := t.ctl.hreg, frame := t.frame, pack := t.pack, cid := cidOf t, ctx := t.ctx
    slots := (List.range 32).map fun k => scratchSlot (coreOf s (32 * t.sett + k)), sync := sync }
  let s := modSett t.sett (fun q => { q with cmds := q.cmds ++ [cmd], nextCmd := q.nextCmd + 1 }) s
  let len := fld w8[3] 0 32 * max 1 (fld w8[3] 32 16)
  addWork (match op with
    | .reloc => if fld w8[0] 28 4 = 0 then .flip t.sett q.nextCmd.toNat else .move t.sett q.nextCmd.toNat
    | _ => .engineCommandStart t.sett q.nextCmd.toNat 0 len) s

/-- What a follow-on of command `id` is to read of the scratchpad, as its CPYM finds it (R208, R301). -/
def keepStore (id : BitVec 32) (s : State) : State :=
  modCore (cidOf s.cur) (fun c => { c with kept := c.kept ++ [⟨s.cur.frame, id, c.tiles.filter (scratchSlot c ≤ ·.1), c.bad⟩] }) s

/-- The eight command registers (R292). -/
def baseReg : CmdBase → Nat
  | .s8 => 8
  | .s16 => 16
def cmdRegs (a : CmdBase) : List SReg := (List.range 8).map fun i => ⟨(baseReg a + i) % 32, Nat.mod_lt _ (by decide)⟩
def cmdWords (a : CmdBase) (s : State) : Vector Word 8 :=
  Vector.ofFn fun i => rs i.val s ⟨(baseReg a + i.val) % 32, Nat.mod_lt _ (by decide)⟩

/-- The scalar registers that a follow-on's word names, which the CPYM reads (R301). -/
def folRegs (w : Nat) : List SReg :=
  match decode w with
  | .ok (.mmas _ a b) => [a, b]
  | .ok (.mld _ b x _ _) => [b, x]
  | _ => []

/-- Issue (R292-R295, R300, R301): the first check that fails decides the status in s_D. Every accepted command counts towards the 256
entries of its sett's queue until it completes or is aborted, one that an engine has taken up or that is suspended too; the manual does
not say when an entry leaves the queue: DESIGN CHOICE (log entry 45). -/
def issueCmd (i : Instr) (op : CmdOp) (d : SReg) (a : CmdBase) (s : State) : State :=
  let w8 := cmdWords a s
  guardS (cmdRegs a ++ if op = .cpym then folRegs (fld w8[7] 0 32) else []) s (
    let fol := if op = .cpym then folInstr s (fld w8[7] 0 32) else none
    let status (n : Nat) (s : State) : State := finish 0 (setS d (BitVec.ofNat 64 n)) s
    if badCmd op w8 || (op = .cpym && fol.isNone) then status 2 s
    else if badAddr s op w8 then status 3 s
    else if 256 ≤ (settOf s s.cur.sett).cmds.length then status 1 s
    else if op = .cpym && 4 ≤ s.cur.fols.length then status 4 s
    else match fol with
      | none => status 0 (acceptCmd i op w8 s)
      | some f =>
        match folCheck s f with
        | some e => if e.cause = cILL then trapWord cILL i s else trap e s
        | none =>
          mapStep i (folOps f) s fun s' =>
            let t := s.cur
            let (r, s1, s2) : Nat × Word × Word := match f with
              | .mmas m x y => (m, rs 10 s x, rs 11 s y)
              | .mld m x y _ _ => (m, rs 10 s x, rs 11 s y)
              | _ => (0, 0, 0)
            let vp := match f with
              | .mld .. => t.ctl.vpitch
              | _ => 0
            let s' := match f with
              | .mld .. => keepValue r (entryOf t.map r) s'
              | _ => s'
            let fo : FollowOn := ⟨BitVec.ofNat 32 (fld w8[7] 0 32), (settOf s t.sett).nextCmd, t.ctl.mshape, vp, s1, s2,
              t.seq, false, wbit t.ctl.trctl 3, inSup t, wbit t.ctl.trctl 7⟩
            status 0 (acceptCmd i op w8 (keepStore fo.cmd (modT (fun t => { t with fols := t.fols ++ [fo] }) s'))))

/-- CPY (R292-R298). -/
def execCpy (d : SReg) (a : CmdBase) (s : State) : Out := .next (issueCmd (.cpy d a) .cpy d a s)
/-- CPYM (R298, R300, R301). -/
def execCpym (d : SReg) (a : CmdBase) (s : State) : Out := .next (issueCmd (.cpym d a) .cpym d a s)
/-- CGATH (R299). -/
def execCgath (d : SReg) (a : CmdBase) (s : State) : Out := .next (issueCmd (.cgath d a) .cgath d a s)
/-- RELOC (R295, R303): in user mode it traps PRIV before any check. -/
def execReloc (d : SReg) (a : CmdBase) (s : State) : Out :=
  .next (if inSup s.cur then issueCmd (.reloc d a) .reloc d a s else trapWord cPRIV (.reloc d a) s)

-- execution (R296-R299)

def findCmd (s : State) (sett id : Nat) : Option Cmd := (settOf s sett).cmds.find? fun c => c.id.toNat == id
def modCmd (sett id : Nat) (g : Cmd → Cmd) (s : State) : State :=
  modSett sett (fun q => { q with cmds := q.cmds.map fun c => if c.id.toNat == id then g c else c }) s

/-- Why a command cannot go on: a translation fault, or an abort with an ERRCODE. -/
inductive CmdStop
  | fault (va : Word) (write : Bool)
  | abort (code : Nat)
  deriving DecidableEq, Repr

/-- The place of a command's byte (R294, R296, R297); `table`: the address comes from what CGATH has read, and no check at issue has
admitted it. A non-canonical address of that kind suspends the command and is posted as a translation fault; the manual gives no result
for it: DESIGN CHOICE (log entry 45). -/
def cmdLoc (s : State) (c : Cmd) (va : Word) (write table : Bool) : Except CmdStop Loc :=
  let a := va.toNat
  let win (cid off : Nat) : Except CmdStop Loc :=
    if table && !scratchOkP s c.pack cid off then .error (.abort 2)
    else .ok (.store cid (c.slots.getD (cid % 32) 0 * Config.slotBytes + off))
  match windowOf { sett := c.cid / 32, core := c.cid % 32 } a with
  | some (.scratch cid off) => win cid off
  | some (.context _) => .error (.abort 2)
  | none =>
    if !canonical va then .error (.fault va write)
    else match walk s c.pgroot a with
      | .error _ => .error (.fault va write)
      | .ok l =>
        if l.cls = 3 then .error (.abort 2)
        else if (write && !l.w) || paFenced s l.pa then .error (.fault va write)
        else .ok (arranged s l 0)

/-- Bytes of a command from an address on that lie in order. -/
def cmdInOrder (s : State) (c : Cmd) (va : Word) : Nat :=
  match walk s c.pgroot va.toNat with
  | .ok l => runFrom s l va.toNat
  | .error _ => 4096 - va.toNat % 4096

/-- Places of `n` bytes of a command, run by run. -/
def cmdLocs (s : State) (c : Cmd) (write table : Bool) : Nat → Word → Nat → Except CmdStop (List Loc)
  | 0, _, _ => .ok []
  | fuel + 1, va, n =>
    if n = 0 then .ok []
    else
      let k := min n (cmdInOrder s c va)
      match cmdLoc s c va write table with
      | .error e => .error e
      | .ok l => match cmdLocs s c write table fuel (va + BitVec.ofNat 64 k) (n - k) with
        | .error e => .error e
        | .ok ls => .ok ((List.range k).map (locAdd l) ++ ls)

def cmdSpan (s : State) (c : Cmd) (write table : Bool) (va : Word) (n : Nat) : Except CmdStop (List Loc) :=
  cmdLocs s c write table (n / 32 + 2) va n

def cmdRead (s : State) (c : Cmd) (table : Bool) (va : Word) (n : Nat) : Except CmdStop Nat :=
  match cmdSpan s c false table va n with
  | .error e => .error e
  | .ok ls => .ok (ofBytes (readBytes s ls))

def cmdLen (c : Cmd) : Nat := fld c.c[3] 0 32
def cmdTotal (c : Cmd) : Nat := cmdLen c * max 1 (fld c.c[3] 32 16)

/-- The source address of row or element `n` (R298, R299), and whether it came from a table. The check at issue has admitted entry 0 of
TABLE alone: the address of another entry, which an index that CGATH has read makes, is one that it obtains during the command, and one
that R42 refuses aborts with ERRCODE 2: DEDUCED from R294 (log entry 45). Poison in the region, directory or forwarding words that a
reference is resolved by aborts with ERRCODE 3, which R299 states for the cases of HEAP alone: DESIGN CHOICE (log entry 45). -/
def cmdSource (s : State) (c : Cmd) (n : Nat) : Except CmdStop (Word × Bool) :=
  if c.op = .cgath then
    match cmdRead s c false (c.c[4] + BitVec.ofNat 64 (4 * n)) 4 with
    | .error e => .error e
    | .ok x => match cmdRead s c (x != 0) (c.c[1] + BitVec.ofNat 64 (8 * x)) 8 with
      | .error e => .error e
      | .ok e =>
        let off : Word := (c.c[7] >>> 32).truncate 32 |>.signExtend 64
        if wbit c.c[7] 0 then
          match resolve s c.cid c.hreg (BitVec.ofNat 64 e) .load with
          | .ok _ a _ => .ok (BitVec.ofNat 64 a + off, true)
          | _ => .error (.abort 3)
        else .ok (BitVec.ofNat 64 e + off, true)
  else .ok (c.c[1] + BitVec.ofNat 64 n * c.c[4], false)

/-- Where byte `i` of a command goes (R298, R299). -/
def cmdDest (c : Cmd) (i : Nat) : Word :=
  c.c[2] + BitVec.ofNat 64 (i / cmdLen c) * c.c[5] + BitVec.ofNat 64 (i % cmdLen c)

/-- The places of CGATH's index and table entry for element `n` (R299), those that its reference is resolved by (R247), and the words of
page tables that the walks for byte `b` of that element or row read: these reads wake their stacks (R456). -/
def cmdTable (s : State) (c : Cmd) (n b : Nat) : List Loc :=
  let index := c.c[4] + BitVec.ofNat 64 (4 * n)
  (if c.op != .cgath then []
  else match cmdSpan s c false false index 4 with
    | .error _ => []
    | .ok ls =>
      let x := ofBytes (readBytes s ls)
      let entry := c.c[1] + BitVec.ofNat 64 (8 * x)
      tableReads s c.pgroot index 4 ++ tableReads s c.pgroot entry 8 ++ ls ++ match cmdSpan s c false (x != 0) entry 8 with
      | .ok le => le ++ if wbit c.c[7] 0 then resolveReads s c.cid c.hreg (BitVec.ofNat 64 (ofBytes (readBytes s le))) else []
      | .error _ => []) ++
  (match cmdSource s c n with
    | .ok (src, _) => tableReads s c.pgroot (src + BitVec.ofNat 64 b) 1
    | .error _ => []) ++ tableReads s c.pgroot (cmdDest c (n * cmdLen c + b)) 1

/-- The bytes from byte `i` on, at most `k`, that lie in one row and on one source and destination page: their places. -/
def cmdChunk (s : State) (c : Cmd) (i k : Nat) : Except CmdStop (List Loc × List Loc) :=
  let n := i / cmdLen c
  let b := i % cmdLen c
  match cmdSource s c n with
  | .error e => .error e
  | .ok (src, table) =>
    let sa := src + BitVec.ofNat 64 b
    let da := cmdDest c i
    let k := min (min k (cmdLen c - b)) (min (cmdInOrder s c sa) (cmdInOrder s c da))
    match cmdLoc s c sa false table with
    | .error e => .error e
    | .ok ls => match cmdLoc s c da true false with
      | .error e => .error e
      | .ok ld => .ok ((List.range k).map (locAdd ls), (List.range k).map (locAdd ld))

/-- Bytes moved as they are: a destination sector that receives a byte of a poisoned sector becomes poisoned (R296). -/
def moveBytes (src dst : List Loc) (s : State) : State :=
  let bad := (src.zip dst).filterMap fun (a, b) => if sectorBad s (sectorOf a) then some (sectorOf b) else none
  let s := wakeLocs (src ++ dst) (writeAll (wrBytes dst (readBytes s src)) s)
  bad.eraseDups.foldl (fun s q => poisonSector q s) s

/-- What a follow-on keeps of the scratchpad, without the entries that `p` names. -/
def dropKept (cid : Nat) (p : Kept → Bool) (s : State) : State :=
  if (coreOf s cid).kept.isEmpty then s else modCore cid (fun c => { c with kept := c.kept.filter fun k => !p k }) s
/-- A follow-on reads every byte its command writes (R301). -/
def keepBytes (c : Cmd) (dst : List Loc) (s : State) : State :=
  let put (k : Kept) (l : Loc) : Kept := match l with
    | .store cid b =>
      if cid != c.cid then k
      else { k with
        tiles := tset k.tiles 0 (b / Config.slotBytes) (setTileByte (tget k.tiles 0 (b / Config.slotBytes)) (b % Config.slotBytes) (byteAt s l))
        bad := if poisoned s l then sinsert k.bad (b / 4) else k.bad.filter (· != b / 4) }
    | .phys _ => k
  if (coreOf s c.cid).kept.isEmpty then s
  else modCore c.cid (fun q => { q with kept := q.kept.map fun k => if k.cmd = c.id then dst.foldl put k else k }) s

/-- A rising list of disjoint intervals with [lo, hi) added. -/
def addInterval (lo hi : Nat) : List (Nat × Nat) → List (Nat × Nat)
  | [] => [(lo, hi)]
  | (a, b) :: l =>
    if hi < a then (lo, hi) :: (a, b) :: l
    else if b < lo then (a, b) :: addInterval lo hi l
    else addInterval (min a lo) (max b hi) l
/-- The first byte at or above `i` that is not in the intervals, and where the next interval begins. -/
def nextTodo (l : List (Nat × Nat)) (i : Nat) : Nat :=
  match l.find? fun (a, b) => decide (a ≤ i) && decide (i < b) with
  | some (_, b) => b
  | none => i
def nextDone (l : List (Nat × Nat)) (i top : Nat) : Nat := l.foldl (fun m (a, _) => if i < a then min m a else m) top

/-- The follow-on of a command becomes ready, or is discarded (R297, R301): a register whose slot never held its value goes back to its
backing tile. -/
def folReady (c : Cmd) (s : State) : State :=
  if c.op != .cpym then s
  else addWork (.followOn c.frame)
    (modFrame c.frame (fun t => { t with fols := t.fols.map fun f => if f.cmd = c.id then { f with ready := true } else f }) s)
def folDiscard (sett : Nat) (c : Cmd) (s : State) : State :=
  if c.op != .cpym then s
  else match threadOf s c.frame with
    | some _ => dropKept c.cid (·.cmd == c.id) (modFrame c.frame (fun t => { t with
        fols := t.fols.filter (·.cmd != c.id)
        map := (t.fols.filter (·.cmd == c.id)).foldl (fun m f => dropClean (folReg f) m) t.map }) s)
    | none => dropKept c.cid (·.cmd == c.id) <| modSett sett (fun q => { q with folDead := q.folDead ++ [(c.frame, c.id)] }) s

/-- The end record of a command in its pipe (R397); `flag` is STOP at a suspension. -/
def cmdEnd (c : Cmd) (flag : Nat) (s : State) : State :=
  if c.owes then putOwed c.cid (mkRec (recWord0 6 1 c.ctx (deltaOf s (coreOf s c.cid) 0) c.seq)
    (flag * 2 ^ 32 + c.sup.toNat * 2 ^ 38)) s
  else s

/-- A command leaves its sett (R297, R306): `code` is 0 at completion, else the ERRCODE of an abort. -/
def closeCmd (sett : Nat) (c : Cmd) (code : Nat) (s : State) : State :=
  let s := modSett sett (fun q => { q with cmds := q.cmds.filter (·.id != c.id) }) s
  let s := cmdEnd c 0 s
  let s := match c.sync with
    | none => s
    | some (cid, w) =>
      let s := if code = 0 then s else flagsWr cid w (errFlags code (flagsRd s cid w)) s
      syncDue cid w s
  if code = 0 then folReady c s else folDiscard sett c s

/-- What a stop of a command's progress does: a fault is left for its own event, an abort takes place (R297). -/
def cmdStopped (sett : Nat) (c : Cmd) (e : CmdStop) (s : State) : State :=
  match e with
  | .abort code => closeCmd sett c code s
  | .fault va w =>
    addWork (.engineTranslationFault sett c.id.toNat) (modCmd sett c.id.toNat (fun c => { c with fault := some (va, w) }) s)

/-- The begin record when an engine takes a command up, once for each time (R397). -/
def cmdBegin (sett : Nat) (c : Cmd) (s : State) : State :=
  if c.began then s
  else
    let k := coreOf s c.cid
    let rs := [mkRec (recWord0 6 0 c.ctx (deltaOf s k 0) c.seq) (c.sup.toNat * 2 ^ 38 + c.word.toNat)]
    let takes := c.traced && ringAccepts k (timed s rs).length 1
    let s := if c.traced then putRecs c.cid 1 none rs [] s else s
    modCmd sett c.id.toNat (fun c => { c with began := true, owes := takes }) s

/-- Bytes [i, top) of a command that are not yet written, in ascending order (R298, R299). -/
def cmdRun (sett id top : Nat) : Nat → Nat → State → State
  | 0, _, s => s
  | fuel + 1, i, s =>
    match findCmd s sett id with
    | none => s
    | some c =>
      let i := nextTodo c.done i
      if top ≤ i then s
      else match cmdChunk s c i (nextDone c.done i top - i) with
        | .error e => cmdStopped sett c e (wakeLocs (cmdTable s c (i / cmdLen c) (i % cmdLen c)) s)
        | .ok (src, dst) =>
          let k := src.length
          let s := noteStore s c.pgroot (cmdDest c i).toNat k (moveBytes src dst (wakeLocs (cmdTable s c (i / cmdLen c) (i % cmdLen c)) s))
          let s := keepBytes c dst s
          let s := modCmd sett id (fun c => { c with done := addInterval i (i + k) c.done }) s
          let s := match c.sync with
            | some (cid, w) => syncCount cid w (some (sett, c.id)) (k + 1) k s
            | none => s
          cmdRun sett id top fuel (i + k) s

/-- An engine begins or continues a copy command: it writes bytes [first, first + bytes) that remain (R296, R298, R299). -/
def execEngineCommandStart (sett cmd first bytes : Nat) (s : State) : Out :=
  .next (match findCmd s sett cmd with
    | none => s
    | some c =>
      if c.op = .reloc || c.state != .running || c.fault.isSome then s
      else
        let s := cmdBegin sett c (bump s)
        let top := min (first + bytes) (cmdTotal c)
        let s := cmdRun sett cmd top (top - first + 1) first s
        match findCmd s sett cmd with
        | some c => if nextTodo c.done 0 = cmdTotal c then addWork (.engineCommandComplete sett cmd) s else s
        | none => s)

/-- ASID of a page-table root (R22). -/
def asidOf (pgroot : Word) : Nat := fld pgroot 52 12

/-- A translation fault suspends its command, and is posted (R297, R356 KIND 3); which engine met it is a free value. -/
def execEngineTranslationFault (sett cmd : Nat) (s : State) : Out :=
  .next (match findCmd s sett cmd with
    | none => s
    | some c => match c.fault with
      | none => s
      | some (va, w) =>
        let s := cmdEnd c 4 (bump s)
        let s := modCmd sett cmd (fun c => { c with state := .suspended va w, fault := none, began := false, owes := false }) s
        postFault [BitVec.ofNat 64 (3 + asidOf c.pgroot * 2 ^ 16), BitVec.ofNat 64 (sett * 2 ^ 10 + Config.freeNat s.tick 0 % 16),
          if w then 1 else 0, c.id.zeroExtend 64, va, 0, c.c[0], 0] s)

/-- A copy command completes once every byte is written (R297). -/
def execEngineCommandComplete (sett cmd : Nat) (s : State) : Out :=
  .next (match findCmd s sett cmd with
    | none => s
    | some c =>
      if c.op != .reloc && c.state = .running && c.fault.isNone && nextTodo c.done 0 = cmdTotal c then closeCmd sett c 0 (bump s)
      else s)

-- the execution of a follow-on (R301, R302)

/-- A follow-on done with: its flags, the register an uncorrectable error stopped it on, and its records in the matrix pipe, with
`n` elements or steps of which `hi` are finished (R397, R398). Of the thread's control registers it raises FFLAGS alone: MSTART and
EPROG stay as the thread's own instructions have them, which the manual leaves open: DESIGN CHOICE (log entry 44). -/
def folDone (f : FollowOn) (n hi : Nat) (fl : Flags) (s : State) : State :=
  let t := s.cur
  let k := coreOf s (cidOf t)
  let bad := hi < n
  let w0 (kind : Nat) := recWord0 3 kind t.ctx (deltaOf s k kind) f.seq
  let w1 (hi : Nat) := hi * 2 ^ 39 + f.sup.toNat * 2 ^ 38
  let s := if f.traced then putRecs (cidOf t) 0 none
      [mkRec (w0 0) (w1 n + f.word.toNat), mkRec (w0 1) (w1 hi + if bad then 4 * 2 ^ 32 else 0)] [] s else s
  modT (fun t => { orFlags fl t with
    fols := t.fols.filter (·.cmd != f.cmd)
    folBad := if bad then t.folBad ++ [(folReg f, (eccM (folReg f)).eval)] else t.folBad }) s

/-- The log of a logged thread's follow-on (R414): the sectors of its core's scratchpad that these byte ranges lie in, each once, under the
sequence number of the CPYM. -/
def folLog (f : FollowOn) (spans : List (Nat × Nat)) (s : State) : State :=
  let data (a : Nat) : BitVec 128 := BitVec.ofNat 128 (ofBytes ((List.range 16).map fun j => byteAt s (scratchLoc s (cidOf s.cur) (a + j))))
  let sectors := (spans.flatMap fun (o, n) => (List.range ((o % 32 + n + 31) / 32)).map fun k => o / 32 * 32 + 32 * k).eraseDups
  if s.cur.logged then
    sectors.foldl (fun s' a => putLog s.cur 1 f.seq (BitVec.ofNat 64 (Config.scratchOwn + a)) [data a, data (a + 16)] s') s
  else s

/-- The follow-on's operation on its RESIDENT register, with the values fixed at issue. -/
def folBody (f : FollowOn) (i : Instr) (s : State) : State :=
  let t := s.cur
  let cid := cidOf t
  let rows := fld f.mshape 0 7
  let cols := max 1 (fld f.mshape 8 7)
  match i with
  | .mmas m _ _ =>
    let g := mmasArgs f.mshape f.s1 f.s2
    let hi := fld f.mshape 16 7
    let bad := (mBad s m fun e => decide (e / 64 < rows) && decide (e % 64 < cols)).map fun _ => 0
    let poison := (List.range hi).find? fun k => (mmasPoison s cid g k).isSome
    let k := match bad, poison with
      | some k, _ | none, some k => k
      | none, none => hi
    let (s, fl) := mmasRun m g 0 k (folLog f ((List.range k).flatMap (mmasSpans g)) s)
    folDone f hi k fl s
  | .mld m _ _ _ fm =>
    let n := folCount f.mshape
    let l : List Elem := (List.range n).map fun e =>
      let it := folItem f.mshape f.vpitch f.s1 f.s2 e
      ⟨it, .ok ((List.range (ebytes (mfmtOf fm))).map fun b => scratchLoc s cid (it.addr.toNat - Config.scratchOwn + b), 0)⟩
    let e := match firstPoison s l with
      | some (e, _) => e
      | none => n
    let s := folLog f ((l.filter (·.it.e < e)).map fun y => (y.it.addr.toNat - Config.scratchOwn, ebytes (mfmtOf fm))) s
    folDone f n e 0 (mldWrite m fm rows cols 0 e true l (modT (fun t => { t with map := markDirty m t.map }) s))
  | _ => s

/-- A core with the bytes and bad elements of another store in its scratchpad, slot `lo` and up, but for the slot `own` of the
follow-on's register, which a landing slot may be (R313). -/
def overScratch (lo : Nat) (own : Option Nat) (tiles : NMap Tile) (bad : List Nat) (c : Core) : Core :=
  let lies (k : Nat) : Bool := decide (lo ≤ k) && own != some k
  let tiles := (tiles.filter fun x => lies x.1).foldl (fun m x => tput m x.1 x.2) (c.tiles.filter fun x => !lies x.1)
  let bad := (bad.filter fun e => lies (e / 4096)).foldl sinsert (c.bad.filter fun e => !lies (e / 4096))
  { c with tiles := tiles, bad := bad }

/-- A follow-on performed: it reads the scratchpad as it stood at its CPYM, with what its command has written (R208, R301). An error
that has struck the store since is met too. -/
def folPerform (f : FollowOn) (i : Instr) (s : State) : State :=
  let cid := cidOf s.cur
  let c := coreOf s cid
  match c.kept.find? fun k => k.frame == s.cur.frame && k.cmd == f.cmd with
  | none => folBody f i s
  | some k =>
    let lo := scratchSlot c
    let own := (slotOf s.cur.map (folReg f)).map (·.1)
    let s' := folBody f i (modCore cid (overScratch lo own k.tiles (k.bad.foldl sinsert c.bad)) s)
    dropKept cid (fun x => x.frame == k.frame && x.cmd == k.cmd) (modCore cid (overScratch lo own c.tiles c.bad) s')

/-- A thread's first ready follow-on that no earlier one of its register precedes. -/
def folNext : List Nat → List FollowOn → Option FollowOn
  | _, [] => none
  | rs, f :: l => if f.ready && !rs.contains (folReg f) then some f else folNext (folReg f :: rs) l

/-- Does `g` with the thread as the CPYM of a follow-on found it where trace records show that: its sequence number, its mode and the
map pipe's bit of TRCTL (R397). -/
def asIssued (f : FollowOn) (g : State → State) (s : State) : State :=
  let t := s.cur
  let s' := g (modT (fun t => modC (fun c =>
    { c with trctl := setFld c.trctl 7 1 f.mapTraced.toNat, estat := setFld c.estat 0 1 f.sup.toNat }) { t with seq := f.seq }) s)
  modT (fun u => { u with seq := t.seq, ctl := t.ctl }) s'

/-- A follow-on executes (R301): where a restore left its register without a slot, its map step is taken first, and it stays
pending while that step fails. -/
def execFollowOn (tid : Nat) (s : State) : Out :=
  .next (match focus tid s with
    | none => s
    | some s' =>
      match folNext [] s'.cur.fols with
      | none => s
      | some f =>
        match decode f.word.toNat with
        | .error _ => s
        | .ok i =>
          let s' := bump s'
          if isResident s'.cur.map (folReg f) then folPerform f i s'
          else match planOf s' (folOps i) with
            | none => s
            | some p => if (checkTiles s' (ownTiles p.moves)).isSome then s else folPerform f i (asIssued f (applyPlan p) s'))

-- relocation (R253-R255, R303)

/-- The page list of a RELOC. -/
def relocPages (s : State) (c : Cmd) : Except CmdStop (List Nat) :=
  match cmdSpan s c false false c.c[1] (4 * fld c.c[3] 0 15) with
  | .error e => .error e
  | .ok ls =>
    let bs := readBytes s ls
    .ok ((List.range (fld c.c[3] 0 15)).map fun i => ofBytes ((bs.drop (4 * i)).take 4))

def relocRegion (c : Cmd) : Nat := fld c.c[0] 16 8
def dirPa (e : Region) (p : Nat) : Nat := e.fwd + 16 * p
def dirState (s : State) (e : Region) (p : Nat) : Nat := fld (rdWord s (dirPa e p)) 62 2

/-- The first failure of a RELOC's checks, as its RESULT (R303). -/
def relocResult (s : State) (c : Cmd) (pages : List Nat) : Nat :=
  let pa := regionPa c.hreg (relocRegion c)
  let w0 := rdWord s pa
  let flip := fld c.c[0] 28 4 = 0
  match regionMk w0 (rdWord s (pa + 8)) with
  | none => 1
  | some e =>
    if e.state != 1 then 1
    else if flip && [fld w0 60 4, fld w0 56 4, fld w0 52 4].contains (fld c.c[0] 24 4) then 2
    else (pages.findSome? fun p =>
      if 16383 < p then some 5
      else if flip then (if dirState s e p = 0 then none else some 3)
      else if dirState s e p = 1 then none else some 4).getD 0

/-- Bytes that a relocation writes through its page tables: they wake their stacks (R456) and set the arrangement of their units
(R343). -/
def cmdWrite (c : Cmd) (va : Word) (ls : List Loc) (bs : List Byte) (s : State) : State :=
  noteStore s c.pgroot va.toNat bs.length (wakeLocs (ls ++ tableReads s c.pgroot va bs.length) (writeAll (wrBytes ls bs) s))

/-- The places of the tables that a relocation reads and writes: its page list, the region's entry, the directory entries of its
pages and the forwarding entries of the current page (R253-R255, R456). -/
def relocLocs (s : State) (c : Cmd) : List Loc :=
  let pa := regionPa c.hreg (relocRegion c)
  let list := match cmdSpan s c false false c.c[1] (4 * fld c.c[3] 0 15) with
    | .ok ls => ls
    | .error _ => []
  physLocs pa 32 ++ list ++ tableReads s c.pgroot c.c[1] (4 * fld c.c[3] 0 15) ++ tableReads s c.pgroot c.c[2] 8 ++ match relocPages s c, regionMk (rdWord s pa) (rdWord s (pa + 8)) with
    | .ok pages, some e => pages.flatMap (fun p => physLocs (dirPa e p) 16) ++ match pages[c.page]? with
      | some p => physLocs (fld (rdWord s (dirPa e p + 8)) 4 48 * 16) (16 * fld (rdWord s (dirPa e p)) 0 13)
      | none => []
    | _, _ => []

/-- The last word of a RELOC's report, and the end of the command (R303). -/
def relocDone (sett : Nat) (c : Cmd) (result : Nat) (s : State) : State :=
  match cmdSpan s c true false c.c[2] 8 with
  | .error e => cmdStopped sett c e s
  | .ok ls =>
    let cap := fld c.c[4] 0 32
    let w := 2 ^ 63 + c.nrep % 2 ^ 32 * 2 ^ 16 + (if cap < c.nrep then 2 ^ 15 else 0) + result
    closeCmd sett c 0 (cmdWrite c c.c[2] ls (leBytes 8 w) s)

/-- The change of a region entry and its directory by a FLIP (R253). Every core that runs a thread goes on with the old entry
until it acknowledges (R254). -/
def flipTables (c : Cmd) (e : Region) (pages : List Nat) (s : State) : State :=
  let pa := regionPa c.hreg (relocRegion c)
  let w0 := rdWord s pa
  let col := fld c.c[0] 24 4
  let s := pages.foldl (fun s p => wrWord (dirPa e p) (setFld (setFld (rdWord s (dirPa e p)) 62 2 1) 58 4 col) s) s
  let busy := ((threads s).map cidOf).eraseDups
  let s := busy.foldl (fun s k => modCore k (fun q => { q with oldEntry := tput q.oldEntry pa w0 }) s) s
  wrWord pa (BitVec.ofNat 64 (col * 2 ^ 60 + fld w0 60 4 * 2 ^ 56 + fld w0 56 4 * 2 ^ 52 +
    min (fld w0 50 2 + 1) 2 * 2 ^ 50 + 2 * 2 ^ 48)) s

/-- The end of a FLIP whose every core has acknowledged (R253). -/
def flipEnd (sett : Nat) (c : Cmd) (pa : Nat) (s : State) : State :=
  let s := wrWord pa (setFld (rdWord s pa) 48 2 1) s
  let s := wrWord (pa + 16) (rdWord s (pa + 16) + 1) s
  relocDone sett c 0 (modCmd sett c.id.toNat (fun c => { c with state := .running, page := 1 }) s)

def coresHold (s : State) (pa : Nat) : List Nat :=
  (s.cores.filter fun (_, q) => (tkeys q.oldEntry).contains pa).map (·.1)

/-- FLIP (R253, R303): its checks and its one change of the tables. `page = 1` marks a FLIP whose report alone remains. -/
def execFlip (sett cmd : Nat) (s : State) : Out :=
  .next (match findCmd s sett cmd with
    | none => s
    | some c =>
      if c.op != .reloc || fld c.c[0] 28 4 != 0 || c.state != .running || c.fault.isSome then s
      else
        let s := cmdBegin sett c (wakeLocs (relocLocs s c) (bump s))
        let c := (findCmd s sett cmd).getD c
        if c.page = 1 then relocDone sett c 0 s
        else match relocPages s c, cmdSpan s c true false c.c[2] 8 with
          | .error e, _ | .ok _, .error e => cmdStopped sett c e s
          | .ok pages, .ok _ =>
            let pa := regionPa c.hreg (relocRegion c)
            match relocResult s c pages, regionMk (rdWord s pa) (rdWord s (pa + 8)) with
            | 0, some e =>
              let s := modCmd sett cmd (fun c => { c with state := .flipping pa }) (flipTables c e pages s)
              match coresHold s pa with
              | [] => flipEnd sett c pa s
              | l => l.foldl (fun s k => addWork (.flipAcknowledge k pa) s) s
            | n, _ => relocDone sett c n s)

/-- A core acknowledges a flip (R254), if it has not done so as it fell idle; the last acknowledgement ends the flip (R253). `region` is
its entry's physical address. -/
def execFlipAcknowledge (cid region : Nat) (s : State) : Out :=
  .next (
    let s := if (tkeys (coreOf s cid).oldEntry).contains region then
        modCore cid (fun q => { q with oldEntry := terase q.oldEntry region }) (bump s)
      else s
    if !(coresHold s region).isEmpty then s
    else match (List.range 4).findSome? fun k =>
        ((settOf s k).cmds.find? fun c => c.state = .flipping region).map fun c => (k, c) with
      | some (k, c) => flipEnd k c region s
      | none => s)

/-- A reportable entry (R303): counted, and written where the area holds it. -/
def relocReport (sett : Nat) (c : Cmd) (reason : Nat) (old : Nat) (s : State) : Except CmdStop State :=
  let s' := modCmd sett c.id.toNat (fun c => { c with nrep := c.nrep + 1 }) s
  if fld c.c[4] 0 32 ≤ c.nrep then .ok s'
  else match cmdSpan s c true false (c.c[2] + BitVec.ofNat 64 (8 + 8 * c.nrep)) 8 with
    | .error e => .error e
    | .ok ls => .ok (cmdWrite c (c.c[2] + BitVec.ofNat 64 (8 + 8 * c.nrep)) ls (leBytes 8 (reason * 2 ^ 60 + old % 2 ^ 57 / 16 * 16)) s')

/-- One step of MOVE at an entry (R255): EMPTY entries are skipped for a pin, reported, or marked COPYING; the next step of a
COPYING entry copies the object and marks it DONE. Of an entry both pinned and with a NEW that is outside or overlaps, the NEW is
tested first: DESIGN CHOICE (log entry 55). -/
def moveEntry (sett : Nat) (c : Cmd) (pages : List Nat) (p pa : Nat) (s : State) : Except CmdStop State :=
  let base := Config.wbase + relocRegion c * 2 ^ 30
  let f := rdWord s pa
  let old := base + p * 65536 + fld f 0 12 * 16
  let new := refAddr (rdWord s (pa + 8))
  let next (s : State) : State := modCmd sett c.id.toNat (fun c => { c with entry := c.entry + 1, moving := false }) s
  if fld f 62 2 != 0 && !c.moving then .ok (next s)
  else match cmdSpan s c false false (BitVec.ofNat 64 old) 8 with
    | .error e => .error e
    | .ok hl =>
      let s := wakeLocs (hl ++ [old, new].flatMap fun a => tableReads s c.pgroot (BitVec.ofNat 64 a) (16 * fld (BitVec.ofNat 64 (ofBytes (readBytes s hl))) 0 24)) s
      let hdr : Word := BitVec.ofNat 64 (ofBytes (readBytes s hl))
      let n := 16 * fld hdr 0 24
      if c.moving then
        match cmdSpan s c false false (BitVec.ofNat 64 old) n, cmdSpan s c true false (BitVec.ofNat 64 new) n with
        | .error e, _ | .ok _, .error e => .error e
        | .ok src, .ok dst =>
          let s := noteStore s c.pgroot new n (moveBytes src dst s)
          let s := if n < 8 then s else writeAll (wrBytes ((dst.drop 4).take 2) (leBytes 2 0)) s
          .ok (next (wrWord pa (setFld f 62 2 2) s))
      else
        let outside := !(decide (base ≤ new) && decide (new < base + 2 ^ 30))
        let overlap := pages.any fun q => decide (new < base + (q + 1) * 65536) && decide (base + q * 65536 < new + n)
        let keep (why : Nat) : Except CmdStop State := match relocReport sett c why old s with
          | .error e => .error e
          | .ok s => .ok (next (modCmd sett c.id.toNat (fun c => { c with kept := c.kept ++ [c.page] }) s))
        if outside then keep 2
        else if overlap then keep 3
        else if fld hdr 32 16 != 0 then
          match relocReport sett c 1 old s with
          | .error e => .error e
          | .ok s => .ok (next (wrWord pa (setFld (setFld f 62 2 2) 61 1 1) (wrWord (pa + 8) (BitVec.ofNat 64 old) s)))
        else .ok (modCmd sett c.id.toNat (fun c => { c with moving := true }) (wrWord pa (setFld f 62 2 1) s))

/-- MOVE (R255, R303), one entry at a time in the listed order, entries of a page in ascending OLD. -/
def execMove (sett cmd : Nat) (s : State) : Out :=
  .next (match findCmd s sett cmd with
    | none => s
    | some c =>
      if c.op != .reloc || fld c.c[0] 28 4 != 1 || c.state != .running || c.fault.isSome then s
      else
        let s := cmdBegin sett c (wakeLocs (relocLocs s c) (bump s))
        let c := (findCmd s sett cmd).getD c
        match relocPages s c with
        | .error e => cmdStopped sett c e s
        | .ok pages =>
          let start := c.page = 0 && c.entry = 0 && !c.moving
          let pa := regionPa c.hreg (relocRegion c)
          match (if start then relocResult s c pages else 0), regionMk (rdWord s pa) (rdWord s (pa + 8)), pages[c.page]? with
          | 0, some e, some p =>
            let g0 := rdWord s (dirPa e p)
            let ents := fld (rdWord s (dirPa e p + 8)) 4 48 * 16
            let order := ((List.range (fld g0 0 13)).map fun k => (fld (rdWord s (ents + 16 * k)) 0 12, ents + 16 * k)).mergeSort
              fun a b => decide (a.1 ≤ b.1)
            let again := addWork (.move sett cmd)
            match order[c.entry]? with
            | none =>
              let s := if c.kept.contains c.page then s else wrWord (dirPa e p) (setFld g0 62 2 2) s
              again (modCmd sett cmd (fun c => { c with page := c.page + 1, entry := 0 }) s)
            | some (_, fpa) =>
              match moveEntry sett c pages p fpa s with
              | .error e => cmdStopped sett c e s
              | .ok s => again s
          | n, _, _ => relocDone sett c n s)

end Sys2Proof.Machine
end

