-- ==== Sys2Proof/Machine/Debug.lean ====
section
/-! DEFINITION. The debug table: trace rings and breakpoint sets as a core reads them, halts and the STEP trap (16 R393-R416;
13 R362). -/

namespace Sys2Proof.Machine

/-- The descriptor of a core's ring (R393, R394). -/
def ringDesc (base cid : Nat) : Nat := base + 64 * cid

/-- EN is set in a descriptor that keeps the rules of R394. -/
def ringEnabled (s : State) (d : Nat) : Bool :=
  let w0 := rdWord s d
  let w1 := rdWord s (d + 8)
  wbit w1 5 && fld w0 52 12 == 0 && fld w0 0 12 == 0 && fld w1 8 56 == 0 && decide (8 ≤ fld w1 0 5) && decide (fld w1 0 5 ≤ 24) &&
    rdWord s (d + 40) == 0 && rdWord s (d + 48) == 0 && rdWord s (d + 56) == 0

/-- A ring that has nothing left to write falls inactive (R395). -/
def ringFall (cid : Nat) (s : State) : State :=
  let c := coreOf s cid
  let d := c.ring.desc
  if c.ring.act && !c.ring.en && c.ring.queue.isEmpty && c.ring.owed = 0 then
    let s := wrPhys (d + 32) 4 c.ring.lost.toNat (wrPhys (d + 24) 8 c.ring.tail.toNat s)
    let s := wrWord (d + 8) (setFld (rdWord s (d + 8)) 7 1 0) s
    modCore cid (fun c => { c with ring := { c.ring with act := false } }) s
  else s

/-- A core takes no more records for the ring it has, which falls inactive once those it has and those it owes are written (R395, R397). -/
def ringStop (cid : Nat) (s : State) : State :=
  ringFall cid (modCore cid (fun c => { c with ring := { c.ring with en := false } }) s)

/-- A core's ring becomes active. Its TIMESYNC comes behind the rest of a log record that is written in part (R395, R401, R415). -/
def ringBegin (cid d : Nat) (s : State) : State :=
  let c := coreOf s cid
  let w1 := rdWord s (d + 8)
  let r : Ring := {
    desc := d, en := true, act := true, wrap := wbit w1 6, log2 := fld w1 0 5, base := fld (rdWord s d) 12 40 * 4096
    head := BitVec.ofNat 32 (rdPhys s (d + 16) 4), tail := BitVec.ofNat 32 (rdPhys s (d + 24) 4)
    lost := BitVec.ofNat 32 (rdPhys s (d + 32) 4), held := c.ring.held, cutLog := c.ring.cutLog }
  let s := wrWord (d + 8) (setFld w1 7 1 1) (modCore cid (fun c => { c with ring := r }) s)
  owesTail cid (modCore cid (fun c => { c with ring :=
    if c.ring.cutLog then { c.ring with held := afterFirst (timeSync s 0) c.ring.held }
    else { c.ring with queue := [timeSync s 0] } }) s)

/-- A core re-reads its ring descriptor (R395). A ring that is still active by a descriptor of an earlier table falls inactive first: DEDUCED
from R395, by which a ring falls when its last record is written (log entry 56). -/
def rereadRing (base cid : Nat) (s : State) : State :=
  let d := ringDesc base cid
  if !ringEnabled s d then ringStop cid s
  else
    let s := if (coreOf s cid).ring.act && (coreOf s cid).ring.desc != d then ringStop cid s else s
    let r := (coreOf s cid).ring
    if !r.act then ringBegin cid d s
    else if r.desc != d then s
    else modCore cid (fun c => { c with ring := { c.ring with
      en := true, head := if c.ring.wrap then c.ring.head else BitVec.ofNat 32 (rdPhys s (d + 16) 4) } }) s

/-- The breakpoint set of an ASID as it takes effect (R404): a header that breaks the rules counts as zero. -/
def readSet (s : State) (base asid : Nat) : List Word :=
  let ws := (List.range 32).map fun i => rdWord s (base + 0x2000 + 256 * asid + 8 * i)
  let h := ws.getD 0 0
  let l := ws.getD 1 0
  if fld h 35 29 != 0 || fld l 16 48 != 0 || ws.getD 2 0 != 0 || ws.getD 3 0 != 0 then List.replicate 4 0 ++ ws.drop 4 else ws

def setOf (s : State) (t : Thread) : List Word := tget (coreOf s (cidOf t)).sets [] (asidOf t.ctl.pgroot)
/-- HALT applies to the thread (R404, R405). -/
def haltDue (s : State) (t : Thread) : Bool := t.live && !inSup t && wbit ((setOf s t).getD 0 0) 32

/-- The sets of a core were re-read between two states: the threads for which HALT came into force then, at the instructions they had begun
(R395, R409). -/
def noteHalts (cid : Nat) (s0 s : State) : State :=
  let before (t : Thread) : Bool := haltDue s0 t && !(coreOf s0 cid).haltNew.contains (t.frame, t.seq)
  let l := ((threads s).filter fun t => cidOf t == cid && haltDue s t && !before t).map fun t => (t.frame, t.seq)
  if (coreOf s cid).haltNew = l then s else modCore cid (fun c => { c with haltNew := l }) s

/-- A core re-reads its descriptor and the sets of the ASIDs it runs, `more` among them (R395). -/
def rereadDebug (cid : Nat) (more : List Nat) (s : State) : State :=
  match s.pkg.dbg with
  | none => s
  | some base =>
    let asids := more ++ (((s.cur :: s.others).filter fun t => t.live && cidOf t == cid).map fun t => asidOf t.ctl.pgroot)
    noteHalts cid s (asids.foldl (fun s a => modCore cid (fun c => { c with sets := tset c.sets [] a (readSet s base a) }) s) (rereadRing base cid s))

/-- DEBUG_TABLE_REREAD (R395). -/
def execDebugTableReread (cid : Nat) (s : State) : Out := .next (rereadDebug cid [] (bump s))

/-- Writes records while the ring takes them and keeps `room` for others (R394, R396): those that are left, the ring, the
state. -/
def writeRecs (room : Nat) : List (BitVec 128) → Ring → State → List (BitVec 128) × Ring × State
  | [], r, s => ([], r, s)
  | x :: l, r, s =>
    let used := (r.tail - r.head).toNat
    if !r.wrap && 2 ^ r.log2 ≤ used + room then (x :: l, r, s)
    else
      let s := wrPhys (r.base + 16 * (r.tail.toNat % 2 ^ r.log2)) 16 x.toNat s
      writeRecs room l { r with tail := r.tail + 1, head := if used = 2 ^ r.log2 then r.head + 1 else r.head } s

/-- The held records are written, group by group, while the ring takes them. -/
def writeHeld : List (Nat × List (BitVec 128)) → Ring → State → Ring × State
  | [], r, s => ({ r with held := [], cutLog := false }, s)
  | (f, g) :: l, r, s =>
    let (q, r, s) := writeRecs r.owed g r s
    if q.isEmpty then writeHeld l { r with cutLog := false } s
    else ({ r with held := (f, q) :: l, cutLog := r.cutLog || decide (q.length < g.length) }, s)

/-- The rest of a group of held records that is written in part: no other record comes between (R415). -/
def writeCut (r : Ring) (s : State) : Ring × State :=
  match r.cutLog, r.held with
  | true, (f, g) :: l =>
    let (q, r, s) := writeRecs r.owed g r s
    if q.isEmpty then ({ r with held := l, cutLog := false }, s) else ({ r with held := (f, q) :: l }, s)
  | _, _ => (r, s)

/-- The queue is written, and then, while the ring is enabled, the records held for it: the rest of one written in part, and the others
behind the markers of a drop (R396, R401, R413, R415). -/
def drainRing (r : Ring) (s : State) : Ring × State :=
  let (q, r, s) := writeRecs 0 r.queue r s
  let r := { r with queue := q }
  let (r, s) := if q.isEmpty && r.en then writeCut r s else (r, s)
  if !q.isEmpty || r.held.isEmpty || !r.en || r.cutLog then (r, s)
  else
    let marks := lostMarks s r
    let (m, r, s) := writeRecs r.owed marks r s
    if !m.isEmpty then ({ r with queue := m, dropped := false }, s)
    else writeHeld r.held { r with dropped := false } s

/-- TRACE_TAIL_WRITE (R395, R396): the records first, then TAIL, HEAD of a wrapping ring, and LOST. -/
def execTraceTailWrite (cid : Nat) (s : State) : Out :=
  .next (
      let c := coreOf s cid
      if s.pkg.dbg.isNone || !c.ring.act then s
      else
        let d := c.ring.desc
        let head := if c.ring.wrap then c.ring.head else BitVec.ofNat 32 (rdPhys s (d + 16) 4)
        let (r, s) := drainRing { c.ring with head := head } (bump s)
        let s := modCore cid (fun c => { c with ring := r }) s
        let s := wrPhys (d + 24) 8 r.tail.toNat s
        let s := if r.wrap then wrPhys (d + 16) 4 r.head.toNat s else s
        ringFall cid (wrPhys (d + 32) 4 r.lost.toNat s))

/-- SET_DBGBASE (R393): refused while a ring is enabled, or for a base that R365 refuses. -/
def localBase (s : State) (b : Word) (align n : Nat) : Bool :=
  b.toNat % align == 0 && b.toNat / 2 ^ 39 == s.pkg.index && decide (b.toNat % 2 ^ 39 + n ≤ Config.hbmBytes)

-- what a set says of a thread (R404, R405, R413)

/-- A thread that starts now is logged (R413). -/
def logsStart (s : State) (t : Thread) : Bool :=
  let h := (setOf s t).getD 0 0
  wbit h 33 && (wbit h 34 || fld ((setOf s t).getD 1 0) 0 16 == t.pool)

/-- An entry of a set. -/
structure Brk where
  type : Nat
  acc : Nat
  elem : Nat
  addr : Word
  len : Nat
  deriving DecidableEq, Repr

/-- Entry `i` (1-7) of the set in force for the thread, when it keeps R405 and concerns the thread. -/
def brkAt (s : State) (t : Thread) (i : Nat) : Option Brk :=
  let ws := setOf s t
  let w (k : Nat) : Word := ws.getD (4 * i + k) 0
  let ty := fld (w 0) 62 2
  let acc := fld (w 0) 60 2
  let len := fld (w 2) 0 32
  if ty = 0 || fld (w 0) 48 11 != 0 || fld (w 0) 12 20 != 0 || fld (w 2) 32 32 != 0 || w 3 != 0 then none
  else if (ty = 2) == (acc = 0) || (ty = 2) == (len = 0) || (ty != 2 && (w 1).toNat % 4 != 0) then
    none
  else if wbit (w 0) 59 && fld (w 0) 32 16 != t.pool then none
  else some ⟨ty, acc, fld (w 0) 0 12, w 1, len⟩
def brks (s : State) (t : Thread) : List (Nat × Brk) :=
  (List.range 7).filterMap fun i => (brkAt s t (i + 1)).map fun b => (i + 1, b)

-- traps between instructions (R362, R408, R409)

/-- A trap that no instruction issue belongs to: the sequence numbers stay. -/
def trapBetween (pc : Word) (e : TrapInfo) (s : State) : State :=
  modT (fun t => { t with seq := s.cur.seq, issued := s.cur.issued }) (trapAt pc e s)

/-- HALT (R409): the thread stops at its stop point and traps BRKPT with EVAL 15. An attention group and a send past its
reservation complete first, and a STEP that is due is taken first (R362). -/
def execHalt (tid : Nat) (s : State) : Out :=
  .next (match focus tid s with
    | none => s
    | some s' =>
      if !haltDue s' s'.cur || s'.cur.grp.isSome || s'.cur.sent || s'.cur.parking.isSome || s'.cur.stepDue.isSome then s
      else trapBetween s'.cur.pc ⟨cBRKPT, 15, 0⟩ (abandonWait s'))

/-- A command that STEP waits for has drained (R362): it has left its sett, or is suspended and posted. -/
def cmdDrained (s : State) (sett : Nat) (id : BitVec 32) : Bool :=
  match findCmd s sett id.toNat with
  | none => true
  | some c => isSuspended c && !s.pkg.fqWait.any fun ws =>
      fld (ws.getD 0 0) 0 8 == 3 && fld (ws.getD 1 0) 10 2 == sett && ws.getD 3 0 == id.zeroExtend 64

/-- What the thread's last instruction started has drained (R362): its commands in that sett, their follow-ons, and its transfers. -/
def drained (s : State) (t : Thread) (sett : Nat) (ids : List (BitVec 32)) : Bool :=
  ids.all (fun id => cmdDrained s sett id && !t.fols.any (·.cmd == id)) &&
    !(coreOf s (cidOf t)).xfers.any fun x => x.frame == t.frame

/-- SINGLE_STEP_TRAP (R362). -/
def execSingleStepTrap (s : State) : Out :=
  .next (match s.cur.stepDue with
    | none => s
    | some (sett, ids) =>
      if !drained s s.cur sett ids then s
      else trapBetween s.cur.pc ⟨cSTEP, 0, 0⟩ (modT (fun t => { t with stepDue := none }) s))

end Sys2Proof.Machine
end

