-- ==== Sys2Proof/Machine/Queue.lean ====
section
/-! DEFINITION. Hardware queues, completion words, join blocks and the records the sequencer runs itself (12 R315-R324,
R329-R331; 14 R369), with SPAWN and END (11 R309), major 0x7A. -/

namespace Sys2Proof.Machine

-- address spaces (R315)

structure Space where
  pgroot : Word
  evec : Word
  hreg : Word
  stkBase : Word
  pool : Nat
  stkSize : Nat
  backBase : Word
  deriving DecidableEq, Repr

/-- Entry `a` of the address-space table; POOL = 0 where it breaks the rules (R315). -/
def spaceOf (s : State) (a : Nat) : Space :=
  match s.pkg.ast with
  | none => ⟨0, 0, 0, 0, 0, 0, 0⟩
  | some base =>
    let w (k : Nat) : Word := rdWord s (base + 64 * a + 8 * k)
    let ok := asidOf (w 0) == a && fld (w 4) 32 32 == 0 && w 6 == 0 && w 7 == 0
    ⟨w 0, w 1, w 2, w 3, if ok then fld (w 4) 16 16 else 0, fld (w 4) 0 16, w 5⟩

-- queues (R317-R320)

def queueAt (s : State) (q : Nat) : Nat := s.pkg.qt.getD 0 + 32 * q
def queueWord (s : State) (q k : Nat) : Word := rdWord s (queueAt s q + 8 * k)
def queueAsid (s : State) (q : Nat) : Nat := fld (queueWord s q 0) 52 12
def queueRing (s : State) (q : Nat) : Nat := fld (queueWord s q 0) 12 40 * 4096
def queuePmax (s : State) (q : Nat) : Nat := fld (queueWord s q 1) 8 5
def queueHost (s : State) (q : Nat) : Bool := wbit (queueWord s q 1) 6
def queueSize (s : State) (q : Nat) : Nat := 2 ^ fld (queueWord s q 1) 0 5
def queueHead (s : State) (q : Nat) : BitVec 32 := (queueWord s q 2).truncate 32
def queueTail (s : State) (q : Nat) : BitVec 32 := (queueWord s q 3).truncate 32
def queueCount (s : State) (q : Nat) : Nat := (queueTail s q - queueHead s q).toNat
def queueEnabled (s : State) (q : Nat) : Bool := s.pkg.enabled.contains q
/-- The place of record `n` of a queue. -/
def recordAt (s : State) (q : Nat) (n : BitVec 32) : Nat := queueRing s q + 64 * (n.toNat % queueSize s q)
def setHead (q : Nat) (n : BitVec 32) (s : State) : State := wrPhys (queueAt s q + 16) 8 n.toNat s
def setTail (q : Nat) (n : BitVec 32) (s : State) : State := wrPhys (queueAt s q + 24) 8 n.toNat s
def finQ (q : Nat) : Fin 1024 := ⟨q % 1024, Nat.mod_lt _ (by decide)⟩

/-- A queue-error event (R369). -/
def queueEvent (kind q info reason : Nat) (s : State) : State :=
  modPkg (logEvent 1 ⟨true, BitVec.ofNat 128 (kind + q * 2 ^ 24 + (info % 2 ^ 32 + reason * 2 ^ 32) * 2 ^ 64)⟩) s

/-- The device may append to a queue for an address space (R319). -/
def appendOk (s : State) (q : Nat) (pgroot : Word) : Bool :=
  queueEnabled s q && !queueHost s q && queueAsid s q == asidOf pgroot
def heldFor (s : State) (q : Nat) : List Held := s.pkg.held.filter (·.queue == q)
/-- An append would have to wait (R319). -/
def appendWaits (s : State) (q : Nat) : Bool := queueSize s q ≤ queueCount s q || !(heldFor s q).isEmpty

/-- The record copied into the ring, then TAIL (R319). -/
def appendRec (q : Nat) (r : Rec) (s : State) : State :=
  setTail q (queueTail s q + 1) (wrPhys (recordAt s q (queueTail s q)) 64 r.toNat s)

/-- Room that appears in a queue lets a held append go (R319). -/
def roomFor (q : Nat) (s : State) : State := if (heldFor s q).isEmpty then s else addWork (.heldAppend (finQ q)) s

-- completion words (R322) and FAULT (R331)

/-- The places of an aligned access that the sequencer makes under an address space's tables: none where it faults or meets
poison. The windows belong to threads, not to it (DEDUCED, log entry 15). -/
def seqLocs (s : State) (pgroot a : Word) (n : Nat) (write : Bool) : Option (List Loc) :=
  if !canonical a || a.toNat % n != 0 || (windowOf {} a.toNat).isSome then none
  else match walk s pgroot a.toNat with
    | .error _ => none
    | .ok l =>
      let ls := leafLocs s l n
      if (write && !l.w) || paFenced s l.pa || ls.any (poisoned s) then none else some ls

def seqRead (s : State) (ls : List Loc) : Nat := ofBytes (readBytes s ls)

/-- Bytes that the sequencer writes under an address space's tables (R343 sets the arrangement of their unit). -/
def seqWrite (pgroot a : Word) (ls : List Loc) (bs : List Byte) (s : State) : State :=
  noteStore s pgroot a.toNat bs.length (writeAll (wrBytes ls bs) s)

/-- A change of a completion word: once it cannot be written the record is counted internally, with one event (R322). -/
def doneWord (f : Word → Word) (r : Source) (s : State) : Source × State :=
  if r.done = 0 || r.inside then (r, s)
  else match seqLocs s r.pgroot r.done 8 true with
    | some ls => (r, seqWrite r.pgroot r.done ls (leBytes 8 (f (BitVec.ofNat 64 (seqRead s ls))).toNat) s)
    | none => ({ r with inside := true }, queueEvent 9 r.queue r.index.toNat 0 s)

/-- FAULT (R331): STATUS and REASON alone change, and one event names the record. -/
def faultRec (r : Source) (reason : Nat) (s : State) : State :=
  let s := (doneWord (fun w => setFld (setFld w 62 2 3) 40 8 reason) r s).2
  queueEvent (if reason = 19 then 7 else 5) r.queue r.index.toNat reason s

/-- An append of the sequencer to a queue that is open to it: made, or held (R319). -/
def seqAppend (q : Nat) (x : Rec) (r : Source) (node : Bool) (s : State) : State :=
  if appendWaits s q then modPkg (fun p => { p with held := p.held ++ [⟨q, x, r, node⟩] }) s else appendRec q x s

/-- The decrement of a join block and the append of its successor (R323). -/
def joinStep (r : Source) (s : State) : State :=
  if r.join = 0 then s
  else match seqLocs s r.pgroot r.join 16 true with
    | none => faultRec r 19 s
    | some ls =>
      let w0 : Word := BitVec.ofNat 64 (seqRead s (ls.take 8))
      let succ : Word := BitVec.ofNat 64 (seqRead s (ls.drop 8))
      let count := fld w0 0 32
      let init := fld w0 32 16
      let q := fld w0 48 10
      if fld w0 58 6 != 0 then faultRec r 19 s
      else if count = 0 then queueEvent 6 r.queue r.index.toNat 0 s
      else
        let next := if count = 1 && init != 0 then init else count - 1
        let s := seqWrite r.pgroot r.join (ls.take 8) (leBytes 8 (setFld w0 0 32 next).toNat) s
        if count != 1 || succ = 0 then s
        else match seqLocs s r.pgroot succ 64 false with
          | none => faultRec r 17 s
          | some rs =>
            if appendOk s q r.pgroot then seqAppend q (BitVec.ofNat 512 (seqRead s rs)) r false s else faultRec r 18 s

-- decide, loop and nop records (R329)

def sourceOf (s : State) (q : Nat) (idx : BitVec 32) (x : Rec) : Source :=
  { queue := q, index := idx, done := recWord x 4, join := recWord x 3, pgroot := (spaceOf s (queueAsid s q)).pgroot }

/-- DONE with FINISHED = 0, then the join block (R324, R329). -/
def nodeFinish (r : Source) (s : State) : State :=
  let (r, s) := doneWord (fun _ => BitVec.ofNat 64 (2 ^ 62)) r s
  joinStep r s

/-- The chosen successor of a node goes to the queue the node came from (R329). -/
def nodeAppend (r : Source) (x : Word) (s : State) : State :=
  if x = 0 then nodeFinish r s
  else if queueHost s r.queue then faultRec r 18 s
  else match seqLocs s r.pgroot x 64 false with
    | none => faultRec r 17 s
    | some ls =>
      if !appendOk s r.queue r.pgroot then faultRec r 18 s
      else
        let rec' : Rec := BitVec.ofNat 512 (seqRead s ls)
        if appendWaits s r.queue then seqAppend r.queue rec' r true s else nodeFinish r (appendRec r.queue rec' s)

/-- CMP of a decide record (R321). -/
def cmpHolds (k : Nat) (v w : Word) : Bool :=
  match k with
  | 0 => v == w
  | 1 => v != w
  | 2 => v.slt w
  | 3 => !v.slt w
  | 4 => v.ult w
  | _ => !v.ult w

/-- DECIDE_NODE (R329). -/
def execDecideNode (q : Fin 1024) (idx : BitVec 32) (x : Rec) (s : State) : Out :=
  let (r, s) := doneWord (fun _ => 0) (sourceOf s q idx x) (bump s)
  .next (match seqLocs s r.pgroot (recWord x 1) 8 false with
    | none => faultRec r 16 s
    | some ls =>
      let holds := cmpHolds (fld (recWord x 0) 61 3) (BitVec.ofNat 64 (seqRead s ls)) (recWord x 2)
      nodeAppend r (if holds then recWord x 5 else recWord x 6) s)

/-- LOOP_NODE (R329). -/
def execLoopNode (q : Fin 1024) (idx : BitVec 32) (x : Rec) (s : State) : Out :=
  let (r, s) := doneWord (fun _ => 0) (sourceOf s q idx x) (bump s)
  .next (match seqLocs s r.pgroot (recWord x 1) 8 true with
    | none => faultRec r 16 s
    | some ls =>
      let n : Word := BitVec.ofNat 64 (seqRead s ls) - 1
      nodeAppend r (if n != 0 then recWord x 5 else recWord x 6) (seqWrite r.pgroot (recWord x 1) ls (leBytes 8 n.toNat) s))

/-- NOP_NODE (R329). -/
def execNopNode (q : Fin 1024) (idx : BitVec 32) (x : Rec) (s : State) : Out :=
  let (r, s) := doneWord (fun _ => 0) (sourceOf s q idx x) (bump s)
  .next (nodeFinish r s)

/-- HELD_APPEND (R319): the first append held for the queue, once there is room. -/
def execHeldAppend (q : Fin 1024) (s : State) : Out :=
  .next (match heldFor s q with
    | [] => s
    | h :: _ =>
      if queueSize s q ≤ queueCount s q then s
      else
        let s := modPkg (fun p => { p with held := p.held.erase h }) (bump s)
        let s := appendRec q h.record s
        roomFor q (if h.node then nodeFinish h.src s else s))

-- doorbells, enabling and closing (R317, R318, R320)

/-- DOORBELL (R318). -/
def execDoorbell (q : Fin 1024) (tail : BitVec 32) (s : State) : Out :=
  .next (if !queueEnabled s q || !queueHost s q then s
    else if (tail - queueTail s q).toNat ≤ queueSize s q && (tail - queueHead s q).toNat ≤ queueSize s q then
      setTail q tail (bump s)
    else queueEvent 2 q.val tail.toNat 0 (bump s))

/-- QUEUE_ENABLE (R317): EN is set, and the descriptor is checked. -/
def execQueueEnable (q : Fin 1024) (s : State) : Out :=
  .next (if s.pkg.qt.isNone || queueEnabled s q || s.pkg.fwfail then s
    else
      let w := setFld (queueWord s q 1) 5 1 1
      let s := wrWord (queueAt s q + 8) w (bump s)
      if fld (queueWord s q 0) 0 12 != 0 || fld w 13 51 != 0 || wbit w 7 || fld w 0 5 < 4 || 16 < fld w 0 5 then
        queueEvent 1 q.val 0 0 s
      else modPkg (fun p => { p with enabled := sinsert p.enabled q.val }) s)

/-- QUEUE_CLOSE (R320): EN is cleared, held appends fail with REASON 18, and work left is named. -/
def execQueueClose (q : Fin 1024) (s : State) : Out :=
  .next (if !queueEnabled s q then s
    else
      let lost := heldFor s q
      let s := wrWord (queueAt s q + 8) (setFld (queueWord s q 1) 5 1 0) (bump s)
      let s := modPkg (fun p => { p with
        enabled := p.enabled.filter (· != q.val), held := p.held.filter (·.queue != q.val) }) s
      let s := lost.foldl (fun s h => faultRec h.src 18 s) s
      if queueCount s q = 0 && lost.isEmpty then s else queueEvent 8 q.val (queueCount s q) 0 s)

-- SPAWN (R309, R319)

/-- The append of a SPAWN whose record is read: it traps at a closed queue, waits at a full one. -/
def spawnGo (i : Instr) (q : Nat) (r : Rec) (s : State) : State :=
  if !appendOk s q s.cur.ctl.pgroot then trap ⟨cSYNC, 6, 0⟩ (modT (fun t => { t with spawned := none }) s)
  else if appendWaits s q then waitIn i (modT (fun t => { t with spawned := some r }) s)
  else finish 0 (fun t => { t with spawned := none }) (appendRec q r s)

/-- SPAWN (R309). -/
def execSpawn (a : SReg) (q : Fin 1024) (s : State) : Out :=
  .next (guardS [a] s (
    let x := rs 0 s a
    if !canonical x || x.toNat % 64 != 0 then trap ⟨cADDR, x, 0⟩ s
    else if !appendOk s q s.cur.ctl.pgroot then trap ⟨cSYNC, 6, 0⟩ s
    else match xlatN s s.cur x 64 .load with
      | .error (b, _) => trap (badTrap cPFLD b x) s
      | .ok (ls, _) =>
        if ls.any (locFenced s) then trap ⟨cLINK, 2, 0⟩ s
        else match firstBad s ls with
          | some k => trap ⟨cECC, x + BitVec.ofNat 64 k, 0⟩ s
          | none => spawnGo (.spawn a q) q (BitVec.ofNat 512 (ofBytes (readBytes s ls))) s))

/-- SPAWN_APPEND (R319): a waiting SPAWN looks again. -/
def execSpawnAppend (s : State) : Out :=
  .next (match s.cur.wait, s.cur.spawned with
    | some (.spawn a q), some r => spawnGo (.spawn a q) q r s
    | _, _ => s)

-- END (R309, R322, R324, R337, R338)

/-- A write of LANEPART.P (R337). -/
def setLanepart (cid p : Nat) (s : State) : State :=
  modCore cid (fun c => { c with lanepart := setFld c.lanepart 0 4 p }) s

/-- The core and context of a member: those chosen for it where the pack is being resumed. -/
def memberPlace (p : Pack) (m : Member) : Nat × Nat :=
  if p.state = .resuming then (32 * p.toSett + m.toCore, m.toCtx) else (32 * p.sett + m.core, m.ctx)
def memberOn (p : Pack) (cid ctx : Nat) : Bool := p.members.any fun m => !m.ended && memberPlace p m == (cid, ctx)
def memberOnCore (p : Pack) (cid : Nat) : Bool := p.members.any fun m => !m.ended && (memberPlace p m).1 == cid
def waitsForStart (p : Pack) : Bool := p.state == .starting || p.state == .resuming

/-- A saved or parked pack keeps its scratchpad on the core (R333). -/
def coreReserved (s : State) (gone : List Nat) (cid : Nat) : Bool :=
  s.packs.any fun p => decide (0 < recScratch p.record) && memberOnCore p cid &&
    (p.state == .saved || p.state == .parked || p.state == .resuming || gone.contains p.id)

/-- A thread leaves its context. Where a thread runs on the other context, its target becomes all 8 octets, unless a pack placed on
the freed context waits for it (R337); with none there LANEPART stays, as R432 has it (DEDUCED, log entry 53). A core left with no
running thread acknowledges every flip at once (R254). -/
def releaseContext (t : Thread) (s : State) : State :=
  let cid := cidOf t
  let gone (u : Thread) : Bool := u.live && u.frame == t.frame
  let s := { s with cur := if gone s.cur then {} else s.cur, others := s.others.filter fun u => !gone u }
  if (threads s).any fun u => cidOf u == cid then
    if s.packs.any fun p => waitsForStart p && memberOn p cid t.ctx then s else setLanepart cid (if t.ctx = 0 then 0 else 8) s
  else if (coreOf s cid).oldEntry.isEmpty then s
  else modCore cid (fun c => { c with oldEntry := [] }) s

def modPack (id : Nat) (f : Pack → Pack) (s : State) : State :=
  { s with packs := s.packs.map fun p => if p.id == id then f p else p }

/-- A thread's part of its record's completion (R309 steps 3 and 4): its flags and one finished thread; the last thread
decrements the join block. -/
def countEnd (p : Pack) (frame : Nat) (fl : BitVec 5) (s : State) : State :=
  let members := p.members.map fun m => if m.frame == frame then { m with ended := true } else m
  let n := recThreads p.record
  let (src, s) := doneWord (fun w =>
    let k := fld w 0 7 + 1
    let w := setFld (setFld w 16 5 (fld w 16 5 ||| fl.toNat)) 0 7 k
    if k = n then setFld w 62 2 1 else w) p.src s
  let s := modPack p.id (fun p => { p with members := members, src := src, flags := p.flags ||| fl, finished := p.finished + 1 }) s
  if members.all (·.ended) then joinStep src { s with packs := s.packs.filter (·.id != p.id) } else s

/-- The end of the thread in focus, whose earlier work has completed: one indivisible step. -/
def endNow (s : State) : State :=
  let t := s.cur
  let s := bump s
  let s := match packOf s t.pack with
    | some p => countEnd p t.frame (t.ctl.fflags.truncate 5) s
    | none => s
  let s := (heldSlots t.map).foldl (fun s h => if h.land then unbind (cidOf t) h.slot s else s) s
  releaseContext t s

/-- END (R302, R309): the trap of a stopped follow-on, the wait for follow-ons and transfers, then the release. -/
def endGo (s : State) : State :=
  match s.cur.folBad with
  | (r, v) :: _ => trap ⟨cECC, v, 0⟩ (modT (fun t => { t with folBad := t.folBad.filter (·.1 != r) }) s)
  | [] =>
    if !s.cur.fols.isEmpty || (coreOf s (cidOf s.cur)).xfers.any (fun x => x.frame == s.cur.frame) then waitIn .endThread s
    else endNow s

def execEndThread (s : State) : Out := .next (endGo s)
/-- END_RELEASE (R309): a waiting END looks again. -/
def execEndRelease (s : State) : Out := .next (if s.cur.wait = some .endThread then endGo s else s)

end Sys2Proof.Machine
end

