-- ==== Sys2Proof/Machine/Dispatcher.lean ====
section
/-! DEFINITION. Intake, placement, pre-emption and the start of packs (12 R325-R328, R332-R337; 01 R36, R48; 13 R347). -/

namespace Sys2Proof.Machine

-- intake (R327, R328)

/-- Fields a record's kind does not use, and reserved fields (R321). -/
def unusedFields (x : Rec) : Bool :=
  let c := recWord x 0
  let z (k : Nat) : Bool := recWord x k != 0
  z 7 || match recKind x with
  | 0 => fld c 61 3 != 0 || fld c 41 7 != 0 || fld c 23 1 != 0 || fld c 9 7 != 0 || z 5 || z 6
  | 1 => fld c 9 52 != 0
  | 2 => fld c 9 55 != 0 || z 2
  | _ => fld c 9 55 != 0 || z 1 || z 2 || z 5 || z 6

def addrOk (a : Word) (n : Nat) : Bool := canonical a && a.toNat % n == 0

/-- The address fields of a record against their alignments (R321, R328). -/
def addrsOk (x : Rec) : Bool :=
  addrOk (recWord x 3) 16 && addrOk (recWord x 4) 8 &&
  match recKind x with
  | 0 => addrOk (recWord x 1) 4
  | 1 | 2 => addrOk (recWord x 1) 8 && addrOk (recWord x 5) 64 && addrOk (recWord x 6) 64
  | _ => true

/-- Slots that a record's SCRATCH takes (R327). -/
def scratchSlots (x : Rec) : Nat := (recScratch x + 15) / 16
def coreFit (x : Rec) : Bool := decide (recSlots x + scratchSlots x ≤ 256)
def pairFit (x : Rec) : Bool := decide (2 * recOctets x ≤ 8) && decide (2 * recSlots x + scratchSlots x ≤ 256)
def settFit (x : Rec) : Bool := decide (recThreads x ≤ 32) || pairFit x

/-- The REASON for which a record is rejected at intake (R328), or 0. -/
def intake (x : Rec) (pool : Nat) : Nat :=
  let code := recKind x = 0
  if 3 < recKind x then 1
  else if unusedFields x then 2
  else if code && (recThreads x = 0 || 64 < recThreads x) then 3
  else if (code && (8 < recOctets x || 8 < recVlcap x || 256 < recSlots x || 4096 < recScratch x)) ||
      (recKind x = 1 && 5 < fld (recWord x 0) 61 3) then 4
  else if code && !coreFit x then 5
  else if code && !settFit x then 6
  else if code && pool < recThreads x then 7
  else if !addrsOk x then 8 else 0

-- what stands on a core (R332, R333)

/-- The pack whose thread runs on a context, or waits to start there; packs in `gone` are taken to be saved. -/
def occupant (s : State) (gone : List Nat) (cid ctx : Nat) : Option Pack :=
  s.packs.find? fun p => !gone.contains p.id && (p.state == .running || waitsForStart p) && memberOn p cid ctx
def coreRuns (s : State) (gone : List Nat) (cid : Nat) : Bool :=
  s.packs.any fun p => !gone.contains p.id && p.state == .running && memberOnCore p cid
def coreAwaited (s : State) (cid : Nat) : Bool := s.packs.any fun p => waitsForStart p && memberOnCore p cid
def otherScratch (s : State) (self : Nat) (cid : Nat) : Bool :=
  s.packs.any fun p => p.id != self && decide (0 < recScratch p.record) && p.state != .dead && memberOnCore p cid

/-- No thread may start on the core now: it is parked or out of service (R454, R456). -/
def coreBarred (s : State) (cid : Nat) : Bool := (coreOf s cid).parked || (coreOf s cid).outOfService

/-- A thread of a pack with record `x` may be placed on a context (R332), beside those of the pack in `mine` already placed. A
core on which another pack waits to start takes no further pack: the MSPLIT that pack will write and the octets it was placed for
stay its own, whatever thread runs there meanwhile (R336, R337; DEDUCED, log entry 16). -/
def canPut (s : State) (gone : List Nat) (self : Nat) (x : Rec) (sett : Nat) (mine : List (Nat × Nat)) (core ctx : Nat) : Bool :=
  let cid := 32 * sett + core
  let c := coreOf s cid
  let pair := mine.contains (core, 1 - ctx)
  let beside := if pair then recOctets x else match occupant s gone cid (1 - ctx) with
    | some p => recOctets p.record
    | none => 0
  !coreBarred s cid && !coreAwaited s cid && (occupant s gone cid ctx).isNone && !mine.contains (core, ctx) &&
  decide (recOctets x + beside ≤ 8) &&
  (if coreRuns s gone cid || coreReserved s gone cid then
      let (lo, hi) := partOf c ctx
      decide (recSlots x ≤ hi - lo) && decide (1024 * recScratch x ≤ scratchSize c)
    else decide ((if pair then 2 else 1) * recSlots x + scratchSlots x ≤ 256)) &&
  !(decide (0 < recScratch x) && otherScratch s self cid)

/-- All 64 contexts of a sett, the dispatcher's preferences first (R41). -/
def contextsOf (pref : List Nat) : List (Nat × Nat) :=
  (pref.filter (· < 64) ++ List.range 64).eraseDups.map fun k => (k / 2, k % 2)

/-- Contexts for `n` threads, or none where the pack does not fit the sett (R332). -/
def placeNew (s : State) (gone : List Nat) (self : Nat) (x : Rec) (sett n : Nat) (pref : List Nat) : Option (List (Nat × Nat)) :=
  let l := (contextsOf pref).foldl (fun mine (core, ctx) =>
    if mine.length < n && canPut s gone self x sett mine core ctx then mine ++ [(core, ctx)] else mine) []
  if l.length = n then some l else none

/-- The contexts a pack with scratchpad held, when it may be resumed there (R332, R333). -/
def placeSame (s : State) (gone : List Nat) (p : Pack) : Option (List (Nat × Nat)) :=
  let l := (p.members.filter fun m => !m.ended).map fun m => (m.core, m.ctx)
  let ok := (l.foldl (fun (r : Bool × List (Nat × Nat)) (core, ctx) =>
    (r.1 && canPut s gone p.id p.record p.sett r.2 core ctx, r.2 ++ [(core, ctx)])) (true, [])).1
  if ok then some l else none

-- the choice of a sett, and pre-emption (R334, R335)

/-- Threads of a pack still running. -/
def liveMembers (p : Pack) : Nat := (p.members.filter fun m => !m.ended).length
/-- A save of the pack is already due. -/
def beingSaved (s : State) (p : Pack) : Bool :=
  s.work.contains (.packSave p.id []) || s.turns.any fun t => match t with
    | .event (.packSave q _) => q == p.id
    | _ => false

/-- Packs that may be pre-empted for priority `prio` in a sett: lowest priority first, then most recently started. -/
def victims (s : State) (prio sett : Nat) : List Pack :=
  (s.packs.filter fun p => p.state == .running && p.sett == sett && decide (p.prio < prio) && !beingSaved s p).mergeSort
    fun a b => a.prio < b.prio || (a.prio == b.prio && b.order ≤ a.order)

/-- The shortest run of victims that makes room (R335), with the contexts. -/
def makeRoom (place : List Nat → Option (List (Nat × Nat))) : List Pack → List Nat → Option (List (Nat × Nat) × List Nat)
  | [], _ => none
  | v :: l, gone =>
    match place (gone ++ [v.id]) with
    | some c => some (c, gone ++ [v.id])
    | none => makeRoom place l (gone ++ [v.id])

def isCool (s : State) (k : Nat) : Bool := decide (s.pkg.dthr.toNat ≤ fld (settOf s k).tallow 0 16)
/-- Contexts of a sett on which no thread runs (R332). -/
def freeContexts (s : State) (k : Nat) : Nat :=
  ((List.range 64).filter fun i => !(threads s).any fun t => cidOf t == 32 * k + i / 2 && t.ctx == i % 2).length

/-- The element of largest key, the first of equals. -/
def firstMax {α : Type} (key : α → Nat) (l : List α) : Option α :=
  l.foldl (fun b x => match b with
    | none => some x
    | some y => if key y < key x then some x else b) none

/-- The placement of R334 among the setts `ks`: sett, contexts, and packs to pre-empt. -/
def choosePlace (s : State) (prio : Nat) (ks : List Nat) (place : Nat → List Nat → Option (List (Nat × Nat))) :
    Option (Nat × List (Nat × Nat) × List Nat) :=
  let now (k : Nat) : Option (Nat × List (Nat × Nat) × List Nat) := (place k []).map fun c => (k, c, [])
  let room (k : Nat) : Option (Nat × List (Nat × Nat) × List Nat) :=
    (makeRoom (place k) (victims s prio k) []).map fun (c, g) => (k, c, g)
  let cool := ks.filter (isCool s)
  let cost (g : List Nat) : Nat := (s.packs.filter fun p => g.contains p.id).foldl (fun n p => n + liveMembers p) 0
  match firstMax (fun (k, _, _) => freeContexts s k) (cool.filterMap now) with
  | some r => some r
  | none => match firstMax (fun (_, _, g) => 1000000 - cost g) (cool.filterMap room) with
    | some r => some r
    | none =>
      if prio < 24 || !((List.range 4).filter (isCool s)).isEmpty then none
      else match firstMax (fun k => fld (settOf s k).tallow 0 16) ks with
        | none => none
        | some k => (now k).orElse fun _ => room k

-- pool indices and frames (R316, R347)

/-- The lowest `n` numbers below `top` not in `used`, where there are as many. -/
def lowest (n top : Nat) (used : List Nat) : Option (List Nat) :=
  let l := ((List.range (min top (used.length + n))).filter fun i => !used.contains i).take n
  if l.length = n then some l else none
def heldMembers (s : State) : List (Pack × Member) :=
  s.packs.flatMap fun p => if p.state == .dead then [] else (p.members.filter fun m => !m.ended).map fun m => (p, m)
def poolsUsed (s : State) (asid : Nat) : List Nat := ((heldMembers s).filter fun (p, _) => p.asid == asid).map fun (_, m) => m.pool
def framesUsed (s : State) : List Nat := (heldMembers s).map fun (_, m) => m.frame
def frameCount (s : State) : Nat := match s.pkg.sf with
  | some (_, n) => n
  | none => 0

-- lane targets (R337)

/-- Applied octets of the thread that runs on a context, unless its pack is to be saved. -/
def grantOn (s : State) (gone : List Nat) (cid ctx : Nat) : Option Nat :=
  ((threads s).find? fun t => cidOf t == cid && t.ctx == ctx && !gone.contains t.pack).map fun t => fld t.ctl.lanes 0 4

/-- LANEPART.P for a placement of threads of `o` octets on the given contexts of a core (R337). -/
def laneTarget (s : State) (gone : List Nat) (cid o : Nat) (on0 on1 : Bool) : Nat :=
  match on0, on1 with
  | true, true => o
  | true, false => match grantOn s gone cid 1 with
    | some g => if o ≤ 8 - g then 8 - g else o
    | none => o
  | _, _ => match grantOn s gone cid 0 with
    | some g => if o ≤ 8 - g then g else 8 - o
    | none => 8 - o

def coresOf (l : List (Nat × Nat)) : List Nat := (l.map (·.1)).eraseDups

/-- Lane reclaims of a placement (R336 step 1): LANEPART of the cores where another thread goes on running. -/
def reclaimLanes (gone : List Nat) (sett o : Nat) (cs : List (Nat × Nat)) (s : State) : State :=
  (coresOf cs).foldl (fun s core =>
    let cid := 32 * sett + core
    let on (k : Nat) : Bool := cs.contains (core, k)
    if (grantOn s gone cid 0).isSome || (grantOn s gone cid 1).isSome then
      setLanepart cid (laneTarget s gone cid o (on 0) (on 1)) s
    else s) s

-- the decision (R325, R326)

/-- The head record of a queue; none where its read meets poison or memory that does not exist (R326). -/
def headRecord (s : State) (q : Nat) : Option Rec :=
  let a := recordAt s q (queueHead s q)
  if badPhys s a 64 || !paOk s a then none else some (BitVec.ofNat 512 (rdPhys s a 64))

/-- A head record is taken (R325). -/
def takeHead (q : Nat) (s : State) : State := roomFor q (setHead q (queueHead s q + 1) s)

/-- Pre-emptions begin (R335). -/
def preempt (gone : List Nat) (s : State) : State := gone.foldl (fun s id => addWork (.packSave id []) s) s

/-- A code record at a queue's head is placed, if it can be (R332, R334, R336 steps 1-3). -/
def serveCode (q prio : Nat) (x : Rec) (pref : List Nat) (s : State) : Option State :=
  let asid := queueAsid s q
  let n := recThreads x
  match lowest n (spaceOf s asid).pool (poolsUsed s asid), lowest n (frameCount s) (framesUsed s) with
  | some pools, some frames =>
    match choosePlace s prio [0, 1, 2, 3] (fun k gone => placeNew s gone 0 x k n pref) with
    | none => none
    | some (k, cs, gone) =>
      let id := s.packSeq + 1
      let members := (List.range n).map fun i =>
        { index := i, frame := frames.getD i 0, pool := pools.getD i 0, core := (cs.getD i (0, 0)).1, ctx := (cs.getD i (0, 0)).2 : Member }
      let s := reclaimLanes gone k (recOctets x) cs s
      let (src, s) := doneWord (fun _ => 0) (sourceOf s q (queueHead s q) x) s
      let p : Pack := { id := id, record := x, asid := asid, src := src, prio := prio, sett := k, members := members, state := .starting }
      let s := takeHead q { s with packs := s.packs ++ [p], packSeq := id }
      some (addWork (.packStart id) (preempt gone s))
  | _, _ => none

/-- The head of a queue is served, if it can be now. -/
def serveHead (q : Nat) (pref : List Nat) (s : State) : Option State :=
  let idx := queueHead s q
  match headRecord s q with
  | none => some (queueEvent 3 q idx.toNat 0 (takeHead q s))
  | some x =>
    let prio := min (recPrio x) (queuePmax s q)
    let mark (s : State) : State := modPkg (fun p => { p with served := tput p.served prio q }) s
    match intake x (spaceOf s (queueAsid s q)).pool with
    | 0 => match recKind x with
      | 0 => (serveCode q prio x pref s).map mark
      | 1 => some (mark (addWork (.decideNode (finQ q) idx x) (takeHead q s)))
      | 2 => some (mark (addWork (.loopNode (finQ q) idx x) (takeHead q s)))
      | _ => some (mark (addWork (.nopNode (finQ q) idx x) (takeHead q s)))
    | why =>
      let r := sourceOf s q idx x
      let s := queueEvent 4 q idx.toNat why (takeHead q s)
      let s := if addrOk r.done 8 then (doneWord (fun _ => BitVec.ofNat 64 (2 * 2 ^ 62 + why * 2 ^ 40)) r s).2 else s
      some (mark s)

/-- A pre-empted pack is resumed, if it can be placed now (R325, R335). -/
def serveResume (p : Pack) (pref : List Nat) (s : State) : Option State :=
  let scratch := decide (0 < recScratch p.record) || p.pin
  let place (k : Nat) (gone : List Nat) : Option (List (Nat × Nat)) :=
    if scratch then placeSame s gone p else placeNew s gone p.id p.record k (liveMembers p) pref
  match choosePlace s p.prio (if scratch then [p.sett] else [0, 1, 2, 3]) place with
  | none => none
  | some (k, cs, gone) =>
    let s := reclaimLanes gone k (recOctets p.record) cs s
    let ids := (p.members.filter fun m => !m.ended).map (·.index)
    let members := p.members.map fun m => match ids.findIdx? (· == m.index) with
      | some j => if m.ended then m else { m with toCore := (cs.getD j (0, 0)).1, toCtx := (cs.getD j (0, 0)).2 }
      | none => m
    let s := modPack p.id (fun p => { p with members := members, toSett := k, state := .resuming }) s
    some (addWork (.contextRestore p.id) (preempt gone s))

/-- The candidates of one priority level in the order of R325. -/
def levelServe (s : State) (pref : List Nat) (prio : Nat) : Option State :=
  let resumes := (s.packs.filter fun p => p.state == .saved && p.prio == prio).mergeSort fun a b => a.savedAt ≤ b.savedAt
  match resumes.findSome? fun p => serveResume p pref s with
  | some s => some s
  | none =>
    let last := tget s.pkg.served 1023 prio
    let heads := s.pkg.enabled.filter fun q => queueCount s q != 0 && (match headRecord s q with
      | some x => min (recPrio x) (queuePmax s q) == prio
      | none => prio == 31)
    (heads.mergeSort fun a b => (a + 1023 - last) % 1024 ≤ (b + 1023 - last) % 1024).findSome? fun q => serveHead q pref s

/-- DISPATCH_DECISION (R325): the first candidate that can be served now. A record that cannot be read has no priority of its
own; it is taken at the highest level. -/
def execDispatchDecision (pref : List Nat) (s : State) : Out :=
  .next (if s.pkg.fwfail || !s.pkg.ready then s
    else match (List.range 32).reverse.findSome? fun l => levelServe (bump s) pref l with
      | some s => s
      | none => s)

-- starting (R48, R336)

/-- The state of R48. -/
def startThread (s : State) (p : Pack) (m : Member) : Thread :=
  let e := spaceOf s p.asid
  let t : Thread := {
    live := true, frame := m.frame, pool := m.pool, pack := p.id, index := m.index, sett := p.sett, core := m.core, ctx := m.ctx
    pc := recWord p.record 1 }
  let regs := [(1, recWord p.record 2), (2, BitVec.ofNat 64 m.index), (3, BitVec.ofNat 64 (recThreads p.record)),
    (30, e.stkBase + BitVec.ofNat 64 ((m.pool + 1) * e.stkSize * 1024))]
  let t := regs.foldl (fun t (r, x) => { t with s := vput t.s r x }) t
  modC (fun c => { c with
    evec := BitVec.ofNat 64 (fld e.evec 2 55 * 4)
    hreg := BitVec.ofNat 64 (fld e.hreg 12 40 * 4096)
    pgroot := BitVec.ofNat 64 (fld e.pgroot 12 52 * 4096)
    mapbase := BitVec.ofNat 64 (fld (e.backBase + BitVec.ofNat 64 (m.pool * 2 ^ 23)) 14 43 * 16384)
    vlcap := BitVec.ofNat 64 (recVlcap p.record)
    lanes := lanesWord (targetMask (coreOf s (cidOf t)) t.ctx) }) t

/-- Every chosen context is free, and its target octets are not held by the other context (R336 step 4). -/
def startReady (s : State) (cid o ctx : Nat) (on0 on1 : Bool) : Bool :=
  let p := laneTarget s [] cid o on0 on1
  let mask := targetMask { lanepart := BitVec.ofNat 64 p } ctx
  (threads s).all fun t => cidOf t != cid || (t.ctx != ctx && (lanesMask t.ctl.lanes &&& mask) == 0)

/-- MSPLIT and LANEPART of a core on which threads start (R336 steps 5 and 6). -/
def prepareCore (x : Rec) (sett : Nat) (cs : List (Nat × Nat)) (core : Nat) (s : State) : State :=
  let cid := 32 * sett + core
  let on (k : Nat) : Bool := cs.contains (core, k)
  let idle := (threads s).all fun t => cidOf t != cid
  let s := if idle && !coreReserved s [] cid then
      writeMsplit none cid
        (BitVec.ofNat 64 ((if on 0 then recSlots x else 0) + (if on 1 then recSlots x else 0) * 2 ^ 16)) s
    else s
  setLanepart cid (laneTarget s [] cid (recOctets x) (on 0) (on 1)) s

/-- A pack that has not started and was placed on a core since taken out of service is placed anew, if it can be (R454): DESIGN CHOICE
(log entry 12). -/
def placeAgain (p : Pack) (s : State) : State :=
  let s' := { s with packs := s.packs.filter (·.id != p.id) }
  match choosePlace s' p.prio [0, 1, 2, 3] (fun k gone => placeNew s' gone 0 p.record k (recThreads p.record) []) with
  | none => s
  | some (k, cs, gone) =>
    let members := p.members.zipIdx.map fun (m, i) => { m with core := (cs.getD i (0, 0)).1, ctx := (cs.getD i (0, 0)).2 }
    let s := reclaimLanes gone k (recOctets p.record) cs s
    preempt gone (modPack p.id (fun p => { p with sett := k, members := members }) s)

/-- A placed pack waits (R336 step 4): the reclaims of its placement stand again, whatever has written LANEPART since. A thread whose
pack is to be saved, as one on a chosen context is, keeps its octets until then (R337). -/
def waitPlaced (i : Instr) (sett : Nat) (x : Rec) (cs : List (Nat × Nat)) (s : State) : State :=
  let gone := ((threads s).filter fun t => t.sett == sett && cs.contains (t.core, t.ctx)).map (·.pack) ++
    (s.packs.filter (beingSaved s)).map (·.id)
  addWork i (reclaimLanes gone sett (recOctets x) cs s)

/-- A pack that was placed before SET_FRAMES gave a new pool takes frames of it (R347, R367); none where too few are free. -/
def inPool (s : State) (p : Pack) : Option Pack :=
  if p.members.all (fun m => decide (m.frame < frameCount s)) then some p
  else
    let others : State := { s with packs := s.packs.filter (·.id != p.id) }
    (lowest p.members.length (frameCount s) (framesUsed others)).map fun fs =>
      { p with members := p.members.zipIdx.map fun (m, i) => { m with frame := fs.getD i 0 } }

/-- PACK_START (R336 steps 4-7): it waits for its contexts and octets, and starts every thread at once. -/
def execPackStart (id : Nat) (s : State) : Out :=
  .next (match packOf s id with
    | none => s
    | some p =>
      if p.state != .starting then s
      else
        let cs := p.members.map fun m => (m.core, m.ctx)
        let x := p.record
        if cs.any fun (core, _) => (coreOf s (32 * p.sett + core)).outOfService then addWork (.packStart id) (placeAgain p s)
        else if cs.any (fun (core, _) => coreBarred s (32 * p.sett + core)) ||
            !cs.all fun (core, ctx) => startReady s (32 * p.sett + core) (recOctets x) ctx (cs.contains (core, 0)) (cs.contains (core, 1))
        then waitPlaced (.packStart id) p.sett x cs s
        else match inPool s p with
        | none => waitPlaced (.packStart id) p.sett x cs s
        | some p =>
          let s := (coresOf cs).foldl (fun s core => prepareCore x p.sett cs core s) (bump s)
          let ts := p.members.map (startThread s p)
          let s := (coresOf cs).foldl (fun s core => rereadDebug (32 * p.sett + core) [p.asid] s) s
          let s := { s with others := s.others ++ ts, packSeq := s.packSeq + 1 }
          let s := modPack id (fun q => { q with members := p.members, state := .running, order := s.packSeq }) s
          p.members.foldl (fun s m => match threadOf s m.frame with
            | some t =>
              let t := { t with logged := logsStart s t }
              putMarker t 2 m.frame t.pc.toNat (modFrame m.frame (fun _ => t) s)
            | none => s) s)

/-- LANE_RECLAIM_TIMEOUT (R36): a thread that still holds octets beyond its target is pre-empted with its pack. -/
def execLaneReclaimTimeout (tid : Nat) (s : State) : Out :=
  .next (match threadOf s tid with
    | none => s
    | some t =>
      if (lanesMask t.ctl.lanes &&& (255 - targetMask (coreOf s (cidOf t)) t.ctx % 256)) = 0 then s
      else addWork (.packSave t.pack []) (bump s))

end Sys2Proof.Machine
end

