-- ==== Sys2Proof/Machine/Remote.lean ====
section
/-! DEFINITION. Remote tiles (11 R310-R313; 08 R233, R234; 14 R372), majors 0x7B, and the transactions of peers (14 R371;
22 R459). -/

namespace Sys2Proof.Machine

/-- PLACE (R22). -/
def placeOf (s : State) (t : Thread) : Word :=
  BitVec.ofNat 64 (s.pkg.index % 1024 * 2 ^ 16 + t.ctx * 2 ^ 12 + t.sett * 2 ^ 10 + t.core)

-- descriptors (R311)

/-- Reserved fields of a descriptor, and for MSENDM a head count that it refuses (R311). -/
def badSend (merge : Bool) (d : Word) : Bool :=
  fld d 58 6 != 0 || fld d 42 6 != 0 || fld d 37 3 != 0 || fld d 14 4 != 0 || fld d 4 7 != 0 ||
    if merge then fld d 0 4 = 0 || 8 < fld d 11 3 + fld d 0 4
    else fld d 24 8 != 0 || fld d 18 6 != 0 || fld d 11 3 != 0 || fld d 0 4 != 0
def sendPkg (d : Word) : Nat := fld d 48 10
def sendCid (d : Word) : Nat := 32 * fld d 40 2 + fld d 32 5

/-- What a local port answers to a reservation (R312), in the order of its checks. -/
def portReply (s : State) (merge : Bool) (cid : Nat) (off : Word) : RemoteReply :=
  let c := coreOf s cid
  let w := scratchSlot c * Config.slotBytes + off.toNat
  let f := flagsRd s cid w
  if !scratchHolder s cid then .link 4
  else if off.toNat % 128 != 0 || scratchSize c < off.toNat + 128 then .link 3
  else if merge && s.pkg.mbt.isNone then .link 5
  else if !wbit f 31 then .sync 4
  else if wbit f 30 != merge then .sync 5
  else if wbit f 4 then .accepted else .waiting

/-- The contribution of MSENDM (R233, R312). -/
def contributionOf (s : State) (m : Nat) (d : Word) : Contribution :=
  let t := s.cur
  let x := mval s m
  { place := placeOf s t, group := fld d 24 8, seq := fld d 18 6, cols := colsOf t
    heads := (List.range (fld d 0 4)).map fun h =>
      (vnth t.o 0 (fld d 11 3 + h), (List.range (colsOf t)).map fun j => tileElt x (64 * h + j)) }

/-- The answer to a reservation takes effect (R312): a trap, a wait, or the reservation and the data on their way. -/
def sendGo (i : Instr) (merge : Bool) (m : Nat) (off d : Word) (r : RemoteReply) (s : State) : State :=
  match r with
  | .link n => trap ⟨cLINK, BitVec.ofNat 64 n, 0⟩ s
  | .sync n => trap ⟨cSYNC, BitVec.ofNat 64 n, 0⟩ s
  | .waiting => waitIn i s
  | .accepted =>
    let s' := waitIn i (modT (fun t => { t with sent := true }) s)
    if sendPkg d != s.pkg.index then s'
    else
      let cid := sendCid d
      if merge then addWork (.mergeContribution cid off.toNat (contributionOf s m d)) s'
      else
        let w := scratchSlot (coreOf s cid) * Config.slotBytes + off.toNat
        addWork (.tileArrival cid off.toNat (placeOf s s.cur) (mval s m))
          (flagsWr cid w (setFld (flagsRd s cid w) 4 1 0) s')

/-- MSEND and MSENDM up to the reservation (R312). `ask` is the port's answer, which for another package comes from there. The ECC of a
damaged element of M is taken only at an accepted reservation, after LINK, SYNC and the wait for FREE; the manual does not place it among
these: DESIGN CHOICE (log entry 54). -/
def send (i : Instr) (merge : Bool) (m : MReg) (x y : SReg) (ask : Option RemoteReply) (s : State) : State :=
  guardS [x, y] s (
    let off := rs 0 s x
    let d := rs 1 s y
    if badSend merge d then trapWord cILL i s
    else mapStep i [(m, .read)] s fun s =>
      let es (e : Nat) : Bool := !merge || (decide (e / 64 < fld d 0 4) && decide (e % 64 < colsOf s.cur))
      if sendPkg d != s.pkg.index && (!s.pkg.peers.contains (sendPkg d) || s.pkg.fenced.contains (sendPkg d)) then
        trap ⟨cLINK, 1, 0⟩ s
      else
        let r := if sendPkg d = s.pkg.index then portReply s merge (sendCid d) off else ask.getD .waiting
        if r = .accepted && (mBad s m es).isSome then trap (eccM m) s
        else sendGo i merge m off d r s)

/-- MSEND (R311, R312). -/
def execMsend (m : MReg) (x y : SReg) (l : Bool) (s : State) : Out := .next (send (.msend m x y l) false m x y none s)
/-- MSENDM (R311, R312). -/
def execMsendm (m : MReg) (x y : SReg) (l : Bool) (s : State) : Out := .next (send (.msendm m x y l) true m x y none s)

/-- The descriptor of a waiting send: whether it merges, its register, its last-use mark, its two scalar registers. -/
def waitingSend (t : Thread) : Option (Bool × MReg × Bool × SReg × SReg) :=
  match t.wait with
  | some (.msend m x y l) => some (false, m, l, x, y)
  | some (.msendm m x y l) => some (true, m, l, x, y)
  | _ => none

/-- The header of an incoming MSEND whose reservation stands: an armed landing that is neither free nor full nor bound. -/
def reservedAt (s : State) (cid off : Nat) : Bool :=
  let f := flagsRd s cid (scratchSlot (coreOf s cid) * Config.slotBytes + off)
  wbit f 31 && !wbit f 30 && wbit f 0 && !wbit f 4 && !wbit f 5 && !wbit f 6

/-- A reservation (R312): a waiting send asks again, or takes the answer of another package's port; or a peer's send reserves
a landing slot of this package. -/
def execSendReservation (e : LinkEnd) (r : RemoteReply) (s : State) : Out :=
  .next (match e with
    | .sender tid => match focus tid s with
      | none => s
      | some s' => match s'.cur.wait, waitingSend s'.cur with
        | some i, some (merge, m, _, x, y) => if s'.cur.sent then s else send i merge m x y (some r) s'
        | _, _ => s
    | .incoming cid off _ =>
      if portReply s false cid (BitVec.ofNat 64 off) = .accepted then
        let w := scratchSlot (coreOf s cid) * Config.slotBytes + off
        flagsWr cid w (setFld (flagsRd s cid w) 4 1 0) (bump s)
      else s)

/-- The sender in this package that a PLACE names, while it waits for its acknowledgement. -/
def localSender (s : State) (place : Word) : Option Thread := (threads s).find? fun t => t.sent && placeOf s t == place

/-- The acknowledgement of a local send goes back to its sender. -/
def acknowledge (place : Word) (f : Flags) (s : State) : State :=
  match localSender s place with
  | some t => addWork (.sendAcknowledgement t.frame f) s
  | none => s

/-- The arrival of an MSEND tile (R312): the data slot, SRC, and 16,384 bytes counted. -/
def execTileArrival (cid off : Nat) (place : Word) (data : Tile) (s : State) : Out :=
  .next (
    let w := scratchSlot (coreOf s cid) * Config.slotBytes + off
    let own := fld place 16 10 = s.pkg.index
    if (if own then (localSender s place).isNone else !reservedAt s cid off) then s
    else
      let slot := hdrRd s cid (w + 16) 4
      let s := bump s
      let s := intoSlot cid slot (fun c => clearSlotBad slot (fun _ => true) (setTile slot data c)) s
      let s := hdrWr cid (w + 24) 8 place.toNat s
      acknowledge place 0 (syncCount cid w none (Config.slotBytes + 1) Config.slotBytes s))

-- merging (R233, R234, R372)

/-- t_x of R233. -/
def mergeTerm (m c y : F32) : R32 := if m = ninf32 then (0, 0) else mul32 .rne y c

/-- The merge of one head (R233): the new (M, S), columns and flags; none where m = −∞ changes nothing. -/
def mergeHead (o1 : Word) (r1 : List F32) (o2 : Word) (r2 : List F32) : Option (Word × List F32 × Flags) :=
  let m1 : F32 := o1.truncate 32
  let m2 : F32 := o2.truncate 32
  let m := max32 m1 m2
  if m = ninf32 then none
  else
    let coef (x : F32) : R32 :=
      if x = ninf32 then (0, 0) else
        let (d, f) := sub32 .rne x m
        let (c, g) := vexpT d
        (c, f ||| g)
    let (c1, f1) := coef m1
    let (c2, f2) := coef m2
    let both (a b : F32) : R32 :=
      let (x, g1) := mergeTerm m1 c1 a
      let (y, g2) := mergeTerm m2 c2 b
      let (z, g3) := add32 .rne x y
      (z, g1 ||| g2 ||| g3)
    let (sum, f3) := both (o1.extractLsb' 32 32) (o2.extractLsb' 32 32)
    let cols := (r1.zip r2).map fun (a, b) => both a b
    some ((sum.zeroExtend 64 <<< 32) ||| m.zeroExtend 64, cols.map (·.1), cols.foldl (fun g (_, h) => g ||| h) (f1 ||| f2 ||| f3))

/-- The heads of a contribution applied to a landing slot, with the flags raised. -/
def mergeHeads (cid w slot cols : Nat) : Nat → List (Word × List F32) → State → State × Flags
  | _, [], s => (s, 0)
  | h, (o, r) :: l, s =>
    let x := tileOf (coreOf s cid) slot
    let row := (List.range cols).map fun j => tileElt x (64 * h + j)
    let (s, f) := match mergeHead (BitVec.ofNat 64 (hdrRd s cid (w + 64 + 8 * h) 8)) row o r with
      | none => (s, 0)
      | some (ms, out, f) =>
        let s := hdrWr cid (w + 64 + 8 * h) 8 ms.toNat s
        (intoSlot cid slot (setTile slot (tileMk fun e => if e / 64 = h && e % 64 < cols then out.getD (e % 64) 0 else tileElt x e)) s, f)
    let (s, g) := mergeHeads cid w slot cols (h + 1) l s
    (s, f ||| g)

/-- A merge contribution at its port (R233, R234, R312, R372): discarded where its bit is set, else applied and counted. -/
def execMergeContribution (cid off : Nat) (c : Contribution) (s : State) : Out :=
  .next (
    let own := fld c.place 16 10 = s.pkg.index
    let r := portReply s true cid (BitVec.ofNat 64 off)
    match s.pkg.mbt with
    | none => s
    | some base =>
      if (if own then (localSender s c.place).isNone else r != .accepted) then s
      else
        let s := bump s
        let a := base + 8 * (c.group % 256 * 1024 + fld c.place 16 10)
        let b := rdWord s a
        let q := c.seq % 64
        if wbit b q then acknowledge c.place 0 s
        else
          let w := scratchSlot (coreOf s cid) * Config.slotBytes + off
          let s := wrWord a (setFld (setFld b q 1 1) ((q + 32) % 64) 1 0) s
          let slot := hdrRd s cid (w + 16) 4
          let (s, f) := if dataSlot (coreOf s cid) slot then mergeHeads cid w slot c.cols 0 (c.heads.take 8) (noteHeader cid w s)
            else (noteHeader cid w s, 0)
          let s := hdrWr cid (w + 24) 8 c.place.toNat s
          let n := c.heads.length * (4 * c.cols + 8)
          acknowledge c.place f (syncCount cid w none (n + 1) n s))

/-- Data of a local send that have not arrived yet. -/
def inFlight (s : State) (place : Word) : Bool :=
  s.work.any fun i => match i with
    | .tileArrival _ _ p _ => p == place
    | .mergeContribution _ _ c => c.place == place
    | _ => false

/-- The acknowledgement completes a send (R312): merge flags, and the drop of a last-use register. -/
def execSendAcknowledgement (tid : Nat) (flags : BitVec 5) (s : State) : Out :=
  .next (match focus tid s with
    | none => s
    | some s' => match waitingSend s'.cur with
      | some (merge, m, l, _, _) =>
        if !s'.cur.sent || inFlight s' (placeOf s' s'.cur) then s
        else finish 0 (fun t => { (if merge then orFlags flags t else t) with sent := false }) (if l then dropRegs [m] s' else s')
      | none => s)

/-- The thread is at an atomic (R289-R291, R262, R264), whose operation at its home a link may lose. -/
def atAtomic (s : State) (t : Thread) : Bool :=
  t.wait.isNone && t.grp.isNone && match fetchAt s t t.pc with
    | .error _ => false
    | .ok w => match decode w with
      | .ok (.amonib ..) | .ok (.vamoadd ..) | .ok (.hcas ..) | .ok (.hpin ..) | .ok (.hunpin ..)
      | .ok (.amoaddW ..) | .ok (.amominW ..) | .ok (.amomaxW ..) | .ok (.amoandW ..) | .ok (.amoorW ..) | .ok (.amoswpW ..) | .ok (.amocasW ..)
      | .ok (.amoaddD ..) | .ok (.amominD ..) | .ok (.amomaxD ..) | .ok (.amoandD ..) | .ok (.amoorD ..) | .ok (.amoswpD ..)
      | .ok (.amocasD ..) => true
      | _ => false

/-- A link fails under an operation. An atomic at a home in another package is to trap LINK (R360). Between reservation and
acknowledgement of a send (R312) the sender traps LINK; at the receiver FREE is 1 again and
each byte of the slot is free between its old value and the value sent (log entry 7). -/
def execLinkFailure (e : LinkEnd) (s : State) : Out :=
  .next (match e with
    | .sender tid => match focus tid s with
      | none => s
      | some s' => match waitingSend s'.cur with
        | some (_, _, _, _, y) =>
          if s'.cur.sent && sendPkg (sreg s'.cur y) != s'.pkg.index then
            trap ⟨cLINK, 2, 0⟩ (modT (fun t => { t with sent := false }) s')
          else s
        | none =>
          if atAtomic s s'.cur && s'.cur.elim.isNone then modFrame tid (fun t => { t with elim := some (0, .abandon) }) (bump s)
          else s
    | .incoming cid off data =>
      if !reservedAt s cid off then s
      else
        let w := scratchSlot (coreOf s cid) * Config.slotBytes + off
        let slot := hdrRd s cid (w + 16) 4
        let s' := intoSlot cid slot (fun c =>
            let x := tileOf c slot
            setTile slot (BitVec.ofNat 131072 (ofBytes ((List.range Config.slotBytes).map fun j =>
              if Config.freeBit s.tick j then tileByte data j else tileByte x j))) c) s
        flagsWr cid w (setFld (flagsRd s' cid w) 4 1 1) (bump s'))

-- MRECV (R313)

/-- MRECV (R313): ADDR, SYNC, a wait for FULL, then the bind. Where SLOT is no scratchpad slot nothing is bound and the register is
ZERO: DESIGN CHOICE (R10, log entry 31). -/
def recv (m : MReg) (x : SReg) (s : State) : State :=
  let i : Instr := .mrecv m x
  guardS [x] s (
    let a := rs 0 s x
    if a.toNat % 128 != 0 || !inOwnWindow a then trap ⟨cADDR, a, 0⟩ s
    else match scratchAt s s.cur a with
      | none => trap ⟨cADDR, a, 0⟩ s
      | some (cid, w) =>
        if (hdrLocs cid w 128).any (poisoned s) then trap ⟨cECC, a, 0⟩ s
        else
          let f := flagsRd s cid w
          if !wbit f 31 then trap ⟨cSYNC, 4, 0⟩ s
          else if !wbit f 5 then waitIn i s
          else guardFol [m] s (
            let slot := hdrRd s cid (w + 16) 4
            let s := noteHeader cid w (dropRegs [m] s)
            let empty := setFld (flagsRd s cid w) 5 1 0
            if !dataSlot (coreOf s cid) slot then finish 0 id (flagsWr cid w empty s)
            else
              let s := applyPlan { startPlan s with
                map := setAge m s.cur.issued 0 (setEntry m (.resident slot true true) s.cur.map), moves := [.bind m slot] } s
              let s := modCore cid (fun c => { c with bound := tput c.bound slot w }) s
              finish 0 id (flagsWr cid w (setFld (setFld (flagsRd s cid w) 5 1 0) 6 1 1) s)))

def execMrecv (m : MReg) (x : SReg) (s : State) : Out := .next (recv m x s)

/-- The bind of a waiting MRECV once FULL = 1 (R313). -/
def execMrecvBind (s : State) : Out :=
  .next (match s.cur.wait with
    | some (.mrecv m x) => recv m x s
    | _ => s)

-- transactions of peers (R371) and fencing (R459)

/-- Bytes of this package's memory. -/
def ownRange (s : State) (pa n : Nat) : Bool := pa / 2 ^ 39 == s.pkg.index && decide (pa % 2 ^ 39 + n ≤ Config.hbmBytes)

/-- Bytes of memory that exists: this package's, a peer's or the host's (R365). -/
def memRange (s : State) (pa n : Nat) : Bool :=
  decide (0 < n) && paOk s pa && paOk s (pa + n - 1) && pa / 2 ^ 39 == (pa + n - 1) / 2 ^ 39

def amoOf : RemoteAtomic → Amo
  | .add => .add | .min => .min | .max => .max | .and => .and | .or => .or | .swp => .swp

/-- An atomic of another agent on the `n` bytes at `pa`; on poison it changes nothing (R289). -/
def remoteRmw (pa n : Nat) (f : Nat → Nat) (s : State) : State :=
  if pa % n != 0 || !memRange s pa n || badPhys s pa n then s
  else wakeLocs (physLocs pa n) (wrPhys pa n (f (rdPhys s pa n) % 2 ^ (8 * n)) (bump s))

/-- An access of another agent (R371): a peer's read, write or atomic on this package's memory, or what an agent does to memory of its
own that this package reaches. -/
def execRemoteAccess (op : RemoteOp) (s : State) : Out :=
  let size (wide : Bool) : Nat := if wide then 8 else 4
  .next (match op with
    | .read pa n =>
      if !ownRange s pa n then s
      else wakeLocs (physLocs pa n) (modPkg (fun p => { p with
        peerRead := (physLocs pa n).map fun l => if poisoned s l then none else some (byteAt s l) }) (bump s))
    | .write pa bs =>
      let ls := physLocs pa bs.length
      if memRange s pa bs.length then wakeLocs ls (plainSectors pa bs.length (writeAll (wrBytes ls bs) (bump s))) else s
    | .atomic op pa wide b =>
      remoteRmw pa (size wide) (fun o => amoNew (amoOf op) (8 * size wide) o (b.toNat % 2 ^ (8 * size wide)) 0) s
    | .atomicCas pa wide b e =>
      remoteRmw pa (size wide) (fun o => amoNew .cas (8 * size wide) o (b.toNat % 2 ^ (8 * size wide)) (e.toNat % 2 ^ (8 * size wide))) s
    | .atomicNibble op pa high b =>
      let sh := if high then 16 else 1
      remoteRmw pa 1 (fun o => o - o / sh % 16 * sh + nibNew op (o / sh % 16) b.toNat * sh) s
    | .atomicFadd pa b => remoteRmw pa 4 (fun o => (arith .add .fp32 o b.toNat 0).1) s)

/-- The ports to a package are fenced (R459): later accesses to it trap LINK. -/
def execPortFence (pkg : Nat) (s : State) : Out :=
  .next (if pkg = s.pkg.index || s.pkg.fenced.contains pkg then s
    else modPkg (fun p => { p with fenced := p.fenced ++ [pkg] }) (bump s))

end Sys2Proof.Machine
end

