-- ==== Sys2Proof/Machine/System.lean ====
section
/-! DEFINITION. Control registers (01 R20-R26; 04 R130, R135; 07 R205, R207) and system instructions (04 R136, R140, R141), majors
0x7C and 0x7D, with what a thread meets where it finds no instruction (03 R90; 13 R342). -/

namespace Sys2Proof.Machine

-- the registers by number (R21, R22)

/-- Bits [lo, hi] of a word. -/
def bitsMask (lo hi : Nat) : Word := BitVec.ofNat 64 (2 ^ (hi + 1) - 2 ^ lo)

/-- The bits of a register that are not reserved, for a number that the map lists. -/
def ctlMask (n : Nat) : Option Word :=
  match n with
  | 0x000 => some 0x3FF
  | 0x001 => some 0xFF07
  | 0x002 => some 7
  | 0x003 => some (bitsMask 0 63)
  | 0x004 => some 0x7F
  | 0x005 => some (bitsMask 0 63)
  | 0x006 => some 0x1FF
  | 0x007 => some 0xFFF
  | 0x008 => some 0x7F7F7F
  | 0x009 => some 0x3F
  | 0x00A => some 7
  | 0x00B => some (bitsMask 0 63)
  | 0x010 => some 0x1F
  | 0x011 => some 1
  | 0x012 | 0x013 => some (bitsMask 4 56)
  | 0x018 => some 0xFF
  | 0x019 => some 0xFFFF
  | 0x01A => some 0x3FF1C1F
  | 0x01B => some (bitsMask 0 63)
  | 0x020 => some 0xFF
  | 0x040 | 0x041 | 0x042 | 0x043 | 0x044 | 0x045 => some (bitsMask 0 63)
  | 0x048 | 0x049 | 0x04A | 0x04B | 0x04C | 0x04D => some (bitsMask 2 56)
  | 0x050 | 0x051 | 0x052 | 0x053 | 0x054 | 0x055 => some (bitsMask 2 56)
  | 0x058 => some 7
  | 0x100 | 0x102 => some (bitsMask 2 56)
  | 0x101 => some 0xFF
  | 0x103 | 0x104 => some (bitsMask 0 63)
  | 0x800 => some (bitsMask 14 56)
  | 0x801 => some 0x1FF01FF
  | 0x802 => some 0x1F
  | 0x803 => some 0xF
  | 0x804 => some (bitsMask 12 51)
  | 0x805 => some (bitsMask 12 63)
  | 0x806 => some 0xD
  | _ => none

/-- A value within the ranges R22 states for the register's fields. -/
def ctlValid (n : Nat) (v : Word) : Bool :=
  let within (lo w a b : Nat) : Bool := decide (a ≤ fld v lo w) && decide (fld v lo w ≤ b)
  match n with
  | 0x000 => within 0 10 0 512
  | 0x001 => within 11 4 0 9 && fld v 0 2 != 3
  | 0x004 => within 0 7 1 64
  | 0x008 => within 0 7 1 64 && within 8 7 1 64 && within 16 7 1 64
  | 0x058 => within 0 3 0 6
  | 0x801 => within 0 9 0 256 && within 16 9 0 256 && decide (fld v 0 9 + fld v 16 9 ≤ 256)
  | 0x802 => within 0 4 0 8
  | 0x803 => within 0 4 0 8
  | _ => true

/-- A value without the reserved bits of register `n` (R11, R22). -/
def ctlBits (n : Nat) (v : Word) : Word := v &&& (ctlMask n).getD 0

/-- The register of a thread with a number, for every register that a save keeps and for LANES. -/
def ctlGet (n : Nat) (c : Ctl) : Word :=
  match n with
  | 0x000 => c.vl
  | 0x001 => c.vtype
  | 0x002 => c.ksel
  | 0x003 => c.vstride
  | 0x004 => c.vrows
  | 0x005 => c.vpitch
  | 0x006 => c.vstart
  | 0x007 => c.eprog
  | 0x008 => c.mshape
  | 0x009 => c.mstart
  | 0x00A => c.vstat
  | 0x00B => c.ascale
  | 0x010 => c.fflags
  | 0x011 => c.schk
  | 0x012 => c.habuf
  | 0x013 => c.halim
  | 0x018 => c.lanes
  | 0x01B => c.cycle
  | 0x020 => c.trctl
  | 0x058 => c.ldepth
  | 0x100 => c.evec
  | 0x101 => c.ecause
  | 0x102 => c.epc
  | 0x103 => c.eval
  | 0x104 => c.erec
  | 0x800 => c.mapbase
  | 0x802 => c.vlcap
  | 0x804 => c.hreg
  | 0x805 => c.pgroot
  | 0x806 => c.estat
  | n =>
    if 0x040 ≤ n && n ≤ 0x045 then lvl c.lcnt (n - 0x040)
    else if 0x048 ≤ n && n ≤ 0x04D then lvl c.lbeg (n - 0x048)
    else if 0x050 ≤ n && n ≤ 0x055 then lvl c.lend (n - 0x050)
    else 0

/-- The same register written. -/
def ctlSet (n : Nat) (v : Word) (c : Ctl) : Ctl :=
  match n with
  | 0x000 => { c with vl := v }
  | 0x001 => { c with vtype := v }
  | 0x002 => { c with ksel := v }
  | 0x003 => { c with vstride := v }
  | 0x004 => { c with vrows := v }
  | 0x005 => { c with vpitch := v }
  | 0x006 => { c with vstart := v }
  | 0x007 => { c with eprog := v }
  | 0x008 => { c with mshape := v }
  | 0x009 => { c with mstart := v }
  | 0x00A => { c with vstat := v }
  | 0x00B => { c with ascale := v }
  | 0x010 => { c with fflags := v }
  | 0x011 => { c with schk := v }
  | 0x012 => { c with habuf := v }
  | 0x013 => { c with halim := v }
  | 0x01B => { c with cycle := v }
  | 0x020 => { c with trctl := v }
  | 0x058 => { c with ldepth := v }
  | 0x100 => { c with evec := v }
  | 0x101 => { c with ecause := v }
  | 0x102 => { c with epc := v }
  | 0x103 => { c with eval := v }
  | 0x104 => { c with erec := v }
  | 0x800 => { c with mapbase := v }
  | 0x802 => { c with vlcap := v }
  | 0x804 => { c with hreg := v }
  | 0x805 => { c with pgroot := v }
  | 0x806 => { c with estat := v }
  | n =>
    if 0x040 ≤ n && n ≤ 0x045 then { c with lcnt := vput c.lcnt (n - 0x040) v }
    else if 0x048 ≤ n && n ≤ 0x04D then { c with lbeg := vput c.lbeg (n - 0x048) v }
    else if 0x050 ≤ n && n ≤ 0x055 then { c with lend := vput c.lend (n - 0x050) v }
    else c

/-- Registers that a save keeps (R21). -/
def savedCtl : List Nat :=
  List.range 12 ++ [0x010, 0x011, 0x012, 0x013, 0x01B, 0x020] ++ List.range' 0x040 6 ++ List.range' 0x048 6 ++
    List.range' 0x050 6 ++ [0x058] ++ List.range' 0x100 5 ++ [0x800, 0x802, 0x804, 0x805, 0x806]

/-- Read-only registers (R21), in the current mode. -/
def ctlReadOnly (t : Thread) (n : Nat) : Bool :=
  [0x018, 0x019, 0x01A].contains n || (!inSup t && [0x000, 0x01B, 0x058].contains n)

/-- What a read returns: the thread's, its core's or its sett's register. -/
def ctlRead (s : State) (n : Nat) : Word :=
  let t := s.cur
  match n with
  | 0x019 => (settOf s t.sett).tallow
  | 0x01A => placeOf s t
  | 0x01B => t.ctl.cycle + Config.freeCycles s.tick
  | 0x801 => (coreOf s (cidOf t)).msplit
  | 0x803 => (coreOf s (cidOf t)).lanepart
  | n => ctlGet n t.ctl

/-- GETC (R20, R135): reserved bits read as zero (R11); CYCLE is read with the cycles that have passed (R26, log entry 8). A read of
FFLAGS does not wait for a pending follow-on whose flags are still to come, as R301 has it of later instructions, although R23 has the
read wait for earlier ones that change the register: DESIGN CHOICE (log entry 44). -/
def execGetc (d : SReg) (c : BitVec 12) (s : State) : Out :=
  let n := c.toNat
  .next (match ctlMask n with
    | none => trapWord cILL (.getc d c) s
    | some mask =>
    if 0x800 ≤ n && !inSup s.cur then trapWord cPRIV (.getc d c) s
    else
      let v := ctlRead s n &&& mask
      finish 0 (fun t => setS d v (if n = 0x01B then modC (fun k => { k with cycle := v }) t else t)) s)

/-- A write of a register that passed its checks: a trap, or the state before the instruction completes (R25, R130, R205,
R207, R337, R358). A PUTC of another MSPLIT on a core that is reserved for a saved or parked pack, which R206 and R333 keep from that
pack's slots, traps ILL as one on a core whose slots hold registers does: DEDUCED (log entry 42). -/
def ctlWrite (n : Nat) (v word : Word) (s : State) : Except TrapInfo State :=
  let t := s.cur
  let ill : Except TrapInfo State := .error ⟨cILL, word, 0⟩
  let plain : Except TrapInfo State := .ok (modT (modC (ctlSet n v)) s)
  let active (base : Nat) : Bool := decide (n - base < depthOf t)
  if (0x048 ≤ n && n ≤ 0x04D && active 0x048) || (0x050 ≤ n && n ≤ 0x055 && active 0x050) then .error ⟨cLOOP, 2, 0⟩
  else match n with
  | 0x800 => if (heldSlots t.map).isEmpty then plain else ill
  | 0x801 =>
    if v = (coreOf s (cidOf t)).msplit then .ok s
    else if coreHolds s (cidOf t) || coreReserved s [] (cidOf t) then ill else .ok (writeMsplit (some t) (cidOf t) v s)
  | 0x803 => .ok (setLanepart (cidOf t) (fld v 0 4) s)
  | 0x102 => .ok (modT (fun t => { modC (ctlSet n v) t with
      chain := 0, touched := if v = t.ctl.epc then t.touched else terase t.touched (touchKey (vaOf t.ctl.epc) (wbit t.ctl.estat 2)) }) s)
  | 0x806 => .ok (modT (modC (ctlSet n (setFld v 0 1 (fld t.ctl.estat 0 1)))) s)
  | _ => plain

/-- PUTC of a value, from its checks on (R20, R22); `word` is the instruction's own. -/
def putcTo (n : Nat) (v word : Word) (s : State) : State :=
  match ctlMask n with
  | none => trap ⟨cILL, word, 0⟩ s
  | some mask =>
    if 0x100 ≤ n && !inSup s.cur then trap ⟨cPRIV, word, 0⟩ s
    else if ctlReadOnly s.cur n || !ctlValid n v then trap ⟨cILL, word, 0⟩ s
    else match ctlWrite n (v &&& mask) word s with
      | .error e => trap e s
      | .ok s => finish 0 id s

/-- PUTC (R135). Where STALL and a check of R20 both apply the manual gives no order: STALL comes first, DESIGN CHOICE (log entry
50). -/
def execPutc (a : SReg) (c : BitVec 12) (s : State) : Out :=
  .next (guardS [a] s (putcTo c.toNat (rs 0 s a) (wordOf (.putc a c)) s))

/-- The word of the PUTC that the thread is at, for the rows that are one of its writes. -/
def ownWord (s : State) : Word := match fetchAt s s.cur s.cur.pc with
  | .ok w => BitVec.ofNat 64 w
  | .error _ => 0

/-- The write of MSPLIT by PUTC (R25, R205). -/
def execMsplitWrite (v : Word) (s : State) : Out := .next (putcTo 0x801 v (ownWord s) s)
/-- The write of MAPBASE by PUTC (R207). -/
def execMapbaseWrite (v : Word) (s : State) : Out := .next (putcTo 0x800 v (ownWord s) s)
/-- The write of LANEPART by PUTC (R25, R337). -/
def execLanepartWrite (v : Word) (s : State) : Out := .next (putcTo 0x803 v (ownWord s) s)
/-- The write of LCNTn by PUTC (R130). -/
def execLcntWrite (n : Fin 6) (v : Word) (s : State) : Out := .next (putcTo (0x040 + n.val) v (ownWord s) s)
/-- The write of LBEGn or LENDn by PUTC (R130). -/
def execLbegLendWrite (isEnd : Bool) (n : Fin 6) (v : Word) (s : State) : Out :=
  .next (putcTo ((if isEnd then 0x050 else 0x048) + n.val) v (ownWord s) s)
/-- The write of LDEPTH by PUTC (R130). -/
def execLdepthWrite (v : Word) (s : State) : Out := .next (putcTo 0x058 v (ownWord s) s)

-- system instructions (R136)

/-- WAIT and FENCEI (R136, R302): the trap of a stopped follow-on, or the wait for follow-ons and transfers. -/
def waitDrain (i : Instr) (s : State) : State :=
  match s.cur.folBad with
  | (r, v) :: _ => trap ⟨cECC, v, 0⟩ (modT (fun t => { t with folBad := t.folBad.filter (·.1 != r) }) s)
  | [] =>
    if !s.cur.fols.isEmpty || (coreOf s (cidOf s.cur)).xfers.any (fun x => x.frame == s.cur.frame) then waitIn i s
    else finish 0 id s

/-- WAIT (R136). -/
def execWait (s : State) : Out := .next (waitDrain .wait s)
/-- FENCEI (R136): instructions are fetched from memory at each step, so that there is nothing to discard. -/
def execFencei (s : State) : Out := .next (waitDrain .fencei s)
/-- TRAP (R136). -/
def execTrap (c : BitVec 12) (s : State) : Out := .next (guardEnd s (trap ⟨cTRAP, c.zeroExtend 64, 0⟩ s))
/-- BRK (R136): in either mode. -/
def execBrk (s : State) : Out := .next (trap ⟨cBRKPT, 0, 0⟩ s)

/-- The return of ERET (R140), with the breakpoint that does not trigger on the instruction returned to (R410). -/
def eretOf (t : Thread) : Thread :=
  let c := t.ctl
  let skip := if c.ecause = BitVec.ofNat 64 cBRKPT && 1 ≤ c.eval.toNat && c.eval.toNat ≤ 7 then some c.eval.toNat else none
  { t with
    ctl := { c with estat := setFld (setFld c.estat 0 1 (fld c.estat 2 1)) 2 1 0 }
    pc := vaOf c.epc, brkSkip := skip }

/-- ERET (R140). -/
def execEret (s : State) : Out :=
  .next (if !inSup s.cur then trapWord cPRIV .eret s
    else
      let s := { s with tick := s.tick + 1 }
      { s with cur := eretOf (counted (agePend 0 s.cur)) })

/-- IDLE (R141): the thread is parked, and its pack is to be saved. -/
def execIdle (s : State) : Out :=
  .next (if !inSup s.cur then trapWord cPRIV .idle s
    else
      let s := modT (fun t => { counted { t with pend := [] } with parking := some 1 }) (bump s)
      addWork (.packSave s.cur.pack []) s)

-- where no instruction is found (R90, R342)

/-- A word that is no instruction (R90): ZERO, RSV or ILL. -/
def execUnassignedEncoding (w : BitVec 32) (s : State) : Out :=
  .next (match decode w.toNat with
    | .ok _ => s
    | .error .zero => trap ⟨cZERO, 0, 0⟩ s
    | .error .rsv => trap ⟨cRSV, w.zeroExtend 64, 0⟩ s
    | .error .ill => trap ⟨cILL, w.zeroExtend 64, 0⟩ s)

/-- A fetch that fails (R126, R342): EPC and EVAL hold the fetched address. -/
def execInstructionFetchFault (addr : Word) (s : State) : Out :=
  .next (match fetchAt s s.cur addr with
    | .ok _ => s
    | .error e => trapBetween addr e s)

end Sys2Proof.Machine
end

