-- ==== Sys2Proof/Machine/Context.lean ====
section
/-! DEFINITION. Saves, restores, parked packs, the host fault queue, and the mailbox commands on packs and copy commands
(13 R347-R361; 07 R206; 14 R367, R368). -/

namespace Sys2Proof.Machine

-- the mailbox (R367)

def mboxCode (n : Nat) (s : State) : State := modPkg (fun p => { p with mbox := { p.mbox with code := n } }) s

/-- A mailbox command (R367, R375, R458): with failed firmware only the commands that R375 names, one background command at a
time, Invalid Input where a precondition fails. -/
def mailbox (always pre : Bool) (f : State → State) (s : State) : State :=
  let s := bump s
  if s.pkg.tripped then s
  else if s.pkg.fwfail && !always then mboxCode 3 s
  else if s.pkg.mbox.background.isSome then mboxCode 6 s
  else if !pre then mboxCode 2 s
  else f (mboxCode 0 s)

-- frames (R349-R352)

/-- Frame offset of a saved control register (R349). -/
def ctlOffset (n : Nat) : Nat :=
  if n < 0x100 then 0x400 + 8 * n else if n < 0x800 then 0x700 + 8 * (n - 0x100) else 0x780 + 8 * (n - 0x800)

def bitsOf (l : List Bool) : Nat := l.foldr (fun b n => b.toNat + 2 * n) 0

/-- The header of a frame (R350), for a STATE. -/
def headerOf (s : State) (t : Thread) (st : Nat) : List Word :=
  [BitVec.ofNat 64 (1 + st * 2 ^ 8 + t.barWait.toNat * 2 ^ 10 + t.chain * 2 ^ 11 + t.fols.length * 2 ^ 13 +
      bitsOf t.lkind.toList * 2 ^ 22 + t.pool * 2 ^ 32 + asidOf t.ctl.pgroot * 2 ^ 48),
    placeOf s t, t.pc, t.ctl.lanes, BitVec.ofNat 64 (t.barCount % 2 ^ 32), (coreOf s (cidOf t)).msplit, 0, 0]

/-- A map entry of a frame (R352). -/
def entryBits : Entry → Nat
  | .zero => 0
  | .backed => 2 ^ 14
  | .resident k d l => (2 + d.toNat) * 2 ^ 14 + l.toNat * 2 ^ 13 + k

/-- A follow-on entry of a frame (R351). -/
def folWords (f : FollowOn) : List Word :=
  [f.word.zeroExtend 64, f.cmd.zeroExtend 64, f.mshape, f.vpitch, f.s1, f.s2, 0, 0]

def frameWords (frame off : Nat) (ws : List Word) (s : State) : State :=
  (ws.zipIdx).foldl (fun s (w, i) => frameWr frame (off + 8 * i) 8 w.toNat s) s

/-- A damaged byte of a register makes its sector of the frame poison (DEDUCED, log entry 17). -/
def framePoison (frame off : Nat) (s : State) : State :=
  match framePa s (frame * 65536 + off) with
  | some pa => poisonSector (.phys (pa / 32)) s
  | none => s
def frameBad (s : State) (frame off n : Nat) : Bool :=
  match framePa s (frame * 65536 + off) with
  | some pa => badPhys s pa n
  | none => false

/-- The frame of a thread is written (R349); the fault record stays as it is. -/
def saveFrame (t : Thread) (st : Nat) (s : State) : State :=
  let f := t.frame
  let l := lanesOf t
  let c := { t.ctl with cycle := t.ctl.cycle + Config.freeCycles s.tick }
  let s := frameWords f 0 (headerOf s t st) s
  let s := frameWr f 0x140 192 0 s
  let s := frameWords f 0x200 ((List.finRange 32).map (sreg t)) s
  let s := frameWords f 0x300 t.h.toList s
  let s := frameWords f 0x380 t.o.toList s
  let s := frameWr f 0x3C0 64 0 s
  let s := frameWr f 0x400 1024 0 s
  let s := savedCtl.foldl (fun s n => frameWr f (ctlOffset n) 8 (ctlGet n c).toNat s) s
  let s := (t.sf.toList.zipIdx).foldl (fun s (x, i) => frameWr f (0x800 + 4 * i) 4 x.toNat s) s
  let s := frameWr f 0x900 256 0 s
  let s := (t.fols.zipIdx).foldl (fun s (x, i) => frameWords f (0x900 + 64 * i) (folWords x) s) s
  let s := (t.k.toList.zipIdx).foldl (fun s (x, i) =>
    frameWr f (0xA00 + 64 * i) 64 ((if i = 0 then 2 ^ 512 - 1 else x.toNat) % 2 ^ (8 * l)) s) s
  let s := frameWr f 0xC00 1024 0 s
  let s := t.map.foldl (fun s (r, e) => frameWr f (0xC00 + 2 * r) 2 (entryBits e.entry) s) s
  let s := frameWr f 0x1000 28672 0 s
  let s := (t.v.toList.zipIdx).foldl (fun s (x, i) => frameWr f (0x8000 + 1024 * i) 1024 (x.toNat % 2 ^ (128 * l)) s) s
  let s := t.vbad.foldl (fun s (r, j) => if j < 16 * l then framePoison f (0x8000 + 1024 * r + j) s else s) s
  t.kbad.foldl (fun s (r, j) => if j < 8 * l then framePoison f (0xA00 + 64 * r + j / 8) s else s) s

-- saves (R359)

/-- Transfers in flight on a core complete (R206, R359 step 4). -/
def drainXfers (cid : Nat) : Nat → State → State
  | 0, s => s
  | n + 1, s =>
    if (coreOf s cid).xfers.isEmpty then s
    else match execMapTransferComplete cid s with
      | .next s' => drainXfers cid n s'
      | _ => s

/-- The thread's slots stay tagged and become foreign; its bound landing slots stay bound (R206). -/
def tagSlots (t : Thread) (s : State) : State :=
  (heldSlots t.map).foldl (fun s h => if h.land then s else
    modCore (cidOf t) (fun c => { c with
      tags := tput c.tags h.slot ⟨t.frame, h.reg, backAddr t h.reg, t.ctl.pgroot, h.dirty, false⟩ }) s) s

/-- Data of a LOG STOP record (R415). -/
def stopData (t : Thread) : BitVec 128 :=
  BitVec.ofNat 128 (vstartOf t + eprogOf t * 2 ^ 16 + fld t.ctl.mstart 0 6 * 2 ^ 32 + t.chain * 2 ^ 40 + fld t.ctl.lanes 0 8 * 2 ^ 48)

/-- One thread of a pack is saved and leaves its context. -/
def saveThread (f : Nat) (s : State) : State :=
  let s := abandonWait ((focus f s).getD s)
  let t := s.cur
  let s := drainXfers (cidOf t) ((coreOf s (cidOf t)).xfers.length + 1) s
  let parked := t.parking.isSome
  let s := saveFrame t (if parked then 2 else 1) s
  let s := putLog t 5 t.seq t.pc [stopData t] (putMarker t 5 t.seq t.pc.toNat s)
  let s := match t.parking with
    | some k => postFault (faultEntry k (asidOf t.ctl.pgroot) t.frame (placeOf s t) t.ctl.ecause t.ctl.epc t.ctl.eval t.ctl.erec) s
    | none => s
  let s := modPack t.pack (fun p => { p with members := p.members.map fun m => if m.frame == t.frame then { m with
    idled := t.parking == some 1, logged := t.logged, stepDue := t.stepDue, brkSkip := t.brkSkip, touched := t.touched, folBad := t.folBad
    folMarks := t.fols.map fun f => (f.cmd, f.seq, f.traced, f.sup, f.mapTraced)
    vheld := (t.v.toList.zipIdx).map (fun (x, i) => (i, x)) ++ t.vheld
    kheld := (t.k.toList.zipIdx).map (fun (x, i) => (i, x)) ++ t.kheld } else m }) s
  releaseContext t (tagSlots t s)

/-- PACK_SAVE (R359). `stops` name elements at which the current instructions of threads may stop first, where they admit it. A thread in an attention
group or past a send's reservation is waited for. A pack of a thread that parks is parked, not saved. -/
def execPackSave (id : Nat) (stops : List (Nat × Nat)) (s : State) : Out :=
  .next (match packOf s id with
    | none => s
    | some p =>
      if p.state != .running then s
      else if !stops.isEmpty then
        let s := stops.foldl (fun s (f, e) => match threadOf s f with
          | some t => if t.pack = id && t.elim.isNone then modFrame f (fun t => { t with elim := some (e, .request) }) s else s
          | none => s) (bump s)
        { s with turns := stops.map (fun (f, _) => .thread f) ++ .event (.packSave id []) :: s.turns }
      else
        let ts := (threads s).filter (·.pack == id)
        if ts.any fun t => t.grp.isSome || t.sent then addWork (.packSave id []) s
        else
          let parks := ts.any (·.parking.isSome)
          let s := ts.foldl (fun s t => saveThread t.frame s) (bump s)
          let s := { s with packSeq := s.packSeq + 1 }
          modPack id (fun p => { p with state := if parks then .parked else .saved, savedAt := s.packSeq }) s)

-- restores (R38, R206, R357, R361)

def frameWord (s : State) (f off : Nat) : Word := BitVec.ofNat 64 (frameRd s f off 8)

/-- A region that the frame reserves is not zero (R349). -/
def frameGaps (s : State) (f : Nat) : Bool := frameRd s f 0x140 192 != 0 || frameRd s f 0x3C0 64 != 0 || frameRd s f 0x1000 28672 != 0

/-- The header of the frame is malformed (R350, R357), or holds an uncorrectable error. -/
def headerFaulty (s : State) (f : Nat) : Bool :=
  let w := frameWord s f
  let h := w 0
  fld h 0 8 != 1 || fld h 8 2 = 3 || 4 < fld h 13 3 || fld h 60 4 != 0 || fld h 28 4 != 0 || fld h 16 6 != 0 ||
    fld (w 24) 8 56 != 0 || fld (w 32) 32 32 != 0 || fld (w 40) 25 39 != 0 || w 48 != 0 || w 56 != 0 || frameBad s f 0 64

/-- A field of the frame breaks its rule (R349-R352, R357), or data other than vector and mask bytes hold an uncorrectable error. -/
def frameFaulty (s : State) (f : Nat) : Bool :=
  let w := frameWord s f
  let h := w 0
  headerFaulty s f ||
    (savedCtl.any fun n => !ctlValid n (w (ctlOffset n))) ||
    ((List.range (fld h 13 3)).any fun i =>
      let o := 0x900 + 64 * i
      fld (w o) 32 32 != 0 || fld (w (o + 8)) 32 32 != 0 || w (o + 48) != 0 || w (o + 56) != 0) ||
    ((List.range 512).any fun r => frameRd s f (0xC00 + 2 * r) 2 / 256 % 16 != 0) ||
    frameBad s f 0x200 0x800 || frameBad s f 0xC00 1024

/-- A malformed frame (R357), or one with an uncorrectable error. -/
def frameMalformed (s : State) (f : Nat) : Bool := frameFaulty s f || frameGaps s f

/-- A follow-on read back (R351, R361): ready unless its command is still live; gone where the command was aborted. It keeps the
sequence number and the marks of its CPYM (R397); one that the frame did not have at the save is traced as the frame's thread is. -/
def readFol (s : State) (m : Member) (i : Nat) : Option FollowOn :=
  let f := m.frame
  let w (k : Nat) : Word := frameWord s f (0x900 + 64 * i + 8 * k)
  let id : BitVec 32 := (w 1).truncate 32
  if s.setts.toList.any fun q => q.folDead.contains (f, id) then none
  else
    let live := (allCmds s).any fun c => c.frame == f && c.id == id
    let c (n : Nat) : Word := frameWord s f (ctlOffset n)
    let (seq, traced, sup, mapTraced) := ((m.folMarks.find? fun x => x.1 == id).map (·.2)).getD (0, wbit (c 0x020) 3, wbit (c 0x806) 0, wbit (c 0x020) 7)
    some ⟨(w 0).truncate 32, id, w 2, w 3, w 4, w 5, seq, !live, traced, sup, mapTraced⟩

/-- The map of a restored thread (R206): a slot still tagged, or still bound, is RESIDENT again. -/
def readEntries (s : State) (m : Member) (cid : Nat) (same : Bool) : NMap MapEntry :=
  (List.range 512).foldl (fun acc r =>
    let e := frameRd s m.frame (0xC00 + 2 * r) 2
    let st := e / 2 ^ 14
    let slot := e % 256
    let dirty := st == 3
    let c := coreOf s cid
    let held := if e / 2 ^ 13 % 2 = 1 then same && (tkeys c.bound).contains slot
      else same && c.tags.any fun (k, g) => k == slot && g.frame == m.frame && g.reg == r
    -- the frame holds no recency (R352): an age below every later use and a free position, DESIGN CHOICE (log entry 50)
    let entry : Entry := if st = 0 then .zero else if st = 1 then .backed
      else if held then .resident slot dirty (e / 2 ^ 13 % 2 = 1) else .backed
    if entry = .zero then acc else acc ++ [(r, { entry := entry, age := 0, pos := Config.freeNat s.tick r })]) []

/-- The thread that a frame holds, on the context and with the grant chosen for it (R38, R361). -/
def readThread (s : State) (p : Pack) (m : Member) : Thread :=
  let f := m.frame
  let w := frameWord s f
  let h := w 0
  let cid := 32 * p.toSett + m.toCore
  let same := p.toSett = p.sett && m.toCore = m.core && m.toCtx = m.ctx
  let c := savedCtl.foldl (fun c n => ctlSet n (ctlBits n (w (ctlOffset n))) c) ({} : Ctl)
  let c := { c with lanes := lanesWord (targetMask (coreOf s cid) m.toCtx) }
  let t : Thread := {
    live := true, frame := f, pool := m.pool, pack := p.id, index := m.index, sett := cid / 32, core := cid % 32, ctx := m.toCtx
    s := Vector.ofFn fun i => w (0x200 + 8 * i.val)
    v := Vector.ofFn fun i => BitVec.ofNat 8192 (frameRd s f (0x8000 + 1024 * i.val) 1024)
    k := Vector.ofFn fun i => BitVec.ofNat 512 (frameRd s f (0xA00 + 64 * i.val) 64)
    h := Vector.ofFn fun i => w (0x300 + 8 * i.val)
    sf := Vector.ofFn fun i => BitVec.ofNat 32 (frameRd s f (0x800 + 4 * i.val) 4)
    o := Vector.ofFn fun i => w (0x380 + 8 * i.val)
    map := ((List.range (fld h 13 3)).filter fun i => (readFol s m i).isNone).foldl
      (fun e i => dropClean (fld (w (0x900 + 64 * i)) 16 9) e) (readEntries s m cid same)
    ctl := c
    lkind := Vector.ofFn fun i => wbit h (22 + i.val)
    pc := BitVec.ofNat 64 (fld (w 16) 2 62 * 4)
    chain := fld h 11 2
    barCount := fld (w 32) 0 32
    barWait := wbit h 10
    fols := (List.range (fld h 13 3)).filterMap (readFol s m)
    folBad := m.folBad, issued := 1, logged := m.logged, stepDue := m.stepDue, brkSkip := m.brkSkip, touched := m.touched, vheld := m.vheld, kheld := m.kheld
    vbad := (List.range 32768).filterMap fun j => if frameBad s f (0x8000 + j) 1 then some (j / 1024, j % 1024) else none
    kbad := (List.range 512).flatMap fun j => if frameBad s f (0xA00 + j) 1 then (List.range 8).map fun b => (j / 64, 8 * (j % 64) + b) else [] }
  let old : Thread := { t with ctl := { t.ctl with lanes := w 24 } }
  let t := if vlmax old 16 = vlmax t 16 then t
    else
      let t := regrantFiles s.tick (lanesOf old) (lanesOf t) t
      let t := modC (fun c => { c with vstat := setFld c.vstat 0 1 1 }) t
      setVl (min (vlOf t) (vlmax t (sewOf t))) t
  if m.idled then eretOf t else t

/-- Slots still tagged with a saved thread are released where it is not restored to the context it left (R206). -/
def releaseTags (frame : Nat) (s : State) : State :=
  s.cores.foldl (fun s (cid, c) => c.tags.foldl (fun s (k, g) =>
    if g.frame = frame then foreignOut none cid k s else s) s) s

/-- The frame's bytes that a restore reads, as sectors of the log of a logged thread (R414). -/
def logFrame (t : Thread) (s : State) : State :=
  if !t.logged then s
  else
    (List.range 2048).foldl (fun s i =>
      let d (k : Nat) : BitVec 128 := BitVec.ofNat 128 (frameRd s t.frame (32 * i + 16 * k) 16)
      putLog t 1 0 (BitVec.ofNat 64 (Config.contextWindow + t.frame * 65536 + 32 * i)) [d 0, d 1] s) s

/-- One thread is back on a context (R361): REATTACH for the slots it finds again, the RESTORE marker and its log. -/
def restoreThread (p : Pack) (m : Member) (s : State) : State :=
  let t := readThread s p m
  let cid := cidOf t
  let again := (heldSlots t.map).filter fun h => !h.land
  let s := modCore cid (fun c => { c with tags := again.foldl (fun g h => terase g h.slot) c.tags }) s
  let s := { s with others := s.others ++ [t] }
  let s := { s with setts := s.setts.map fun q => { q with folDead := q.folDead.filter fun (f, _) => f != m.frame } }
  let s := (heldSlots t.map).foldl (fun s h => mapPoint t 7 h.reg 0 h.slot false s) s
  let s := logFrame t (putLog t 5 0 t.pc [stopData t] (putMarker t 6 m.frame t.pc.toNat s))
  if t.fols.any (·.ready) then addWork (.followOn m.frame) s else s

/-- A restore is refused (R357): the pack is parked and the frame posted with KIND 4. -/
def refuseRestore (p : Pack) (f : Nat) (s : State) : State :=
  let c (n : Nat) : Word := frameWord s f (ctlOffset n)
  let s := modPack p.id (fun p => { p with state := .parked }) s
  postFault (faultEntry 4 p.asid f (frameWord s f 8) (c 0x101) (c 0x102) (c 0x103) (c 0x104)) s

/-- CONTEXT_RESTORE of a pack on the contexts chosen for it (R206, R336, R361): it waits until they are free. Where one has since been
parked or taken out of service, the pack is to be chosen again (R335, R454, R456). -/
def execContextRestore (id : Nat) (s : State) : Out :=
  .next (match packOf s id with
    | none => s
    | some p =>
      if p.state != .resuming then s
      else
        let ms := p.members.filter fun m => !m.ended
        let cs := ms.map fun m => (m.toCore, m.toCtx)
        let x := p.record
        if cs.any fun (core, _) => coreBarred s (32 * p.toSett + core) then modPack id (fun p => { p with state := .saved }) s
        else if !cs.all fun (core, ctx) => startReady s (32 * p.toSett + core) (recOctets x) ctx (cs.contains (core, 0)) (cs.contains (core, 1))
        then waitPlaced (.contextRestore id) p.toSett x cs s
        else match ms.find? fun m => frameMalformed s m.frame with
          | some m => refuseRestore p m.frame (bump s)
          | none =>
            let moved (m : Member) : Bool := p.toSett != p.sett || m.toCore != m.core || m.toCtx != m.ctx
            let s := ms.foldl (fun s m => if moved m then releaseTags m.frame s else s) (bump s)
            let s := (coresOf cs).foldl (fun s core => prepareCore x p.toSett cs core s) s
            match packOf s id with
            | none => s
            | some p' =>
              if p'.state != .resuming then s
              else
                let s := (coresOf cs).foldl (fun s core => rereadDebug (32 * p.toSett + core) [p.asid] s) s
                let s := ms.foldl (fun s m => restoreThread p m s) s
                modPack id (fun p => { p with
                  state := .running, sett := p.toSett, pin := false
                  members := p.members.map fun m => if m.ended then m else { m with core := m.toCore, ctx := m.toCtx, idled := false } }) s)

-- the host fault queue (R355, R356)

/-- FAULT_QUEUE_POST (R355): the entry, with its SEQ, then TAIL and MSI-X vector 1; while the ring is full it waits. -/
def execFaultQueuePost (s : State) : Out :=
  .next (match s.pkg.fqWait, s.pkg.fq with
    | [], _ => s
    | _ :: _, none => addWork .faultQueuePost s
    | e :: l, some q =>
      let head := rdPhys s (q.desc + 16) 4
      let tail := rdPhys s (q.desc + 24) 4
      if (tail + 2 ^ 32 - head) % 2 ^ 32 = 2 ^ q.log2 then addWork .faultQueuePost s
      else
        let seq := s.pkg.fqSeq
        let e := match e with
          | w :: r => setFld w 48 16 seq.toNat :: r
          | [] => []
        let at' := q.ring + 64 * (tail % 2 ^ q.log2)
        let s := (e.zipIdx).foldl (fun s (w, i) => wrWord (at' + 8 * i) w s) (bump s)
        let s := wrPhys (q.desc + 24) 8 ((tail + 1) % 2 ^ 32) s
        modPkg (fun p => signal 1 { p with fqWait := l, fqSeq := p.fqSeq + 1 }) s)

-- parked packs (R357, R368)

/-- The parked pack that holds a frame. -/
def parkedPack (s : State) (frame : Nat) : Option Pack :=
  s.packs.find? fun p => p.state == .parked && p.members.any fun m => m.frame == frame && !m.ended

/-- PACK_RESUME (R357): the pack joins the resume list; a pack whose scratchpad was lost may not (R454). -/
def execPackResume (frame : Nat) (s : State) : Out :=
  let lost (p : Pack) : Bool := decide (0 < recScratch p.record) &&
    p.members.any fun m => !m.ended && (coreOf s (32 * p.sett + m.core)).outOfService
  .next (match parkedPack s frame with
    | none => mailbox false false id s
    | some p => mailbox false (!lost p) (fun s =>
        let s := { s with packSeq := s.packSeq + 1 }
        modPack p.id (fun p => { p with state := .saved, savedAt := s.packSeq }) s) s)

/-- PACK_ABORT (R206, R357): FAULT with REASON 32; bound landing slots are unbound, tagged slots released, frames and pool
indices freed. -/
def execPackAbort (frame : Nat) (s : State) : Out :=
  .next (match parkedPack s frame with
    | none => mailbox false false id s
    | some p => mailbox false true (fun s =>
        let ms := p.members.filter fun m => !m.ended
        let s := ms.foldl (fun s m =>
          let s := (List.range 512).foldl (fun s r =>
            let e := frameRd s m.frame (0xC00 + 2 * r) 2
            if e / 2 ^ 15 = 1 && e / 2 ^ 13 % 2 = 1 then unbind (32 * p.sett + m.core) (e % 256) s else s) s
          releaseTags m.frame s) s
        let s := (tkeys s.cores).foldl (fun s cid => dropKept cid (fun k => ms.any fun m => m.frame == k.frame) s) s
        let s := { s with
          packs := s.packs.filter fun q => q.id != p.id
          setts := s.setts.map fun q => { q with folDead := q.folDead.filter fun (f, _) => !ms.any fun m => m.frame == f } }
        faultRec p.src 32 s) s)

/-- What PACK_ADOPT requires (R368). -/
def adoptOk (s : State) (r : Rec) (fs : List Nat) : Bool :=
  let asid (f : Nat) : Nat := fld (frameWord s f 0) 48 12
  let pool (f : Nat) : Nat := fld (frameWord s f 0) 32 16
  let place (f : Nat) : Word := frameWord s f 8
  let a := asid (fs.headD 0)
  let space := spaceOf s a
  s.pkg.ast.isSome && s.pkg.qt.isSome && s.pkg.sf.isSome && s.pkg.sf == s.pkg.sfBefore && recKind r = 0 && intake r space.pool = 0 &&
    decide (1 ≤ fs.length) && decide (fs.length ≤ recThreads r) && decide fs.Nodup &&
    (fs.all fun f => decide (f < frameCount s) && !(framesUsed s).contains f && !headerFaulty s f &&
      (let st := fld (frameWord s f 0) 8 2; st == 1 || st == 2) &&
      asid f == a && decide (pool f < space.pool) && !(poolsUsed s a).contains (pool f)) &&
    decide (fs.map pool).Nodup &&
    (recScratch r = 0 ||
      ((fs.all fun f => s.pkg.retainOk.getLsbD (fld (place f) 10 2)) && decide (fs.map fun f => (fld (place f) 0 5, fld (place f) 10 3)).Nodup))

/-- The thread that an adopted frame holds was parked by IDLE: its handler stands at an IDLE (R141; DEDUCED, log entry 18). -/
def parkedAtIdle (s : State) (p : Pack) (m : Member) : Bool :=
  let t := readThread s p m
  fld (frameWord s m.frame 0) 8 2 == 2 && inSup t && match fetchAt s t t.pc with
    | .ok w => decode w == .ok .idle
    | .error _ => false

/-- The breakpoint entry that the saved ECAUSE and EVAL say the thread has just returned from (R410). -/
def savedSkip (s : State) (p : Pack) (m : Member) : Option Nat :=
  let t := readThread s p m
  if inSup t || vaOf t.ctl.epc != t.pc then none else (eretOf t).brkSkip

/-- PACK_ADOPT (R368): one parked pack of the frames, its scratchpad cores reserved with the MSPLIT of their frames. A member's
core counts from core 0 of the lowest sett that a frame names. The thread's index is its s2 (R48 gives it at the start; DEDUCED,
log entry 18). -/
def execPackAdopt (r : Rec) (fs : List Nat) (s : State) : Out :=
  .next (mailbox false (adoptOk s r fs) (fun s =>
    let a := fld (frameWord s (fs.headD 0) 0) 48 12
    let place (f : Nat) : Word := frameWord s f 8
    let sett (f : Nat) : Nat := fld (place f) 10 2
    let low := fs.foldl (fun k f => min k (sett f)) 3
    let id := s.packSeq + 1
    let live := fs.map fun f =>
      { index := fld (frameWord s f 0x210) 0 7, frame := f, pool := fld (frameWord s f 0) 32 16
        core := 32 * (sett f - low) + fld (place f) 0 5, ctx := fld (place f) 12 1 : Member }
    let gone := (List.range (recThreads r - fs.length)).map fun i => { index := 64 + i, frame := 0, pool := 0, core := 0, ctx := 0, ended := true : Member }
    let src : Source := { queue := 0, index := 0, done := recWord r 4, join := recWord r 3, pgroot := (spaceOf s a).pgroot }
    let p : Pack := {
      id := id, record := r, asid := a, src := src, prio := recPrio r, sett := low, toSett := low
      members := live ++ gone, state := .parked, order := id, savedAt := id, finished := recThreads r - fs.length }
    let p := { p with members := p.members.map fun m => if m.ended then m else
      let m := { m with toCore := m.core, toCtx := m.ctx }
      { m with idled := parkedAtIdle s p m, brkSkip := savedSkip s p m } }
    let s := fs.foldl (fun s f => frameWr f 0 8 (setFld (frameWord s f 0) 8 2 2).toNat s) s
    let s := if recScratch r = 0 then s else fs.foldl (fun s f =>
      modCore (32 * sett f + fld (place f) 0 5) (fun c => { c with msplit := ctlBits 0x801 (frameWord s f 40) }) s) s
    { s with packs := s.packs ++ [p], packSeq := id }) s)

-- suspended commands (R297)

/-- CMD_RESUME (R297): the command goes on from the page that faulted. -/
def execCmdResume (sett cmd : Nat) (s : State) : Out :=
  .next (match findCmd s sett cmd with
    | none => mailbox false false id s
    | some c => mailbox false (isSuspended c) (fun s =>
        let s := modCmd sett cmd (fun c => { c with state := .running }) s
        addWork (match c.op with
          | .reloc => if fld c.c[0] 28 4 = 0 then .flip sett cmd else .move sett cmd
          | _ => .engineCommandStart sett cmd 0 (cmdTotal c)) s) s)

/-- CMD_ABORT (R297, R306): ERRCODE 1. -/
def execCmdAbort (sett cmd : Nat) (s : State) : Out :=
  .next (match findCmd s sett cmd with
    | none => mailbox false false id s
    | some c => mailbox false (isSuspended c) (closeCmd sett c 1) s)

end Sys2Proof.Machine
end

