-- ==== Sys2Proof/Machine/Host.lean ====
section
/-! DEFINITION. The host: CXL.mem, the mailbox's standard and vendor commands, attestation and the three resets (13 R345; 14
R363-R379; 16 R393). -/

namespace Sys2Proof.Machine

-- CXL.mem (R363, R364, R378)

/-- A host read (R364): the coherence-last bytes of local memory; poison before READY and after a trip (R378, R458). -/
def execHostCxlMemRead (x n : Nat) (s : State) : Out :=
  let ls := physLocs (localPa s x) n
  let answer (f : Loc → Option Byte) (s : State) : State := modPkg (fun p => { p with hostRead := ls.map f }) (bump s)
  .next (if Config.hbmBytes < x + n then s
    else if !s.pkg.ready || s.pkg.tripped then answer (fun _ => none) s
    else wakeLocs ls (answer (fun l => if poisoned s l then none else some (byteAt s l)) s))

/-- A host write (R364, R370): the bytes of local memory; dropped before READY. -/
def execHostCxlMemWrite (x : Nat) (bytes : List Byte) (s : State) : Out :=
  let ls := physLocs (localPa s x) bytes.length
  .next (if !s.pkg.ready || s.pkg.tripped || Config.hbmBytes < x + bytes.length then s
    else wakeLocs ls (plainSectors (localPa s x) bytes.length (writeAll (wrBytes ls bytes) (bump s))))

-- the host register block (R366)

/-- DSTAT. -/
def dstat (p : Pkg) : Word :=
  BitVec.ofNat 64 (p.retainLost.toNat * 2 ^ 20 + p.retainOk.toNat * 2 ^ 16 + p.lastRst % 4 * 2 ^ 8 + p.fwfail.toNat * 2 + p.ready.toNat)

/-- A word of the block as the host reads it: reserved bits and words are zero. What a write-only doorbell reads as is free (log entry
10). -/
def hostReg (s : State) (off : Nat) : Word :=
  if off = 0 then dstat s.pkg
  else if off = 8 then s.pkg.svn.zeroExtend 64
  else if off = 0x10 then s.pkg.health
  else if 0x1000 ≤ off && off < 0x3000 && off % 8 = 0 then Config.freeCycles (s.tick + off) &&& 0xFFFFFFFF
  else 0

/-- A 32-bit write of the block: a doorbell takes it, and reads and writes its queue's descriptor (R456); every other place ignores it.
After a trip no doorbell acts (R458). -/
def hostRegWrite (off : Nat) (v : BitVec 32) (s : State) : Out :=
  let q := finQ ((off - 0x1000) / 8)
  if 0x1000 ≤ off && off < 0x3000 && off % 8 = 0 && !s.pkg.tripped then
    execDoorbell q v (if s.pkg.qt.isSome then wakeLocs (physLocs (queueAt s q) 32) s else s)
  else .next s

/-- The host at its register block and its MSI-X table (R366): a read answers 8 bytes; a vector that is unmasked while it is pending
sends its message. -/
def hostAct (a : HostAct) (s : State) : Out :=
  match a with
  | .read off => .next (modPkg (fun p => { p with hostRead := (leBytes 8 (hostReg s off).toNat).map some }) (bump s))
  | .write off v => hostRegWrite off v s
  | .mask v on => .next (modPkg (fun p =>
      let p := { p with msixMask := vput p.msixMask v on }
      if !on && vnth p.msixPending false v then { p with msix := vput p.msix v true, msixPending := vput p.msixPending v false } else p) s)
  | .take v => .next (modPkg (fun p => { p with msix := vput p.msix v false }) s)

-- standard commands (R367)

def mboxOut (l : List Byte) (s : State) : State := modPkg (fun p => { p with mbox := { p.mbox with out := l } }) s

/-- Identify: its payload is CXL 3.1's (log entry 10). -/
def execIdentify (s : State) : Out := .next (mailbox true true (mboxOut (Config.cxlPayload 0)) s)
/-- The bytes of an event record that the manual lays out: its identifier and the first 16 of its payload (R369, R453). -/
def eventBytes (r : EventRec) : List Byte := leBytes 16 (Config.eventUuid r.queueError).toNat ++ leBytes 16 r.data.toNat
/-- Get Event Records: the records of a log. -/
def execGetEventRecords (log : Fin 4) (s : State) : Out :=
  .next (mailbox false true (fun s => mboxOut ((vnth s.pkg.logs [] log).flatMap eventBytes) s) s)
/-- Clear Event Records. -/
def execClearEventRecords (log : Fin 4) (s : State) : Out :=
  .next (mailbox false true (modPkg fun p => { p with logs := vput p.logs log [], logLost := vput p.logLost log 0 }) s)
/-- Get Timestamp: the time that was set and what has passed since, a free value (log entry 8). -/
def execGetTimestamp (s : State) : Out :=
  let v := s.pkg.mbox.timestamp + Config.freeCycles s.tick
  .next (mailbox false true (fun s => mboxOut (leBytes 8 v.toNat) (modPkg (fun p => { p with mbox := { p.mbox with timestamp := v } }) s)) s)
/-- Set Timestamp. -/
def execSetTimestamp (v : Word) (s : State) : Out :=
  .next (mailbox false true (modPkg fun p => { p with mbox := { p.mbox with timestamp := v } }) s)
/-- Transfer FW: the image is held until it is activated. -/
def execTransferFw (image : List Byte) (s : State) : Out :=
  .next (mailbox true true (modPkg fun p => { p with mbox := { p.mbox with image := some image } }) s)
/-- Activate FW (R374): the transferred image takes effect at the next warm or cold reset. -/
def execActivateFw (s : State) : Out :=
  .next (mailbox true s.pkg.mbox.image.isSome (modPkg fun p => { p with mbox := { p.mbox with active := p.mbox.image } }) s)
/-- Get Log: its payload is CXL 3.1's (log entry 10). -/
def execGetLog (s : State) : Out := .next (mailbox true true (mboxOut (Config.cxlPayload 1)) s)

-- bases (R315, R317, R334, R347, R355, R365, R372, R393)

/-- SET_ASTBASE (R315): no queue enabled. -/
def execSetAstbase (b : Word) (s : State) : Out :=
  .next (mailbox false (localBase s b 4096 1 && s.pkg.enabled.isEmpty) (modPkg fun p => { p with ast := some b.toNat }) s)
/-- SET_QTBASE (R317): no queue enabled. -/
def execSetQtbase (b : Word) (s : State) : Out :=
  .next (mailbox false (localBase s b 4096 1 && s.pkg.enabled.isEmpty) (modPkg fun p => { p with qt := some b.toNat }) s)
/-- SET_FQBASE (R355): the fault queue is empty, and the descriptor keeps its rules. -/
def execSetFqbase (b : Word) (s : State) : Out :=
  let w0 := rdWord s b.toNat
  let w1 := rdWord s (b.toNat + 8)
  let empty := match s.pkg.fq with
    | some q => rdPhys s (q.desc + 16) 4 == rdPhys s (q.desc + 24) 4
    | none => true
  .next (mailbox false (localBase s b 32 1 && empty && fld w0 0 12 == 0 && fld w0 52 12 == 0 && localBase s w0 4096 1 &&
      fld w1 5 59 == 0 && decide (6 ≤ fld w1 0 5) && decide (fld w1 0 5 ≤ 16))
    (modPkg fun p => { p with fq := some ⟨b.toNat, w0.toNat, fld w1 0 5⟩ }) s)
/-- SET_FRAMES (R347): no thread running, saved or parked; a pack that is placed and has not started has none. -/
def execSetFrames (b : Word) (n : Nat) (s : State) : Out :=
  .next (mailbox false (localBase s b 65536 1 && decide (1 ≤ n) && decide (n ≤ 65536) &&
      (s.packs.all fun p => p.state == .dead || p.state == .starting))
    (modPkg fun p => { p with sf := some (b.toNat, n) }) s)
/-- SET_DTHR (R334). -/
def execSetDthr (v : BitVec 16) (s : State) : Out := .next (mailbox false true (modPkg fun p => { p with dthr := v }) s)
/-- A descriptor of the debug table in force enables its ring (R393, R394). -/
def anyRing (s : State) : Bool :=
  match s.pkg.dbg with
  | none => false
  | some base => (List.range Config.coreCount).any fun cid => ringEnabled s (ringDesc base cid)
/-- SET_DBGBASE (R393): no trace ring enabled. A ring that its descriptor has disabled and that still has or owes records writes them by that
descriptor and falls inactive then (R395, R397, log entry 56). -/
def execSetDbgbase (b : Word) (s : State) : Out :=
  .next (mailbox false (localBase s b 4096 1 && !anyRing s) (fun s =>
    let s := s.cores.foldl (fun s (cid, c) => if c.ring.act then owesTail cid (ringStop cid s) else s) s
    modPkg (fun p => { p with dbg := some b.toNat }) s) s)

/-- A merging landing header that forbids SET_MBTBASE (R372): a word that the device has handled as one that can be armed, full or
bound, still in a slot of the scratchpad, whose FLAGS have LAND and MRG with ARMED, FULL or BOUND, whatever its other fields say. Whether a pack holds the scratchpad now does not matter: what a reset has retained
or a pack has left stays armed for the next (R205, R378). -/
def mergeBusy (s : State) : Bool :=
  s.cores.any fun (cid, c) => c.headers.any fun w =>
    let f := flagsRd s cid w
    decide (scratchSlot c * Config.slotBytes ≤ w) && wbit f 31 && wbit f 30 && (wbit f 0 || wbit f 5 || wbit f 6)

def startBackground (b : Background) (s : State) : State :=
  mboxCode 1 (modPkg (fun p => { p with mbox := { p.mbox with background := some b } }) s)

/-- SET_MBTBASE (R372): in the background. -/
def execSetMbtbase (b : Word) (s : State) : Out :=
  .next (mailbox false (localBase s b (2 ^ 21) (2 ^ 21) && !mergeBusy s) (startBackground (.mergeTable b.toNat)) s)
/-- SHOOTDOWN (R345): in the background. -/
def execShootdown (asid : Nat) (va : Word) (pages : Nat) (s : State) : Out :=
  .next (mailbox false (va.toNat % 4096 == 0 && decide (asid < 4096) && decide (1 ≤ pages) && decide (pages ≤ 2 ^ 32))
    (startBackground (.shootdown asid va pages)) s)

-- leaves of the page tables (R339, R367, R370)

/-- The present leaves below a table: the physical address of each entry, its level and the entry. -/
def leavesFrom (s : State) : Nat → Nat → List (Nat × Nat × Word)
  | 0, _ => []
  | l + 1, base => (List.range 512).flatMap fun i =>
    let ea := base + 8 * i
    let e := rdWord s ea
    if !wbit e 0 then [] else if l = 0 || wbit e 3 then [(ea, l + 1, e)] else leavesFrom s l (pteAddr e)
/-- The leaves of every address space. -/
def allLeaves (s : State) : List (Nat × Nat × Word) :=
  (((List.range 4096).map fun a => spaceOf s a).filter fun x => x.pgroot != 0).flatMap fun x => leavesFrom s 5 (pteAddr x.pgroot)

/-- SHOOTDOWN complete: no replaced translation serves the range of that ASID any longer; elsewhere it may still serve (R345). -/
def shoot (asid : Nat) (va : Word) (pages : Nat) (s : State) : State :=
  let lo := va.toNat % 2 ^ 57
  { s with past := .shot asid lo (lo + 4096 * pages) :: s.past }

/-- Every mapping that meets a 64 KiB unit has CLASS compressed (R367). -/
def onlyCompressed (s : State) (pa : Nat) : Bool :=
  (allLeaves s).all fun (_, lev, e) =>
    let size := 2 ^ (12 + 9 * (lev - 1))
    pteAddr e + size ≤ pa || pa + 65536 ≤ pteAddr e || fld e 7 2 == 2

/-- PAGE_EXPAND (R370): in the background; compression is not visible in the bytes, so that they stay as they are. -/
def execPageExpand (pa : Nat) (s : State) : Out :=
  .next (mailbox false (pa % 65536 == 0 && ownRange s pa 65536 && onlyCompressed s pa) (startBackground (.expand pa)) s)

/-- The bytes of the page that a leaf is of: 64 KiB for one of a C64 group (R339, R341). -/
def leafSpan (lev : Nat) (e : Word) : Nat := if lev = 1 && wbit e 4 then 65536 else 2 ^ (12 + 9 * (lev - 1))
/-- The first byte of that page. -/
def leafBase (lev : Nat) (e : Word) : Nat := pteAddr e / leafSpan lev e * leafSpan lev e
/-- The page at an address as the largest that begins there, 4 KiB where none does (R370). -/
def pageSpan (s : State) (src : Nat) : Nat :=
  (allLeaves s).foldl (fun n (_, lev, e) => if leafBase lev e = src then max n (leafSpan lev e) else n) 4096

/-- Bytes moved as a page: whole units keep their arrangement in their new place (R343). -/
def moveUnits (src dst n : Nat) (s : State) : State :=
  if s.gang.isEmpty || n < 65536 then plainSectors dst n s
  else { s with
    gang := (List.range (n / 65536)).foldl (fun m j => tset m 0 (dst / 65536 + j) (tget s.gang 0 (src / 65536 + j))) s.gang
    plain := (s.plain.filter fun (k, _) => decide (src / 32 ≤ k) && decide (k < (src + n) / 32)).foldl
      (fun m (k, v) => tset m 0 (k - src / 32 + dst / 32) v) (s.plain.filter fun (k, _) => decide (k < dst / 32) || decide ((dst + n) / 32 ≤ k)) }

/-- MIGRATION (R370): a page's bytes, poison with them, go to another page, and every mapping inside it, all 16 of a C64 page, follows
with CLASS normal; no earlier translation through those entries serves any longer. A page that a larger one contains is none. -/
def execMigration (src dst : Nat) (s : State) : Out :=
  let n := pageSpan s src
  let inside (e : Word) : Bool := decide (src ≤ pteAddr e) && decide (pteAddr e < src + n)
  let within := (allLeaves s).any fun (_, lev, e) => decide (leafBase lev e < src) && decide (src < leafBase lev e + leafSpan lev e)
  .next (if src % n != 0 || dst % n != 0 || !memRange s src n || !memRange s dst n || src = dst || within then s
    else
      let t := moveUnits src dst n (moveBytes (physLocs src n) (physLocs dst n) (bump s))
      let moved := (allLeaves t).filter fun (_, _, e) => inside e
      { moved.foldl (fun s (ea, _, e) => wrWord ea (setFld (setFld e 12 40 ((dst + (pteAddr e - src)) / 4096)) 7 2 0) s) t with
        past := s.past.filter fun x => match x with
          | .word ea _ => !moved.any (·.1 == ea)
          | _ => true })

-- attestation (R363, R377)

def measBytes (s : State) : List Byte := (List.range 5).flatMap fun i => leBytes 64 (vnth s.pkg.meas 0 i).toNat
/-- A signed response reports MEAS0-MEAS4 (R377). -/
def signedReport (extra : List Byte) (s : State) : State :=
  let m := measBytes s ++ extra
  modPkg (fun p => { p with spdm := m ++ leBytes 49856 (Config.signature (Config.identityKey p.fuses.secret) m).toNat }) (bump s)
/-- A request over DOE: with failed firmware the link takes none (R375). -/
def doe (f : State → State) (s : State) : Out := .next (if s.pkg.fwfail then s else f s)
/-- GET_CERTIFICATE (R377). -/
def execGetCertificate (s : State) : Out := doe (fun s => modPkg (fun p => { p with spdm := Config.certificateChain }) (bump s)) s
/-- CHALLENGE (R377). -/
def execChallenge (nonce : Word) (s : State) : Out := doe (signedReport (leBytes 8 nonce.toNat)) s
/-- GET_MEASUREMENTS (R377). -/
def execGetMeasurements (s : State) : Out := doe (signedReport []) s
/-- IDE keys programmed through SPDM (R363). -/
def execIdeKeyProgramming (key : Word) (s : State) : Out := doe (fun s => modPkg (fun p => { p with ide := some key }) (bump s)) s

-- resets (R374-R379)

-- health (R451, R452)

def modHealth (f : Word → Word) (s : State) : State := modPkg (fun p => { p with health := f p.health }) s
/-- HEALTH.SPCORE and SPBOND of a sett (R451). -/
def spareCores (h : Word) (k : Nat) : Nat := fld h (48 + 2 * k) 2
def spareBonds (h : Word) (k : Nat) : Nat := fld h (32 + 4 * k) 4

/-- REPLACE becomes 1 when a condition of R452 holds, with its event. -/
def checkReplace (outOfService : Bool) (s : State) : State :=
  let h := s.pkg.health
  let due := outOfService || decide (2 ≤ fld h 16 8) || (List.range 4).any fun k => spareCores h k == 0 || decide (spareBonds h k < 4)
  if due && !wbit h 63 then telemetry 1 6 0 0 (modHealth (fun h => setFld h 63 1 1) s) else s

/-- What a cold and a warm reset share: nothing runs, bases and service state are cleared, and the firmware is verified, measured and
started (R374-R376, R378). Where it is refused nothing is measured, and the SVN of firmware that does not run is free (log entry 9). -/
def bootPkg (tick : Nat) (p : Pkg) (maps : List (List Byte)) : Pkg :=
  let image := p.mbox.active.getD p.firmware
  let ok := bootOk p.fuses image
  { p with
    ast := none, qt := none, fq := none, fqSeq := 0, fqWait := [], sf := none, sfBefore := p.sf, mbt := none, dbg := none
    dthr := 80, enabled := [], served := [], held := [], msix := Vector.replicate 3 false, msixMask := Vector.replicate 3 false
    msixPending := Vector.replicate 3 false, parkCores := [], parkSaves := [], ide := none, spdm := [], mbox := {}
    firmware := image, svn := if ok then Config.imageSvn image else BitVec.ofNat 8 (Config.freeNat tick 79)
    meas := if ok then bootMeas p.fuses image maps else Vector.replicate 8 0
    ready := ok, fwfail := !ok, tripped := false }

/-- Nothing runs and nothing is due. -/
def stopAll (s : State) : State := { s with cur := {}, others := [], packs := [], work := [], past := [] }

/-- HEALTH after a cold reset (R451, R378): cleared, with the spares that the self-test's repair leaves free, a free value (log entry
34). -/
def repairedHealth (tick : Nat) : Word :=
  (List.range 4).foldl (fun h k =>
    setFld (setFld h (48 + 2 * k) 2 (Config.freeNat tick (80 + k) % 3)) (32 + 4 * k) 4 (Config.freeNat tick (84 + k) % 16)) 0

/-- COLD_RESET (R378): memory and stores are zero; HEALTH, REPSUM and the repair are cleared and built anew, and REPLACE is set at once
where they call for it (R452); the environment's turns go on. The CXL link trains to a width and a rate, and firmware writes the sum
of the map it builds, free values (R363, R379; log entry 34). -/
def execColdReset (s : State) : Out :=
  .next (checkReplace false { State.reset with
    turns := s.turns, tick := s.tick + 1, packSeq := s.packSeq
    setts := Vector.ofFn fun k => { tallow := s.setts[k].tallow, repsum := BitVec.ofNat 32 (Config.freeNat s.tick (88 + k.val)) }
    pkg := { bootPkg s.tick { s.pkg with sf := none } [] with
      health := repairedHealth s.tick, hStep := 0, tStep := 0, lanes := Vector.replicate 12 4, fenced := [], lastRst := 0
      retainOk := 0, retainLost := 0, selfRefresh := [], doubled := [], logs := Vector.replicate 4 [], logLost := Vector.replicate 4 0
      linkWidth := [16, 8, 4].getD (Config.freeNat s.tick 92 % 3) 16, linkRate := [64, 32, 16].getD (Config.freeNat s.tick 93 % 3) 64
      hostRead := [], peerRead := [] } })

/-- A sett's matrix store is kept at a warm reset (R379). -/
def retains (s : State) (flash : List (Option (BitVec 32))) (k : Nat) : Bool := flash.getD k none == some (settOf s k).repsum

/-- A core after a warm reset: its bytes, and its merging headers among them, where its sett retains them, and nothing else (R378,
R379). -/
def warmCore (keep : Bool) (c : Core) : Core :=
  if keep then { tiles := c.tiles, bad := c.bad, headers := c.headers, outOfService := c.outOfService }
  else { outOfService := c.outOfService }

/-- A sett after a warm reset: REPSUM is that of the map read back, now in force, or of the map that takes its place (R379). -/
def warmSett (tick : Nat) (flash : List (Option (BitVec 32))) (k : Nat) (q : Sett) : Sett :=
  { tallow := q.tallow, repsum := (flash.getD k none).getD (BitVec.ofNat 32 (Config.freeNat tick (88 + k))) }

/-- WARM_RESET (R378, R379): `flash` is what firmware reads back for each sett, whose map is then the one in force. The maps' digests,
and the sum of the map that takes the place of an unreadable one, are free (log entry 9). -/
def execWarmReset (flash : List (Option (BitVec 32))) (s : State) : Out :=
  .next (mailbox false true (fun s =>
      let keep : Vector Bool 4 := Vector.ofFn fun k => retains s flash k.val
      let bits (f : Bool → Bool) : BitVec 4 := BitVec.ofNat 4 (bitsOf (keep.toList.map f))
      let maps := ((List.range 4).filter fun k => (flash.getD k none).isSome).map fun k =>
        (List.range 64).map fun j => Config.freeByte s.tick (64 * k + j)
      let s := bump (stopAll s)
      { s with
        cores := (tkeys s.cores).foldl (fun m cid => tset m {} cid (warmCore (vnth keep false (cid / 32)) (tget s.cores {} cid))) s.cores
        setts := Vector.ofFn fun k => warmSett s.tick flash k.val s.setts[k]
        pkg := { bootPkg s.tick s.pkg maps with lastRst := 1, retainOk := bits id, retainLost := bits (!·), selfRefresh := [] } }) s)

/-- A range of whole 64 KiB units written to zero, which wakes its stacks (R345, R343, R372, R456). -/
def zeroRange (base n : Nat) (s : State) : State :=
  let inside (a : Nat) : Bool := decide (base ≤ a) && decide (a < base + n)
  let words := ((s.mem.filter fun (a, _) => inside a).map (·.1 / 8 * 8)).eraseDups.filter fun a => entryForm (rdWord s a)
  wakeLocs ((List.range (n / 65536)).map fun j => .phys (base + 65536 * j)) (plainSectors base n { s with
    mem := s.mem.filter fun (a, _) => !inside a
    poison := s.poison.filter fun k => !inside (32 * k)
    past := words.map (fun a => .word a (rdWord s a)) ++ s.past })

/-- A background command's effect once its conditions hold (R367); none while they do not. PAGE_EXPAND rewrites its unit, whose bytes read
as before (R370) and whose stack it wakes (R456). -/
def backgroundDone (b : Background) (s : State) : Option State :=
  match b with
  | .shootdown asid va pages => some (shoot asid va pages s)
  | .expand pa => some (wakeLocs ([0, 65535].map fun k => .phys (pa / 65536 * 65536 + k)) s)
  | .mergeTable base => some (modPkg (fun p => { p with mbt := some base }) (zeroRange base (2 ^ 21) s))
  | .unpark sett mask => some (((List.range 32).filter fun i => mask.getLsbD i).foldl (fun s i =>
      modCore (32 * sett + i) (fun c => { c with parked := false, retention := false }) s) s)
  | .park sett mask =>
    let cids := ((List.range 32).filter fun i => mask.getLsbD i).map fun i => 32 * sett + i
    if (threads s).any fun t => cids.contains (cidOf t) then none
    else some (cids.foldl (fun s cid =>
      if scratchHolder s cid then modCore cid (fun c => { c with retention := true }) s
      else
        let s := (tkeys (coreOf s cid).tags).foldl (fun s k => foreignOut none cid k s) s
        modCore cid (fun c => freshSlots s.tick (List.range' (scratchSlot c) (256 - scratchSlot c)) c) s) s)

/-- BACKGROUND_COMMAND_COMPLETE (R367): its effect, Success, and MSI-X vector 0. -/
def execBackgroundCommandComplete (s : State) : Out :=
  .next (match s.pkg.mbox.background with
    | none => s
    | some b => match backgroundDone b (bump s) with
      | none => s
      | some s => mboxCode 0 (modPkg (fun p => signal 0 { p with
          mbox := { p.mbox with background := none }, parkCores := [], parkSaves := [] }) s))

/-- A background command that a reset abandons before it is complete leaves no effect (R378): cores that CORE_PARK parked serve again
and saves it asked for and that have not begun are not made; a pack saved meanwhile resumes as a pre-empted one. -/
def parkUndone (s : State) : State :=
  let s := s.pkg.parkCores.foldl (fun s cid => modCore cid (fun c => { c with parked := false }) s) s
  let due (id : Nat) : Bool := (threads s).any fun t => t.pack == id && t.parking.isSome
  { s with work := s.work.filter fun w => !s.pkg.parkSaves.any fun id => w == .packSave id [] && !due id }

/-- FUNCTION_LEVEL_RESET (R378): the mailbox, DOE, MSI-X and IDE keys; a background command in progress is complete or absent,
a free choice (log entry 5). An image transferred or activated stays (log entry 19). -/
def execFunctionLevelReset (s : State) : Out :=
  let s' := bump s
  let s' := match s.pkg.mbox.background with
    | some b => if Config.freeBit s.tick 0 then (backgroundDone b s').getD (parkUndone s') else parkUndone s'
    | none => s'
  .next (modPkg (fun p => { p with
    mbox := { image := p.mbox.image, active := p.mbox.active }, spdm := [], msix := Vector.replicate 3 false, msixMask := Vector.replicate 3 false
    msixPending := Vector.replicate 3 false, parkCores := [], parkSaves := [], ide := none, lastRst := 2 }) s')

end Sys2Proof.Machine
end

