-- ==== Sys2Proof/Machine/Fleet.lean ====
section
/-! DEFINITION. Power states, clocks, thermals, health, retirement and repair (22 R451-R458; 14 R371; 15 R385, R392), and what the
memory system does unseen (06 R193; 10 R281; 05 R151; 07 R212). -/

namespace Sys2Proof.Machine

-- clocks (R456, R457)

/-- The clock goes to max(H, T). Where that is a change: PSTEP, and a TIMESYNC in every active ring (R401, R457). -/
def applyClock (s : State) : State :=
  let step := max s.pkg.hStep s.pkg.tStep
  if fld s.pkg.health 56 4 = step then s
  else
    let s := modHealth (fun h => setFld h 56 4 step) s
    s.cores.foldl (fun s (cid, _) => putClock cid s) s

/-- SET_PSTATE (R456): the host step; the clock follows. -/
def execSetPstate (step : Nat) (s : State) : Out :=
  .next (mailbox false (decide (step ≤ 8)) (modPkg fun p => { p with hStep := step }) s)
/-- CLOCK_CHANGE (R457). -/
def execClockChange (s : State) : Out :=
  .next (if fld s.pkg.health 56 4 = max s.pkg.hStep s.pkg.tStep then s else applyClock (bump s))

/-- CORE_PARK with park = 1 (R456): the masked cores take nothing new and their packs are saved; in the background. -/
def execCorePark (sett : Fin 4) (mask : BitVec 32) (s : State) : Out :=
  .next (mailbox false true (fun s =>
    let cids := ((List.range 32).filter fun i => mask.getLsbD i).map fun i => 32 * sett.val + i
    let fresh := cids.filter fun cid => !(coreOf s cid).parked
    let ids := (((threads s).filter fun t => cids.contains (cidOf t)).map (·.pack)).eraseDups
    let s := cids.foldl (fun s cid => modCore cid (fun c => { c with parked := true }) s) s
    let s := modPkg (fun p => { p with parkCores := fresh, parkSaves := ids.filter fun id => !s.work.contains (.packSave id []) }) s
    startBackground (.park sett.val mask) (ids.foldl (fun s id => addWork (.packSave id []) s) s)) s)
/-- CORE_PARK with park = 0 (R456): the cores can take packs again; in the background. -/
def execCoreUnpark (sett : Fin 4) (mask : BitVec 32) (s : State) : Out :=
  .next (mailbox false true (startBackground (.unpark sett.val mask)) s)

/-- HBM_SR enter (R456): every core of the stack's sett is parked. -/
def execHbmSrEnter (stack : Fin 8) (s : State) : Out :=
  .next (mailbox false ((List.range 32).all fun i => (coreOf s (32 * (stack.val / 2) + i)).parked)
    (modPkg fun p => { p with selfRefresh := sinsert p.selfRefresh stack.val }) s)
/-- HBM_SR exit (R456). -/
def execHbmSrExit (stack : Fin 8) (s : State) : Out := .next (mailbox false true (awaken stack) s)
/-- An access that no other step of the model shows, such as the refill or the write-back of a cache, wakes a stack (R456); it stays awake
until the next enter. -/
def execHbmWake (stack : Fin 8) (s : State) : Out :=
  .next (if s.pkg.selfRefresh.contains stack.val then awaken stack (bump s) else s)

-- thermals (R385, R392, R458)

def heads (s : State) : List Nat := s.setts.toList.map fun q => fld q.tallow 0 16
/-- TALLOW of every sett is updated (R392). -/
def execTallowUpdate (hs : List Nat) (s : State) : Out :=
  .next { bump s with setts := Vector.ofFn fun k => { (s.setts[k]) with tallow := BitVec.ofNat 64 (min 65535 (hs.getD k.val (fld (s.setts[k]).tallow 0 16))) } }

/-- One thermal step down (R458): T, THERM, the clock, and KIND 7 with the new PSTEP. PSTEP has no step above 8. -/
def stepDown (sett : Nat) (s : State) : State :=
  let t := min 8 (max s.pkg.tStep s.pkg.hStep + 1)
  let s := applyClock (modHealth (fun h => setFld h 62 1 1) (modPkg (fun p => { p with tStep := t }) (bump s)))
  telemetry 1 7 sett t s
/-- THERMAL_STEP_DOWN (R458): a sett's HEAD is 0 and T < 8. -/
def execThermalStepDown (sett : Fin 4) (s : State) : Out :=
  .next (if (heads s).getD sett 1 = 0 && s.pkg.tStep < 8 then stepDown sett s else s)
/-- THERMAL_REPEAT_STEP (R458): HEAD is still 0 one millisecond after the last step down. -/
def execThermalRepeatStep (sett : Fin 4) (s : State) : Out :=
  .next (if (heads s).getD sett 1 = 0 && s.pkg.tStep < 8 && wbit s.pkg.health 62 then stepDown sett s else s)
/-- THERMAL_STEP_UP (R458). -/
def execThermalStepUp (s : State) : Out :=
  .next (if (heads s).all (16 ≤ ·) && s.pkg.hStep < s.pkg.tStep then
      let t := s.pkg.tStep - 1
      let s := modPkg (fun p => { p with tStep := t }) (bump s)
      let s := applyClock (if t ≤ s.pkg.hStep then modHealth (fun h => setFld h 62 1 0) s else s)
      telemetry 0 8 0 (max t s.pkg.hStep) s
    else s)
/-- THERMAL_TRIP (R458): the clocks stop until a cold reset. -/
def execThermalTrip (sett : Fin 4) (s : State) : Out :=
  .next (if s.pkg.tStep = 8 && !s.pkg.tripped then telemetry 2 10 sett 0 (modPkg (fun p => { p with tripped := true }) (bump s)) else s)
/-- REFRESH_RATE_CHANGE (R385): the reading of a stack's hottest die, in tenths of a degree. Above 85.0 the stack doubles its refresh
rate, at 82.0 or below it returns to the normal one; each change is an event of KIND 9. -/
def execRefreshRateChange (stack : Fin 8) (tenths : BitVec 12) (s : State) : Out :=
  let on := s.pkg.doubled.contains stack.val
  let event (hot : Bool) (l : List Nat) : State :=
    telemetry 0 9 stack hot.toNat (modPkg (fun p => { p with doubled := l }) (bump s))
  .next (if !on && decide (850 < tenths.toNat) then event true (sinsert s.pkg.doubled stack.val)
    else if on && decide (tenths.toNat ≤ 820) then event false (s.pkg.doubled.filter (· != stack.val))
    else s)

-- spares (R454, R455)

/-- The packs with a thread on a core that must be saved, and whether the core is empty. -/
def packsOn (s : State) (cid : Nat) : List Nat := (((threads s).filter fun t => cidOf t == cid).map (·.pack)).eraseDups

/-- The scratchpad of a core taken out of service is undefined, and its holders are parked and posted with KIND 2 (R454). -/
def loseScratch (cid : Nat) (s : State) : State :=
  let hit := s.packs.filter fun p => decide (0 < recScratch p.record) && p.state != .dead && p.state != .starting && memberOnCore p cid
  let s := hit.foldl (fun s p =>
    let s := modPack p.id (fun p => { p with state := .parked }) s
    (p.members.filter fun m => !m.ended && 32 * p.sett + m.core == cid).foldl (fun s m =>
      let c (n : Nat) : Word := frameWord s m.frame (ctlOffset n)
      let s := frameWr m.frame 0 8 (setFld (frameWord s m.frame 0) 8 2 2).toNat s
      postFault (faultEntry 2 p.asid m.frame (frameWord s m.frame 8) (c 0x101) (c 0x102) (c 0x103) (c 0x104)) s) s) s
  modCore cid (fun c => freshSlots s.tick (List.range' (scratchSlot c) (256 - scratchSlot c)) c) s

/-- A core that leaves service holds no pack to it any longer (R454). -/
def unpin (cid : Nat) (s : State) : State :=
  { s with packs := s.packs.map fun p => if p.pin && memberOnCore p cid then { p with pin := false } else p }

/-- CORE_RETIREMENT (R454). While threads run on the core it asks for their saves, to resume on the same cores; once the core
is empty it moves to a spare, which keeps the store and the index, or leaves service. -/
def execCoreRetirement (cid : Nat) (mapCrc : BitVec 32) (s : State) : Out :=
  let k := cid / 32
  .next (if Config.coreCount ≤ cid || (coreOf s cid).outOfService then s
    else match packsOn s cid with
      | [] =>
        let s := bump s
        if 0 < spareCores s.pkg.health k then
          let s := modSett k (fun q => { q with repsum := mapCrc }) s
          let s := modHealth (fun h => setFld (setFld h 0 8 (min 255 (fld h 0 8 + 1))) (48 + 2 * k) 2 (spareCores h k - 1)) s
          checkReplace false (telemetry 0 2 k (cid % 32) s)
        else
          let s := (tkeys (coreOf s cid).tags).foldl (fun s j => foreignOut none cid j s) s
          let s := unpin cid <| loseScratch cid (modCore cid (fun c => { c with outOfService := true }) s)
          checkReplace true (telemetry 1 3 k (cid % 32) s)
      | ids => ids.foldl (fun s id => addWork (.packSave id []) (modPack id (fun p => { p with
          pin := decide (0 < spareCores s.pkg.health k) }) s)) (bump s))

/-- BOND_LANE_REPAIR (R455): KIND 1; the map and REPSUM change (R379), no state visible to programs does. -/
def execBondLaneRepair (sett : Fin 4) (mapCrc : BitVec 32) (s : State) : Out :=
  .next (if spareBonds s.pkg.health sett = 0 then s
    else
      let s := modSett sett (fun q => { q with repsum := mapCrc }) (bump s)
      let s := modHealth (fun h => setFld h (32 + 4 * sett.val) 4 (spareBonds h sett - 1)) s
      checkReplace false (telemetry 0 1 sett 0 s))

/-- LANE_FAILURE (R371): 4 lanes, then 2, then 1, then none; KIND 4 or 5. -/
def execLaneFailure (port : Fin 12) (s : State) : Out :=
  let n := s.pkg.lanes[port]
  .next (if n = 0 then s
    else
      let m := n / 2
      let ls := s.pkg.lanes.set port m
      let s := modPkg (fun p => { p with lanes := ls }) (bump s)
      let s := modHealth (fun h => setFld (setFld h 24 8 (ls.toList.countP fun x => 0 < x && x < 4)) 16 8 (ls.toList.countP (· == 0))) s
      checkReplace false (if m = 0 then telemetry 1 5 port 0 s else telemetry 1 4 port m s))

-- the memory system and its errors

/-- MEMORY_REPLY (R193): every access of this model is performed at its home in the step that issues it, so that the reply
changes nothing (log entry 4). -/
def execMemoryReply (_tid : Nat) (s : State) : Out := .next s
/-- CACHE_EVICTION (R281): every write is already performed at its home (log entry 4). -/
def execCacheEviction (_pa : Nat) (s : State) : Out := .next s

/-- REPLY_ABANDONMENT (R193, R360): the thread's current instruction is to stop at its lowest abandoned element; an atomic whose home is
in another package is to trap LINK. -/
def execReplyAbandonment (tid g : Nat) (s : State) : Out :=
  .next (match threadOf s tid with
    | some t => if t.elim.isSome then s else modFrame tid (fun t => { t with elim := some (g, .abandon) }) (bump s)
    | none => s)

/-- UNCORRECTABLE_ERROR (R151, R190, R212): the data at the place become poisoned. -/
def execUncorrectableError (e : ErrorAt) (s : State) : Out :=
  .next (match e with
    | .sector pa => { bump s with poison := sinsert s.poison (pa / 32) }
    | .vreg tid r j => modFrame tid (fun t => { t with vbad := (r.val, j.val) :: t.vbad.erase (r.val, j.val) }) (bump s)
    | .kreg tid r i => if r = 0 then s else modFrame tid (fun t => { t with kbad := (r.val, i.val) :: t.kbad.erase (r.val, i.val) }) (bump s)
    | .store cid slot e =>
      if Config.coreCount ≤ cid || 256 ≤ slot || 4096 ≤ e then s
      else modCore cid (fun c => { c with bad := sinsert c.bad (slot * 4096 + e) }) (bump s))

end Sys2Proof.Machine
end

