-- ==== Sys2Proof/Machine/ScalarFloat.lean ====
section
/-! DEFINITION. Scalar floating point (04 R119-R122), major 0x03. -/

namespace Sys2Proof.Machine

/-- The FP32 operand of a scalar (R51). -/
def lo32 (x : Word) : F32 := x.truncate 32

/-- A two-operand FP instruction: FP32 in bits [31:0], the upper half zero, flags sticky; latency `lat4` 4 or scoreboarded. -/
def float2 (f : F32 → F32 → R32) (lat4 : Bool) (d a b : SReg) (w : Stall) (s : State) : State :=
  guardS [a, b] s (
    let (r, g) := f (lo32 (rs 0 s a)) (lo32 (rs 1 s b))
    finish w (fun t => orFlags g (if lat4 then setS4 w d (r.zeroExtend 64) t else setS d (r.zeroExtend 64) t)) s)

/-- FADD (R119, R120). -/
def execFadd (d a b : SReg) (m : Rm) (w : Stall) (s : State) : Out := .next (float2 (add32 m) true d a b w s)
/-- FSUB (R119). -/
def execFsub (d a b : SReg) (m : Rm) (w : Stall) (s : State) : Out := .next (float2 (sub32 m) true d a b w s)
/-- FMUL (R119). -/
def execFmul (d a b : SReg) (m : Rm) (w : Stall) (s : State) : Out := .next (float2 (mul32 m) true d a b w s)
/-- FFMA (R119): fma(a, b, s_D), one rounding. -/
def execFfma (d a b : SReg) (m : Rm) (w : Stall) (s : State) : Out :=
  .next (guardS [a, b, d] s (
    let (r, g) := fma32 m (lo32 (rs 0 s a)) (lo32 (rs 1 s b)) (lo32 (rs 2 s d))
    finish w (fun t => orFlags g (setS4 w d (r.zeroExtend 64) t)) s))
/-- FDIV (R119); scoreboarded. -/
def execFdiv (d a b : SReg) (m : Rm) (w : Stall) (s : State) : Out := .next (float2 (div32 m) false d a b w s)
/-- FSQRT (R119); scoreboarded. -/
def execFsqrt (d a : SReg) (m : Rm) (w : Stall) (s : State) : Out :=
  .next (guardS [a] s (
    let (r, g) := sqrt32 m (lo32 (rs 0 s a))
    finish w (fun t => orFlags g (setS d (r.zeroExtend 64) t)) s))
/-- FMIN (R65, R119). -/
def execFmin (d a b : SReg) (w : Stall) (s : State) : Out := .next (float2 (fun x y => (min32 x y, 0)) true d a b w s)
/-- FMAX (R65, R119). -/
def execFmax (d a b : SReg) (w : Stall) (s : State) : Out := .next (float2 (fun x y => (max32 x y, 0)) true d a b w s)
/-- FCMP (R121). -/
def execFcmp (d a b : SReg) (c : FCond) (w : Stall) (s : State) : Out :=
  .next (guardS [a, b] s (
    let (r, g) := fcmpNum c (num32 (lo32 (rs 0 s a))) (num32 (lo32 (rs 1 s b)))
    finish w (fun t => orFlags g (setS4 w d (boolWord r) t)) s))
/-- FCVT (R122). -/
def execFcvt (d a : SReg) (k : FConv) (m : Rm) (w : Stall) (s : State) : Out :=
  .next (guardS [a] s (
    let (r, g) := fcvt k m (rs 0 s a)
    finish w (fun t => orFlags g (setS4 w d r t)) s))

end Sys2Proof.Machine
end

