-- ==== Sys2Proof/Machine/Dispatch.lean ====
section
/-! DEFINITION. The meaning of each instruction: one arm per constructor of `Instr`. -/

namespace Sys2Proof.Machine

def exec (i : Instr) (s : State) : Host.Outcome State Fault Refusal :=
  match i with
  | .unassignedEncoding x1 => Sys2Proof.Machine.execUnassignedEncoding x1 s
  | .instructionFetchFault x1 => Sys2Proof.Machine.execInstructionFetchFault x1 s
  | .packStart x1 => Sys2Proof.Machine.execPackStart x1 s
  | .packSave x1 x2 => Sys2Proof.Machine.execPackSave x1 x2 s
  | .contextRestore x1 => Sys2Proof.Machine.execContextRestore x1 s
  | .mapTransferComplete x1 => Sys2Proof.Machine.execMapTransferComplete x1 s
  | .decideNode x1 x2 x3 => Sys2Proof.Machine.execDecideNode x1 x2 x3 s
  | .loopNode x1 x2 x3 => Sys2Proof.Machine.execLoopNode x1 x2 x3 s
  | .nopNode x1 x2 x3 => Sys2Proof.Machine.execNopNode x1 x2 x3 s
  | .heldAppend x1 => Sys2Proof.Machine.execHeldAppend x1 s
  | .followOn x1 => Sys2Proof.Machine.execFollowOn x1 s
  | .engineCommandStart x1 x2 x3 x4 => Sys2Proof.Machine.execEngineCommandStart x1 x2 x3 x4 s
  | .engineTranslationFault x1 x2 => Sys2Proof.Machine.execEngineTranslationFault x1 x2 s
  | .engineCommandComplete x1 x2 => Sys2Proof.Machine.execEngineCommandComplete x1 x2 s
  | .flip x1 x2 => Sys2Proof.Machine.execFlip x1 x2 s
  | .flipAcknowledge x1 x2 => Sys2Proof.Machine.execFlipAcknowledge x1 x2 s
  | .move x1 x2 => Sys2Proof.Machine.execMove x1 x2 s
  | .tileArrival x1 x2 x3 x4 => Sys2Proof.Machine.execTileArrival x1 x2 x3 x4 s
  | .mergeContribution x1 x2 x3 => Sys2Proof.Machine.execMergeContribution x1 x2 x3 s
  | .sendReservation x1 x2 => Sys2Proof.Machine.execSendReservation x1 x2 s
  | .sendAcknowledgement x1 x2 => Sys2Proof.Machine.execSendAcknowledgement x1 x2 s
  | .traceTailWrite x1 => Sys2Proof.Machine.execTraceTailWrite x1 s
  | .add x1 x2 x3 x4 => Sys2Proof.Machine.execAdd x1 x2 x3 x4 s
  | .sub x1 x2 x3 x4 => Sys2Proof.Machine.execSub x1 x2 x3 x4 s
  | .and x1 x2 x3 x4 => Sys2Proof.Machine.execAnd x1 x2 x3 x4 s
  | .or x1 x2 x3 x4 => Sys2Proof.Machine.execOr x1 x2 x3 x4 s
  | .xor x1 x2 x3 x4 => Sys2Proof.Machine.execXor x1 x2 x3 x4 s
  | .sll x1 x2 x3 x4 => Sys2Proof.Machine.execSll x1 x2 x3 x4 s
  | .srl x1 x2 x3 x4 => Sys2Proof.Machine.execSrl x1 x2 x3 x4 s
  | .sra x1 x2 x3 x4 => Sys2Proof.Machine.execSra x1 x2 x3 x4 s
  | .min x1 x2 x3 x4 => Sys2Proof.Machine.execMin x1 x2 x3 x4 s
  | .max x1 x2 x3 x4 => Sys2Proof.Machine.execMax x1 x2 x3 x4 s
  | .minU x1 x2 x3 x4 => Sys2Proof.Machine.execMinU x1 x2 x3 x4 s
  | .maxU x1 x2 x3 x4 => Sys2Proof.Machine.execMaxU x1 x2 x3 x4 s
  | .slt x1 x2 x3 x4 => Sys2Proof.Machine.execSlt x1 x2 x3 x4 s
  | .sltu x1 x2 x3 x4 => Sys2Proof.Machine.execSltu x1 x2 x3 x4 s
  | .clz x1 x2 x3 => Sys2Proof.Machine.execClz x1 x2 x3 s
  | .popc x1 x2 x3 => Sys2Proof.Machine.execPopc x1 x2 x3 s
  | .mul x1 x2 x3 x4 => Sys2Proof.Machine.execMul x1 x2 x3 x4 s
  | .mulh x1 x2 x3 x4 => Sys2Proof.Machine.execMulh x1 x2 x3 x4 s
  | .mulhU x1 x2 x3 x4 => Sys2Proof.Machine.execMulhU x1 x2 x3 x4 s
  | .div x1 x2 x3 x4 => Sys2Proof.Machine.execDiv x1 x2 x3 x4 s
  | .divU x1 x2 x3 x4 => Sys2Proof.Machine.execDivU x1 x2 x3 x4 s
  | .rem x1 x2 x3 x4 => Sys2Proof.Machine.execRem x1 x2 x3 x4 s
  | .remU x1 x2 x3 x4 => Sys2Proof.Machine.execRemU x1 x2 x3 x4 s
  | .fadd x1 x2 x3 x4 x5 => Sys2Proof.Machine.execFadd x1 x2 x3 x4 x5 s
  | .fsub x1 x2 x3 x4 x5 => Sys2Proof.Machine.execFsub x1 x2 x3 x4 x5 s
  | .fmul x1 x2 x3 x4 x5 => Sys2Proof.Machine.execFmul x1 x2 x3 x4 x5 s
  | .ffma x1 x2 x3 x4 x5 => Sys2Proof.Machine.execFfma x1 x2 x3 x4 x5 s
  | .fdiv x1 x2 x3 x4 x5 => Sys2Proof.Machine.execFdiv x1 x2 x3 x4 x5 s
  | .fsqrt x1 x2 x3 x4 => Sys2Proof.Machine.execFsqrt x1 x2 x3 x4 s
  | .fmin x1 x2 x3 x4 => Sys2Proof.Machine.execFmin x1 x2 x3 x4 s
  | .fmax x1 x2 x3 x4 => Sys2Proof.Machine.execFmax x1 x2 x3 x4 s
  | .fcmp x1 x2 x3 x4 x5 => Sys2Proof.Machine.execFcmp x1 x2 x3 x4 x5 s
  | .fcvt x1 x2 x3 x4 x5 => Sys2Proof.Machine.execFcvt x1 x2 x3 x4 x5 s
  | .addi x1 x2 x3 x4 => Sys2Proof.Machine.execAddi x1 x2 x3 x4 s
  | .andi x1 x2 x3 x4 => Sys2Proof.Machine.execAndi x1 x2 x3 x4 s
  | .ori x1 x2 x3 x4 => Sys2Proof.Machine.execOri x1 x2 x3 x4 s
  | .xori x1 x2 x3 x4 => Sys2Proof.Machine.execXori x1 x2 x3 x4 s
  | .slti x1 x2 x3 x4 => Sys2Proof.Machine.execSlti x1 x2 x3 x4 s
  | .slli x1 x2 x3 x4 => Sys2Proof.Machine.execSlli x1 x2 x3 x4 s
  | .srli x1 x2 x3 x4 => Sys2Proof.Machine.execSrli x1 x2 x3 x4 s
  | .srai x1 x2 x3 x4 => Sys2Proof.Machine.execSrai x1 x2 x3 x4 s
  | .lui x1 x2 => Sys2Proof.Machine.execLui x1 x2 s
  | .ldB x1 x2 x3 x4 => Sys2Proof.Machine.execLdB x1 x2 x3 x4 s
  | .ldBu x1 x2 x3 x4 => Sys2Proof.Machine.execLdBu x1 x2 x3 x4 s
  | .ldH x1 x2 x3 x4 => Sys2Proof.Machine.execLdH x1 x2 x3 x4 s
  | .ldHu x1 x2 x3 x4 => Sys2Proof.Machine.execLdHu x1 x2 x3 x4 s
  | .ldW x1 x2 x3 x4 => Sys2Proof.Machine.execLdW x1 x2 x3 x4 s
  | .ldWu x1 x2 x3 x4 => Sys2Proof.Machine.execLdWu x1 x2 x3 x4 s
  | .ldD x1 x2 x3 x4 => Sys2Proof.Machine.execLdD x1 x2 x3 x4 s
  | .stB x1 x2 x3 x4 => Sys2Proof.Machine.execStB x1 x2 x3 x4 s
  | .stH x1 x2 x3 x4 => Sys2Proof.Machine.execStH x1 x2 x3 x4 s
  | .stW x1 x2 x3 x4 => Sys2Proof.Machine.execStW x1 x2 x3 x4 s
  | .stD x1 x2 x3 x4 => Sys2Proof.Machine.execStD x1 x2 x3 x4 s
  | .beq x1 x2 x3 => Sys2Proof.Machine.execBeq x1 x2 x3 s
  | .bne x1 x2 x3 => Sys2Proof.Machine.execBne x1 x2 x3 s
  | .blt x1 x2 x3 => Sys2Proof.Machine.execBlt x1 x2 x3 s
  | .bge x1 x2 x3 => Sys2Proof.Machine.execBge x1 x2 x3 s
  | .bltu x1 x2 x3 => Sys2Proof.Machine.execBltu x1 x2 x3 s
  | .bgeu x1 x2 x3 => Sys2Proof.Machine.execBgeu x1 x2 x3 s
  | .jal x1 x2 => Sys2Proof.Machine.execJal x1 x2 s
  | .jalr x1 x2 x3 x4 => Sys2Proof.Machine.execJalr x1 x2 x3 x4 s
  | .loop x1 x2 => Sys2Proof.Machine.execLoop x1 x2 s
  | .loopv x1 x2 => Sys2Proof.Machine.execLoopv x1 x2 s
  | .bkany x1 x2 => Sys2Proof.Machine.execBkany x1 x2 s
  | .bknone x1 x2 => Sys2Proof.Machine.execBknone x1 x2 s
  | .bkall x1 x2 => Sys2Proof.Machine.execBkall x1 x2 s
  | .setvl x1 x2 x3 => Sys2Proof.Machine.execSetvl x1 x2 x3 s
  | .vadd x1 x2 x3 => Sys2Proof.Machine.execVadd x1 x2 x3 s
  | .vsub x1 x2 x3 => Sys2Proof.Machine.execVsub x1 x2 x3 s
  | .vmul x1 x2 x3 => Sys2Proof.Machine.execVmul x1 x2 x3 s
  | .vmin x1 x2 x3 => Sys2Proof.Machine.execVmin x1 x2 x3 s
  | .vmax x1 x2 x3 => Sys2Proof.Machine.execVmax x1 x2 x3 s
  | .vdiv x1 x2 x3 => Sys2Proof.Machine.execVdiv x1 x2 x3 s
  | .vfma x1 x2 x3 => Sys2Proof.Machine.execVfma x1 x2 x3 s
  | .vfms x1 x2 x3 => Sys2Proof.Machine.execVfms x1 x2 x3 s
  | .vabs x1 x2 => Sys2Proof.Machine.execVabs x1 x2 s
  | .vneg x1 x2 => Sys2Proof.Machine.execVneg x1 x2 s
  | .vsqrt x1 x2 => Sys2Proof.Machine.execVsqrt x1 x2 s
  | .vrcp x1 x2 => Sys2Proof.Machine.execVrcp x1 x2 s
  | .vrsqrt x1 x2 => Sys2Proof.Machine.execVrsqrt x1 x2 s
  | .vexp2 x1 x2 => Sys2Proof.Machine.execVexp2 x1 x2 s
  | .vexp x1 x2 => Sys2Proof.Machine.execVexp x1 x2 s
  | .vln2 x1 x2 => Sys2Proof.Machine.execVln2 x1 x2 s
  | .vand x1 x2 x3 => Sys2Proof.Machine.execVand x1 x2 x3 s
  | .vor x1 x2 x3 => Sys2Proof.Machine.execVor x1 x2 x3 s
  | .vxor x1 x2 x3 => Sys2Proof.Machine.execVxor x1 x2 x3 s
  | .vsll x1 x2 x3 => Sys2Proof.Machine.execVsll x1 x2 x3 s
  | .vsrl x1 x2 x3 => Sys2Proof.Machine.execVsrl x1 x2 x3 s
  | .vsra x1 x2 x3 => Sys2Proof.Machine.execVsra x1 x2 x3 s
  | .vcmp x1 x2 x3 x4 => Sys2Proof.Machine.execVcmp x1 x2 x3 x4 s
  | .kand x1 x2 x3 => Sys2Proof.Machine.execKand x1 x2 x3 s
  | .kor x1 x2 x3 => Sys2Proof.Machine.execKor x1 x2 x3 s
  | .kxor x1 x2 x3 => Sys2Proof.Machine.execKxor x1 x2 x3 s
  | .knot x1 x2 => Sys2Proof.Machine.execKnot x1 x2 s
  | .kpop x1 x2 => Sys2Proof.Machine.execKpop x1 x2 s
  | .kfirst x1 x2 => Sys2Proof.Machine.execKfirst x1 x2 s
  | .vcompress x1 x2 x3 => Sys2Proof.Machine.execVcompress x1 x2 x3 s
  | .vexpand x1 x2 x3 => Sys2Proof.Machine.execVexpand x1 x2 x3 s
  | .viota x1 x2 => Sys2Proof.Machine.execViota x1 x2 s
  | .vid x1 => Sys2Proof.Machine.execVid x1 s
  | .vscan x1 x2 x3 => Sys2Proof.Machine.execVscan x1 x2 x3 s
  | .vslideup x1 x2 x3 => Sys2Proof.Machine.execVslideup x1 x2 x3 s
  | .vslidedn x1 x2 x3 => Sys2Proof.Machine.execVslidedn x1 x2 x3 s
  | .vperm x1 x2 x3 => Sys2Proof.Machine.execVperm x1 x2 x3 s
  | .vbcast x1 x2 => Sys2Proof.Machine.execVbcast x1 x2 s
  | .vmvsToScalar x1 x2 => Sys2Proof.Machine.execVmvsToScalar x1 x2 s
  | .vmvsToVector x1 x2 => Sys2Proof.Machine.execVmvsToVector x1 x2 s
  | .vmerge x1 x2 x3 => Sys2Proof.Machine.execVmerge x1 x2 x3 s
  | .vredsum x1 x2 x3 => Sys2Proof.Machine.execVredsum x1 x2 x3 s
  | .vredmax x1 x2 x3 => Sys2Proof.Machine.execVredmax x1 x2 x3 s
  | .vredmin x1 x2 x3 => Sys2Proof.Machine.execVredmin x1 x2 x3 s
  | .vsegred x1 x2 x3 => Sys2Proof.Machine.execVsegred x1 x2 x3 s
  | .vcvt x1 x2 x3 => Sys2Proof.Machine.execVcvt x1 x2 x3 s
  | .vld x1 x2 x3 x4 x5 x6 => Sys2Proof.Machine.execVld x1 x2 x3 x4 x5 x6 s
  | .vst x1 x2 x3 x4 x5 x6 => Sys2Proof.Machine.execVst x1 x2 x3 x4 x5 x6 s
  | .vldx x1 x2 x3 x4 x5 => Sys2Proof.Machine.execVldx x1 x2 x3 x4 x5 s
  | .vstx x1 x2 x3 x4 x5 => Sys2Proof.Machine.execVstx x1 x2 x3 x4 x5 s
  | .vldsc x1 x2 x3 => Sys2Proof.Machine.execVldsc x1 x2 x3 s
  | .vpref x1 x2 x3 x4 x5 => Sys2Proof.Machine.execVpref x1 x2 x3 x4 x5 s
  | .vldk x1 x2 x3 x4 => Sys2Proof.Machine.execVldk x1 x2 x3 x4 s
  | .vstk x1 x2 x3 x4 => Sys2Proof.Machine.execVstk x1 x2 x3 x4 s
  | .amoaddW x1 x2 x3 x4 x5 x6 x7 => Sys2Proof.Machine.execAmoaddW x1 x2 x3 x4 x5 x6 x7 s
  | .amominW x1 x2 x3 x4 x5 x6 x7 => Sys2Proof.Machine.execAmominW x1 x2 x3 x4 x5 x6 x7 s
  | .amomaxW x1 x2 x3 x4 x5 x6 x7 => Sys2Proof.Machine.execAmomaxW x1 x2 x3 x4 x5 x6 x7 s
  | .amoandW x1 x2 x3 x4 x5 x6 x7 => Sys2Proof.Machine.execAmoandW x1 x2 x3 x4 x5 x6 x7 s
  | .amoorW x1 x2 x3 x4 x5 x6 x7 => Sys2Proof.Machine.execAmoorW x1 x2 x3 x4 x5 x6 x7 s
  | .amoswpW x1 x2 x3 x4 x5 x6 x7 => Sys2Proof.Machine.execAmoswpW x1 x2 x3 x4 x5 x6 x7 s
  | .amocasW x1 x2 x3 x4 x5 x6 x7 => Sys2Proof.Machine.execAmocasW x1 x2 x3 x4 x5 x6 x7 s
  | .amoaddD x1 x2 x3 x4 x5 x6 x7 => Sys2Proof.Machine.execAmoaddD x1 x2 x3 x4 x5 x6 x7 s
  | .amominD x1 x2 x3 x4 x5 x6 x7 => Sys2Proof.Machine.execAmominD x1 x2 x3 x4 x5 x6 x7 s
  | .amomaxD x1 x2 x3 x4 x5 x6 x7 => Sys2Proof.Machine.execAmomaxD x1 x2 x3 x4 x5 x6 x7 s
  | .amoandD x1 x2 x3 x4 x5 x6 x7 => Sys2Proof.Machine.execAmoandD x1 x2 x3 x4 x5 x6 x7 s
  | .amoorD x1 x2 x3 x4 x5 x6 x7 => Sys2Proof.Machine.execAmoorD x1 x2 x3 x4 x5 x6 x7 s
  | .amoswpD x1 x2 x3 x4 x5 x6 x7 => Sys2Proof.Machine.execAmoswpD x1 x2 x3 x4 x5 x6 x7 s
  | .amocasD x1 x2 x3 x4 x5 x6 x7 => Sys2Proof.Machine.execAmocasD x1 x2 x3 x4 x5 x6 x7 s
  | .amonib x1 x2 x3 x4 x5 x6 x7 x8 => Sys2Proof.Machine.execAmonib x1 x2 x3 x4 x5 x6 x7 x8 s
  | .vamoadd x1 x2 x3 x4 x5 x6 x7 => Sys2Proof.Machine.execVamoadd x1 x2 x3 x4 x5 x6 x7 s
  | .phase x1 => Sys2Proof.Machine.execPhase x1 s
  | .fence x1 => Sys2Proof.Machine.execFence x1 s
  | .mopaB x1 x2 x3 => Sys2Proof.Machine.execMopaB x1 x2 x3 s
  | .mopaF x1 x2 x3 => Sys2Proof.Machine.execMopaF x1 x2 x3 s
  | .mopsB x1 x2 x3 => Sys2Proof.Machine.execMopsB x1 x2 x3 s
  | .mopsF x1 x2 x3 => Sys2Proof.Machine.execMopsF x1 x2 x3 s
  | .mmas x1 x2 x3 => Sys2Proof.Machine.execMmas x1 x2 x3 s
  | .mzero x1 => Sys2Proof.Machine.execMzero x1 s
  | .mmov x1 x2 x3 => Sys2Proof.Machine.execMmov x1 x2 x3 s
  | .mdead x1 => Sys2Proof.Machine.execMdead x1 s
  | .mpref x1 => Sys2Proof.Machine.execMpref x1 s
  | .mflush x1 => Sys2Proof.Machine.execMflush x1 s
  | .mflushall => Sys2Proof.Machine.execMflushall s
  | .mld x1 x2 x3 x4 x5 => Sys2Proof.Machine.execMld x1 x2 x3 x4 x5 s
  | .mst x1 x2 x3 x4 x5 x6 => Sys2Proof.Machine.execMst x1 x2 x3 x4 x5 x6 s
  | .mrow x1 x2 x3 x4 => Sys2Proof.Machine.execMrow x1 x2 x3 x4 s
  | .mcol4 x1 x2 x3 x4 => Sys2Proof.Machine.execMcol4 x1 x2 x3 x4 s
  | .mwrow x1 x2 x3 => Sys2Proof.Machine.execMwrow x1 x2 x3 s
  | .mstat x1 x2 => Sys2Proof.Machine.execMstat x1 x2 s
  | .setvlr x1 x2 x3 x4 x5 => Sys2Proof.Machine.execSetvlr x1 x2 x3 x4 x5 s
  | .atsc x1 x2 x3 => Sys2Proof.Machine.execAtsc x1 x2 x3 s
  | .atscBias x1 x2 x3 x4 => Sys2Proof.Machine.execAtscBias x1 x2 x3 x4 s
  | .atex x1 => Sys2Proof.Machine.execAtex x1 s
  | .atac x1 x2 x3 x4 => Sys2Proof.Machine.execAtac x1 x2 x3 x4 s
  | .osget x1 x2 x3 => Sys2Proof.Machine.execOsget x1 x2 x3 s
  | .osput x1 x2 x3 => Sys2Proof.Machine.execOsput x1 x2 x3 s
  | .oszero x1 x2 => Sys2Proof.Machine.execOszero x1 x2 s
  | .vtopk x1 x2 x3 => Sys2Proof.Machine.execVtopk x1 x2 x3 s
  | .tmatch x1 x2 x3 => Sys2Proof.Machine.execTmatch x1 x2 x3 s
  | .tmerge x1 x2 x3 x4 => Sys2Proof.Machine.execTmerge x1 x2 x3 x4 s
  | .tunmrg x1 x2 x3 x4 => Sys2Proof.Machine.execTunmrg x1 x2 x3 x4 s
  | .hld x1 x2 x3 x4 => Sys2Proof.Machine.execHld x1 x2 x3 x4 s
  | .hst x1 x2 x3 x4 => Sys2Proof.Machine.execHst x1 x2 x3 x4 s
  | .ldh x1 x2 x3 => Sys2Proof.Machine.execLdh x1 x2 x3 s
  | .sth x1 x2 x3 => Sys2Proof.Machine.execSth x1 x2 x3 s
  | .hcas x1 x2 x3 => Sys2Proof.Machine.execHcas x1 x2 x3 s
  | .vldh x1 x2 x3 x4 => Sys2Proof.Machine.execVldh x1 x2 x3 x4 s
  | .vsth x1 x2 x3 x4 => Sys2Proof.Machine.execVsth x1 x2 x3 x4 s
  | .hpin x1 x2 => Sys2Proof.Machine.execHpin x1 x2 s
  | .hunpin x1 => Sys2Proof.Machine.execHunpin x1 s
  | .hheal x1 => Sys2Proof.Machine.execHheal x1 s
  | .hcmp x1 x2 x3 => Sys2Proof.Machine.execHcmp x1 x2 x3 s
  | .hallocImmediate x1 x2 => Sys2Proof.Machine.execHallocImmediate x1 x2 s
  | .hallocRegister x1 x2 => Sys2Proof.Machine.execHallocRegister x1 x2 s
  | .hnul x1 x2 => Sys2Proof.Machine.execHnul x1 x2 s
  | .hnulN x1 x2 => Sys2Proof.Machine.execHnulN x1 x2 s
  | .heapStoreResume => Sys2Proof.Machine.execHeapStoreResume s
  | .cpy x1 x2 => Sys2Proof.Machine.execCpy x1 x2 s
  | .cpym x1 x2 => Sys2Proof.Machine.execCpym x1 x2 s
  | .cgath x1 x2 => Sys2Proof.Machine.execCgath x1 x2 s
  | .reloc x1 x2 => Sys2Proof.Machine.execReloc x1 x2 s
  | .sarm x1 => Sys2Proof.Machine.execSarm x1 s
  | .swait x1 x2 => Sys2Proof.Machine.execSwait x1 x2 s
  | .swaitReturn => Sys2Proof.Machine.execSwaitReturn s
  | .bar => Sys2Proof.Machine.execBar s
  | .barDeparture => Sys2Proof.Machine.execBarDeparture s
  | .spawn x1 x2 => Sys2Proof.Machine.execSpawn x1 x2 s
  | .spawnAppend => Sys2Proof.Machine.execSpawnAppend s
  | .endThread => Sys2Proof.Machine.execEndThread s
  | .endRelease => Sys2Proof.Machine.execEndRelease s
  | .msend x1 x2 x3 x4 => Sys2Proof.Machine.execMsend x1 x2 x3 x4 s
  | .msendm x1 x2 x3 x4 => Sys2Proof.Machine.execMsendm x1 x2 x3 x4 s
  | .mrecv x1 x2 => Sys2Proof.Machine.execMrecv x1 x2 s
  | .mrecvBind => Sys2Proof.Machine.execMrecvBind s
  | .getc x1 x2 => Sys2Proof.Machine.execGetc x1 x2 s
  | .putc x1 x2 => Sys2Proof.Machine.execPutc x1 x2 s
  | .eret => Sys2Proof.Machine.execEret s
  | .wait => Sys2Proof.Machine.execWait s
  | .trap x1 => Sys2Proof.Machine.execTrap x1 s
  | .fencei => Sys2Proof.Machine.execFencei s
  | .idle => Sys2Proof.Machine.execIdle s
  | .brk => Sys2Proof.Machine.execBrk s
  | .msplitWrite x1 => Sys2Proof.Machine.execMsplitWrite x1 s
  | .mapbaseWrite x1 => Sys2Proof.Machine.execMapbaseWrite x1 s
  | .lanepartWrite x1 => Sys2Proof.Machine.execLanepartWrite x1 s
  | .lcntWrite x1 x2 => Sys2Proof.Machine.execLcntWrite x1 x2 s
  | .lbegLendWrite x1 x2 x3 => Sys2Proof.Machine.execLbegLendWrite x1 x2 x3 s
  | .ldepthWrite x1 => Sys2Proof.Machine.execLdepthWrite x1 s
  | .doorbell x1 x2 => Sys2Proof.Machine.execDoorbell x1 x2 s
  | .queueEnable x1 => Sys2Proof.Machine.execQueueEnable x1 s
  | .queueClose x1 => Sys2Proof.Machine.execQueueClose x1 s
  | .dispatchDecision x1 => Sys2Proof.Machine.execDispatchDecision x1 s
  | .laneReclaimTimeout x1 => Sys2Proof.Machine.execLaneReclaimTimeout x1 s
  | .replyAbandonment x1 x2 => Sys2Proof.Machine.execReplyAbandonment x1 x2 s
  | .remoteAccess x1 => Sys2Proof.Machine.execRemoteAccess x1 s
  | .linkFailure x1 => Sys2Proof.Machine.execLinkFailure x1 s
  | .laneFailure x1 => Sys2Proof.Machine.execLaneFailure x1 s
  | .faultQueuePost => Sys2Proof.Machine.execFaultQueuePost s
  | .singleStepTrap => Sys2Proof.Machine.execSingleStepTrap s
  | .halt x1 => Sys2Proof.Machine.execHalt x1 s
  | .debugTableReread x1 => Sys2Proof.Machine.execDebugTableReread x1 s
  | .hostCxlMemRead x1 x2 => Sys2Proof.Machine.execHostCxlMemRead x1 x2 s
  | .hostCxlMemWrite x1 x2 => Sys2Proof.Machine.execHostCxlMemWrite x1 x2 s
  | .identify => Sys2Proof.Machine.execIdentify s
  | .getEventRecords x1 => Sys2Proof.Machine.execGetEventRecords x1 s
  | .clearEventRecords x1 => Sys2Proof.Machine.execClearEventRecords x1 s
  | .getTimestamp => Sys2Proof.Machine.execGetTimestamp s
  | .setTimestamp x1 => Sys2Proof.Machine.execSetTimestamp x1 s
  | .transferFw x1 => Sys2Proof.Machine.execTransferFw x1 s
  | .activateFw => Sys2Proof.Machine.execActivateFw s
  | .getLog => Sys2Proof.Machine.execGetLog s
  | .setAstbase x1 => Sys2Proof.Machine.execSetAstbase x1 s
  | .setQtbase x1 => Sys2Proof.Machine.execSetQtbase x1 s
  | .setFqbase x1 => Sys2Proof.Machine.execSetFqbase x1 s
  | .setFrames x1 x2 => Sys2Proof.Machine.execSetFrames x1 x2 s
  | .setMbtbase x1 => Sys2Proof.Machine.execSetMbtbase x1 s
  | .setDthr x1 => Sys2Proof.Machine.execSetDthr x1 s
  | .shootdown x1 x2 x3 => Sys2Proof.Machine.execShootdown x1 x2 x3 s
  | .pageExpand x1 => Sys2Proof.Machine.execPageExpand x1 s
  | .backgroundCommandComplete => Sys2Proof.Machine.execBackgroundCommandComplete s
  | .packResume x1 => Sys2Proof.Machine.execPackResume x1 s
  | .packAbort x1 => Sys2Proof.Machine.execPackAbort x1 s
  | .packAdopt x1 x2 => Sys2Proof.Machine.execPackAdopt x1 x2 s
  | .cmdResume x1 x2 => Sys2Proof.Machine.execCmdResume x1 x2 s
  | .cmdAbort x1 x2 => Sys2Proof.Machine.execCmdAbort x1 x2 s
  | .setPstate x1 => Sys2Proof.Machine.execSetPstate x1 s
  | .clockChange => Sys2Proof.Machine.execClockChange s
  | .corePark x1 x2 => Sys2Proof.Machine.execCorePark x1 x2 s
  | .coreUnpark x1 x2 => Sys2Proof.Machine.execCoreUnpark x1 x2 s
  | .hbmSrEnter x1 => Sys2Proof.Machine.execHbmSrEnter x1 s
  | .hbmSrExit x1 => Sys2Proof.Machine.execHbmSrExit x1 s
  | .hbmWake x1 => Sys2Proof.Machine.execHbmWake x1 s
  | .setDbgbase x1 => Sys2Proof.Machine.execSetDbgbase x1 s
  | .warmReset x1 => Sys2Proof.Machine.execWarmReset x1 s
  | .coldReset => Sys2Proof.Machine.execColdReset s
  | .functionLevelReset => Sys2Proof.Machine.execFunctionLevelReset s
  | .getCertificate => Sys2Proof.Machine.execGetCertificate s
  | .challenge x1 => Sys2Proof.Machine.execChallenge x1 s
  | .getMeasurements => Sys2Proof.Machine.execGetMeasurements s
  | .tallowUpdate x1 => Sys2Proof.Machine.execTallowUpdate x1 s
  | .thermalStepDown x1 => Sys2Proof.Machine.execThermalStepDown x1 s
  | .thermalRepeatStep x1 => Sys2Proof.Machine.execThermalRepeatStep x1 s
  | .thermalStepUp => Sys2Proof.Machine.execThermalStepUp s
  | .thermalTrip x1 => Sys2Proof.Machine.execThermalTrip x1 s
  | .refreshRateChange x1 x2 => Sys2Proof.Machine.execRefreshRateChange x1 x2 s
  | .coreRetirement x1 x2 => Sys2Proof.Machine.execCoreRetirement x1 x2 s
  | .bondLaneRepair x1 x2 => Sys2Proof.Machine.execBondLaneRepair x1 x2 s
  | .memoryReply x1 => Sys2Proof.Machine.execMemoryReply x1 s
  | .cacheEviction x1 => Sys2Proof.Machine.execCacheEviction x1 s
  | .uncorrectableError x1 => Sys2Proof.Machine.execUncorrectableError x1 s
  | .migration x1 x2 => Sys2Proof.Machine.execMigration x1 x2 s
  | .portFence x1 => Sys2Proof.Machine.execPortFence x1 s
  | .ideKeyProgramming x1 => Sys2Proof.Machine.execIdeKeyProgramming x1 s

end Sys2Proof.Machine
end

