-- ==== Sys2Proof/Machine/Conclude.lean ====
section
/-! DEFINITION. What surrounds an execution of an instruction: breakpoints, watches, single-step, trace and log (13 R362; 16
R397-R415). -/

namespace Sys2Proof.Machine

/-- A thread has run under this root since the last shootdown in its address space. -/
def rootNoted (r : Word) : List Past → Bool
  | [] => false
  | .root g :: l => g == r || rootNoted r l
  | .shot k .. :: l => k != fld r 52 12 && rootNoted r l
  | .word .. :: l => rootNoted r l

/-- The roots that threads run under are in use from now on (R344). -/
def noteRoots (s : State) : State :=
  { s with past := ((threads s).map (·.ctl.pgroot)).foldl (fun l r => if rootNoted r l then l else .root r :: l) s.past }

/-- Each step begins with no trap and no stop noted, with every unit's bytes in the arrangement of its latest store (R343), and with its
translations still to be chosen (R345). -/
def settle (s : State) : State :=
  let f (t : Thread) : Thread := { t with trapped := false, cut := none }
  let s := noteRoots (settleUnits s)
  { s with cur := f s.cur, others := s.others.map f, walkTick := s.tick }

-- breakpoints (R404-R407, R410)

/-- Entries that concern the instruction the thread is about to issue, without the one an ERET passes over. -/
def dueBrks (s : State) : List (Nat × Brk) :=
  let t := s.cur
  if inSup t || t.grp.isSome then []
  else (brks s t).filter fun (k, b) => b.type != 2 && t.brkSkip != some k

/-- The TYPE 1 entry at one of these addresses with the lowest index (R406). -/
def pcBrk (s : State) (at' : List Word) : Option Nat :=
  ((dueBrks s).find? fun (_, b) => b.type == 1 && at'.contains b.addr).map (·.1)

/-- Element `e` of an instruction is one it reaches (R407): the governing mask has no part in MMAS, MLD, MST and VLDSC, nor in the
mask and merge instructions that take every element. -/
def reaches (i : Instr) (t : Thread) (e : Nat) : Bool :=
  let (lo, n) := extentOf i t
  decide (lo ≤ e) && decide (e < n) && match i with
    | .mmas .. | .mld .. | .mst .. | .vldsc .. | .vldk .. | .vstk .. | .vmerge .. | .kand .. | .kor .. | .kxor .. | .knot ..
    | .kpop .. | .kfirst .. | .vmvsToScalar .. | .vmvsToVector .. => true
    | _ => governed t e

/-- Addresses at which an entry concerns the instruction: those of the whole group for an ATSC (R226, R232, R407; log entry 37). -/
def brkSpan (i : Instr) (pc : Word) : List Word :=
  match i with
  | .atsc .. | .atscBias .. => [pc, pc + 4, pc + 8]
  | _ => [pc]

/-- The TYPE 3 entry that the instruction meets first: the lowest element, then the lowest index (R407, R411). -/
def elemBrk (i : Instr) (s : State) : Option (Nat × Nat) :=
  ((dueBrks s).filter fun (_, b) => b.type == 3 && (brkSpan i s.cur.pc).contains b.addr && reaches i s.cur b.elem).foldl
    (fun best (k, b) => match best with
      | some (_, e) => if b.elem < e then some (k, b.elem) else best
      | none => some (k, b.elem)) none

/-- The trap of entry `k` (R406, R407). -/
def brkInfo (k : Nat) : TrapInfo := ⟨cBRKPT, BitVec.ofNat 64 k, 0⟩

-- after an instruction (R362, R408, R411)

/-- The lowest byte that a TYPE 2 entry watches and the instruction accessed (R408); `hi` bounds the elements performed. -/
def watchHit (i : Instr) (s0 : State) (hi : Nat) : Option Nat :=
  let ws := (brks s0 s0.cur).filter fun (_, b) => b.type == 2
  if ws.isEmpty then none
  else
    let l := (accessesOf i s0 ++ syncAcc i s0).filter fun x => x.e == 0 || decide (x.e < hi)
    (ws.flatMap fun (_, b) => l.filterMap fun x =>
      if (x.load && b.acc % 2 == 1) || (x.store && decide (2 ≤ b.acc)) then lowestIn b.addr b.len x else none).min?

/-- Commands an instruction of the thread had accepted (R295). -/
def startedCmds (s0 s : State) : List (BitVec 32) :=
  let a := (settOf s0 s0.cur.sett).nextCmd
  if (settOf s s0.cur.sett).nextCmd = a then [] else [a]

/-- The TRAPIN marker and log of a trap that was delivered (R400, R414), taken by instruction `seq` (R415). -/
def tracedTrap (seq : Nat) (s : State) : State := if s.cur.trapped && s.cur.parking.isNone then traceTrap seq s else s

/-- WATCH at its lowest byte, else STEP, after an instruction that completed in user mode (R362, R408, R411). The members of an
attention group are one instruction for STEP (R232). -/
def watchOrStep (s0 : State) (hit : Option Nat) (seq : Nat) (s : State) : State :=
  if inSup s0.cur then s
  else match hit with
    | some a => tracedTrap seq (trapBetween s.cur.pc ⟨cWATCH, BitVec.ofNat 64 a, 0⟩ s)
    | none =>
      if wbit s0.cur.ctl.estat 3 && s.cur.grp.isNone then
        modT (fun t => { t with stepDue := some (s0.cur.sett, startedCmds s0 s) }) s
      else s

/-- The trap a thread has taken is the one of a LOOPV back-edge that finds VL = 0, after its instruction completed (R128). -/
def backEdgeTrap (t : Thread) : Bool := t.trapped && t.ctl.ecause == BitVec.ofNat 64 cLOOP && t.ctl.eval == 6

/-- Trace and log of an instruction that led from `s0` to `s` and ended so; `chain`: a later member of a chain group. -/
def recorded (i : Instr) (s0 : State) (e : Ending) (chain : Bool) (s : State) : State :=
  traceIssue i s0 s.cur e chain (logIssue i s0 (endOf i s0 s.cur e) e s)

/-- Bytes of memory that were stored to between two states. -/
def writtenSince (s0 s : State) : List Loc := (s.written.take (s.written.length - s0.written.length)).map fun c => .phys c.1

/-- The backing bytes that the FILLs begun between two states read (R200); a FILL of MMOV's destination reads its source (R219). -/
def fillPlaces (i : Instr) (s0 s : State) : List Loc :=
  let t := s.cur
  let cid := cidOf t
  (((coreOf s cid).xfers.drop (coreOf s0 cid).xfers.length).filter (!·.spill)).flatMap fun x =>
    let r := x.info.toNat / 2 ^ 19 % 2 ^ 9
    let src : Nat := match i with
      | .mmov m n _ => if m.val = r then n.val else r
      | _ => r
    (match backPlaces s0 false t.ctl.pgroot (backAddr t src) with
    | .ok ls => ls
    | .error _ => []) ++ tableReads s0 t.ctl.pgroot (backAddr t src) Config.slotBytes

/-- What the sequencer reads for a record that finishes: its join block, the successor where the count runs out, and the words of page
tables for them and for the completion word (R322, R323). -/
def joinPlaces (s : State) (r : Source) : List Loc :=
  (if r.done = 0 then [] else tableReads s r.pgroot r.done 8) ++
  if r.join = 0 then []
  else tableReads s r.pgroot r.join 16 ++ match seqLocs s r.pgroot r.join 16 true with
    | none => []
    | some ls => ls ++ if seqRead s (ls.take 4) = 1 then
        let a : Word := BitVec.ofNat 64 (seqRead s (ls.drop 8))
        tableReads s r.pgroot a 64 ++ (seqLocs s r.pgroot a 64 false).getD []
      else []

/-- What the barrier reads for an instruction that led from `s0` to `s` (R247, R265). -/
def barrierReads (i : Instr) (s0 s : State) : List Loc :=
  let t := s.cur
  let e : Ending := if t.trapped && !backEdgeTrap t then .trapped (fld t.ctl.ecause 0 8) else .done
  let arg : Nat := match i with
    | .tmatch _ a _ => (rs 0 s0 a).toNat
    | _ => 0
  if !pastChecks i s0.cur arg e then []
  else refReads s0 (e == .done) (logSteps i s0 s 0 e) ++ match i with
    | .hallocImmediate .. | .hallocRegister .. =>
      let b := refAddr s0.cur.ctl.habuf
      if inManaged b then physLocs (regionPa s0.cur.ctl.hreg ((b - Config.wbase) / 2 ^ 30)) 16 else []
    | _ => []

/-- What an instruction reads that is no access of a thread (R408): the record of a SPAWN, and what its pack's END reads. -/
def besidesReads (i : Instr) (s0 s : State) : List Loc :=
  match i with
  | .spawn a _ => accPlaces s0 ⟨0, rs 0 s0 a, 64, true, false⟩
  | .endThread => match packOf s0 s0.cur.pack with
    | some p => if (packOf s p.id).isNone then joinPlaces s0 p.src else tableReads s0 p.src.pgroot p.src.done 8
    | none => []
  | _ => []

/-- What the fetch of an instruction reads, the members of a group with its ATSC (R226), and the words of page tables for it. -/
def fetchReads (i : Instr) (s : State) : List Loc :=
  let n := match i with
    | .atsc .. | .atscBias .. => 12
    | _ => 4
  let t := s.cur
  tableReads s t.ctl.pgroot t.pc n ++ match xlatN s t t.pc n .fetch with
    | .ok (ls, _) => ls
    | .error _ => []

/-- An instruction's accesses wake the stacks they reach (R456): its fetch, its loads and stores with the words of page tables that their
walks read, what the barrier reads for its references, and all that it has written, filled or read elsewhere. -/
def wakeStacks (i : Instr) (s0 s : State) : State :=
  if s.pkg.selfRefresh.isEmpty then s
  else wakeLocs (fetchReads i s0 ++ (accessesOf i s0).flatMap (fun x => tableReads s0 s0.cur.ctl.pgroot x.addr x.bytes ++ accPlaces s0 x) ++
    writtenSince s0 s ++ fillPlaces i s0 s ++ barrierReads i s0 s ++ besidesReads i s0 s) s

/-- The stores a thread has made give their 64 KiB units the arrangement of their mappings (R343, log entry 22). -/
def noteGang (i : Instr) (s0 s : State) : State :=
  ((accessesOf i s0).filter fun x => x.store && (accPlaces s0 x).any ((writtenSince s0 s).contains ·)).foldl
    (fun s x => noteStore s0 s0.cur.ctl.pgroot x.addr.toNat x.bytes s) s

/-- What follows an execution of `i` that led from `s0` to `s`: its trace records, its log, its trap's marker, WATCH and STEP.
A thread that waits has not finished; one that is stopped issues again later. -/
def concluded (i : Instr) (s0 s : State) : State :=
  let s := noteGang i s0 (wakeStacks i s0 s)
  let t0 := s0.cur
  let t1 := s.cur
  if !(t1.live && t1.frame == t0.frame) then traceIssue i s0 t0 .done false s
  else if t1.trapped && !backEdgeTrap t1 then tracedTrap t0.seq (recorded i s0 (.trapped (fld t1.ctl.ecause 0 8)) false s)
  else if t1.wait.isSome then traceEntry i s0 s
  else if t1.cut.isSome then recorded i s0 .stopped false s
  else if t1.issued == t0.issued then s
  else
    let hit := watchHit i s0 (endOf i s0 t1 .done)
    let s := recorded i s0 .done false s
    let s := match i with
      | .eret => putMarker t1 4 0 t1.pc.toNat s
      | _ => s
    if t1.trapped then tracedTrap t0.seq s else watchOrStep s0 hit t0.seq s

/-- An execution `go` of instruction `i` by the thread in focus. -/
def runAs (i : Instr) (go : State → Out) (s : State) : Out :=
  match go s with
  | .next s' => .next (concluded i s s')
  | o => o

/-- The thread in focus is to stop at element `e`. -/
def limited (e : Nat) (why : Stop) (s : State) : State := modT (fun t => { t with elim := some (e, why) }) s

/-- A stop of an instruction that has interior stop points: at the entry's element, unless a stop already asked for comes into
effect below it (R407, R409). -/
def runInside (i : Instr) (k e : Nat) (s : State) : Out :=
  let brk := runAs i (exec i) (limited e (.trap (brkInfo k)) s)
  match s.cur.elim with
  | some (g, _) =>
    if e ≤ g then brk
    else match exec i s with
      | .next s' => if s'.cur.cut.isSome then .next (concluded i s s') else brk
      | _ => brk
  | none => brk

/-- A VLDSC fails at entry `j` of the scale file: at its byte, or at a byte of its super-scale (R182). -/
def scaleFails (s : State) (b x : Word) (j : Nat) : Bool :=
  ((spanPlaces s .load b 64).drop j |>.take 1).any bad || ((spanPlaces s .load x 64).drop (j / 4 * 4) |>.take 4).any bad
where bad (y : Word × Except Bad Xlat) : Bool := match y.2 with
  | .error _ => true
  | .ok z => locFenced s z.loc || poisoned s z.loc

/-- A trap that instruction `i` takes lies at an element below `e` (R407, R411): a check made before any element does, and the fault
of an element does where the instruction takes it with no more than `e` elements. -/
def trapsBelow (i : Instr) (e : Nat) (s s' : State) : Bool :=
  let ofElement (t : Thread) : Bool := [cECC, cPFLD, cPFST, cADDR, cLINK].contains (fld t.ctl.ecause 0 8)
  if !ofElement s'.cur then true
  else match i with
    | .vldsc b _ x => (rs 1 s x).toNat % 4 != 0 || (List.range (min e 64)).any (scaleFails s (rs 0 s b) (rs 1 s x))
    | .vperm _ a b => (List.range e).any (permBad s.cur a b)
    | .vslidedn _ a b => (List.range e).any (slideBad s.cur a (rs 0 s b).toNat)
    | i => decide (0 < e) && match exec i (modT (setVl e) s) with
      | .next s2 => s2.cur.trapped && ofElement s2.cur
      | _ => false

/-- The entry of an instruction without interior stop points: it traps before the instruction, unless the instruction takes a trap
of its own below the element (R407, R411). -/
def runWhole (i : Instr) (k e : Nat) (s : State) : Out :=
  let brk := Host.Outcome.next (tracedTrap s.cur.seq (trapBetween s.cur.pc (brkInfo k) s))
  match exec i s with
  | .next s' => if s'.cur.trapped && !backEdgeTrap s'.cur && trapsBelow i e s s' then .next (concluded i s s') else brk
  | o => o

/-- A TYPE 3 entry `k` at element `e` of the instruction (R407). -/
def runBrk (i : Instr) (k e : Nat) (s : State) : Out := if stopsInside i then runInside i k e s else runWhole i k e s

end Sys2Proof.Machine
end

