-- ==== Sys2Proof/Machine/Chain.lean ====
section
/-! DEFINITION. Chain groups (06 R191, R192): the instructions that run behind a load, how far they get when one of them stops, and
the state in which the group stops. -/

namespace Sys2Proof.Machine

/-- A load that can head a chain group (R179, R191, R263): unit-stride, strided or indexed, on no page of CLASS device-io, or through a
reference, which reaches managed pages alone. -/
def headsChain (i : Instr) (s : State) : Bool :=
  let t := s.cur
  let cached (f : Fmt) (item : Nat → Item) : Bool :=
    (elemsOf s f .load item (vstartOf t) (vlOf t)).all fun x => match x.out with
      | .ok (_, cls) => cls != 3
      | .error _ => true
  match i with
  | .vld _ b f m _ x => m != .tile && cached f (vmItem s b f m x)
  | .vldx _ b f _ v => cached f (idxItem s b f v)
  | .vldh .. => true
  | _ => false

/-- What a member of a group touches, element by element: vector registers with the width of an element and whether it writes them;
bytes of memory, or a nibble of them; the sectors that it drops as it completes (R180); and mask registers of which it reads all bits
below its element. -/
structure Touch where
  regs : List (VReg × Nat × Bool) := []
  mem : List (Nat × Option Nat × List Loc) := []
  drops : List Nat := []
  prefixes : List KReg := []
  masks : List KReg := []

/-- The bytes of one element, with its number; of a four-bit format also which nibble. -/
def elemBytes (f : Fmt) (x : Elem) : Nat × Option Nat × List Loc := (x.it.e, if esz f = 4 then some x.it.nib else none, elemLocs x)

/-- The elements of a store (R191): all, where an earlier member writes the governing mask, so that any may be active. -/
def storeElems (s : State) (any' : Bool) (f : Fmt) (item : Nat → Item) : List Elem :=
  (if any' then List.range (vlOf s.cur) else actives s.cur 0 (vlOf s.cur)).map fun e => ⟨item e, itemPlaces s f .store (item e)⟩

/-- The elements of an access through a reference, where the barrier gives it an address (R263); else none. -/
def heapElems (s : State) (h : HReg) (o : BitVec 13) (f : Fmt) (u : Use) (elems : (Nat → Item) → List Elem) : List Elem :=
  match resolveT s (hreg s.cur h) u with
  | .ok _ a _ => elems (heapItem f a o)
  | _ => []

/-- What a load of these elements with hint `h` touches. -/
def loadTouch (s : State) (w : Nat) (v : VReg) (f : Fmt) (h : Hint) (l : List Elem) : Touch :=
  { regs := [(v, w, true)], mem := l.map (elemBytes f)
    drops := if h.val = 3 then touchedAt s.cur (vstartOf s.cur) ++ elemSectors l else [] }

/-- What member `i` of a new group touches (R146, R161, R169, R174, R263). -/
def touchOf (s : State) (any' : Bool) (i : Instr) : Touch :=
  let t := s.cur
  let w := sewOf t
  let at' (d : VReg) (l : List VReg) : Touch := { regs := (d, w, true) :: l.map fun r => (r, w, false) }
  match i with
  | .vld v b f m h x => loadTouch s w v f h (elemsOf s f .load (vmItem s b f m x) (vstartOf t) (vlOf t))
  | .vldx v b f h y =>
    let x := loadTouch s w v f h (elemsOf s f .load (idxItem s b f y) (vstartOf t) (vlOf t))
    { x with regs := (y, w, false) :: x.regs }
  | .vldh v h o f => loadTouch s w v f 0 (heapElems s h o f .load fun item => elemsOf s f .load item (vstartOf t) (vlOf t))
  | .vst v b f m _ x => { regs := [(v, w, false)], mem := (storeElems s any' f (vmItem s b f m x)).map (elemBytes f) }
  | .vsth v h o f => { regs := [(v, w, false)], mem := (heapElems s h o f .store (storeElems s any' f)).map (elemBytes f) }
  | .vcvt d a c => { regs := [(d, (convKinds c).1.width, true), (a, (convKinds c).2.width, false)] }
  | .vcmp k a b _ => { regs := (a :: srcVecs b).map fun r => (r, w, false), masks := [k] }
  | .viota d k => { at' d [] with prefixes := [k] }
  | .vid d | .vbcast d _ => at' d []
  | .vmerge d a b => at' d [a, b]
  | .vadd d a b | .vsub d a b | .vmul d a b | .vmin d a b | .vmax d a b | .vdiv d a b | .vfma d a b | .vfms d a b
  | .vand d a b | .vor d a b | .vxor d a b | .vsll d a b | .vsrl d a b | .vsra d a b => at' d (a :: srcVecs b)
  | .vabs d a | .vneg d a | .vsqrt d a | .vrcp d a | .vrsqrt d a | .vexp2 d a | .vexp d a | .vln2 d a => at' d [a]
  | _ => {}

/-- An element of `late` meets a higher element of `early` in a place that one of them writes, or writes in a sector that `early` drops as
it completes, so that the two are not as though `early` had completed first if both stop at an element between them (R149, R180, R191,
R192). -/
def clash (early late : Touch) : Bool :=
  early.regs.any (fun (r, w, x) => late.regs.any fun (q, v, y) => q == r && decide (w < v) && (x || y)) ||
  early.prefixes.any (late.masks.contains ·) ||
  early.mem.any (fun (e, n, ls) => late.mem.any fun (g, m, ks) =>
    decide (g < e) && (n.isNone || m.isNone || n == m) && ls.any (ks.contains ·)) ||
  late.mem.any (fun (_, _, ks) => ks.any fun l => match sectorOf l with
    | .phys k => early.drops.contains k
    | .store .. => false)

/-- A store with these elements can join: all are translated, on pages of a CLASS that `ok` admits (R179, R191). A home behind a fenced
port keeps it out. -/
def storeJoins (s : State) (ok : Nat → Bool) (l : List Elem) : Bool :=
  l.all fun y =>
    match y.out with
    | .ok (ls, cls) => ok cls && !ls.any (locFenced s)
    | .error _ => false

/-- An instruction that may follow in a chain group (R191, R263): of class E, or a unit-stride or strided store, on no page of CLASS
device-io, or one through a reference that is resolved at once, on managed pages. A group that resumes keeps its stores. -/
def joinsChain (s : State) (resumed any' : Bool) (i : Instr) : Bool :=
  match i with
  | .vcmp .. | .viota .. | .vid .. | .vbcast .. | .vmerge .. | .vcvt .. => true
  | .vst _ b f m _ x => m != .tile && (resumed || storeJoins s (· != 3) (storeElems s any' f (vmItem s b f m x)))
  | .vsth _ h o f => resumed || match resolveT s (hreg s.cur h) .store with
    | .ok _ a _ => storeJoins s (· == 1) (storeElems s any' f (heapItem f a o))
    | _ => false
  | i => decide (0x20 ≤ majorOf i) && decide (majorOf i ≤ 0x22)

/-- An instruction that writes the governing mask (R27). -/
def writesMask (t : Thread) (i : Instr) : Bool :=
  match i with
  | .vcmp k .. => kselOf t == k
  | _ => false

/-- The instructions behind the one at `pc` that may join its group, at most so many: a back-edge ends it, and for a new group a
TYPE 1 entry does, and an instruction that meets a higher element of one of those before it, `early` (R191). -/
def followers (s : State) (resumed any' : Bool) (early : List Touch) : Nat → Word → List Instr
  | 0, _ => []
  | n + 1, pc =>
    let ends := match depthOf s.cur with
      | 0 => false
      | d + 1 => lendOf s.cur d == pc
    if ends || (!resumed && (pcBrk s [pc + 4]).isSome) then []
    else match fetchAt s s.cur (pc + 4) with
      | .error _ => []
      | .ok w => match decode w with
        | .error _ => []
        | .ok i =>
          if !joinsChain s resumed any' i || (!resumed && early.any (clash · (touchOf s any' i))) then []
          else i :: followers s resumed (any' || writesMask s.cur i) (if resumed then [] else touchOf s any' i :: early) n (pc + 4)

/-- The later members of the chain group that instruction `i` heads (R191): those left of a group that resumes (R192), or as many as
the device chooses, a free choice (log entry 5); none in supervisor mode, and no new group under single-step (R358, R362) or where the
load begins above element 0, since a stop of the group below that element would perform the load's elements again. -/
def chainBehind (i : Instr) (s : State) : List Instr :=
  let t := s.cur
  if inSup t then []
  else if t.chain != 0 then if headsChain i s || joinsChain s true false i then followers s true false [] t.chain t.pc else []
  else if !headsChain i s || wbit t.ctl.estat 3 || vstartOf t != 0 then []
  else match followers s false false [touchOf s false i] 3 t.pc with
    | [] => []
    | l => l.take (Config.freeNat s.tick 70 % 4)

/-- Where a group stops: the element, the place of the member, and why. -/
structure ChainStop where
  elem : Nat
  member : Nat
  why : Stop
  deriving DecidableEq, Repr

/-- The thread goes on with the next member after one that stopped; `start` is where each member begins. -/
def nextMember (start : Nat) (s : State) : State :=
  modT (fun t => setVstart start { t with pc := t.pc + 4, cut := none, elim := none, trapped := false }) s

def ranTo (i : Instr) (s : State) : State :=
  match exec i s with
  | .next s' => s'
  | _ => s

/-- The element and trap at which member `j` would stop by itself below a bound, if it would (R192, R407). A check that a member of a
new group would fail before its elements keeps it out of the group: the answer is `none` in the outer option. -/
def memberStop (fresh : Bool) (j : Nat) (i : Instr) (bound : Option ChainStop) (s : State) : Option (Option ChainStop) :=
  let below (e : Nat) : Bool := match bound with
    | some b => decide (e < b.elem)
    | none => true
  let lim := match elemBrk i s, bound with
    | some (k, e), b => if below e then some (e, Stop.trap (brkInfo k)) else b.map fun b => (b.elem, .group)
    | none, b => b.map fun b => (b.elem, .group)
  let t := (ranTo i (modT (fun t => { t with elim := lim }) s)).cur
  if !t.trapped || backEdgeTrap t then some none
  else
    let c := fld t.ctl.ecause 0 8
    if fresh && c != cECC && c != cBRKPT then none
    else some (some ⟨vstartOf t, j, .trap ⟨c, t.ctl.eval, t.ctl.erec⟩⟩)

/-- What a member that ran from `s` to `s'` leaves of its own: of one that took its trap, its sequence number (R402) and what it wrote
to memory, since the group takes that trap once (R139, R192). -/
def leftBy (b : ChainStop) (s s' : State) : State :=
  if s'.cur.trapped && !backEdgeTrap s'.cur then
    { s with mem := s'.mem, written := s'.written, past := s'.past, plain := s'.plain, poison := s'.poison, tick := s'.tick
             cur := { s.cur with seq := s.cur.seq + 1, issued := s.cur.issued + 1 } }
  else modT (fun t => { t with cut := some (b.why == .abandon) }) s'

/-- The stop of a group (R192): the lowest element at which a member stops, the earliest member at equal elements; with the members
that take part. The entry that an ERET to the group passes over, `skip`, triggers at none of them (R410, R411). -/
def chainStop (fresh : Bool) (start : Nat) (skip : Option Nat) : Nat → List Instr → Option ChainStop → State → List Instr × Option ChainStop
  | _, [], b, _ => ([], b)
  | j, i :: l, b, s =>
    let s := modT (fun t => { t with brkSkip := skip }) s
    match memberStop fresh j i b s with
    | none => ([], b)
    | some own =>
      let b := own.orElse fun _ => b
      let s := match b with
        | some x => nextMember start (leftBy x s (ranTo i (limited x.elem .group s)))
        | none => ranTo i (modT (fun t => { t with elim := none }) s)
      let (ms, b) := chainStop fresh start skip (j + 1) l b s
      (i :: ms, b)

/-- Replies of the instruction's element `g` can be abandoned: it is a load that performs it (R193). -/
def abandons (i : Instr) (t : Thread) (g : Nat) : Bool :=
  governed t g && match i with
    | .vld .. | .vldx .. | .vldh .. => true
    | _ => false

/-- The bound that a stop already asked for sets (R192, R193): any element above the one the group is at, to which its load comes; an
abandonment that element too. -/
def askedStop (i : Instr) (s : State) : Option ChainStop :=
  match s.cur.elim with
  | some (g, why) =>
    let ahead := if why = .abandon then abandons i s.cur g && decide (vstartOf s.cur ≤ g) else decide (vstartOf s.cur < g)
    if ahead && (ranTo i (limited g .group s)).cur.cut.isSome then some ⟨g, 0, why⟩ else none
  | none => none

/-- What surrounds a member of a group that led from `s` to `s'`: the stacks it wakes (R456) and the units it is first to store to
(R343). -/
def attended (i : Instr) (s s' : State) : State := noteGang i s (wakeStacks i s s')

/-- Every member performed up to the group's stop, each recorded; `mark`: with CHAIN for all but the first (R398, R412). -/
def runMembers (b : ChainStop) (start : Nat) (mark : Bool) : Nat → List Instr → State → State
  | _, [], s => s
  | j, i :: l, s =>
    let e : Ending := match b.why with
      | .trap x => if j = b.member then .trapped x.cause else .stopped
      | _ => .stopped
    let s' := recorded i s e (mark && j != 0) (attended i s (leftBy b s (ranTo i (limited b.elem .group s))))
    if l.isEmpty then s' else runMembers b start mark (j + 1) l (nextMember start s')

/-- The group stops (R192): EPC, VSTART and the count of later members are those of one stopped instruction. -/
def chainStopped (b : ChainStop) (start : Nat) (ms : List Instr) (s : State) : State :=
  let t := s.cur
  let s := runMembers b start (!wbit t.ctl.estat 3) 0 ms s
  let s := modT (fun u => setVstart b.elem { u with pc := t.pc, chain := ms.length - 1, cut := some (b.why == .abandon), brkSkip := none }) s
  match b.why with
  | .trap x => tracedTrap (t.seq + b.member) (trapBetween t.pc x (modT (fun u => { u with cut := none }) s))
  | _ => s

/-- Every member completed, each recorded; the watch is taken after the whole group (R408). A member that a resumed group has a TYPE 1
entry at waits for that entry. -/
def chainDone : Nat → List Instr → Option Nat → State → State
  | _, [], hit, s => watchOrStep s hit (s.cur.seq - 1) s
  | j, i :: l, hit, s =>
    if j != 0 && (pcBrk s [s.cur.pc]).isSome then watchOrStep s hit (s.cur.seq - 1) s
    else
      let s' := attended i s (ranTo i (modT (fun t => { t with elim := none }) s))
      let own := watchHit i s (endOf i s s'.cur .done)
      let hit := match hit, own with
        | some a, some b => some (min a b)
        | some a, none => some a
        | none, b => b
      let s'' := recorded i s .done (j != 0) s'
      if s'.cur.trapped then tracedTrap s.cur.seq s'' else chainDone (j + 1) l hit s''

/-- A TYPE 1 entry at a later member of the group, which has no effect before it (R406). -/
def entryAhead (s : State) (n : Nat) : Bool :=
  (List.range (n - 1)).any fun j => (pcBrk s [s.cur.pc + BitVec.ofNat 64 (4 * (j + 1))]).isSome

/-- Member `i` of a group that resumes waits at the barrier: a store through a reference to an object that is being copied (R247, R263). -/
def memberWaits (s : State) (i : Instr) : Bool :=
  match i with
  | .vsth .. => (ranTo i s).cur.wait.isSome
  | _ => false

/-- A load and the later members of its chain group, in one step (R191, R192). Where no member joins the load runs `alone`; under
single-step it does unless it stops itself, since the recorded members stop with it at one element and complete each alone (R362). A
group with a TYPE 1 entry at a later member stops, where it stops, at the element it resumed from (log entry 40). A group that resumes
goes on when each of its stores can: until then it waits (R260, log entry 40). -/
def runChain (i : Instr) (l : List Instr) (alone : State → Out) (s : State) : Out :=
  let t := s.cur
  let fresh := t.chain == 0
  if !fresh && (i :: l).any (memberWaits s) then .next (waitIn i s) else
  let start := if fresh then 0 else vstartOf t
  let free := modT (fun t => { t with elim := none }) s
  let (ms, b) := chainStop fresh start t.brkSkip 0 (i :: l) (askedStop i s) free
  let stepping := wbit t.ctl.estat 3
  if (fresh && decide (ms.length ≤ 1)) || (stepping && (chainStop false start t.brkSkip 0 [i] (askedStop i s) free).2.isNone) then alone s
  else match b with
    | none => .next (chainDone 0 ms none s)
    | some b => .next (chainStopped (if !fresh && entryAhead s ms.length then { b with elem := start } else b) start ms s)

end Sys2Proof.Machine
end

