-- ==== Sys2Proof/Machine/Run.lean ====
section
/-! DEFINITION. What a thread does at its turn: the fetch, the decoder and the issue of an instruction (03 R90; 16 R411), the return
from a wait (04 R137), and which events come from outside (95). -/

namespace Sys2Proof.Machine

/-- The thread in focus issues `i` (R411). -/
def runIssue (i : Instr) (s : State) : Out :=
  let alone (s : State) : Out := match elemBrk i s with
    | some (k, e) => runBrk i k e s
    | none => runAs i (exec i) s
  match chainBehind i s with
  | [] => alone s
  | l => runChain i l alone s

/-- The thread looks again at what its instruction waits for (R137); a chain group that resumes waits before it issues (R260). -/
def runAgain (i : Instr) (s : State) : Out :=
  match i with
  | .swait .. => runAs i execSwaitReturn s
  | .bar => runAs i execBarDeparture s
  | .spawn .. => runAs i execSpawnAppend s
  | .endThread => runAs i execEndRelease s
  | .mrecv .. => runAs i execMrecvBind s
  | .wait => runAs i execWait s
  | .fencei => runAs i execFencei s
  | .mflushall => runAs i execMflushall s
  | .msend .. | .msendm .. => if s.cur.sent then .next s else runAs i (execSendReservation (.sender s.cur.frame) .waiting) s
  | i => if groupWaits s.cur then runIssue i (modT (fun t => { t with wait := none }) s) else runAs i execHeapStoreResume s

/-- The word the thread issues next: a member of a group was fetched with its ATSC (R226). -/
def nextWord (s : State) : Except TrapInfo Nat :=
  let t := s.cur
  match t.grp with
  | some p => if t.pc = p.addr + 4 then .ok p.second else if t.pc = p.addr + 8 then .ok p.third else fetchAt s t t.pc
  | none => fetchAt s t t.pc

/-- A logged thread waits while a record of its log cannot be queued (R413). -/
def logBlocked (s : State) : Bool :=
  s.cur.logged && (coreOf s (cidOf s.cur)).ring.held.any fun (f, _) => f == s.cur.frame

/-- The trap of a TYPE 1 entry at `pc`, before anything else is done for the instruction (R406, R411). -/
def runPcBrk (pc : Word) (k : Nat) (s : State) : State := tracedTrap s.cur.seq (trapBetween pc (brkInfo k) s)

/-- An ATSC heads a group of three decodable members: an entry at a later one, with its address, is taken before any of them has an
effect (R226, R232, R406; log entry 37). -/
def groupBrk (i : Instr) (s : State) : Option (Nat × Word) :=
  match i with
  | .atsc m .. | .atscBias m .. => match formGroup (wordOf i) m s with
    | .ok _ => [s.cur.pc + 4, s.cur.pc + 8].findSome? fun a => (pcBrk s [a]).map fun k => (k, a)
    | .error _ => none
  | _ => none

/-- The next instruction of the thread in focus, fetched and decoded, or what it meets in place of one (R90, R342, R411). -/
def runFetch (s : State) : Out :=
  match pcBrk s [s.cur.pc] with
  | some k => .next (runPcBrk s.cur.pc k s)
  | none => match nextWord s with
    | .error _ => runAs (.instructionFetchFault s.cur.pc) (exec (.instructionFetchFault s.cur.pc)) s
    | .ok w => match decode w with
      | .ok i => match groupBrk i s with
        | some (k, a) => .next (runPcBrk a k s)
        | none => runIssue i s
      | .error _ => runAs (.unassignedEncoding (BitVec.ofNat 32 w)) (exec (.unassignedEncoding (BitVec.ofNat 32 w))) s

/-- A trap between instructions, with its marker; `back`: it belongs to the instruction issued last (R415). -/
def traced (back : Bool) (o : Out) : Out :=
  match o with
  | .next s => .next (tracedTrap (if back then s.cur.seq - 1 else s.cur.seq) s)
  | o => o

/-- The thread in focus takes a halt (R409): at once, or, which is a free choice, where HALT has come into force while it was at this
instruction, which may have begun before, at a stop point of the instruction or after it (log entry 23). -/
def runHalt (s : State) : Out :=
  let t := s.cur
  if t.wait.isNone && (coreOf s (cidOf t)).haltNew.contains (t.frame, t.seq) && (pcBrk s [t.pc]).isNone && Config.freeBit s.tick 73 then
    match runFetch (if t.elim.isSome then s else limited (Config.freeNat s.tick 74 % 8192) .request s) with
    | .next s' => if s'.cur.trapped then .next s' else traced false (execHalt t.frame (modT (fun t => { t with elim := none }) s'))
    | o => o
  else traced false (execHalt t.frame s)

/-- A turn of the thread in focus. No thread runs while a core trip or failed firmware holds the cores (R374, R458). -/
def runCur (s : State) : Out :=
  let t := s.cur
  if !t.live || t.parking.isSome || s.pkg.tripped || s.pkg.fwfail || logBlocked s then .next s
  else if t.stepDue.isSome then traced true (execSingleStepTrap s)
  else if haltDue s t && t.grp.isNone && !t.sent then runHalt s
  else match t.wait with
    | some i => runAgain i s
    | none => runFetch s

-- events

/-- The sending thread whose instruction an event of the link concludes (R312). -/
def senderOf (i : Instr) : Option Nat :=
  match i with
  | .sendAcknowledgement tid _ => some tid
  | .sendReservation (.sender tid) _ => some tid
  | .linkFailure (.sender tid) => some tid
  | _ => none

/-- What an event reads in memory beside what it writes there: the tables and frames that the dispatcher, the sequencer, the trace, the
fault queue and the ports of merging sends look at. -/
def eventReads (i : Instr) (s : State) : List Loc :=
  let queue (q : Nat) : List Loc := if s.pkg.qt.isSome then physLocs (queueAt s q) 32 else []
  let head (q : Nat) : List Loc := if queueCount s q = 0 then [] else physLocs (recordAt s q (queueHead s q)) 64
  let space (a : Nat) : List Loc := match s.pkg.ast with
    | some b => physLocs (b + 64 * a) 64
    | none => []
  let debug (cid : Nat) : List Loc :=
    let r := (coreOf s cid).ring
    (if r.act then physLocs r.desc 64 else []) ++ match s.pkg.dbg with
      | some b => physLocs (ringDesc b cid) 64
      | none => []
  let set (a : Nat) : List Loc := match s.pkg.dbg with
    | some b => physLocs (b + 0x2000 + 256 * a) 256
    | none => []
  let frames (p : Pack) : List Loc := (p.members.filter (!·.ended)).flatMap fun m => match framePa s (m.frame * 65536) with
    | some a => physLocs a 65536
    | none => []
  let node (n : Fin 1024) (idx : BitVec 32) (x : Rec) (first : Nat → Bool) : List Loc :=
    let r := sourceOf s n idx x
    queue n ++ space (queueAsid s n) ++ joinPlaces s r ++ tableReads s r.pgroot (recWord x 1) 8 ++ match seqLocs s r.pgroot (recWord x 1) 8 false with
      | none => []
      | some ls =>
        let y := if first (seqRead s ls) then recWord x 5 else recWord x 6
        ls ++ if y = 0 then [] else tableReads s r.pgroot y 64 ++ (seqLocs s r.pgroot y 64 false).getD []
  match i with
  | .dispatchDecision _ => s.pkg.enabled.flatMap fun q => queue q ++ head q ++ space (queueAsid s q) ++ match headRecord s q with
    | some x => if queueCount s q = 0 || recWord x 4 = 0 then [] else tableReads s (sourceOf s q (queueHead s q) x).pgroot (recWord x 4) 8
    | none => []
  | .doorbell q _ | .queueEnable q | .queueClose q | .heldAppend q => queue q
  | .decideNode q idx x => node q idx x fun v => cmpHolds (fld (recWord x 0) 61 3) (BitVec.ofNat 64 v) (recWord x 2)
  | .loopNode q idx x => node q idx x (· != 1)
  | .nopNode q idx x => queue q ++ space (queueAsid s q) ++ joinPlaces s (sourceOf s q idx x)
  | .packStart p => match packOf s p with
    | some p => space p.asid ++ set p.asid ++ p.members.flatMap fun m => debug (32 * p.sett + m.core)
    | none => []
  | .contextRestore p => match packOf s p with
    | some p => frames p ++ set p.asid ++ p.members.flatMap fun m => debug (32 * p.toSett + m.toCore)
    | none => []
  | .packAdopt _ fs => fs.flatMap fun f => match framePa s (f * 65536) with
    | some a => physLocs a 65536
    | none => []
  | .faultQueuePost => match s.pkg.fq with
    | some q => physLocs q.desc 32
    | none => []
  | .setFqbase b => physLocs b.toNat 32
  | .setDbgbase _ => match s.pkg.dbg with
    | some b => physLocs b (64 * Config.coreCount)
    | none => []
  | .mergeContribution _ _ c => match s.pkg.mbt with
    | some base => physLocs (base + 8 * (c.group % 256 * 1024 + fld c.place 16 10)) 8
    | none => []
  | .traceTailWrite cid => physLocs (coreOf s cid).ring.desc 64
  | .debugTableReread cid =>
    debug cid ++ ((threads s).filter fun t => cidOf t == cid).flatMap fun t => set (asidOf t.ctl.pgroot)
  | _ => []

/-- What an event accesses in memory wakes the stacks it reaches (R456). -/
def wakeEvent (i : Instr) (s0 s : State) : State :=
  if s.pkg.selfRefresh.isEmpty then s else wakeLocs (eventReads i s0 ++ writtenSince s0 s ++ fillPlaces i s0 s) s

/-- An event takes place; one that concludes a send is the end of that instruction. -/
def runEvent (i : Instr) (s : State) : Out :=
  let go (i : Instr) (s : State) : Out := match exec i s with
    | .next s' => .next (wakeEvent i s s')
    | o => o
  match senderOf i with
  | none => traced false (go i s)
  | some tid => match focus tid s with
    | none => go i s
    | some s' => match s'.cur.wait with
      | some w => runAs w (go i) s'
      | none => go i s'

/-- The oldest work that a step has made due. -/
def runWork (s : State) : Out :=
  match s.work with
  | i :: w => if s.pkg.tripped then .next s else runEvent i { s with work := w }
  | [] => .next s

/-- An event that the surroundings may bring about (95): not an instruction of a thread, a part of one, or a step that only
its cause makes due. A pack is saved only where a save is due. After a trip nothing but a cold reset has an effect (R458). -/
def fromOutside (s : State) (i : Instr) : Bool :=
  match i with
  | .coldReset | .hostCxlMemRead .. => true
  | i => !s.pkg.tripped && match i with
    | .packSave p _ => s.work.contains (.packSave p [])
    | .packStart _ | .contextRestore _ | .mapTransferComplete _ | .heldAppend _ | .followOn _ | .engineCommandStart ..
    | .engineTranslationFault .. | .engineCommandComplete .. | .flip .. | .flipAcknowledge .. | .move .. | .tileArrival ..
    | .mergeContribution .. | .sendReservation .. | .sendAcknowledgement .. | .traceTailWrite _
    | .doorbell .. | .queueEnable _ | .queueClose _ | .dispatchDecision _ | .laneReclaimTimeout _ | .replyAbandonment ..
    | .remoteAccess _ | .linkFailure _ | .laneFailure _ | .faultQueuePost | .halt _ | .debugTableReread _
    | .hostCxlMemWrite .. | .identify | .getEventRecords _ | .clearEventRecords _ | .getTimestamp
    | .setTimestamp _ | .transferFw _ | .activateFw | .getLog | .setAstbase _ | .setQtbase _ | .setFqbase _ | .setFrames ..
    | .setMbtbase _ | .setDthr _ | .shootdown .. | .pageExpand _ | .backgroundCommandComplete | .packResume _ | .packAbort _
    | .packAdopt .. | .cmdResume .. | .cmdAbort .. | .setPstate _ | .clockChange | .corePark .. | .coreUnpark .. | .hbmSrEnter _
    | .hbmSrExit _ | .hbmWake _ | .setDbgbase _ | .warmReset _ | .functionLevelReset | .getCertificate | .challenge _
    | .getMeasurements | .tallowUpdate _ | .thermalStepDown _ | .thermalRepeatStep _ | .thermalStepUp | .thermalTrip _
    | .refreshRateChange .. | .coreRetirement .. | .bondLaneRepair .. | .memoryReply _ | .cacheEviction _
    | .uncorrectableError _ | .migration .. | .portFence _ | .ideKeyProgramming _ => true
    | _ => false

/-- A turn that no schedule assigns: the thread in focus where it can go on, else the work that is due, else another thread. -/
def runNext (s : State) : Out :=
  let t := s.cur
  if t.live && t.wait.isNone && t.parking.isNone then runCur s
  else if !s.work.isEmpty then runWork s
  else match s.others.find? (·.live) with
    | some u => match focus u.frame s with
      | some s => runCur s
      | none => runCur s
    | none => runCur s

end Sys2Proof.Machine
end

