-- ==== Sys2Proof/Machine/Step.lean ====
section
/-! DEFINITION. One step of the machine: whose turn it is, and what happens at it. The turns are the interleaving of the agents
(R198, R296, R325), data that the surroundings supply. -/

namespace Sys2Proof.Machine

/-- One step. -/
def step (s : State) : Host.Outcome State Fault Refusal :=
  match s.turns with
  | [] => runNext (settle s)
  | .thread f :: l =>
    match focus f (settle { s with turns := l }) with
    | some s => runCur s
    | none => .next (settle { s with turns := l })
  | .work :: l => runWork (settle { s with turns := l })
  | .host a :: l => hostAct a (settle { s with turns := l })
  | .event i :: l =>
    let s := settle { s with turns := l }
    if fromOutside s i then runEvent i s else .next s

/-- Where withFetchWord places its page tables and its code page. -/
def bootTable (k : Nat) : Nat := 0x10000 + 0x1000 * k

/-- The thread in focus about to fetch at address 0, under the page tables of withFetchWord. -/
def bootThread (s : State) (t : Thread) : Thread :=
  { t with
    live := true, wait := none, parking := none, grp := none, stepDue := none, elim := none, cut := none, sent := false, begun := false, chain := 0
    spawned := none
    logged := false, pc := 0
    ctl := { t.ctl with pgroot := BitVec.ofNat 64 (localPa s (bootTable 0)) } }

/-- `s` with the instruction word where step fetches next: a thread runs at address 0, its page tables map the page of
address 0, and the word lies there. It stands for the load of a program and the start of its pack (log entry 20). -/
def State.withFetchWord (s : State) (_nbits w : Nat) : State :=
  let pte (k x : Nat) (s : State) : State := wrWord (localPa s (bootTable k)) (BitVec.ofNat 64 x) s
  let s := { s with
    turns := [], work := [], poison := []
    pkg := { s.pkg with dbg := none, tripped := false, fwfail := false }
    cores := s.cores.map fun (k, c) => (k, { c with sets := [], ring := { c.ring with held := [], cutLog := false } })
    cur := bootThread s s.cur }
  let s := pte 0 (localPa s (bootTable 1) + 1) s
  let s := pte 1 (localPa s (bootTable 2) + 1) s
  let s := pte 2 (localPa s (bootTable 3) + 1) s
  let s := pte 3 (localPa s (bootTable 4) + 1) s
  let s := pte 4 (localPa s (bootTable 5) + 15) s
  { wrPhys (localPa s (bootTable 5)) 4 w s with past := [] }

end Sys2Proof.Machine
end

