-- ==== Sys2Proof/Safety.lean ====
section
/-! DEFINITION. The terms in which claims are stated: what a calm thread is, what an instruction that retires leaves behind, a
trap taken and a trap that parks, and the invariant of a state. No meaning uses these. -/

namespace Sys2Proof.Safety

open Sys2Proof.Machine

/-- No loop level of the thread ends at its PC: a handler runs, no level is active, or the innermost ends elsewhere (R128). -/
def NoEdge (t : Thread) : Prop := inSup t = true ∨ depthOf t = 0 ∨ lendOf t (depthOf t - 1) ≠ t.pc

/-- No scalar result is in flight (R114) and no loop body ends at the PC. -/
def Calm (s : State) : Prop := s.cur.pend = [] ∧ NoEdge s.cur

/-- The thread after an instruction that has completed and goes on with the next: the PC and the two counts have moved, and
the notes of the instruction that ended are gone. -/
def after (t : Thread) : Thread :=
  { t with pc := t.pc + 4, seq := t.seq + 1, issued := t.issued + 1, wait := none, elim := none, brkSkip := none }

/-- The same after an instruction that continues at `y`. -/
def afterAt (y : Word) (t : Thread) : Thread :=
  { t with pc := y, seq := t.seq + 1, issued := t.issued + 1, wait := none, elim := none, brkSkip := none }

/-- The state after an instruction whose whole effect on the thread is `f`. -/
def retired (f : Thread → Thread) (s : State) : State := { s with tick := s.tick + 1, cur := after (f s.cur) }

/-- The state after an instruction that continues at `y`. -/
def jumped (y : Word) (f : Thread → Thread) (s : State) : State := { s with tick := s.tick + 1, cur := afterAt y (f s.cur) }

/-- A scalar register's value: s0 is zero (R14). -/
def reg (s : State) (r : SReg) : Word := if r = 0 then 0 else s.cur.s[r]

/-- A scalar register written; s0 discards the write (R14). -/
def put (d : SReg) (x : Word) (t : Thread) : Thread := if d = 0 then t else { t with s := t.s.set d x }

/-- A scalar register written with latency 4: the value before is noted until three more issue slots have passed (R114). -/
def put4 (d : SReg) (w : Stall) (x : Word) (t : Thread) : Thread :=
  if d = 0 then t else { t with s := t.s.set d x, pend := [⟨d, t.s[d], w⟩] }

/-- The thread of a state replaced by `f` of it, and nothing else. -/
def onThread (f : Thread → Thread) (s : State) : State := { s with cur := f s.cur }

/-- A trap delivered at `epc` (R139): EPC (bits [56:2] of the address, R22), ECAUSE, EVAL and EREC written, PSUP from SUP, SUP set,
the PC at EVEC. -/
def entered (epc : Word) (cause : Nat) (eval erec : Word) (s : State) : State :=
  { s with
    tick := s.tick + 1
    cur := { s.cur with
      pc := vaOf s.cur.ctl.evec
      ctl := { s.cur.ctl with
        epc := wordAddr epc, ecause := BitVec.ofNat 64 cause, eval := eval, erec := erec
        estat := setFld (setFld s.cur.ctl.estat 2 1 (fld s.cur.ctl.estat 0 1)) 0 1 1 }
      pend := [], seq := s.cur.seq + 1, issued := s.cur.issued + 1, wait := none, elim := none, brkSkip := none, trapped := true } }

/-- A trap whose handler cannot be entered (R139): the trap registers alone are written and the pack is to be parked. -/
def undelivered (epc : Word) (cause : Nat) (eval erec : Word) (s : State) : State :=
  { s with
    tick := s.tick + 1
    work := s.work ++ [.packSave s.cur.pack []]
    cur := { s.cur with
      pc := vaOf epc, parking := some 2
      ctl := { s.cur.ctl with epc := wordAddr epc, ecause := BitVec.ofNat 64 cause, eval := eval, erec := erec }
      pend := [], seq := s.cur.seq + 1, issued := s.cur.issued + 1, wait := none, elim := none, brkSkip := none, trapped := true } }

/-- A trap at `epc`, delivered or not (R139); the error behind an ECC trap is counted as consumed in the thread's sett
(R451, R453). -/
def trappedAt (epc : Word) (cause : Nat) (eval erec : Word) (s : State) : State :=
  let u := if cause = 0x19 then consumedError s.cur.sett s else s
  if evecOk { u with tick := s.tick + 1 } then entered epc cause eval erec u else undelivered epc cause eval erec u

/-- A trap at the PC, delivered or not (R139). -/
def trapped (cause : Nat) (eval erec : Word) (s : State) : State := trappedAt s.cur.pc cause eval erec s

/-- 1 for a true condition, 0 for a false one. -/
def truth (p : Prop) [Decidable p] : Word := if p then 1 else 0

/-- The byte a physical address reads as. -/
def readPhys (s : State) (pa : Nat) : Byte := byteAt s (.phys pa)

/-- The memory is in its canonical form. -/
def Inv (s : State) : Prop := Memory.wf s.mem = true

-- the terms of the single statements

/-- FFLAGS with more flags set (R67). -/
def raise (g : Flags) (t : Thread) : Thread := { t with ctl := { t.ctl with fflags := t.ctl.fflags ||| g.zeroExtend 64 } }

/-- The single-precision operand of a scalar register (R51). -/
def single (s : State) (r : SReg) : F32 := (reg s r).truncate 32

/-- A pattern and its flags written with latency 4 (R114, R119). -/
def float4 (d : SReg) (w : Stall) (r : R32) (t : Thread) : Thread := raise r.2 (put4 d w (r.1.zeroExtend 64) t)
/-- The same where the result is scoreboarded. -/
def float1 (d : SReg) (r : R32) (t : Thread) : Thread := raise r.2 (put d (r.1.zeroExtend 64) t)

/-- One of two operands is no number. -/
def unordered (x y : F32) : Bool := isNan (num32 x) || isNan (num32 y)

/-- The scalar access at `a` of `n` bytes meets the places `ls`: canonical, aligned, translated, no home behind a fenced
port (R124, R339, R459). -/
def Reached (s : State) (a : Word) (n : Nat) (k : Acc) (ls : List Loc) : Prop :=
  canonical a = true ∧ a.toNat % n = 0 ∧ (∃ c, xlatN s s.cur a n k = .ok (ls, c)) ∧ (∀ l ∈ ls, locFenced s l = false)

/-- The effective address of R123. -/
def effective (s : State) (a : SReg) (i : BitVec 13) : Word := reg s a + BitVec.ofInt 64 i.toInt

/-- The scalar loads and the scalar stores of R123, each with its width in bytes. -/
def loads (d a : SReg) (i : BitVec 13) (w : Stall) : List (Nat × Instr) :=
  [(1, .ldB d a i w), (1, .ldBu d a i w), (2, .ldH d a i w), (2, .ldHu d a i w), (4, .ldW d a i w), (4, .ldWu d a i w), (8, .ldD d a i w)]
def stores (d a : SReg) (i : BitVec 13) (w : Stall) : List (Nat × Instr) :=
  [(1, .stB d a i w), (2, .stH d a i w), (4, .stW d a i w), (8, .stD d a i w)]

/-- The little-endian number that the bytes at some places make (R8). -/
def valueAt (s : State) (ls : List Loc) : Nat := ofBytes (ls.map (byteAt s))

/-- What an instruction that stores `n` bytes of `x` at `ls` leaves: the bytes hold them in order, every other byte of every
memory reads as before, and beside memory only the thread's PC and counts have moved. -/
def Stored (s t : State) (ls : List Loc) (n : Nat) (x : Nat) : Prop :=
  t.cur = after s.cur ∧ t.others = s.others ∧ t.pkg = s.pkg ∧ t.packs = s.packs ∧ t.setts = s.setts ∧ t.tick = s.tick + 1 ∧
  t.work = s.work ∧ t.turns = s.turns ∧
  ls.length = n ∧ (∀ i (h : i < ls.length), (byteAt t ls[i]).toNat = x / 256 ^ i % 256) ∧
  (∀ l, l ∉ ls → byteAt t l = byteAt s l)

/-- No loop level is active, or a handler runs: no transfer leaves a level (R132). -/
def Flat (s : State) : Prop := s.cur.pend = [] ∧ (inSup s.cur = true ∨ depthOf s.cur = 0)

/-- The target of a branch: its own address plus four times the signed offset (R125). -/
def target (s : State) (o : BitVec 15) : Word := s.cur.pc + BitVec.ofInt 64 (4 * o.toInt)

/-- Level `n` holds address `x` and not address `y` (R132). -/
def leaves (t : Thread) (n : Nat) (x y : Word) : Prop :=
  (lbegOf t n).toNat ≤ x.toNat ∧ x.toNat ≤ (lendOf t n).toNat ∧
  ¬ ((lbegOf t n).toNat ≤ y.toNat ∧ y.toNat ≤ (lendOf t n).toNat)

/-- LDEPTH set to `m` (R132); a thread that leaves no level keeps it as it is. -/
def atDepth (m : Nat) (t : Thread) : Thread :=
  if m = depthOf t then t else { t with ctl := { t.ctl with ldepth := BitVec.ofNat 64 m } }

/-- Instructions that R131 forbids at the end of a loop body and that a thread may issue in user mode. -/
def endless (a b : SReg) (o : BitVec 15) (k : KReg) (d : SReg) (p : BitVec 20) (i : BitVec 13) (w : Stall) (c : BitVec 12) (h : HReg) : List Instr :=
  [.beq a b o, .bne a b o, .blt a b o, .bge a b o, .bltu a b o, .bgeu a b o, .jal d p, .jalr d a i w, .loop a o, .loopv a o,
   .bkany k o, .bknone k o, .bkall k o, .hnul h i, .hnulN h i, .trap c]

/-- Instructions that change nothing but their thread and go on with the next word, with what each does to it: scalar arithmetic, an
o-register, the two orderings, and the heal of a null reference. -/
def straight (s : State) (d a b : SReg) (o : OReg) (h : HReg) (i : BitVec 13) (w : Stall) (c : Scope) : List (Instr × (Thread → Thread)) :=
  [(.addi d a i w, put d (reg s a + BitVec.ofInt 64 i.toInt)), (.add d a b w, put d (reg s a + reg s b)),
   (.sub d a b w, put d (reg s a - reg s b)), (.slt d a b w, put d (truth ((reg s a).slt (reg s b) = true))),
   (.oszero o w, fun t => { t with o := t.o.set o 0x00000000FF800000 }), (.phase c, id), (.fence c, id)] ++
  if s.cur.h[h] = 0 then [(.hheal h, id)] else []

/-- The streams of a LOOPV level advanced once by VL (R128). -/
def streamed (u : Thread) : Thread :=
  let stream (r : SReg) (lo : Nat) (x : Thread) : Thread :=
    put r ((if r = 0 then 0 else x.s[r]) + BitVec.ofNat 64 (vlOf u) * BitVec.ofNat 64 (fld u.ctl.ascale lo 16)) x
  stream 23 48 (stream 22 32 (stream 21 16 (stream 20 0 u)))

/-- The instruction's own word, which several traps report (R138). -/
def own (i : Instr) : Word := BitVec.ofNat 64 ((encode i).getD 0)

/-- A thread that carries out an instruction whose wait is not over (R137): it is still there at its next turn. -/
def waiting (i : Instr) (s : State) : State := { s with tick := s.tick + 1, cur := { s.cur with wait := some i } }

/-- Control registers whose write has a rule of its own: MAPBASE, MSPLIT, LANEPART, EPC and ESTAT. -/
def special : List Nat := [0x800, 0x801, 0x803, 0x102, 0x806]

/-- LBEG or LEND of a level that is active (R130). -/
def activeBound (t : Thread) (n : Nat) : Prop :=
  (0x048 ≤ n ∧ n ≤ 0x04D ∧ n - 0x048 < depthOf t) ∨ (0x050 ≤ n ∧ n ≤ 0x055 ∧ n - 0x050 < depthOf t)

/-- A write of control register `n` passes the checks of R20 and R22. -/
def Writable (s : State) (n : Nat) (x : Word) : Prop :=
  (ctlMask n).isSome = true ∧ (n < 0x100 ∨ inSup s.cur = true) ∧ ctlReadOnly s.cur n = false ∧ ctlValid n x = true ∧
  ¬ activeBound s.cur n

/-- Nothing of the thread is outstanding: no follow-on, no stopped follow-on, no map transfer (R136, R302). -/
def Drained (s : State) : Prop :=
  s.cur.fols = [] ∧ s.cur.folBad = [] ∧ (∀ x ∈ (coreOf s (cidOf s.cur)).xfers, x.frame ≠ s.cur.frame)

/-- A calm thread whose next vector instruction meets no damage, no stop and no breakpoint, is no later member of a stopped
chain group, and whose VL fits in the grant at element width `w` (R145) and in the 1,024 bytes of a register. -/
def VecReady (s : State) (w : Nat) : Prop :=
  Calm s ∧ s.cur.vbad = [] ∧ s.cur.kbad = [] ∧ s.cur.elim = none ∧ s.cur.chain = 0 ∧
  vlOf s.cur ≤ grantMax s.cur w ∧ w * vlOf s.cur ≤ 8192

/-- Element `i` is in the body: not below VSTART, below VL, and its governing bit is set (R24, R27). -/
def body (s : State) (i : Nat) : Bool := decide (vstartOf s.cur ≤ i) && decide (i < vlOf s.cur) && governed s.cur i

/-- The flags of the body's elements, ORed (R67). -/
def bodyFlags (s : State) (g : Nat → Flags) : Flags :=
  ((List.range (vlOf s.cur)).filter (body s)).foldl (fun acc i => acc ||| g i) 0

/-- What a vector instruction leaves: in v_D the elements of width `w` named by `on` hold `val`, every other element, register
and piece of state is as it was, the flags are ORed in, VSTART is 0 and the PC has moved on. The note of values a thread has held
(R33) grows by the old v_D. -/
def VecWrote (s t : State) (d : VReg) (w : Nat) (on : Nat → Bool) (val : Nat → Nat) (g : Flags) : Prop :=
  (∀ j, w * j + w ≤ 8192 → elt t.cur d w j = if on j then val j % 2 ^ w else elt s.cur d w j) ∧
  (∀ r, r ≠ d → vreg t.cur r = vreg s.cur r) ∧
  t = retired (fun u => { u with
    v := t.cur.v, vheld := (d.val, vreg s.cur d) :: u.vheld
    ctl := { u.ctl with vstart := 0, fflags := u.ctl.fflags ||| g.zeroExtend 64 } }) s

/-- The same for a mask register; k0 discards the write (R14, R16). -/
def MaskWrote (s t : State) (d : KReg) (on : Nat → Bool) (val : Nat → Bool) (g : Flags) : Prop :=
  (∀ j, j < 512 → (kreg t.cur d).getLsbD j = if d ≠ 0 ∧ on j = true then val j else (kreg s.cur d).getLsbD j) ∧
  (∀ r, r ≠ d → kreg t.cur r = kreg s.cur r) ∧
  t = retired (fun u => { u with
    k := t.cur.k, kheld := t.cur.kheld, ctl := { u.ctl with vstart := 0, fflags := u.ctl.fflags ||| g.zeroExtend 64 } }) s

/-- A vector instruction that leaves only a scalar result. -/
def scalarOut (d : SReg) (x : Word) (g : Flags) (s : State) : State :=
  retired (fun u => put d x { u with ctl := { u.ctl with vstart := 0, fflags := u.ctl.fflags ||| g.zeroExtend 64 } }) s

/-- Active elements of the whole vector, for the instructions that take VSTART = 0 (R148). -/
def acting (s : State) (i : Nat) : Bool := decide (i < vlOf s.cur) && governed s.cur i

/-- Register index `e` takes part in an access of the given mode: from VSTART or EPROG, below the count, governed (R172, R173). -/
def inAccess (s : State) (m : VMode) (e : Nat) : Bool :=
  decide (firstOf s.cur m ≤ e) && decide (e < countOf s.cur m) && governed s.cur e

/-- The flags of an access's elements, ORed (R67). -/
def accessFlags (s : State) (m : VMode) (g : Nat → Flags) : Flags :=
  ((List.range (countOf s.cur m)).filter (inAccess s m)).foldl (fun acc i => acc ||| g i) 0

/-- A thread whose next vector memory access meets no damage, stop or breakpoint, and whose count fits in the grant (R172). -/
def MemReady (s : State) (m : VMode) : Prop :=
  Calm s ∧ s.cur.vbad = [] ∧ s.cur.kbad = [] ∧ s.cur.elim = none ∧ s.cur.chain = 0 ∧
  countOf s.cur m ≤ grantMax s.cur (sewOf s.cur) ∧ sewOf s.cur * countOf s.cur m ≤ 8192

/-- One element of an access: aligned, translated to the places `ls`, none of them behind a fenced port (R174, R175, R185). -/
def Accessed (s : State) (f : Fmt) (k : Acc) (it : Item) (ls : List Loc) : Prop :=
  it.addr.toNat % ebytes f = 0 ∧ (∃ c, xlatN s s.cur it.addr (ebytes f) k = .ok (ls, c)) ∧ ∀ l ∈ ls, locFenced s l = false

/-- Clean data at every place. -/
def Clean (s : State) (ls : List Loc) : Prop := ∀ l ∈ ls, poisoned s l = false

/-- The control registers that a completed access of a mode resets before its effect: EPROG of a tile, VSTAT.T of a unit or
strided load (R24, R173, R186). -/
def cleared (m : VMode) (load : Bool) (s : State) : State :=
  onThread (fun t => { t with ctl := { t.ctl with
    eprog := if m = .tile then 0 else t.ctl.eprog
    vstat := if load = true ∧ m ≠ .tile then setFld t.ctl.vstat 1 1 0 else t.ctl.vstat } }) s

/-- What a step leaves that writes memory and else only does `f` to the thread: beside the bytes themselves and their poison,
all state is that of an instruction that has completed. -/
def OnlyBytes (s u : State) (f : Thread → Thread) : Prop :=
  u = { retired f s with mem := u.mem, written := u.written, past := u.past, cores := u.cores, poison := u.poison }

/-- Element `e` of a store is the last to write at its place: no later element of the access writes the same byte or nibble. -/
def LastWriter (on : Nat → Bool) (f : Fmt) (item : Nat → Item) (ls : Nat → List Loc) (e : Nat) : Prop :=
  ∀ e', on e' = true → e < e' → ∀ l ∈ ls e, l ∈ ls e' → esz f = 4 ∧ (item e').nib ≠ (item e).nib

/-- The state with the bytes of memory and the thread's note of touched sectors of another: what a load with the last-use hint may
change beside its results (R180). -/
def hinted (s u : State) : State := { u with mem := s.mem, cur := { u.cur with touched := s.cur.touched } }

/-- The address of byte `j` of a span. -/
def spanAt (a : Word) (j : Nat) : Word := a + BitVec.ofNat 64 j

/-- Byte `j` of a span of `n` from `a` lies at `p j`, behind no fenced port (R182, R183). -/
def Spans (s : State) (a : Word) (n : Nat) (k : Acc) (p : Nat → Loc) : Prop :=
  ∀ j, j < n → (∃ c n, xlat s s.cur (spanAt a j) k = .ok ⟨p j, c, n⟩) ∧ locFenced s (p j) = false

/-- The scalar atomics on 32-bit and on 64-bit words, each with the value it writes from the old one, its operand and its
compare value (R288). -/
def atomicsW (d a b : SReg) (aq rl : Bool) (c : Scope) (w : Stall) : List (Instr × (BitVec 32 → BitVec 32 → BitVec 32 → BitVec 32)) :=
  [(.amoaddW d a b aq rl c w, fun o x _ => o + x), (.amominW d a b aq rl c w, fun o x _ => if x.slt o then x else o),
   (.amomaxW d a b aq rl c w, fun o x _ => if o.slt x then x else o), (.amoandW d a b aq rl c w, fun o x _ => o &&& x),
   (.amoorW d a b aq rl c w, fun o x _ => o ||| x), (.amoswpW d a b aq rl c w, fun _ x _ => x),
   (.amocasW d a b aq rl c w, fun o x e => if o = e then x else o)]
def atomicsD (d a b : SReg) (aq rl : Bool) (c : Scope) (w : Stall) : List (Instr × (Word → Word → Word → Word)) :=
  [(.amoaddD d a b aq rl c w, fun o x _ => o + x), (.amominD d a b aq rl c w, fun o x _ => if x.slt o then x else o),
   (.amomaxD d a b aq rl c w, fun o x _ => if o.slt x then x else o), (.amoandD d a b aq rl c w, fun o x _ => o &&& x),
   (.amoorD d a b aq rl c w, fun o x _ => o ||| x), (.amoswpD d a b aq rl c w, fun _ x _ => x),
   (.amocasD d a b aq rl c w, fun o x e => if o = e then x else o)]

/-- An atomic's place: reached as a store, no page of CLASS 3, no home that is lost (R360, R459), no poison (R289). -/
def AtomicAt (s : State) (a : Word) (n : Nat) (ls : List Loc) : Prop :=
  canonical a = true ∧ a.toNat % n = 0 ∧ (∃ c, c ≠ 3 ∧ xlatN s s.cur a n .store = .ok (ls, c)) ∧
  (∀ l ∈ ls, oneLost s l = false) ∧ Clean s ls

/-- No follow-on that still runs names one of the registers (R301, R302). -/
def FolFree (s : State) (rs : List Nat) : Prop := ∀ f ∈ s.cur.fols, folReg f ∉ rs
/-- Nor does one that an error stopped. -/
def FolClear (s : State) (rs : List Nat) : Prop := FolFree s rs ∧ ∀ x ∈ s.cur.folBad, x.1 ∉ rs

/-- The map step of an instruction with the given operands succeeds and leaves `u` (R200, R201). -/
def Mapped (s : State) (ops : List (Nat × MAcc)) (u : State) : Prop :=
  FolClear s (ops.map (·.1)) ∧
  ∃ p, planOf s ops = some p ∧ checkTiles s (ownTiles p.moves) = none ∧ FolFree s (p.moves.flatMap mvReg) ∧ u = applyPlan p s

/-- Element (i, j) of a register's value. -/
def mat (s : State) (m : MReg) (i j : Nat) : F32 := tileElt (mval s m) (64 * i + j)

/-- MSHAPE holds a legal shape (R22). -/
def LegalShape (t : Thread) : Prop := 1 ≤ rowsOf t ∧ rowsOf t ≤ 64 ∧ 1 ≤ colsOf t ∧ colsOf t ≤ 64
def shape (s : State) (i j : Nat) : Bool := decide (i < rowsOf s.cur) && decide (j < colsOf s.cur)

/-- What a matrix instruction leaves that writes elements of one register after its map step `s`: those elements hold `val`,
the others and every other slot of every core are as they were, and beside them only `f` has happened to the thread. -/
def MatWrote (s u : State) (m : MReg) (on : Nat → Nat → Bool) (val : Nat → Nat → F32) (f : Thread → Thread) : Prop :=
  (∀ i j, i < 64 → j < 64 → mat u m i j = if on i j then val i j else mat s m i j) ∧
  (∀ c k, (c = cidOf s.cur → ∀ d l, slotOf s.cur.map m ≠ some (k, d, l)) → tileOf (coreOf u c) k = tileOf (coreOf s c) k) ∧
  (∀ c, coreOf u c = { coreOf s c with tiles := (coreOf u c).tiles, bad := (coreOf u c).bad }) ∧
  u = { retired f s with cores := u.cores }

/-- Vector sources long enough for `n` elements of width `w` (R210), and no damaged vector byte. -/
def SpanReady (s : State) (w n : Nat) : Prop := Calm s ∧ s.cur.vbad = [] ∧ 0 < lanesOf s.cur ∧ n ≤ vlmax s.cur w

/-- What a matrix instruction does to a scalar-free thread: FFLAGS grow. -/
def flagged (g : Flags) (t : Thread) : Thread := { t with ctl := { t.ctl with fflags := t.ctl.fflags ||| g.zeroExtend 64 } }

/-- The flags of the elements of the shape, ORed in row order. -/
def shapeFlags (s : State) (g : Nat → Nat → Flags) : Flags :=
  ((List.range (rowsOf s.cur)).flatMap fun i => (List.range (colsOf s.cur)).map fun j => g i j).foldl (fun a b => a ||| b) 0

/-- The two low bytes of a BF16 value of the scratchpad of the thread's core. -/
def scratch16 (s : State) (o : Nat) : BitVec 16 :=
  BitVec.ofNat 16 (valueAt s [scratchLoc s (cidOf s.cur) o, scratchLoc s (cidOf s.cur) (o + 1)])

/-- The last-use side of an instruction that reads m: its entry becomes ZERO (R203). -/
def lastUse (l : Bool) (m : MReg) (s : State) : State := if l then dropRegs [m.val] s else s

/-- VSTART = 0 and FFLAGS with more flags: what the end of an attention group does to the thread beside its group (R231). -/
def groupEnd (v : Nat) (g : Flags) (t : Thread) : Thread :=
  { t with grp := none, ctl := { t.ctl with vstart := BitVec.ofNat 64 v, fflags := t.ctl.fflags ||| g.zeroExtend 64 } }

/-- The state after an instruction that stops short of its end without a trap, its progress `f` recorded: it issues again. -/
def stopped (f : Thread → Thread) (s : State) : State :=
  { s with
    tick := s.tick + 1
    cur := { f s.cur with
      pend := [], seq := (f s.cur).seq + 1, issued := (f s.cur).issued + 1, wait := none, elim := none, brkSkip := none, cut := some false } }

/-- Nothing that a matrix operand holds is damaged. -/
def Sound (s : State) (ms : List Nat) : Prop := ∀ m ∈ ms, mBad s m (fun _ => true) = none

/-- The scores of an attention group that a completed ATSC leaves, from its first score on: an active one as R228 computes it,
another −∞ (R227). -/
def GroupScores (s u : State) (m : MReg) (a : VReg) (b : SReg) (z : Option VReg) (l : List F32) : Prop :=
  let t := s.cur
  let g := 2 ^ segOf t
  let nh := (vlOf t + g - 1) / g
  l.length = nh * g - vstartOf t ∧
  ∀ e, vstartOf t ≤ e → e < nh * g → l.getD (e - vstartOf t) 0 =
    if body s e then (scoreOf (vecElts t a 32 (nh * colsOf t)) (mval u m) ((reg s b).truncate 32)
      (z.map fun z => BitVec.ofNat 32 (elt t z 32 e)) (e / g) (colsOf t) e).1 else ninf32

/-- Bytes of a step at given places, every other byte as it was, and nothing but `f` done to the thread. -/
def Wrote (s u : State) (ls : List Loc) (x : Nat) (f : Thread → Thread) : Prop :=
  OnlyBytes s u f ∧ valueAt u ls = x % 256 ^ ls.length ∧ ∀ l, l ∉ ls → byteAt u l = byteAt s l

/-- One element of a heap access by vector: aligned, translated to CLASS managed, behind no fenced port (R242, R263). -/
def HeapElement (s : State) (f : Fmt) (k : Acc) (it : Item) (ls : List Loc) : Prop :=
  it.addr.toNat % ebytes f = 0 ∧ xlatN s s.cur it.addr (ebytes f) k = .ok (ls, 1) ∧ ∀ l ∈ ls, locFenced s l = false

/-- The HALLOC of `n` granules has room: HABUF and HALIM in one managed region whose entry is good and serves (R265). -/
def Room (s : State) (n : Nat) (e : Region) (ls : List Loc) : Prop :=
  let b := refAddr s.cur.ctl.habuf
  let l := refAddr s.cur.ctl.halim
  inManaged b = true ∧ inManaged (l - 1) = true ∧ l ≠ 0 ∧ (b - Config.wbase) / 2 ^ 30 = (l - 1 - Config.wbase) / 2 ^ 30 ∧
  badPhys s (regionPa s.cur.ctl.hreg ((b - Config.wbase) / 2 ^ 30)) 16 = false ∧
  regionOf s (cidOf s.cur) s.cur.ctl.hreg ((b - Config.wbase) / 2 ^ 30) = some e ∧ e.state ≠ 0 ∧ b + 16 * n ≤ l ∧
  heapPlaces s (BitVec.ofNat 64 b) (BitVec.ofNat 64 b) 16 .store = .ok ls

/-- The directory entry of the page that holds address `a`, and entry `i` of that page's array (R249, R250). -/
def pageEntry (e : Region) (a : Nat) : Nat := e.fwd + 16 * (a / 65536 % 16384)
def pageItem (s : State) (e : Region) (a i : Nat) : Nat := fld (rdWord s (pageEntry e a + 8)) 4 48 * 16 + 16 * i

/-- The state with its package changed, in a step of its own. -/
def onPkg (f : Pkg → Pkg) (s : State) : State := { s with tick := s.tick + 1, pkg := f s.pkg }

/-- GEN is ahead of a value by 1 to 2^31 − 1, modulo 2^32 (R284). -/
def Ahead (gen : Nat) (v : Word) : Prop := 1 ≤ ((BitVec.ofNat 32 gen) - v.truncate 32).toNat ∧ ((BitVec.ofNat 32 gen) - v.truncate 32).toNat < 2 ^ 31

/-- A command of a sett that an engine may work on: found under its identifier, running, without a fault (R296, R297). -/
def Working (s : State) (sett cmd : Nat) (c : Cmd) : Prop := findCmd s sett cmd = some c ∧ c.state = .running ∧ c.fault = none

/-- A queue the device may append to for an address space, with room and nothing held before it (R319). -/
def Open (s : State) (q : Nat) (pgroot : Word) : Prop := appendOk s q pgroot = true ∧ appendWaits s q = false

/-- The state one step later, where nothing else has happened. -/
def ticked (s : State) : State := { s with tick := s.tick + 1 }

/-- The state as a follow-on of the thread in focus reads it: the scratchpad as it stood at its CPYM, with what its command has written
(R208, R301), but for the slot of the follow-on's own register. -/
def seenBy (f : FollowOn) (x : State) : State :=
  let c := coreOf x (cidOf x.cur)
  match c.kept.find? fun k => k.frame == x.cur.frame && k.cmd == f.cmd with
  | none => x
  | some k => modCore (cidOf x.cur)
      (overScratch (scratchSlot c) ((slotOf x.cur.map (folReg f)).map (·.1)) k.tiles (k.bad.foldl sinsert c.bad)) x

/-- What a ready follow-on leaves in its register (R301, R214-R216), under the shape fixed at its CPYM: MMAS accumulates its steps from 0,
MLD loads every element of the shape and puts +0 outside it; and FFLAGS grow. -/
def FolResult (f : FollowOn) (i : Instr) (x y : State) : Prop :=
  let v := seenBy f x
  let r := fld f.mshape 0 7
  let c := fld f.mshape 8 7
  let on (e : Nat) : Bool := decide (e / 64 < r) && decide (e % 64 < c)
  let ends : Prop := y.cur.folBad = x.cur.folBad ∧
    ∃ fl : Flags, y.cur.ctl = { x.cur.ctl with fflags := x.cur.ctl.fflags ||| fl.zeroExtend 64 }
  (∀ m a b, i = .mmas m a b →
    let g := mmasArgs f.mshape f.s1 f.s2
    let n := fld f.mshape 16 7
    mBad x m on = none → (∀ k, k < n → mmasPoison v (cidOf x.cur) g k = none) →
    ends ∧ ∃ acc : Nat → Nat → Nat → F32, acc 0 = mat x m ∧
      (∀ k i j, k < n → i < r → j < c → acc (k + 1) i j =
        (mac32 (acc k i j) ((List.range 4).map fun l => mulNum
          (numB16 (scratch16 v (g.base + k * g.rpitch + 2 * (4 * i + l))))
          (numB16 (scratch16 v (g.base + g.tpitch + k * g.rpitch + 2 * (4 * j + l))))) false).1) ∧
      ∀ i j, i < 64 → j < 64 → mat y m i j = if on (64 * i + j) = true then acc n i j else mat x m i j) ∧
  (∀ m a b h k, i = .mld m a b h k →
    let addr (e : Nat) : Word := f.s1 + BitVec.ofNat 64 (e / c) * f.vpitch + BitVec.ofNat 64 (e % c) * f.s2
    let ls (e : Nat) : List Loc := (List.range (ebytes (mfmtOf k))).map fun n =>
      scratchLoc v (cidOf x.cur) ((addr e).toNat - Config.scratchOwn + n)
    let loaded (e : Nat) : F32 := let y := BitVec.ofNat 32 (valueAt v (ls e))
      if k = .bf16 then (to32 .rne (numB16 (y.truncate 16), 0)).1 else y
    (∀ e, e < r * c → ∀ l ∈ ls e, poisoned v l = false) →
    ends ∧ ∀ i j, i < 64 → j < 64 → mat y m i j = if on (64 * i + j) = true then loaded (i * c + j) else 0)

/-- The byte of a core's matrix store at which offset `off` of its scratchpad lies. -/
def headerAt (s : State) (cid off : Nat) : Nat := scratchSlot (coreOf s cid) * Config.slotBytes + off

/-- The state in which a thread of a pack starts (R48), its lanes and its logging mark apart. -/
def startOf (s : State) (p : Pack) (m : Member) : Thread :=
  let e := spaceOf s p.asid
  { live := true, frame := m.frame, pool := m.pool, pack := p.id, index := m.index, sett := p.sett, core := m.core, ctx := m.ctx
    pc := recWord p.record 1
    s := Vector.ofFn fun i =>
      if i = 1 then recWord p.record 2 else if i = 2 then BitVec.ofNat 64 m.index else if i = 3 then BitVec.ofNat 64 (recThreads p.record)
      else if i = 30 then e.stkBase + BitVec.ofNat 64 ((m.pool + 1) * e.stkSize * 1024) else 0
    v := Vector.replicate 32 0, k := Vector.replicate 8 0, h := Vector.replicate 16 0, sf := Vector.replicate 64 0x3F800000
    o := Vector.replicate 8 0x00000000FF800000, map := []
    ctl := {
      vl := 0, vtype := 0x601, vrows := 1, mshape := 0x404040, ldepth := 0, estat := 0, cycle := 0
      evec := BitVec.ofNat 64 (fld e.evec 2 55 * 4), hreg := BitVec.ofNat 64 (fld e.hreg 12 40 * 4096)
      pgroot := BitVec.ofNat 64 (fld e.pgroot 12 52 * 4096)
      mapbase := BitVec.ofNat 64 (fld (e.backBase + BitVec.ofNat 64 (m.pool * 2 ^ 23)) 14 43 * 16384)
      vlcap := BitVec.ofNat 64 (recVlcap p.record) } }

/-- A frame holds the registers of a thread (R349), a lane-wide part of its vector and mask registers among them; CYCLE runs on. -/
def HeldIn (u : State) (t : Thread) : Prop :=
  let f := t.frame
  (∀ i : Fin 32, frameWord u f (0x200 + 8 * i.val) = sreg t i) ∧ (∀ i : Fin 16, frameWord u f (0x300 + 8 * i.val) = t.h[i]) ∧
  (∀ i : Fin 8, frameWord u f (0x380 + 8 * i.val) = t.o[i]) ∧ (∀ i : Fin 64, frameRd u f (0x800 + 4 * i.val) 4 = t.sf[i].toNat) ∧
  (∀ n ∈ savedCtl, n ≠ 0x01B → frameWord u f (ctlOffset n) = ctlGet n t.ctl) ∧ frameWord u f 16 = t.pc ∧ frameWord u f 24 = t.ctl.lanes ∧
  (∀ i : Fin 32, frameRd u f (0x8000 + 1024 * i.val) 1024 = (vreg t i).toNat % 2 ^ (128 * lanesOf t)) ∧
  (∀ i : Fin 8, i ≠ 0 → frameRd u f (0xA00 + 64 * i.val) 64 = (kreg t i).toNat % 2 ^ (8 * lanesOf t)) ∧
  fld (frameWord u f 0) 8 2 = if t.parking.isSome then 2 else 1

/-- A thread has the registers that a frame holds (R361): all of them, reserved bits apart, where it gets the lanes of the frame; else
VL, VSTAT and the vector and mask registers are R38's. -/
def TakenFrom (s : State) (f : Nat) (t : Thread) : Prop :=
  (∀ i : Fin 32, t.s[i] = frameWord s f (0x200 + 8 * i.val)) ∧ (∀ i : Fin 16, t.h[i] = frameWord s f (0x300 + 8 * i.val)) ∧
  (∀ i : Fin 8, t.o[i] = frameWord s f (0x380 + 8 * i.val)) ∧
  (∀ i : Fin 64, t.sf[i] = BitVec.ofNat 32 (frameRd s f (0x800 + 4 * i.val) 4)) ∧
  (∀ n ∈ savedCtl, n ≠ 0x000 → n ≠ 0x00A → ctlGet n t.ctl = ctlBits n (frameWord s f (ctlOffset n))) ∧
  t.pc = BitVec.ofNat 64 (fld (frameWord s f 16) 2 62 * 4) ∧
  (t.ctl.lanes = frameWord s f 24 →
    t.ctl.vl = ctlBits 0x000 (frameWord s f 0x400) ∧ t.ctl.vstat = ctlBits 0x00A (frameWord s f 0x450) ∧
    (∀ i : Fin 32, vreg t i = BitVec.ofNat 8192 (frameRd s f (0x8000 + 1024 * i.val) 1024)) ∧
    (∀ i : Fin 8, i ≠ 0 → kreg t i = BitVec.ofNat 512 (frameRd s f (0xA00 + 64 * i.val) 64)))

/-- A landing header lies outside slot `k` (R310). -/
def Apart (w k : Nat) : Prop := w / Config.slotBytes ≠ k ∧ (w + 127) / Config.slotBytes ≠ k

/-- The mailbox carries out a command: no trip, firmware runs, no background command is in progress (R367, R375, R458). -/
def Serving (s : State) : Prop := s.pkg.tripped = false ∧ s.pkg.fwfail = false ∧ s.pkg.mbox.background = none

/-- The state after a mailbox command that answers `code` and does `f` to the package, and nothing else. -/
def replied (code : Nat) (f : Pkg → Pkg) (s : State) : State :=
  onPkg (fun p => f { p with mbox := { p.mbox with code := code } }) s

/-- A base that R365 admits: aligned, in this package's memory, with `n` bytes of it from there. -/
def LocalTable (s : State) (b : Word) (align n : Nat) : Prop :=
  b.toNat % align = 0 ∧ b.toNat / 2 ^ 39 = s.pkg.index ∧ b.toNat % 2 ^ 39 + n ≤ Config.hbmBytes

/-- Payload bytes of a mailbox answer. -/
def answer (l : List Byte) (p : Pkg) : Pkg := { p with mbox := { p.mbox with out := l } }

/-- A telemetry event of a KIND goes to the event log of number `n`, with MSI-X vector 2, or is counted where the log is full (R369,
R453). -/
def Recorded (s u : State) (n kind : Nat) : Prop :=
  if (vnth s.pkg.logs [] n).length < Config.logCapacity n then
    ∃ e, vnth u.pkg.logs [] n = vnth s.pkg.logs [] n ++ e :: (vnth u.pkg.logs [] n).drop ((vnth s.pkg.logs [] n).length + 1) ∧
      e.queueError = false ∧ e.data.toNat % 256 = kind ∧ signalled u.pkg 2 = true
  else vnth s.pkg.logLost 0 n < vnth u.pkg.logLost 0 n

/-- HEALTH calls for a replacement (R452): two failed ports, a sett without a spare core or one with fewer than four spare bonds. -/
def Worn (h : Word) : Prop := 2 ≤ fld h 16 8 ∨ ∃ k < 4, fld h (48 + 2 * k) 2 = 0 ∨ fld h (32 + 4 * k) 4 < 4

/-- REPLACE after an event (R452): it is set where HEALTH calls for it or the event itself does (`also`), it stays set, and where
it becomes set an event of KIND 6 is the last record of log 1, if that has room for it. -/
def Replaced (also : Prop) (s u : State) : Prop :=
  (wbit u.pkg.health 63 = true ↔ wbit s.pkg.health 63 = true ∨ also ∨ Worn u.pkg.health) ∧
  (wbit s.pkg.health 63 = false → wbit u.pkg.health 63 = true → (vnth s.pkg.logs [] 1).length + 1 < Config.logCapacity 1 →
    ∃ e ∈ (vnth u.pkg.logs [] 1).getLast?, e.queueError = false ∧ e.data.toNat % 256 = 6)

/-- No thread and no byte of memory has changed. -/
def OnlyFleet (s u : State) : Prop := u.cur = s.cur ∧ u.others = s.others ∧ u.mem = s.mem

/-- At its next step the machine lets the thread in focus issue an instruction in state `u` (R83, R411): it is the thread's turn, it
waits for nothing, and no halt, single-step trap or attention group is pending. -/
def AtTurn (s u : State) : Prop :=
  ((s.turns = [] ∧ u = settle s) ∨ ∃ l, s.turns = .thread s.cur.frame :: l ∧ u = settle { s with turns := l }) ∧
  u.cur.live = true ∧ u.cur.wait = none ∧ u.cur.parking = none ∧ u.cur.grp = none ∧ u.cur.stepDue = none ∧
  u.pkg.tripped = false ∧ u.pkg.fwfail = false ∧ u.cur.logged = false ∧ haltDue u u.cur = false

/-- The instruction it lets the thread issue has the word `w`: the fetch at the PC gives it (R83, R342). -/
def Issues (s u : State) (w : Nat) : Prop := AtTurn s u ∧ fetchAt u u.cur u.cur.pc = .ok w

/-- No trace of the thread, no debug set and no single-step: nothing is done around its instructions (R362, R397-R408). -/
def Untraced (s : State) : Prop := s.cur.ctl.trctl = 0 ∧ setOf s s.cur = [] ∧ wbit s.cur.ctl.estat 3 = false

end Sys2Proof.Safety
end

