-- ==== Sys2Proof/Certificates/Slice0/Obligations.lean ====
section
/-! DEFINITION. What is claimed of the machine, rule by rule. The free values and the values that the manual leaves to the model are
named in the assumption log; no claim rests on one unless its text says so. -/

open Sys2Proof Sys2Proof.Machine Sys2Proof.Safety

/-- R116, R117, R14: in a calm thread each two-operand integer instruction of latency 1 or that is scoreboarded completes, writes its
result to D alone (nothing when D is s0) and goes on at the next word; nothing else of the state changes. R116, R114: MUL, MULH and
MULH.U complete with the low half, and the high half of the signed and of the unsigned product; their latency is 4, so the value D
held stays noted until the distance has passed. -/
def Obligations.IntegerArithmetic : Prop :=
  (∀ (s : State) (d a b : SReg) (w : Stall), Calm s →
    let x := reg s a
    let y := reg s b
    exec (.add d a b w) s = .next (retired (put d (x + y)) s) ∧
    exec (.sub d a b w) s = .next (retired (put d (x - y)) s) ∧
    exec (.and d a b w) s = .next (retired (put d (x &&& y)) s) ∧
    exec (.or d a b w) s = .next (retired (put d (x ||| y)) s) ∧
    exec (.xor d a b w) s = .next (retired (put d (x ^^^ y)) s) ∧
    exec (.sll d a b w) s = .next (retired (put d (x <<< (y.toNat % 64))) s) ∧
    exec (.srl d a b w) s = .next (retired (put d (x >>> (y.toNat % 64))) s) ∧
    exec (.sra d a b w) s = .next (retired (put d (x.sshiftRight (y.toNat % 64))) s) ∧
    exec (.min d a b w) s = .next (retired (put d (if y.slt x then y else x)) s) ∧
    exec (.max d a b w) s = .next (retired (put d (if x.slt y then y else x)) s) ∧
    exec (.minU d a b w) s = .next (retired (put d (if y < x then y else x)) s) ∧
    exec (.maxU d a b w) s = .next (retired (put d (if x < y then y else x)) s) ∧
    exec (.slt d a b w) s = .next (retired (put d (truth (x.toInt < y.toInt))) s) ∧
    exec (.sltu d a b w) s = .next (retired (put d (truth (x.toNat < y.toNat))) s) ∧
    exec (.div d a b w) s = .next (retired (put d (if y = 0 then BitVec.allOnes 64 else x.sdiv y)) s) ∧
    exec (.divU d a b w) s = .next (retired (put d (if y = 0 then BitVec.allOnes 64 else x.udiv y)) s) ∧
    exec (.rem d a b w) s = .next (retired (put d (if y = 0 then x else x.srem y)) s) ∧
    exec (.remU d a b w) s = .next (retired (put d (if y = 0 then x else x.umod y)) s) ∧
    (x = 0x8000000000000000 → y = BitVec.allOnes 64 → exec (.div d a b w) s = .next (retired (put d 0x8000000000000000) s) ∧
      exec (.rem d a b w) s = .next (retired (put d 0) s))) ∧
  (∀ (s : State) (d a b : SReg) (w : Stall), Calm s →
    let x := reg s a
    let y := reg s b
    exec (.mul d a b w) s = .next (retired (put4 d w (x * y)) s) ∧
    exec (.mulh d a b w) s = .next (retired (put4 d w ((x.signExtend 128 * y.signExtend 128).extractLsb' 64 64)) s) ∧
    exec (.mulhU d a b w) s = .next (retired (put4 d w ((x.zeroExtend 128 * y.zeroExtend 128).extractLsb' 64 64)) s))

/-- R118: the immediate instructions complete with the immediate sign-extended, the shift amount taken as it is and, for LUI, 20 bits
sign-extended above 12 zeros. R116: CLZ writes the number of zeros above the highest one bit (64 for zero), POPC the number of ones. -/
def Obligations.ImmediatesAndBitCounts : Prop :=
  (∀ (s : State) (d a : SReg) (i : BitVec 13) (n : Fin 64) (u : BitVec 20) (w : Stall), Calm s →
    let x := reg s a
    let k : Word := BitVec.ofInt 64 i.toInt
    exec (.addi d a i w) s = .next (retired (put d (x + k)) s) ∧
    exec (.andi d a i w) s = .next (retired (put d (x &&& k)) s) ∧
    exec (.ori d a i w) s = .next (retired (put d (x ||| k)) s) ∧
    exec (.xori d a i w) s = .next (retired (put d (x ^^^ k)) s) ∧
    exec (.slti d a i w) s = .next (retired (put d (truth (x.toInt < i.toInt))) s) ∧
    exec (.slli d a n w) s = .next (retired (put d (x <<< n.val)) s) ∧
    exec (.srli d a n w) s = .next (retired (put d (x >>> n.val)) s) ∧
    exec (.srai d a n w) s = .next (retired (put d (x.sshiftRight n.val)) s) ∧
    exec (.lui d u) s = .next (retired (put d (BitVec.ofInt 64 (u.toInt * 4096))) s)) ∧
  (∀ (s : State) (d a : SReg) (w : Stall), Calm s →
    (∃ n : Nat, exec (.clz d a w) s = .next (retired (put d (BitVec.ofNat 64 n)) s) ∧ n ≤ 64 ∧
      (∀ i, 64 - n ≤ i → (reg s a).getLsbD i = false) ∧ (n < 64 → (reg s a).getLsbD (63 - n) = true)) ∧
    exec (.popc d a w) s =
      .next (retired (put d (BitVec.ofNat 64 (((List.range 64).filter fun i => (reg s a).getLsbD i).length))) s))

/-- R119, R120: FADD, FSUB, FMUL, FFMA, FDIV, FSQRT, FMIN and FMAX complete with one rounding in the mode of the instruction, the
pattern in bits [31:0] under zeros and their flags ORed into FFLAGS. -/
def Obligations.ScalarFloatResults : Prop :=
  ∀ (s : State) (d a b : SReg) (m : Rm) (w : Stall), Calm s →
    let x := single s a
    let y := single s b
    exec (.fadd d a b m w) s = .next (retired (float4 d w (add32 m x y)) s) ∧
    exec (.fsub d a b m w) s = .next (retired (float4 d w (sub32 m x y)) s) ∧
    exec (.fmul d a b m w) s = .next (retired (float4 d w (mul32 m x y)) s) ∧
    exec (.ffma d a b m w) s = .next (retired (float4 d w (fma32 m x y (single s d))) s) ∧
    exec (.fdiv d a b m w) s = .next (retired (float1 d (div32 m x y)) s) ∧
    exec (.fsqrt d a m w) s = .next (retired (float1 d (sqrt32 m x)) s) ∧
    exec (.fmin d a b w) s = .next (retired (float4 d w (min32 x y, 0)) s) ∧
    exec (.fmax d a b w) s = .next (retired (float4 d w (max32 x y, 0)) s)

/-- R121: FCMP's five conditions, with the flag of each on a NaN operand; a word with another value in the condition field is refused
under ILL. -/
def Obligations.FcmpConditions : Prop :=
  (∀ n : Nat, n / 2 ^ 25 = 3 → n / 32 % 32 = 8 → 5 ≤ n / 4 % 8 → decode n = .error .ill) ∧
  ∀ (s : State) (d a b : SReg) (w : Stall), Calm s →
    let x := single s a
    let y := single s b
    let u := unordered x y
    let c := cmpNum (num32 x) (num32 y)
    let out (p : Bool) (g : Flags) := retired (fun t => raise g (put4 d w (truth (p = true)) t)) s
    exec (.fcmp d a b .eq w) s = .next (out (!u && c == 0) 0) ∧
    exec (.fcmp d a b .ne w) s = .next (out (u || c != 0) 0) ∧
    exec (.fcmp d a b .lt w) s = .next (out (!u && decide (c < 0)) (if u then fNV else 0)) ∧
    exec (.fcmp d a b .le w) s = .next (out (!u && decide (c ≤ 0)) (if u then fNV else 0)) ∧
    exec (.fcmp d a b .un w) s = .next (out u 0)

/-- R65: a NaN operand gives the canonical NaN in FADD, FSUB, FMUL, FDIV and FSQRT in every mode, and raises no flag; two NaN operands
give it in FMIN and FMAX, and one gives the other operand. R122: FCVT completes for its six pairs; its integer results are those of
R69 and its BF16 source is widened exactly. -/
def Obligations.NansAndConversions : Prop :=
  (∀ (m : Rm) (x y : F32),
    (unordered x y = true →
      add32 m x y = (0x7FC00000, 0) ∧ sub32 m x y = (0x7FC00000, 0) ∧ mul32 m x y = (0x7FC00000, 0) ∧
      div32 m x y = (0x7FC00000, 0)) ∧
    (isNan (num32 x) = true → sqrt32 m x = (0x7FC00000, 0)) ∧
    (isNan (num32 x) = true → isNan (num32 y) = true → min32 x y = 0x7FC00000 ∧ max32 x y = 0x7FC00000) ∧
    (isNan (num32 x) = true → isNan (num32 y) = false → min32 x y = y ∧ max32 x y = y ∧ min32 y x = y ∧ max32 y x = y)) ∧
  (∀ (s : State) (d a : SReg) (m : Rm) (w : Stall), Calm s →
    let x := reg s a
    let n := num32 (single s a)
    let out (v : Word) (g : Flags) := retired (fun t => raise g (put4 d w v t)) s
    let i32 := toIntRange m (-2147483648) 2147483647 n
    let i64 := toIntRange m (-9223372036854775808) 9223372036854775807 n
    let f32 := to32 m (numInt (x.truncate 32 : BitVec 32).toInt, 0)
    let f64 := to32 m (numInt x.toInt, 0)
    let b16 := toB16 m (n, 0)
    exec (.fcvt d a .toi32 m w) s = .next (out (BitVec.ofInt 64 i32.1) i32.2) ∧
    exec (.fcvt d a .toi64 m w) s = .next (out (BitVec.ofInt 64 i64.1) i64.2) ∧
    exec (.fcvt d a .fromi32 m w) s = .next (out (f32.1.zeroExtend 64) f32.2) ∧
    exec (.fcvt d a .fromi64 m w) s = .next (out (f64.1.zeroExtend 64) f64.2) ∧
    exec (.fcvt d a .tobf16 m w) s = .next (out (b16.1.zeroExtend 64) b16.2) ∧
    exec (.fcvt d a .frombf16 m w) s =
      .next (out (if isNan (numB16 (x.truncate 16)) then 0x7FC00000 else BitVec.ofNat 64 (x.toNat % 65536 * 65536)) 0))

/-- R123, R124: a scalar load whose bytes are reached and hold no poison completes with the bytes, sign-extended or zero-extended to 64
bits. R123, R124: a scalar store whose bytes are reached completes; the low bytes of s_D stand at the address in little-endian order
and every other byte of memory is as it was. -/
def Obligations.LoadsAndStores : Prop :=
  (∀ (s : State) (d a : SReg) (i : BitVec 13) (w : Stall) (ls : List Loc), Calm s → (∀ l ∈ ls, poisoned s l = false) →
    let ea := effective s a i
    let x := valueAt s ls
    (Reached s ea 1 .scalarLoad ls →
      exec (.ldB d a i w) s = .next (retired (put d ((BitVec.ofNat 8 x).signExtend 64)) s) ∧
      exec (.ldBu d a i w) s = .next (retired (put d ((BitVec.ofNat 8 x).zeroExtend 64)) s)) ∧
    (Reached s ea 2 .scalarLoad ls →
      exec (.ldH d a i w) s = .next (retired (put d ((BitVec.ofNat 16 x).signExtend 64)) s) ∧
      exec (.ldHu d a i w) s = .next (retired (put d ((BitVec.ofNat 16 x).zeroExtend 64)) s)) ∧
    (Reached s ea 4 .scalarLoad ls →
      exec (.ldW d a i w) s = .next (retired (put d ((BitVec.ofNat 32 x).signExtend 64)) s) ∧
      exec (.ldWu d a i w) s = .next (retired (put d ((BitVec.ofNat 32 x).zeroExtend 64)) s)) ∧
    (Reached s ea 8 .scalarLoad ls → exec (.ldD d a i w) s = .next (retired (put d (BitVec.ofNat 64 x)) s))) ∧
  (∀ (s : State) (d a : SReg) (i : BitVec 13) (w : Stall) (ls : List Loc), Calm s →
    let ea := effective s a i
    let x := (reg s d).toNat
    (Reached s ea 1 .scalarStore ls → ∃ t, exec (.stB d a i w) s = .next t ∧ Stored s t ls 1 x) ∧
    (Reached s ea 2 .scalarStore ls → ∃ t, exec (.stH d a i w) s = .next t ∧ Stored s t ls 2 x) ∧
    (Reached s ea 4 .scalarStore ls → ∃ t, exec (.stW d a i w) s = .next t ∧ Stored s t ls 4 x) ∧
    (Reached s ea 8 .scalarStore ls → ∃ t, exec (.stD d a i w) s = .next t ∧ Stored s t ls 8 x))

/-- R124: what a scalar access meets that does not complete, in the order of its checks: an address that is not canonical or not aligned
traps ADDR, a translation that fails traps PFLD or PFST, each with EVAL = the address; a home behind a fenced port traps LINK with
EVAL = 2, and a load that reads poison traps ECC. The ECC trap of a poisoned page-table entry (R340) rests on log entry 14, the LINK
trap of a fenced port (R459, R360) on log entry 41. -/
def Obligations.ScalarAccessTraps : Prop :=
  ∀ (s : State) (d a : SReg) (i : BitVec 13) (w : Stall), Calm s →
    let ea := effective s a i
    (∀ p ∈ loads d a i w,
      (canonical ea = false ∨ ea.toNat % p.1 ≠ 0 → exec p.2 s = .next (trapped 0x05 ea 0 s)) ∧
      (canonical ea = true → ea.toNat % p.1 = 0 →
        (∀ x, xlatN s s.cur ea p.1 .scalarLoad = .error (.addr, x) → exec p.2 s = .next (trapped 0x05 ea 0 s)) ∧
        (∀ x, xlatN s s.cur ea p.1 .scalarLoad = .error (.miss, x) → exec p.2 s = .next (trapped 0x10 ea 0 s)) ∧
        (∀ x, xlatN s s.cur ea p.1 .scalarLoad = .error (.ecc, x) → exec p.2 s = .next (trapped 0x19 ea 0 s)) ∧
        (∀ ls c, xlatN s s.cur ea p.1 .scalarLoad = .ok (ls, c) → (∃ l ∈ ls, locFenced s l = true) →
          exec p.2 s = .next (trapped 0x1A 2 0 s)) ∧
        (∀ ls, Reached s ea p.1 .scalarLoad ls → (∃ l ∈ ls, poisoned s l = true) →
          exec p.2 s = .next (trapped 0x19 ea 0 s)))) ∧
    (∀ p ∈ stores d a i w,
      (canonical ea = false ∨ ea.toNat % p.1 ≠ 0 → exec p.2 s = .next (trapped 0x05 ea 0 s)) ∧
      (canonical ea = true → ea.toNat % p.1 = 0 →
        (∀ x, xlatN s s.cur ea p.1 .scalarStore = .error (.addr, x) → exec p.2 s = .next (trapped 0x05 ea 0 s)) ∧
        (∀ x, xlatN s s.cur ea p.1 .scalarStore = .error (.miss, x) → exec p.2 s = .next (trapped 0x11 ea 0 s)) ∧
        (∀ x, xlatN s s.cur ea p.1 .scalarStore = .error (.ecc, x) → exec p.2 s = .next (trapped 0x19 ea 0 s)) ∧
        (∀ ls c, xlatN s s.cur ea p.1 .scalarStore = .ok (ls, c) → (∃ l ∈ ls, locFenced s l = true) →
          exec p.2 s = .next (trapped 0x1A 2 0 s))))

/-- R125: a branch whose condition holds continues at its address plus four times OFF15 (inside a loop body, TransfersLeaveLevels),
another, inside a body or not, at the next word; neither writes a register. R133: the mask branches look at bits [0, VL) of the mask
register alone, k0 being all ones; with VL = 0 BKANY is not taken and the other two are. What a taken one leaves inside a loop body
is TransfersLeaveLevels. R126: JAL and JALR write the address of the next word to D and continue at their target; JALR forms its
target before the link is written, and traps ADDR with EVAL = the target, writing no link, where that is no multiple of 4 (inside a
loop body too). -/
def Obligations.BranchesAndJumps : Prop :=
  (∀ (s : State) (a b : SReg) (o : BitVec 15), Calm s →
    let x := reg s a
    let y := reg s b
    let goes (i : Instr) (p : Prop) : Prop :=
      (p → Flat s → exec i s = .next (jumped (target s o) id s)) ∧ (¬ p → exec i s = .next (retired id s))
    goes (.beq a b o) (x = y) ∧ goes (.bne a b o) (x ≠ y) ∧
    goes (.blt a b o) (x.toInt < y.toInt) ∧ goes (.bge a b o) (y.toInt ≤ x.toInt) ∧
    goes (.bltu a b o) (x.toNat < y.toNat) ∧ goes (.bgeu a b o) (y.toNat ≤ x.toNat)) ∧
  (∀ (s : State) (k : KReg) (o : BitVec 15), Calm s →
    let bit (i : Nat) : Bool := k == 0 || (s.cur.k[k]).getLsbD i
    let taken (i : Instr) : Prop := Flat s → exec i s = .next (jumped (target s o) id s)
    let u := retired id s
    ((∃ i, i < vlOf s.cur ∧ i < 512 ∧ bit i = true) → taken (.bkany k o) ∧ exec (.bknone k o) s = .next u) ∧
    (vlOf s.cur ≤ 512 → (∀ i, i < vlOf s.cur → bit i = false) → exec (.bkany k o) s = .next u ∧ taken (.bknone k o)) ∧
    (vlOf s.cur ≤ 512 → (∀ i, i < vlOf s.cur → bit i = true) → taken (.bkall k o)) ∧
    ((∃ i, i < vlOf s.cur ∧ bit i = false) → exec (.bkall k o) s = .next u)) ∧
  (∀ (s : State) (d a : SReg) (p : BitVec 20) (i : BitVec 13) (w : Stall), Calm s →
    let y := reg s a + BitVec.ofInt 64 i.toInt
    (Flat s → exec (.jal d p) s = .next (jumped (s.cur.pc + BitVec.ofInt 64 (4 * p.toInt)) (put d (s.cur.pc + 4)) s)) ∧
    (Flat s → y.toNat % 4 = 0 → exec (.jalr d a i w) s = .next (jumped y (put d (s.cur.pc + 4)) s)) ∧
    (y.toNat % 4 ≠ 0 → exec (.jalr d a i w) s = .next (trapped 0x05 y 0 s)))

/-- R132: every taken branch, mask branch, HNUL and HNUL.N, and a JAL or JALR whose D is s0, leaves exactly the innermost levels that
hold its own address and not its target, down to the first that does not; a call, with D other than s0, leaves none. -/
def Obligations.TransfersLeaveLevels : Prop :=
  ∀ (s : State) (a b d : SReg) (o : BitVec 15) (p : BitVec 20) (i q : BitVec 13) (w : Stall) (k : KReg) (h : HReg), Calm s →
    inSup s.cur = false →
    let left (j : Instr) (y : Word) : Prop := ∃ m, m ≤ depthOf s.cur ∧ exec j s = .next (jumped y (atDepth m) s) ∧
      (∀ n, m ≤ n → n < depthOf s.cur → leaves s.cur n s.cur.pc y) ∧ (m = 0 ∨ ¬ leaves s.cur (m - 1) s.cur.pc y)
    let t := target s o
    let x := reg s a
    let y := reg s b
    let z := x + BitVec.ofInt 64 i.toInt
    let far := s.cur.pc + BitVec.ofInt 64 (4 * p.toInt)
    let near := s.cur.pc + BitVec.ofInt 64 (4 * q.toInt)
    let bit (n : Nat) : Bool := k == 0 || (s.cur.k[k]).getLsbD n
    (x = y → left (.beq a b o) t) ∧ (x ≠ y → left (.bne a b o) t) ∧
    (x.toInt < y.toInt → left (.blt a b o) t) ∧ (y.toInt ≤ x.toInt → left (.bge a b o) t) ∧
    (x.toNat < y.toNat → left (.bltu a b o) t) ∧ (y.toNat ≤ x.toNat → left (.bgeu a b o) t) ∧
    ((∃ n, n < vlOf s.cur ∧ n < 512 ∧ bit n = true) → left (.bkany k o) t) ∧
    (vlOf s.cur ≤ 512 → (∀ n, n < vlOf s.cur → bit n = false) → left (.bknone k o) t) ∧
    (vlOf s.cur ≤ 512 → (∀ n, n < vlOf s.cur → bit n = true) → left (.bkall k o) t) ∧
    (s.cur.h[h] = 0 → left (.hnul h q) near) ∧ (s.cur.h[h] ≠ 0 → left (.hnulN h q) near) ∧
    left (.jal 0 p) far ∧ (z.toNat % 4 = 0 → left (.jalr 0 a i w) z) ∧
    (d ≠ 0 → exec (.jal d p) s = .next (jumped far (put d (s.cur.pc + 4)) s) ∧
      (z.toNat % 4 = 0 → exec (.jalr d a i w) s = .next (jumped z (put d (s.cur.pc + 4)) s)))

/-- R127: LOOP and LOOPV with a count that is not 0 push a level in user mode: count, first and last address of the body, and the depth;
LOOPV also sets VL to the smaller of the count and VLMAX. A count of 0 skips the body and pushes nothing. R127: what LOOP and LOOPV
trap on, in order: a handler (EVAL 4), a full stack (1), a body that ends beyond the enclosing one (5), and for LOOPV a VLMAX of 0
(6). R131: a branch, jump, loop, mask branch, HNUL, HNUL.N or TRAP that stands at the end of the innermost body traps LOOP with EVAL
= 3 in user mode, before any effect. That this comes before the ADDR of a misaligned JALR target and before EVAL 1, 5 and 6 of LOOP
and LOOPV is the model's choice (log entry 50). -/
def Obligations.LoopsBeginAndTrap : Prop :=
  (∀ (s : State) (a : SReg) (o : BitVec 15), Calm s → inSup s.cur = false →
    let t := s.cur
    let n := depthOf t
    let e := target s o - 4
    let vm := vlmax t (sewOf t)
    let pushed (isV : Bool) (u : Thread) : Thread :=
      { u with
        lkind := vput u.lkind n isV
        ctl := { u.ctl with
          lcnt := vput u.ctl.lcnt n (reg s a), lbeg := vput u.ctl.lbeg n (wordAddr (t.pc + 4)), lend := vput u.ctl.lend n (wordAddr e)
          ldepth := BitVec.ofNat 64 (n + 1) } }
    let setVL (u : Thread) : Thread := { u with ctl := { u.ctl with vl := BitVec.ofNat 64 (min (reg s a).toNat vm) } }
    (reg s a = 0 → exec (.loop a o) s = .next (jumped (target s o) id s) ∧ exec (.loopv a o) s = .next (jumped (target s o) id s)) ∧
    (reg s a ≠ 0 → n < 6 → (n = 0 ∨ e.toNat ≤ (lendOf t (n - 1)).toNat) →
      exec (.loop a o) s = .next (jumped (t.pc + 4) (pushed false) s) ∧
      (0 < vm → exec (.loopv a o) s = .next (jumped (t.pc + 4) (fun u => pushed true (setVL u)) s)))) ∧
  (∀ (s : State) (a : SReg) (o : BitVec 15), Calm s →
    let t := s.cur
    let n := depthOf t
    let e := target s o - 4
    (inSup t = true → exec (.loop a o) s = .next (trapped 0x0A 4 0 s) ∧ exec (.loopv a o) s = .next (trapped 0x0A 4 0 s)) ∧
    (inSup t = false → reg s a ≠ 0 →
      (6 ≤ n → exec (.loop a o) s = .next (trapped 0x0A 1 0 s) ∧ exec (.loopv a o) s = .next (trapped 0x0A 1 0 s)) ∧
      (0 < n → n < 6 → (lendOf t (n - 1)).toNat < e.toNat →
        exec (.loop a o) s = .next (trapped 0x0A 5 0 s) ∧ exec (.loopv a o) s = .next (trapped 0x0A 5 0 s)) ∧
      (n < 6 → (n = 0 ∨ e.toNat ≤ (lendOf t (n - 1)).toNat) → vlmax t (sewOf t) = 0 →
        exec (.loopv a o) s = .next (trapped 0x0A 6 0 s)))) ∧
  (∀ (s : State) (a b : SReg) (o : BitVec 15) (k : KReg) (d : SReg) (p : BitVec 20) (i : BitVec 13) (w : Stall) (c : BitVec 12) (h : HReg) (n : Nat),
    s.cur.pend = [] → inSup s.cur = false → depthOf s.cur = n + 1 → lendOf s.cur n = s.cur.pc →
    ∀ j ∈ endless a b o k d p i w c h, exec j s = .next (trapped 0x0A 3 0 s))

/-- R128, R127: an instruction at the end of the innermost body applies its back-edge in the same step, after its own effect (shown on
arithmetic, an o-register, PHASE, FENCE, HHEAL, a load and a store). Levels m to n end there; those above m are popped, a LOOP level
with one pass or none to go, a LOOPV level with no more than VL left, each LOOPV level advancing s20 to s23 by VL times their
strides. Level m then is popped too; or goes back to its beginning, LOOP with one pass less, LOOPV with the smaller of what is left
and VLMAX as VL; or, a LOOPV level that finds VL = 0, traps LOOP with EVAL = 6 and EPC at its beginning, the instruction's effect
standing. -/
def Obligations.BackEdges : Prop :=
  ∀ (s : State) (d a b : SReg) (o : OReg) (h : HReg) (i : BitVec 13) (w : Stall) (c : Scope) (ls : List Loc) (m n : Nat),
    s.cur.pend = [] → inSup s.cur = false → depthOf s.cur = n + 1 → n < 6 → m ≤ n →
    let t := s.cur
    let vl := vlOf t
    let left (j : Nat) : Nat := (lvl t.ctl.lcnt j).toNat
    let isV (j : Nat) : Bool := vnth t.lkind false j
    let pops (j : Nat) : Prop := if isV j = true then 0 < vl ∧ left j ≤ vl else left j ≤ 1
    (∀ j, m ≤ j → j ≤ n → lendOf t j = t.pc) → (∀ j, m < j → j ≤ n → pops j) →
    let k := ((List.range (n + 1)).filter fun j => decide (m < j) && isV j).length
    let drop (u : Thread) : Thread := { u with ctl := { u.ctl with ldepth := BitVec.ofNat 64 m } }
    let above (u : Thread) : Thread := if m = n then u else { u with ctl := { u.ctl with ldepth := BitVec.ofNat 64 (m + 1) } }
    let beg := lbegOf t m
    let edge (j : Instr) (f : Thread → Thread) (x : State) : Prop :=
      (pops m → m = 0 ∨ lendOf t (m - 1) ≠ t.pc →
        exec j s = .next (retired (fun u => drop (streamed^[if isV m = true then k + 1 else k] (f u))) x)) ∧
      (isV m = false → 1 < left m → exec j s = .next (jumped beg (fun u =>
        let y := above (streamed^[k] (f u))
        { y with ctl := { y.ctl with lcnt := vput t.ctl.lcnt m (lvl t.ctl.lcnt m - 1) } }) x)) ∧
      (isV m = true → 0 < vl → vl < left m → exec j s = .next (jumped beg (fun u =>
        let y := above (streamed^[k + 1] (f u))
        { y with ctl := { y.ctl with
          lcnt := vput t.ctl.lcnt m (BitVec.ofNat 64 (left m - vl))
          vl := BitVec.ofNat 64 (min (left m - vl) (vlmax t (sewOf t))) } }) x)) ∧
      (isV m = true → vl = 0 → exec j s = .next (trappedAt beg 0x0A 6 0 { x with
        tick := x.tick + 1, cur := { above (f x.cur) with pc := beg, wait := none, elim := none, brkSkip := none } }))
    (∀ p ∈ straight s d a b o h i w c, edge p.1 p.2 s) ∧
    (Reached s (effective s a i) 8 .scalarLoad ls → (∀ l ∈ ls, poisoned s l = false) →
      edge (.ldD d a i w) (put d (BitVec.ofNat 64 (valueAt s ls))) s) ∧
    (Reached s (effective s a i) 8 .scalarStore ls → ∃ x : State,
      x = { s with mem := x.mem, written := x.written, past := x.past, cores := x.cores, poison := x.poison } ∧
      valueAt x ls = (reg s d).toNat ∧ (∀ l, l ∉ ls → byteAt x l = byteAt s l) ∧ edge (.stD d a i w) id x)

/-- R31, R34, R134: SETVL where the context's target octets that no other thread holds are the ones it has already: VL becomes the
smaller of the request and VLMAX, D receives it, VSTAT.C says whether VLCAP limits it, and no register file changes. R31-R33: SETVL
that changes the grant: LANES is the new one, VSTAT.G is set, v0 keeps the bytes of the lanes in both grants and is zero above them,
VL is the smaller of the request and the new VLMAX and D receives it; references, scale file, o-registers, matrix map, memory and
every other thread are as before. Of v1 to v31 and k1 to k7 nothing is claimed. R221-R223: SETVLR of position p and count c through
a well-formed block table: VL is the smallest of c, what is left of the block of 16 and VLMAX under the grant of R31; D is the
address of token p in its block; h is healed; memory and every other thread are as before. -/
def Obligations.VectorLengths : Prop :=
  (∀ (s : State) (d a : SReg) (w : Stall), Calm s → lanesWord (newGrant s s.cur) = s.cur.ctl.lanes →
    let t := s.cur
    let n := min (reg s a).toNat (vlmax t (sewOf t))
    exec (.setvl d a w) s = .next (retired (fun u => put d (BitVec.ofNat 64 n)
      { u with ctl := { u.ctl with
        vl := BitVec.ofNat 64 n
        vstat := setFld u.ctl.vstat 2 1 (if capOf t (sewOf t) < grantMax t (sewOf t) then 1 else 0) } }) s)) ∧
  (∀ (s : State) (d a : SReg) (w : Stall), Calm s → lanesWord (newGrant s s.cur) ≠ s.cur.ctl.lanes →
    ∃ t, exec (.setvl d a w) s = .next t ∧
      t.cur.ctl.lanes = lanesWord (newGrant s s.cur) ∧ fld t.cur.ctl.vstat 0 1 = 1 ∧
      vlOf t.cur = min (reg s a).toNat (vlmax t.cur (sewOf s.cur)) % 1024 ∧
      t.cur.ctl.vl = BitVec.ofNat 64 (min (reg s a).toNat (vlmax t.cur (sewOf s.cur))) ∧
      (d ≠ 0 → t.cur.s[d] = t.cur.ctl.vl) ∧ (∀ r : SReg, r ≠ d → t.cur.s[r] = s.cur.s[r]) ∧
      vreg t.cur 0 = lowBytes (16 * min (lanesOf s.cur) (lanesOf t.cur)) (vreg s.cur 0) ∧
      t.cur.h = s.cur.h ∧ t.cur.sf = s.cur.sf ∧ t.cur.o = s.cur.o ∧ t.cur.map = s.cur.map ∧ t.cur.pc = s.cur.pc + 4 ∧
      t.mem = s.mem ∧ t.cores = s.cores ∧ t.others = s.others) ∧
  (∀ (s : State) (d a b : SReg) (h : HReg) (w : Stall) (r w16 w24 ref r' : Word) (tbl blk tb doff : Nat) (c0 c1 : Bool), Calm s →
    let x := hreg s.cur h
    let p := (reg s a).toNat
    let c := (reg s b).toNat
    resolveT s x .load = .ok r tbl c0 → tableRead s x (tbl + 16) = .ok w16 → tableRead s x (tbl + 24) = .ok w24 →
    tableShape w16 w24 = some (tb, doff) → p / 16 < fld w16 0 32 → tableRead s x (tbl + 32 + 8 * (p / 16)) = .ok ref →
    resolveT s ref .load = .ok r' blk c1 →
    ∃ u, exec (.setvlr d a b h w) s = .next u ∧
      u.cur.ctl.vl = BitVec.ofNat 64 (min (min c (16 - p % 16)) (vlmax u.cur (sewOf s.cur))) ∧
      (d ≠ 0 → u.cur.s[d] = BitVec.ofNat 64 (blk + doff + p % 16 * tb)) ∧ (∀ q : SReg, q ≠ d → u.cur.s[q] = s.cur.s[q]) ∧
      u.cur.h = s.cur.h.set h r ∧ u.cur.ctl.lanes = lanesWord (newGrant s s.cur) ∧ u.cur.pc = s.cur.pc + 4 ∧
      u.cur.sf = s.cur.sf ∧ u.cur.o = s.cur.o ∧ u.cur.map = s.cur.map ∧ u.mem = s.mem ∧ u.cores = s.cores ∧ u.others = s.others ∧
      (lanesWord (newGrant s s.cur) = s.cur.ctl.lanes → u.cur.v = s.cur.v ∧ u.cur.k = s.cur.k))

/-- R139: the entry of a trap whose handler can be entered, shown on TRAP: PSUP takes the old SUP, SUP is 1, EPC, ECAUSE, EVAL and EREC
are written, the PC is EVEC, and nothing else changes: every register file, FFLAGS, VL and the loop stack, every other control
register, memory and the other threads. EPC and the PC hold the address bits [56:2] of R22 (log entry 42). -/
def Obligations.TrapEntry : Prop :=
  ∀ (s : State) (c : BitVec 12), Calm s → evecOk { s with tick := s.tick + 1 } = true →
    ∃ t, exec (.trap c) s = .next t ∧
      t.cur.pc = vaOf s.cur.ctl.evec ∧ t.cur.ctl.epc = wordAddr s.cur.pc ∧ t.cur.ctl.ecause = 6 ∧ t.cur.ctl.eval = c.zeroExtend 64 ∧
      t.cur.ctl.erec = 0 ∧ fld t.cur.ctl.estat 0 1 = 1 ∧ fld t.cur.ctl.estat 2 1 = fld s.cur.ctl.estat 0 1 ∧
      fld t.cur.ctl.estat 3 61 = fld s.cur.ctl.estat 3 61 ∧
      t = { s with
        tick := s.tick + 1
        cur := { s.cur with
          pc := t.cur.pc, trapped := true, seq := s.cur.seq + 1, issued := s.cur.issued + 1
          wait := none, elim := none, brkSkip := none
          ctl := { s.cur.ctl with
            epc := t.cur.ctl.epc, ecause := t.cur.ctl.ecause, eval := t.cur.ctl.eval, erec := t.cur.ctl.erec
            estat := t.cur.ctl.estat } } }

/-- R139: a trap whose EVEC is 0 or cannot be fetched writes EPC, ECAUSE, EVAL and EREC, leaves ESTAT and the PC as they were, and has
the thread's pack parked and saved; shown on BRK, whose PC is its EPC. That the thread is marked for parking and its pack's save
becomes due as a step of its own is the model's way to do it (log entries 24 and 3). R136, R138: TRAP traps with EVAL = CTRL12, BRK
traps BRKPT with EVAL = 0 in either mode; neither does anything else. R90, R138: what a thread takes where it finds no instruction:
ZERO for the all-zero word, RSV for a non-zero reserved field and ILL for an encoding that is not assigned, the last two with the
word in EVAL; and for a fetch that fails, its trap with EPC and EVAL the fetched address. -/
def Obligations.TrapsAndStops : Prop :=
  (∀ (s : State), evecOk { s with tick := s.tick + 1 } = false →
    ∃ t, exec .brk s = .next t ∧ t.cur.pc = vaOf s.cur.pc ∧ (canonical s.cur.pc = true → t.cur.pc = s.cur.pc) ∧
      t.cur.ctl.epc = wordAddr s.cur.pc ∧ t.cur.ctl.ecause = 0x20 ∧ t.cur.ctl.eval = 0 ∧
      t.cur.ctl.erec = 0 ∧ t.cur.ctl.estat = s.cur.ctl.estat ∧ t.cur.parking = some 2 ∧
      t.work = s.work ++ [.packSave s.cur.pack []] ∧ t.mem = s.mem ∧ t.others = s.others ∧ t.cores = s.cores ∧
      t.cur.s = s.cur.s ∧ t.cur.v = s.cur.v ∧ t.cur.k = s.cur.k ∧ t.cur.h = s.cur.h ∧ t.cur.o = s.cur.o ∧ t.cur.sf = s.cur.sf ∧
      t.cur.map = s.cur.map) ∧
  (∀ (s : State) (c : BitVec 12),
    (Calm s → exec (.trap c) s = .next (trapped 0x06 (c.zeroExtend 64) 0 s)) ∧ exec .brk s = .next (trapped 0x20 0 0 s)) ∧
  (∀ (s : State) (w : BitVec 32) (a : Word),
    (decode w.toNat = .error .zero → exec (.unassignedEncoding w) s = .next (trapped 0x03 0 0 s)) ∧
    (decode w.toNat = .error .rsv → exec (.unassignedEncoding w) s = .next (trapped 0x02 (w.zeroExtend 64) 0 s)) ∧
    (decode w.toNat = .error .ill → exec (.unassignedEncoding w) s = .next (trapped 0x01 (w.zeroExtend 64) 0 s)) ∧
    (∀ e, fetchAt s s.cur a = .error e → ∃ t, exec (.instructionFetchFault a) s = .next t ∧
      t.cur.ctl.epc = wordAddr a ∧ t.cur.ctl.eval = a ∧ t.cur.ctl.ecause = BitVec.ofNat 64 e.cause ∧
      (e.cause = 0x05 ∨ e.cause = 0x10 ∨ e.cause = 0x19) ∧ t.mem = s.mem ∧ t.cur.s = s.cur.s ∧ t.cur.seq = s.cur.seq))

/-- R140: ERET in supervisor mode gives SUP the value of PSUP, clears PSUP and continues at EPC; nothing else of the thread's registers
or of the machine changes, but for the breakpoint it passes over (R410). In user mode it traps PRIV with its own word, whatever loop
ends there (log entry 46). R141: IDLE in supervisor mode parks the thread with KIND 1 and has its pack saved, as a step of its own
(log entry 24); in user mode it traps PRIV with its own word, whatever loop ends there (log entry 46). -/
def Obligations.ReturnAndIdle : Prop :=
  (∀ (s : State), s.cur.pend = [] →
    (inSup s.cur = true → ∃ t, exec .eret s = .next t ∧ t.cur.pc = vaOf s.cur.ctl.epc ∧
      fld t.cur.ctl.estat 0 1 = fld s.cur.ctl.estat 2 1 ∧ fld t.cur.ctl.estat 2 1 = 0 ∧
      fld t.cur.ctl.estat 3 61 = fld s.cur.ctl.estat 3 61 ∧
      t = { s with
        tick := s.tick + 1
        cur := { s.cur with
          pc := t.cur.pc, seq := s.cur.seq + 1, issued := s.cur.issued + 1, wait := none, elim := none
          brkSkip := t.cur.brkSkip, ctl := { s.cur.ctl with estat := t.cur.ctl.estat } } }) ∧
    (inSup s.cur = false → exec .eret s = .next (trapped 0x04 0xFA000000 0 s))) ∧
  (∀ (s : State),
    (inSup s.cur = true → exec .idle s = .next { s with
      tick := s.tick + 1
      work := s.work ++ [.packSave s.cur.pack []]
      cur := { s.cur with
        parking := some 1, pend := [], seq := s.cur.seq + 1, issued := s.cur.issued + 1, wait := none, elim := none
        brkSkip := none } }) ∧
    (inSup s.cur = false → exec .idle s = .next (trapped 0x04 0xFA000004 0 s)))

/-- R136, R302: WAIT and FENCEI go on once nothing of the thread is outstanding, and else wait at the same place. That FENCEI has
nothing else to do is the model's choice: a fetch reads memory as it stands (log entry 48). R137, R287: PHASE and FENCE of every
scope complete and change nothing but the PC; that no order of steps is left for them to settle is the model's choice (log entry 4). -/
def Obligations.WaitsAndFences : Prop :=
  (∀ (s : State), Calm s → s.cur.folBad = [] →
    (Drained s → exec .wait s = .next (retired id s) ∧ exec .fencei s = .next (retired id s)) ∧
    (¬ Drained s → exec .wait s = .next (waiting .wait s) ∧ exec .fencei s = .next (waiting .fencei s))) ∧
  (∀ (s : State) (c : Scope), Calm s → exec (.phase c) s = .next (retired id s) ∧ exec (.fence c) s = .next (retired id s))

/-- R20, R135: GETC of a register the map lists, in a mode that may read it, writes D with the register, its reserved bits zero (log
entry 42), and changes no other state; CYCLE alone also counts the cycles that have passed (a free amount, log entry 8). A
privileged register read in user mode traps PRIV, a number the map does not list ILL, each with the instruction's word. R20, R22,
R135: PUTC of a register without a rule of its own writes it with the source, its reserved bits zero, and nothing else. R20, R22,
R130: what a PUTC that fails its checks traps: ILL for a number not listed, a read-only register or a value out of range, PRIV for a
trap or privileged register in user mode, LOOP with EVAL = 2 for LBEG or LEND of an active level. -/
def Obligations.ControlRegisterAccess : Prop :=
  (∀ (s : State) (d : SReg) (c : BitVec 12), Calm s →
    let n := c.toNat
    ((ctlMask n).isSome = true → (n < 0x800 ∨ inSup s.cur = true) → n ≠ 0x01B →
      exec (.getc d c) s = .next (retired (put d (ctlRead s n &&& (ctlMask n).getD 0)) s)) ∧
    (n = 0x01B → exec (.getc d c) s = .next (retired (fun t => put d (s.cur.ctl.cycle + Config.freeCycles s.tick)
      { t with ctl := { t.ctl with cycle := s.cur.ctl.cycle + Config.freeCycles s.tick } }) s)) ∧
    ((ctlMask n).isSome = true → 0x800 ≤ n → inSup s.cur = false → exec (.getc d c) s = .next (trapped 0x04 (own (.getc d c)) 0 s)) ∧
    ((ctlMask n).isNone = true → exec (.getc d c) s = .next (trapped 0x01 (own (.getc d c)) 0 s))) ∧
  (∀ (s : State) (a : SReg) (c : BitVec 12), Calm s →
    let n := c.toNat
    Writable s n (reg s a) → n ∉ special →
      exec (.putc a c) s = .next (retired (fun t =>
        { t with ctl := ctlSet n (reg s a &&& (ctlMask n).getD 0) t.ctl }) s)) ∧
  (∀ (s : State) (a : SReg) (c : BitVec 12), Calm s →
    let n := c.toNat
    let i : Instr := .putc a c
    ((ctlMask n).isNone = true → exec i s = .next (trapped 0x01 (own i) 0 s)) ∧
    ((ctlMask n).isSome = true → 0x100 ≤ n → inSup s.cur = false → exec i s = .next (trapped 0x04 (own i) 0 s)) ∧
    ((ctlMask n).isSome = true → (n < 0x100 ∨ inSup s.cur = true) → (ctlReadOnly s.cur n = true ∨ ctlValid n (reg s a) = false) →
      exec i s = .next (trapped 0x01 (own i) 0 s)) ∧
    ((ctlMask n).isSome = true → (n < 0x100 ∨ inSup s.cur = true) → ctlReadOnly s.cur n = false → ctlValid n (reg s a) = true →
      activeBound s.cur n → exec i s = .next (trapped 0x0A 2 0 s)))

/-- R21, R22: the control registers a thread owns are separate: a write to one is what a read of it gives, and no read of another
changes. -/
def Obligations.ControlRegistersAreSeparate : Prop :=
  ∀ (n m : Nat) (v : Word) (c : Ctl), n ∈ savedCtl → m ∈ savedCtl →
    ctlGet m (ctlSet n v c) = if m = n then v else ctlGet m c

/-- R25, R130, R139, R192, R205, R207, R337: the registers with a rule of their own, in supervisor mode, and the rows of the table that
are one PUTC's write: MAPBASE with nothing resident, MSPLIT with no slot of the core held (else ILL), LANEPART for the whole core,
EPC (which ends a stopped chain group), ESTAT (whose SUP stays), LCNT, LBEG or LEND of a level that is not active, and LDEPTH.
Model's choices: what PUTC keeps of a value, and the ILL of another MSPLIT on a core reserved for a saved pack, is log entry 42;
that the number of instructions of a stopped group is a count beside the registers, zero after a PUTC of EPC, is log entry 40; that
a PUTC of another EPC also ends what a stopped .last load has touched is log entry 7 (DESIGN CHOICE). -/
def Obligations.SpecialRegisterWrites : Prop :=
  ∀ (s : State) (v : Word) (a : SReg) (n : Fin 6) (e : Bool), Calm s → inSup s.cur = true →
    let cid := cidOf s.cur
    let x := reg s a
    (heldSlots s.cur.map = [] → exec (.mapbaseWrite v) s = .next (retired (fun t =>
      { t with ctl := { t.ctl with mapbase := v &&& (ctlMask 0x800).getD 0 } }) s) ∧ exec (.putc a 0x800) s = exec (.mapbaseWrite x) s) ∧
    (ctlValid 0x803 v = true → ∃ t, exec (.lanepartWrite v) s = .next t ∧ t.cur = after s.cur ∧
      fld (coreOf t cid).lanepart 0 4 = fld v 0 4 ∧ (∀ k, k ≠ cid → coreOf t k = coreOf s k) ∧ t.mem = s.mem ∧ t.others = s.others) ∧
    (ctlValid 0x803 x = true → exec (.putc a 0x803) s = exec (.lanepartWrite x) s) ∧
    (ctlValid 0x801 v = true → v &&& (ctlMask 0x801).getD 0 = (coreOf s cid).msplit → exec (.msplitWrite v) s = .next (retired id s)) ∧
    (ctlValid 0x801 v = true → coreHolds s cid = false → coreReserved s [] cid = false → (coreOf s cid).tags = [] → ∃ t, exec (.msplitWrite v) s = .next t ∧
      (coreOf t cid).msplit = v &&& (ctlMask 0x801).getD 0 ∧ t.cur = after s.cur ∧ t.mem = s.mem ∧ t.others = s.others) ∧
    (ctlValid 0x801 x = true → x &&& (ctlMask 0x801).getD 0 ≠ (coreOf s cid).msplit →
      coreHolds s cid = true ∨ coreReserved s [] cid = true → exec (.putc a 0x801) s = .next (trapped 0x01 (own (.putc a 0x801)) 0 s)) ∧
    (ctlValid 0x801 x = true → coreHolds s cid = false → coreReserved s [] cid = false → exec (.putc a 0x801) s = exec (.msplitWrite x) s) ∧
    exec (.putc a 0x102) s = .next (retired (fun t =>
      { t with
        chain := 0
        ctl := { t.ctl with epc := x &&& (ctlMask 0x102).getD 0 }
        touched := if x &&& (ctlMask 0x102).getD 0 = t.ctl.epc then t.touched
          else terase t.touched (touchKey (vaOf t.ctl.epc) (wbit t.ctl.estat 2)) }) s) ∧
    (∃ y, exec (.putc a 0x806) s = .next (retired (fun t => { t with ctl := { t.ctl with estat := y } }) s) ∧
      fld y 0 1 = 1 ∧ fld y 2 1 = fld x 2 1 ∧ fld y 3 1 = fld x 3 1) ∧
    exec (.lcntWrite n v) s = .next (retired (fun t => { t with ctl := ctlSet (0x040 + n.val) v t.ctl }) s) ∧
    (depthOf s.cur ≤ n.val → exec (.lbegLendWrite e n v) s = .next (retired (fun t =>
      { t with ctl := ctlSet ((if e then 0x050 else 0x048) + n.val) (v &&& bitsMask 2 56) t.ctl }) s)) ∧
    (ctlValid 0x058 v = true → exec (.ldepthWrite v) s = .next (retired (fun t =>
      { t with ctl := { t.ctl with ldepth := v &&& 7 } }) s))

/-- R115: with SCHK.EN = 1 an operand whose producer of latency 4 is too near traps STALL with the register's number, before any effect;
with EN = 0 the instruction runs, and what it reads is the value before or the result. Shown on ADD. -/
def Obligations.EarlyReads : Prop :=
  ∀ (s : State) (d a b : SReg) (w : Stall) (p : Pending), NoEdge s.cur → s.cur.pend = [p] → p.dist < 3 → p.reg = a → a ≠ 0 → b ≠ a →
    (fld s.cur.ctl.schk 0 1 = 1 → exec (.add d a b w) s = .next (trapped 0x09 (BitVec.ofNat 64 a.val) 0 s)) ∧
    (fld s.cur.ctl.schk 0 1 = 0 → ∃ x t, (x = p.old ∨ x = s.cur.s[a]) ∧ exec (.add d a b w) s = .next t ∧
      t.cur.pc = s.cur.pc + 4 ∧ t.cur.s = (put d (x + reg s b) s.cur).s ∧ t.mem = s.mem)

/-- R152, R24, R27: the element-wise arithmetic instructions complete; element i of v_D is the operation on elements i of the sources
(the last may be a scalar's low bits), for the body's elements alone. R152, R153: the integer operations on signed elements of width
w, modulo 2^w; a quotient truncates toward zero and division by 0 gives all ones. R154: the functions of one operand complete at SEW
16 and 32 with KIND float, BF16 elements through the rule of each. -/
def Obligations.VectorArithmetic : Prop :=
  (∀ (s : State) (d a : VReg) (b : VSrc) (k : Kind), VecReady s (sewOf s.cur) → kindOf s.cur = some k →
    let t := s.cur
    let w := sewOf t
    let out (o : Arith) (i : Nat) : Nat × Flags := arith o k (elt t a w i) (srcElt s w b i) (elt t d w i)
    let wrote (o : Arith) (u : State) : Prop := VecWrote s u d w (body s) (fun i => (out o i).1) (bodyFlags s fun i => (out o i).2)
    (∃ u, exec (.vadd d a b) s = .next u ∧ wrote .add u) ∧ (∃ u, exec (.vsub d a b) s = .next u ∧ wrote .sub u) ∧
    (∃ u, exec (.vmul d a b) s = .next u ∧ wrote .mul u) ∧ (∃ u, exec (.vmin d a b) s = .next u ∧ wrote .min u) ∧
    (∃ u, exec (.vmax d a b) s = .next u ∧ wrote .max u) ∧ (∃ u, exec (.vdiv d a b) s = .next u ∧ wrote .div u) ∧
    (∃ u, exec (.vfma d a b) s = .next u ∧ wrote .fma u) ∧ (∃ u, exec (.vfms d a b) s = .next u ∧ wrote .fms u) ∧
    (∃ u, exec (.vabs d a) s = .next u ∧ VecWrote s u d w (body s) (fun i => absK k (elt t a w i)) 0) ∧
    (∃ u, exec (.vneg d a) s = .next u ∧ VecWrote s u d w (body s) (fun i => negK k (elt t a w i)) 0)) ∧
  (∀ (k : Kind) (a b d : Nat), isFloat k = false → a < 2 ^ k.width → b < 2 ^ k.width → d < 2 ^ k.width →
    let w := k.width
    (arith .add k a b d).1 = (a + b) % 2 ^ w ∧ (arith .sub k a b d).1 = (a + 2 ^ w - b) % 2 ^ w ∧
    (arith .mul k a b d).1 = a * b % 2 ^ w ∧ (arith .fma k a b d).1 = (a * b + d) % 2 ^ w ∧
    (arith .fms k a b d).1 = (d + 2 ^ w * 2 ^ w - a * b) % 2 ^ w ∧
    (arith .min k a b d).1 = (if intK k b < intK k a then b else a) ∧ (arith .max k a b d).1 = (if intK k a < intK k b then b else a) ∧
    (b = 0 → (arith .div k a b d).1 = 2 ^ w - 1) ∧
    (b ≠ 0 → intK k a = -(2 ^ (w - 1)) → intK k b = -1 → (arith .div k a b d).1 = a) ∧
    (b ≠ 0 → (arith .div k a b d).1 = (Int.tdiv (intK k a) (intK k b) % 2 ^ w).toNat) ∧
    (∀ o, (arith o k a b d).2 = 0)) ∧
  (∀ (s : State) (d a : VReg), VecReady s (sewOf s.cur) → isInt s.cur = false → sewOf s.cur ≠ 64 →
    let t := s.cur
    let w := sewOf t
    let half (f : BitVec 16 → BitVec 16 × Flags) (g : F32 → R32) (i : Nat) : Nat × Flags :=
      if w = 16 then ((f (BitVec.ofNat 16 (elt t a w i))).1.toNat, (f (BitVec.ofNat 16 (elt t a w i))).2)
      else ((g (BitVec.ofNat 32 (elt t a w i))).1.toNat, (g (BitVec.ofNat 32 (elt t a w i))).2)
    let wrote (f : BitVec 16 → BitVec 16 × Flags) (g : F32 → R32) (u : State) : Prop :=
      VecWrote s u d w (body s) (fun i => (half f g i).1) (bodyFlags s fun i => (half f g i).2)
    (∃ u, exec (.vsqrt d a) s = .next u ∧ wrote (fun x => toB16 .rne (sqrtNum (numB16 x))) (sqrt32 .rne) u) ∧
    (∃ u, exec (.vrcp d a) s = .next u ∧ wrote (atB16 vrcpT) vrcpT u) ∧
    (∃ u, exec (.vrsqrt d a) s = .next u ∧ wrote (atB16 vrsqrtT) vrsqrtT u) ∧
    (∃ u, exec (.vexp2 d a) s = .next u ∧ wrote (atB16 vexp2T) vexp2T u) ∧
    (∃ u, exec (.vexp d a) s = .next u ∧ wrote (atB16 vexpT) vexpT u) ∧
    (∃ u, exec (.vln2 d a) s = .next u ∧ wrote (atB16 vln2T) vln2T u))

/-- R155: the bit-pattern instructions complete at every VTYPE, raising no flag; a shift takes its amount modulo the width. R156: VCMP
writes one mask bit for each element of the body; the unsigned conditions need integers. R157, R158: the mask logic instructions
write every bit from VSTART to VL whatever KSEL says; KPOP counts the ones below VL and KFIRST gives the lowest, or all ones where
there is none. -/
def Obligations.VectorLogicAndMasks : Prop :=
  (∀ (s : State) (d a : VReg) (b : VSrc), VecReady s (sewOf s.cur) →
    let t := s.cur
    let w := sewOf t
    let x (i : Nat) := elt t a w i
    let y (i : Nat) := srcElt s w b i
    let wrote (f : Nat → Nat) (u : State) : Prop := VecWrote s u d w (body s) f 0
    (∃ u, exec (.vand d a b) s = .next u ∧ wrote (fun i => x i &&& y i) u) ∧
    (∃ u, exec (.vor d a b) s = .next u ∧ wrote (fun i => x i ||| y i) u) ∧
    (∃ u, exec (.vxor d a b) s = .next u ∧ wrote (fun i => x i ^^^ y i) u) ∧
    (∃ u, exec (.vsll d a b) s = .next u ∧ wrote (fun i => x i <<< (y i % w)) u) ∧
    (∃ u, exec (.vsrl d a b) s = .next u ∧ wrote (fun i => x i >>> (y i % w)) u) ∧
    (∃ u, exec (.vsra d a b) s = .next u ∧
      wrote (fun i => if x i < 2 ^ (w - 1) then x i >>> (y i % w) else 2 ^ w - 1 - (2 ^ w - 1 - x i) >>> (y i % w)) u)) ∧
  (∀ (s : State) (d : KReg) (a : VReg) (b : VSrc) (c : VCond) (k : Kind), VecReady s (sewOf s.cur) → vlOf s.cur ≤ 512 →
    kindOf s.cur = some k → (isInt s.cur = true ∨ (c ≠ .ltu ∧ c ≠ .geu)) →
    let w := sewOf s.cur
    let out (i : Nat) := vcmpK c k (elt s.cur a w i) (srcElt s w b i)
    ∃ u, exec (.vcmp d a b c) s = .next u ∧ MaskWrote s u d (body s) (fun i => (out i).1) (bodyFlags s fun i => (out i).2)) ∧
  (∀ (s : State) (d a b : KReg) (r : SReg), VecReady s 16 →
    let x (i : Nat) := (kreg s.cur a).getLsbD i
    let y (i : Nat) := (kreg s.cur b).getLsbD i
    let on (i : Nat) : Bool := decide (vstartOf s.cur ≤ i) && decide (i < vlOf s.cur)
    let wrote (f : Nat → Bool) (u : State) : Prop := MaskWrote s u d on f 0
    let ones := (List.range (vlOf s.cur)).filter x
    (∃ u, exec (.kand d a b) s = .next u ∧ wrote (fun i => x i && y i) u) ∧
    (∃ u, exec (.kor d a b) s = .next u ∧ wrote (fun i => x i || y i) u) ∧
    (∃ u, exec (.kxor d a b) s = .next u ∧ wrote (fun i => x i ^^ y i) u) ∧
    (∃ u, exec (.knot d a) s = .next u ∧ wrote (fun i => !x i) u) ∧
    exec (.kpop r a) s = .next (scalarOut r (BitVec.ofNat 64 ones.length) 0 s) ∧
    exec (.kfirst r a) s = .next (scalarOut r (match ones with
      | [] => BitVec.allOnes 64
      | i :: _ => BitVec.ofNat 64 i) 0 s))

/-- R161, R165, R166: VIOTA counts the ones below each element, VID numbers the elements, VBCAST copies a scalar's low bits, and VMERGE
chooses by the mask register that KSEL names, for every element of the vector from VSTART. R159, R160, R163, R164: with VSTART = 0
the instructions that move elements between places complete: VCOMPRESS packs the selected elements, VEXPAND spreads the lowest over
the selected places, the slides move by a scalar, VPERM picks by index, an index beyond VL giving 0. -/
def Obligations.VectorMovementOfElements : Prop :=
  (∀ (s : State) (d a b : VReg) (k : KReg) (r : SReg), VecReady s (sewOf s.cur) →
    let w := sewOf s.cur
    (∃ u, exec (.viota d k) s = .next u ∧
      VecWrote s u d w (body s) (fun i => ((List.range i).filter fun j => (kreg s.cur k).getLsbD j).length) 0) ∧
    (∃ u, exec (.vid d) s = .next u ∧ VecWrote s u d w (body s) (fun i => i) 0) ∧
    (∃ u, exec (.vbcast d r) s = .next u ∧ VecWrote s u d w (body s) (fun _ => (reg s r).toNat) 0) ∧
    (kselOf s.cur ≠ 0 → ∃ u, exec (.vmerge d a b) s = .next u ∧
      VecWrote s u d w (fun i => decide (vstartOf s.cur ≤ i) && decide (i < vlOf s.cur))
        (fun i => if (kreg s.cur (kselOf s.cur)).getLsbD i then elt s.cur a w i else elt s.cur b w i) 0)) ∧
  (∀ (s : State) (d a b : VReg) (k : KReg) (r : SReg), VecReady s (sewOf s.cur) → vstartOf s.cur = 0 →
    let t := s.cur
    let w := sewOf t
    let n := (reg s r).toNat
    let sel := (List.range (vlOf t)).filter fun i => (kreg t k).getLsbD i && governed t i
    (∃ u, exec (.vcompress d a k) s = .next u ∧
      VecWrote s u d w (fun j => decide (j < sel.length)) (fun j => elt t a w (sel.getD j 0)) 0) ∧
    (∃ u, exec (.vexpand d a k) s = .next u ∧
      VecWrote s u d w (fun i => sel.contains i) (fun i => elt t a w (sel.idxOf i)) 0) ∧
    (∃ u, exec (.vslideup d a r) s = .next u ∧
      VecWrote s u d w (fun i => acting s i && decide (n ≤ i)) (fun i => elt t a w (i - n)) 0) ∧
    (∃ u, exec (.vslidedn d a r) s = .next u ∧
      VecWrote s u d w (acting s) (fun i => if i + n < vlOf t then elt t a w (i + n) else 0) 0) ∧
    (∃ u, exec (.vperm d a b) s = .next u ∧
      VecWrote s u d w (acting s) (fun i => if elt t b w i < vlOf t then elt t a w (elt t b w i) else 0) 0))

/-- R162, R167, R168: with VSTART = 0 and an active vector the prefix and the reductions complete: VSCAN combines each active element
with those before it, VREDSUM, VREDMAX and VREDMIN combine the initial scalar with the tree over the active elements, and VSEGRED
writes the tree of each segment of 2^SEG elements to the elements from 0. Model's choice (log entry 50, DESIGN CHOICE): with no
active element VREDMAX and VREDMIN still combine the initial scalar with the identity by R65, which for a NaN is not the initial
scalar itself that R167 names. -/
def Obligations.VectorReductions : Prop :=
  ∀ (s : State) (d a : VReg) (r i : SReg) (u : RedOp) (k : Kind), VecReady s (sewOf s.cur) → vstartOf s.cur = 0 → 0 < vlOf s.cur →
    kindOf s.cur = some k →
    let t := s.cur
    let w := sewOf t
    let leaf (u : RedOp) (j : Nat) : Nat := if j < vlOf t ∧ governed t j = true then elt t a w j else identityK u k
    let tree (u : RedOp) := reduceK u k ((List.range (vlOf t)).map (leaf u))
    let all (u : RedOp) := redK u k ((reg s i).toNat % 2 ^ w) (tree u).1
    let wide (x : Nat) : Word := if isFloat k then BitVec.ofNat 64 x else sextNat w x
    let out (u : RedOp) := scalarOut r (wide (all u).1) ((tree u).2 ||| (all u).2) s
    let g := 2 ^ segOf t
    let seg (q : Nat) := reduceK u k ((List.range g).map fun j => leaf u (q * g + j))
    let n := (vlOf t + g - 1) / g
    exec (.vredsum r a i) s = .next (out .sum) ∧ exec (.vredmax r a i) s = .next (out .max) ∧
    exec (.vredmin r a i) s = .next (out .min) ∧
    (∃ x, exec (.vsegred d a u) s = .next x ∧ VecWrote s x d w (fun q => decide (q < n)) (fun q => (seg q).1)
      ((List.range n).foldl (fun f q => f ||| (seg q).2) 0)) ∧
    (∃ x f p, exec (.vscan d a u) s = .next x ∧ VecWrote s x d w (acting s) p f ∧
      (∀ j, acting s j = true → (∀ q, q < j → acting s q = false) → p j = elt t a w j) ∧
      (∀ j q, acting s j = true → acting s q = true → q < j → (∀ m, q < m → m < j → acting s m = false) →
        p j = (redK u k (p q) (elt t a w j)).1))

/-- R165: VMVS moves element 0 to a scalar, extended by KIND, or a scalar's low bits to element 0; both need a lane, neither looks at VL
or the mask. R169: VCVT converts element i of the source width to element i of the destination width, for the body. -/
def Obligations.VectorMovesAndConversions : Prop :=
  (∀ (s : State) (r : SReg) (v : VReg), Calm s → s.cur.vbad = [] → s.cur.chain = 0 →
    let w := sewOf s.cur
    (lanesOf s.cur ≠ 0 →
      exec (.vmvsToScalar r v) s = .next (scalarOut r (if isInt s.cur then sextNat w (elt s.cur v w 0) else BitVec.ofNat 64 (elt s.cur v w 0)) 0 s) ∧
      (∃ u, exec (.vmvsToVector v r) s = .next u ∧ VecWrote s u v w (fun i => i == 0) (fun _ => (reg s r).toNat) 0)) ∧
    (lanesOf s.cur = 0 →
      exec (.vmvsToScalar r v) s = .next (trapped 0x08 (BitVec.ofNat 64 ((encode (.vmvsToScalar r v)).getD 0)) 0 s) ∧
      exec (.vmvsToVector v r) s = .next (trapped 0x08 (BitVec.ofNat 64 ((encode (.vmvsToVector v r)).getD 0)) 0 s))) ∧
  (∀ (s : State) (d a : VReg) (c : VConv), VecReady s (max (convKinds c).1.width (convKinds c).2.width) →
    (Instr.vcvt d a c).wellFormed = true →
    let kd := (convKinds c).1
    let ka := (convKinds c).2
    let out (i : Nat) := convK kd ka (elt s.cur a ka.width i)
    ∃ u, exec (.vcvt d a c) s = .next u ∧ VecWrote s u d kd.width (body s) (fun i => (out i).1) (bodyFlags s fun i => (out i).2))

/-- R142, R145, R146, R148, R166: what a vector instruction that cannot start traps, before any element: ILL for a VTYPE it does not
take, for a class-W instruction with VSTART inside the vector and for VMERGE with KSEL = 0, VLX where VL exceeds the grant, each
with the instruction's word. The order of these checks is the model's choice (log entry 50): that the VTYPE is checked first, so
that VMERGE with KSEL = 0 traps ILL whatever VL is, and VLX before VSTART, so that VPERM traps VLX whatever VSTART is. R151: a
damaged source byte stops an element-wise instruction at the first element that needs it: the elements before it are written, VSTART
names it, and the trap is ECC with the register in EVAL. Shown on VAND of one damaged source. -/
def Obligations.VectorRefusalsAndDamage : Prop :=
  (∀ (s : State) (d a b : VReg) (x : VSrc) (r : SReg), s.cur.pend = [] →
    let w := sewOf s.cur
    let word (i : Instr) : Word := BitVec.ofNat 64 ((encode i).getD 0)
    (kindOf s.cur = none → exec (.vadd d a x) s = .next (trapped 0x01 (word (.vadd d a x)) 0 s) ∧
      exec (.vabs d a) s = .next (trapped 0x01 (word (.vabs d a)) 0 s)) ∧
    ((isInt s.cur = true ∨ w = 64) → exec (.vexp d a) s = .next (trapped 0x01 (word (.vexp d a)) 0 s)) ∧
    (kselOf s.cur = 0 → exec (.vmerge d a b) s = .next (trapped 0x01 (word (.vmerge d a b)) 0 s)) ∧
    (grantMax s.cur w < vlOf s.cur → exec (.vand d a x) s = .next (trapped 0x08 (word (.vand d a x)) 0 s) ∧
      exec (.vperm d a b) s = .next (trapped 0x08 (word (.vperm d a b)) 0 s)) ∧
    (vlOf s.cur ≤ grantMax s.cur w → 0 < vstartOf s.cur → vstartOf s.cur < vlOf s.cur →
      exec (.vperm d a b) s = .next (trapped 0x01 (word (.vperm d a b)) 0 s) ∧
      exec (.vslideup d a r) s = .next (trapped 0x01 (word (.vslideup d a r)) 0 s))) ∧
  (∀ (s : State) (d a : VReg) (r : SReg) (i byte : Nat), Calm s → s.cur.kbad = [] → s.cur.elim = none → s.cur.vbad = [(a.val, byte)] →
    let w := sewOf s.cur
    vlOf s.cur ≤ grantMax s.cur w → w * vlOf s.cur ≤ 8192 → i = 8 * byte / w → body s i = true →
    ∃ u, exec (.vand d a (.scl r)) s = .next u ∧ u.cur.ctl.ecause = 0x19 ∧
      u.cur.ctl.eval = BitVec.ofNat 64 (2 ^ 63 + 0x100 + a.val) ∧ u.cur.ctl.vstart = BitVec.ofNat 64 i ∧ u.cur.ctl.epc = wordAddr s.cur.pc ∧
      (∀ j, w * j + w ≤ 8192 → elt u.cur d w j =
        if body s j = true ∧ j < i then (elt s.cur a w j &&& (reg s r).toNat) % 2 ^ w else elt s.cur d w j) ∧
      u.mem = s.mem ∧ u.cur.s = s.cur.s)

/-- R172-R176, R180, R24: VLD in its three modes and VLDX complete where every active element is reached and clean: element e of v holds
load_convert of the memory element at the address of R174, flags are ORed in, VSTART (and EPROG of a tile) is 0, VSTAT.T of a unit
or strided load is 0, and memory is as it was unless the hint is last use, which may drop stored bytes (log entry 7). -/
def Obligations.VectorLoads : Prop :=
  ∀ (s : State) (v i : VReg) (b : SReg) (f : Fmt) (m : VMode) (h : Hint) (x : BitVec 6) (k : Kind) (ls : Nat → List Loc),
    kindOf s.cur = some k → pairOk f (some k) = true →
    let w := sewOf s.cur
    (MemReady s m →
      (∀ e, inAccess s m e = true → Accessed s f .load (vmItem s b f m x e) (ls e) ∧ Clean s (ls e)) →
      let out (e : Nat) := loadConv s.cur f k e (itemRead s f (vmItem s b f m x e) (ls e))
      ∃ u, exec (.vld v b f m h x) s = .next u ∧
        VecWrote (cleared m true s) (hinted s u) v w (inAccess s m) (fun e => (out e).1)
          (accessFlags s m fun e => (out e).2) ∧ (h.val ≠ 3 → u = hinted s u)) ∧
    (VecReady s w →
      (∀ e, body s e = true → Accessed s f .load (idxItem s b f i e) (ls e) ∧ Clean s (ls e)) →
      let out (e : Nat) := loadConv s.cur f k e (itemRead s f (idxItem s b f i e) (ls e))
      ∃ u, exec (.vldx v b f h i) s = .next u ∧
        VecWrote s (hinted s u) v w (body s) (fun e => (out e).1) (bodyFlags s fun e => (out e).2) ∧
        (h.val ≠ 3 → u = hinted s u))

/-- R172-R177, R62: VST in its three modes and VSTX complete where every active element is reached: each element that no later one
overwrites stands in memory as store_convert of element e of v, every byte outside the active elements is as it was, and beside
memory only VSTART (EPROG of a tile), the flags and the PC have changed. -/
def Obligations.VectorStores : Prop :=
  ∀ (s : State) (v i : VReg) (b : SReg) (f : Fmt) (m : VMode) (h : Hint) (x : BitVec 6) (k : Kind) (ls : Nat → List Loc),
    kindOf s.cur = some k → pairOk f (some k) = true →
    let w := k.width
    let out (e : Nat) := storeConv s.cur f k e (elt s.cur v w e)
    (MemReady s m → (∀ e, inAccess s m e = true → Accessed s f .store (vmItem s b f m x e) (ls e)) →
      ∃ u, exec (.vst v b f m h x) s = .next u ∧
        OnlyBytes (cleared m false s) u (fun t => { t with ctl := { t.ctl with
          vstart := 0, fflags := t.ctl.fflags ||| (accessFlags s m fun e => (out e).2).zeroExtend 64 } }) ∧
        (∀ e, inAccess s m e = true → LastWriter (inAccess s m) f (vmItem s b f m x) ls e →
          itemRead u f (vmItem s b f m x e) (ls e) = (out e).1 % 2 ^ esz f) ∧
        (∀ l, (∀ e, inAccess s m e = true → l ∉ ls e) → byteAt u l = byteAt s l)) ∧
    (VecReady s (sewOf s.cur) → (∀ e, body s e = true → Accessed s f .store (idxItem s b f i e) (ls e)) →
      ∃ u, exec (.vstx v b f h i) s = .next u ∧
        OnlyBytes s u (fun t => { t with ctl := { t.ctl with
          vstart := 0, fflags := t.ctl.fflags ||| (bodyFlags s fun e => (out e).2).zeroExtend 64 } }) ∧
        (∀ e, body s e = true → LastWriter (body s) f (idxItem s b f i) ls e →
          itemRead u f (idxItem s b f i e) (ls e) = (out e).1 % 2 ^ esz f) ∧
        (∀ l, (∀ e, body s e = true → l ∉ ls e) → byteAt u l = byteAt s l))

/-- R185-R189: a unit or strided load whose element g is the lowest that fails. Where an active element stands below g the load
completes on the elements below g with VL = g and VSTAT.T = 1; where g is the first active one it traps PFLD or ADDR with EVAL = its
address. A store writes the elements below g and traps PFST or ADDR with VSTART = g. A tile access performs the rows below the one
that holds its lowest failing element and traps PFTL or ADDR with EPROG at the first element of that row and EVAL = the address. A
gather or scatter with a failing element traps PFGA with EVAL = its base and EREC = its record, before any element: no byte outside
the record changes. R190, R188, R291: a load whose element g is the lowest to read poison writes every active element below g and
none from g on, and traps ECC with EVAL = the address of g and VSTART, or EPROG of a tile, = g; no memory changes. A VAMOADD with a
failing element traps PFGA before any element, as a gather does, and one that names a device-io page traps ADDR with EVAL = the
lowest such address. At poison it has performed the elements below g alone, and VSTART = g. R217: an MLD or MST whose element g is
the lowest that fails has performed the rows below g's and nothing of its row or above; it traps ADDR or PFTL with EVAL = the
address of g and EPROG at the first element of the row. An MLD whose element g is the lowest to read poison has written the elements
below g and traps ECC with EPROG = g. -/
def Obligations.VectorAccessFaults : Prop :=
  ((∀ (s : State) (v i : VReg) (b : SReg) (f : Fmt) (m : VMode) (h : Hint) (x : BitVec 6) (k : Kind) (ls : Nat → List Loc) (g : Nat) (a : Word)
    (bad : Bad), kindOf s.cur = some k → pairOk f (some k) = true → m ≠ .tile → bad ≠ .ecc → VecReady s (sewOf s.cur) → body s g = true →
    let w := sewOf s.cur
    let item := vmItem s b f m x
    let cause (n : Nat) : Nat := if bad = .addr then 0x05 else n
    let idx := idxItem s b f i
    let kept (u : State) : Prop := u.cur = s.cur ∧ u.others = s.others ∧ u.cores = s.cores ∧ u.pkg = s.pkg ∧
      ∀ pa, (∀ q, framePa s (s.cur.frame * 65536 + 0x40) = some q → pa < q ∨ q + 256 ≤ pa) → readPhys u pa = readPhys s pa
    ((∀ e, body s e = true → (item e).addr.toNat % ebytes f = 0) →
      xlatN s s.cur (item g).addr (ebytes f) .load = .error (bad, a) →
      (∀ e, body s e = true → e < g → Accessed s f .load (item e) (ls e) ∧ Clean s (ls e)) →
      ((∃ e, body s e = true ∧ e < g) → ∃ u, exec (.vld v b f m h x) s = .next u ∧
        vlOf u.cur = g ∧ fld u.cur.ctl.vstat 1 1 = 1 ∧ vstartOf u.cur = 0 ∧ u.cur.pc = s.cur.pc + 4 ∧ (h.val ≠ 3 → u.mem = s.mem) ∧
        (∀ j, w * j + w ≤ 8192 → elt u.cur v w j = if body s j = true ∧ j < g then
          (loadConv s.cur f k j (itemRead s f (item j) (ls j))).1 % 2 ^ w else elt s.cur v w j)) ∧
      ((∀ e, e < g → body s e = false) → exec (.vld v b f m h x) s =
        .next (trapped (cause 0x10) (item g).addr 0 (cleared m true s)))) ∧
    ((∀ e, body s e = true → (item e).addr.toNat % ebytes f = 0) →
      xlatN s s.cur (item g).addr (ebytes f) .store = .error (bad, a) →
      (∀ e, body s e = true → e < g → Accessed s f .store (item e) (ls e)) →
      ∃ u, exec (.vst v b f m h x) s = .next u ∧ u.cur.ctl.ecause = BitVec.ofNat 64 (cause 0x11) ∧ u.cur.ctl.eval = (item g).addr ∧
        u.cur.ctl.epc = wordAddr s.cur.pc ∧ vstartOf u.cur = g ∧
        (∀ l, (∀ e, body s e = true → e < g → l ∉ ls e) → byteAt u l = byteAt s l) ∧
        (∀ e, body s e = true → e < g → LastWriter (fun e' => body s e' && decide (e' < g)) f item ls e →
          itemRead u f (item e) (ls e) = (storeConv s.cur f k e (elt s.cur v k.width e)).1 % 2 ^ esz f)) ∧
    ((∀ e, body s e = true → (idx e).addr.toNat % ebytes f = 0) →
      (∀ acc e, body s e = true → ∀ y, xlatN s s.cur (idx e).addr (ebytes f) acc ≠ .error (.ecc, y)) →
      (xlatN s s.cur (idx g).addr (ebytes f) .load = .error (bad, a) →
        ∃ u, exec (.vldx v b f h i) s = .next (trapped 0x12 (reg s b) (erecOf s.cur) u) ∧ kept u) ∧
      (xlatN s s.cur (idx g).addr (ebytes f) .store = .error (bad, a) →
        ∃ u, exec (.vstx v b f h i) s = .next (trapped 0x12 (reg s b) (erecOf s.cur) u) ∧ kept u))) ∧
  (∀ (s : State) (v : VReg) (b : SReg) (f : Fmt) (h : Hint) (x : BitVec 6) (k : Kind) (ls : Nat → List Loc) (g : Nat) (a : Word) (bad : Bad),
    kindOf s.cur = some k → pairOk f (some k) = true → bad ≠ .ecc → MemReady s .tile → inAccess s .tile g = true →
    let w := sewOf s.cur
    let item := vmItem s b f .tile x
    let on := inAccess s .tile
    let r := g / vlOf s.cur * vlOf s.cur
    let faulted (u : State) : Prop := u.cur.ctl.ecause = BitVec.ofNat 64 (if bad = .addr then 0x05 else 0x13) ∧
      u.cur.ctl.eval = (item g).addr ∧ u.cur.ctl.epc = wordAddr s.cur.pc ∧ eprogOf u.cur = r
    (∀ e, on e = true → (item e).addr.toNat % ebytes f = 0) →
    (∀ e, on e = true → e < r → ∀ l ∈ ls e, locFenced s l = false) →
    (xlatN s s.cur (item g).addr (ebytes f) .load = .error (bad, a) →
      (∀ e, on e = true → e < g → ∃ c, xlatN s s.cur (item e).addr (ebytes f) .load = .ok (ls e, c)) →
      (∀ e, on e = true → e < r → Clean s (ls e)) →
      ∃ u, exec (.vld v b f .tile h x) s = .next u ∧ faulted u ∧ u.mem = s.mem ∧
        (∀ j, w * j + w ≤ 8192 → elt u.cur v w j = if on j = true ∧ j < r then
          (loadConv s.cur f k j (itemRead s f (item j) (ls j))).1 % 2 ^ w else elt s.cur v w j)) ∧
    (xlatN s s.cur (item g).addr (ebytes f) .store = .error (bad, a) →
      (∀ e, on e = true → e < g → ∃ c, xlatN s s.cur (item e).addr (ebytes f) .store = .ok (ls e, c)) →
      ∃ u, exec (.vst v b f .tile h x) s = .next u ∧ faulted u ∧
        (∀ l, (∀ e, on e = true → e < r → l ∉ ls e) → byteAt u l = byteAt s l) ∧
        (∀ e, on e = true → e < r → LastWriter (fun e' => on e' && decide (e' < r)) f item ls e →
          itemRead u f (item e) (ls e) = (storeConv s.cur f k e (elt s.cur v k.width e)).1 % 2 ^ esz f)))) ∧
  ((∀ (s : State) (v i : VReg) (b : SReg) (f : Fmt) (m : VMode) (h : Hint) (x : BitVec 6) (k : Kind) (ls : Nat → List Loc) (g : Nat),
    kindOf s.cur = some k → pairOk f (some k) = true →
    let w := sewOf s.cur
    let met (on : Nat → Bool) (item : Nat → Item) (u : State) : Prop :=
      u.cur.ctl.ecause = BitVec.ofNat 64 0x19 ∧ u.cur.ctl.eval = (item g).addr ∧ u.cur.ctl.epc = wordAddr s.cur.pc ∧ u.mem = s.mem ∧
      ∀ j, w * j + w ≤ 8192 → elt u.cur v w j = if on j = true ∧ j < g then
        (loadConv s.cur f k j (itemRead s f (item j) (ls j))).1 % 2 ^ w else elt s.cur v w j
    let struck (on : Nat → Bool) (item : Nat → Item) : Prop := on g = true ∧ (∃ l ∈ ls g, poisoned s l = true) ∧
      ∀ e, on e = true → Accessed s f .load (item e) (ls e) ∧ (e < g → Clean s (ls e))
    (MemReady s m → struck (inAccess s m) (vmItem s b f m x) →
      ∃ u, exec (.vld v b f m h x) s = .next u ∧ met (inAccess s m) (vmItem s b f m x) u ∧
        if m = .tile then eprogOf u.cur = g else vstartOf u.cur = g) ∧
    (VecReady s w → struck (body s) (idxItem s b f i) →
      ∃ u, exec (.vldx v b f h i) s = .next u ∧ met (body s) (idxItem s b f i) u ∧ vstartOf u.cur = g)) ∧
  (∀ (s : State) (v i : VReg) (b : SReg) (f : Fmt) (c : Scope) (aq rl : Bool) (k : Kind) (ls : Nat → List Loc) (g : Nat) (a : Word)
    (bad : Bad), kindOf s.cur = some k → ((f, k) = (.fp32, .fp32) ∨ (f, k) = (.int32, .i32) ∨ (f, k) = (.int64, .i64)) →
    VecReady s (sewOf s.cur) → body s g = true →
    let item := idxItem s b f i
    let reached (q : Nat → Prop) (e : Nat) : Prop := ∃ cls, q cls ∧ xlatN s s.cur (item e).addr (ebytes f) .store = .ok (ls e, cls)
    (∀ e, body s e = true → (item e).addr.toNat % ebytes f = 0) →
    ((∀ e, body s e = true → ∀ y, xlatN s s.cur (item e).addr (ebytes f) .store ≠ .error (.ecc, y)) →
      xlatN s s.cur (item g).addr (ebytes f) .store = .error (bad, a) →
      ∃ u, exec (.vamoadd v b f c aq rl i) s = .next (trapped 0x12 (reg s b) (erecOf s.cur) u) ∧
        u.cur = s.cur ∧ u.others = s.others ∧ u.cores = s.cores ∧ u.pkg = s.pkg ∧
        ∀ pa, (∀ q, framePa s (s.cur.frame * 65536 + 0x40) = some q → pa < q ∨ q + 256 ≤ pa) → readPhys u pa = readPhys s pa) ∧
    ((∀ e, body s e = true → reached (fun _ => True) e) → (∀ e, body s e = true → e < g → reached (· ≠ 3) e) → reached (· = 3) g →
      exec (.vamoadd v b f c aq rl i) s = .next (trapped 0x05 (item g).addr 0 s)) ∧
    ((∀ e, body s e = true → reached (· ≠ 3) e) → (∀ e, body s e = true → e < g → (∀ l ∈ ls e, locFenced s l = false) ∧ Clean s (ls e)) →
      (∃ l ∈ ls g, poisoned s l = true) →
      ∃ u, exec (.vamoadd v b f c aq rl i) s = .next u ∧
        u.cur.ctl.ecause = BitVec.ofNat 64 0x19 ∧ u.cur.ctl.eval = (item g).addr ∧ u.cur.ctl.epc = wordAddr s.cur.pc ∧ vstartOf u.cur = g ∧
        (∀ l, (∀ e, body s e = true → e < g → l ∉ ls e) → byteAt u l = byteAt s l) ∧
        ((∀ e e', body s e = true → body s e' = true → e ≠ e' → ∀ l ∈ ls e, l ∉ ls e') → ∀ e, body s e = true → e < g →
          valueAt u (ls e) = (arith .add k (valueAt s (ls e)) (elt s.cur v k.width e) 0).1)))) ∧
  (∀ (s u : State) (m : MReg) (b x : SReg) (l : Bool) (h : Hint) (f : MFmt) (ls : Nat → List Loc) (g : Nat) (a : Word) (bad : Bad), Calm s →
    s.cur.elim = none → LegalShape s.cur → bad ≠ .ecc →
    let c := colsOf s.cur
    let n := rowsOf s.cur * c
    let lo := eprogOf s.cur
    let item (e : Nat) : Item := ⟨e, reg s b + BitVec.ofNat 64 (e / c) * s.cur.ctl.vpitch + BitVec.ofNat 64 (e % c) * reg s x, 0⟩
    let acted (e : Nat) : Bool := decide (lo ≤ e) && decide (e < n)
    let wide (p : F32) : F32 := (to32 .rne (numB16 (p.truncate 16), 0)).1
    let loaded (e : Nat) : F32 := let y := BitVec.ofNat 32 (valueAt u (ls e)); if f = .bf16 then wide y else y
    let stored (y : F32) : Nat := if f = .bf16 then (toB16 .rne (num32 y, 0)).1.toNat else y.toNat
    let r := g / c * c
    let trapsAt (cause q : Nat) (y : State) : Prop := y.cur.ctl.ecause = BitVec.ofNat 64 cause ∧ y.cur.ctl.eval = (item g).addr ∧
      y.cur.ctl.epc = wordAddr s.cur.pc ∧ eprogOf y.cur = q
    let below (q : Nat) (y : State) : Prop := y.mem = u.mem ∧ ∀ i j, shape s i j = true →
      mat y m i j = if acted (i * c + j) = true ∧ i * c + j < q then loaded (i * c + j) else mat u m i j
    let cause := if bad = .addr then 0x05 else 0x13
    acted g = true → (∀ e, e < n → (item e).addr.toNat % ebytes (mfmtOf f) = 0) →
    (Mapped s [(m, if lo = 0 then .full else .partial')] u →
      (xlatN u u.cur (item g).addr (ebytes (mfmtOf f)) .load = .error (bad, a) →
        (∀ e, acted e = true → e < g → ∃ q, xlatN u u.cur (item e).addr (ebytes (mfmtOf f)) .load = .ok (ls e, q)) →
        (∀ e, acted e = true → e < r → (∀ q ∈ ls e, locFenced u q = false) ∧ Clean u (ls e)) →
        ∃ y, exec (.mld m b x h f) s = .next y ∧ trapsAt cause r y ∧ below r y) ∧
      ((∃ q ∈ ls g, poisoned u q = true) →
        (∀ e, acted e = true → Accessed u (mfmtOf f) .load (item e) (ls e) ∧ (e < g → Clean u (ls e))) →
        ∃ y, exec (.mld m b x h f) s = .next y ∧ trapsAt 0x19 g y ∧ below g y)) ∧
    (Mapped s [(m, .read)] u → xlatN u u.cur (item g).addr (ebytes (mfmtOf f)) .store = .error (bad, a) →
      (∀ e, acted e = true → e < g → ∃ q, xlatN u u.cur (item e).addr (ebytes (mfmtOf f)) .store = .ok (ls e, q)) →
      (∀ e, acted e = true → e < r → ∀ q ∈ ls e, locFenced u q = false) →
      (∀ e, acted e = true → mBad u m (· == 64 * (e / c) + e % c) = none) →
      ∃ y, exec (.mst m b x l h f) s = .next y ∧ trapsAt cause r y ∧
        (∀ e, acted e = true → e < r → (∀ e', acted e' = true → e' < r → e < e' → ∀ q ∈ ls e, q ∉ ls e') →
          valueAt y (ls e) = stored (mat u m (e / c) (e % c))) ∧
        (∀ q, (∀ e, acted e = true → e < r → q ∉ ls e) → byteAt y q = byteAt u q)))

/-- R59, R181-R183: VLDSC fills the scale file with the products of the 64 block codes and the 16 superscales; VLDK loads bits [0, VL)
of k from packed bytes and VSTK stores the whole bytes of those bits; each needs every byte of its spans. VPREF changes nothing but
VSTART, and EPROG in tile mode. -/
def Obligations.SpanAccesses : Prop :=
  ∀ (s : State) (b y : SReg) (f : Fmt) (m : VMode) (k : KReg) (h : Hint) (x : BitVec 6) (p q : Nat → Loc), VecReady s 16 →
    let n := (vlOf s.cur + 7) / 8
    let base := reg s b + 64 * x.signExtend 64
    let zero (t : Thread) : Thread := { t with ctl := { t.ctl with vstart := 0 } }
    ((reg s y).toNat % 4 = 0 → Spans s (reg s b) 64 .load p → Spans s (reg s y) 64 .load q →
      (∀ j, j < 64 → poisoned s (p j) = false ∧ poisoned s (q j) = false) →
      let entry (j : Nat) : R32 := to32 .rne (mulNum
        (num32 (BitVec.ofNat 32 (valueAt s [q (j / 4 * 4), q (j / 4 * 4 + 1), q (j / 4 * 4 + 2), q (j / 4 * 4 + 3)])))
        (numInt (byteAt s (p j)).toNat))
      ∃ u, exec (.vldsc b h y) s = .next u ∧ (∀ j (hj : j < 64), u.cur.sf[j] = (entry j).1) ∧ (h.val ≠ 3 → u = hinted s u) ∧
        hinted s u = retired (fun t => { zero t with sf := u.cur.sf, ctl := { t.ctl with
          vstart := 0, fflags := t.ctl.fflags ||| ((List.range 64).foldl (fun g j => g ||| (entry j).2) 0).zeroExtend 64 } }) s) ∧
    (vlOf s.cur ≤ 512 → Spans s base n .load p → (∀ j, j < n → poisoned s (p j) = false) →
      ∃ u, exec (.vldk k b h x) s = .next u ∧ (h.val ≠ 3 → u = hinted s u) ∧
        MaskWrote s (hinted s u) k (fun i => decide (i < vlOf s.cur)) (fun i => (byteAt s (p (i / 8))).getLsbD (i % 8)) 0) ∧
    (vlOf s.cur ≤ 512 → Spans s base n .store p → (∀ i j, i < j → j < n → p i ≠ p j) →
      ∃ u, exec (.vstk k b h x) s = .next u ∧ OnlyBytes s u zero ∧
        (∀ i, i < 8 * n → (byteAt u (p (i / 8))).getLsbD (i % 8) = (kreg s.cur k).getLsbD i) ∧
        (∀ l, (∀ j, j < n → l ≠ p j) → byteAt u l = byteAt s l)) ∧
    exec (.vpref b f m h x) s = .next (retired zero (cleared m false s))

/-- R288-R290: the scalar atomics complete: the word holds the new value of the operation, D the old one sign-extended, every other byte
is as it was. AMONIB does the same to one nibble of the byte at its nibble address, and D gets the old nibble. R289, R290, R285:
what a scalar atomic meets that does not complete, in the order of its checks: an address that is not canonical or not aligned traps
ADDR, a translation that fails traps PFST (ADDR where a window refuses it), a page of CLASS device-io traps ADDR, and poison traps
ECC, each with EVAL = the address and no access made. A home behind a fenced port, or in another package when the reply is
abandoned, traps LINK (log entry 41), and the word may then have been changed there (log entry 5). The ECC of a poisoned page-table
entry rests on log entry 14, and AMONIB's EVAL is the address of its byte. R291: VAMOADD in its three formats completes: with
elements whose places do not overlap each word holds the sum with its element, and of integers every word holds the sum with all
elements that name it. No vector register changes. -/
def Obligations.Atomics : Prop :=
  (∀ (s : State) (d a b : SReg) (p : NibOp) (aq rl : Bool) (c : Scope) (w : Stall) (ls : List Loc), Calm s →
    let other (u : State) : Prop := ∀ l, l ∉ ls → byteAt u l = byteAt s l
    (AtomicAt s (reg s a) 4 ls → ∀ r ∈ atomicsW d a b aq rl c w, ∃ u, exec r.1 s = .next u ∧
      let o := BitVec.ofNat 32 (valueAt s ls)
      valueAt u ls = (r.2 o ((reg s b).truncate 32) ((reg s d).truncate 32)).toNat ∧ OnlyBytes s u (put d (o.signExtend 64)) ∧ other u) ∧
    (AtomicAt s (reg s a) 8 ls → ∀ r ∈ atomicsD d a b aq rl c w, ∃ u, exec r.1 s = .next u ∧
      let o := BitVec.ofNat 64 (valueAt s ls)
      valueAt u ls = (r.2 o (reg s b) (reg s d)).toNat ∧ OnlyBytes s u (put d o) ∧ other u) ∧
    (AtomicAt s (reg s a >>> 1) 1 ls → ∃ u, exec (.amonib d a b p aq rl c w) s = .next u ∧
      let n := (reg s a).toNat % 2
      let o : BitVec 4 := BitVec.ofNat 4 (valueAt s ls / 16 ^ n)
      let y : BitVec 4 := (reg s b).truncate 4
      let new : BitVec 4 := match p with
        | .add => o + y
        | .and => o &&& y
        | .or => o ||| y
        | .swp => y
      valueAt u ls / 16 ^ n % 16 = new.toNat ∧ valueAt u ls / 16 ^ (1 - n) % 16 = valueAt s ls / 16 ^ (1 - n) % 16 ∧
      OnlyBytes s u (put d (o.zeroExtend 64)) ∧ other u)) ∧
  (∀ (s : State) (d a b : SReg) (p : NibOp) (aq rl : Bool) (c : Scope) (w : Stall), Calm s →
    ∀ q ∈ (atomicsW d a b aq rl c w).map (fun r => (reg s a, 4, r.1)) ++ (atomicsD d a b aq rl c w).map (fun r => (reg s a, 8, r.1)) ++
        [(reg s a >>> 1, 1, .amonib d a b p aq rl c w)],
      let x : Word := q.1
      let n : Nat := q.2.1
      let traps (cause : Nat) : Prop := exec q.2.2 s = .next (trapped cause x 0 s)
      (canonical x = false ∨ x.toNat % n ≠ 0 → traps 0x05) ∧
      (canonical x = true → x.toNat % n = 0 →
        (∀ y, xlatN s s.cur x n .store = .error (.addr, y) → traps 0x05) ∧
        (∀ y, xlatN s s.cur x n .store = .error (.miss, y) → traps 0x11) ∧
        (∀ y, xlatN s s.cur x n .store = .error (.ecc, y) → traps 0x19) ∧
        (∀ ls cls, xlatN s s.cur x n .store = .ok (ls, cls) →
          (cls = 3 → traps 0x05) ∧
          (cls ≠ 3 → (∀ l ∈ ls, oneLost s l = false) → (∃ l ∈ ls, poisoned s l = true) → traps 0x19) ∧
          (cls ≠ 3 → (∃ l ∈ ls, oneLost s l = true) → ∃ u, exec q.2.2 s = .next (trapped 0x1A 2 0 u) ∧ u.cur = s.cur ∧
            ∀ l, l ∉ ls → byteAt u l = byteAt s l)))) ∧
  (∀ (s : State) (v i : VReg) (b : SReg) (f : Fmt) (c : Scope) (aq rl : Bool) (k : Kind) (ls : Nat → List Loc), VecReady s (sewOf s.cur) →
    kindOf s.cur = some k → ((f, k) = (.fp32, .fp32) ∨ (f, k) = (.int32, .i32) ∨ (f, k) = (.int64, .i64)) →
    (∀ e, body s e = true → let it := idxItem s b f i e
      it.addr.toNat % ebytes f = 0 ∧ (∃ q, q ≠ 3 ∧ xlatN s s.cur it.addr (ebytes f) .store = .ok (ls e, q)) ∧
      (∀ l ∈ ls e, locFenced s l = false) ∧ Clean s (ls e)) →
    ∃ u, exec (.vamoadd v b f c aq rl i) s = .next u ∧
      OnlyBytes s u (fun t => { t with ctl := { t.ctl with vstart := 0, fflags := u.cur.ctl.fflags } }) ∧
      (isFloat k = false → u.cur.ctl.fflags = s.cur.ctl.fflags) ∧
      (∀ l, (∀ e, body s e = true → l ∉ ls e) → byteAt u l = byteAt s l) ∧
      ((∀ e e', body s e = true → body s e' = true → e ≠ e' → ∀ l ∈ ls e, l ∉ ls e') → ∀ e, body s e = true →
        valueAt u (ls e) = (arith .add k (valueAt s (ls e)) (elt s.cur v k.width e) 0).1) ∧
      (isFloat k = false → (∀ e e', body s e = true → body s e' = true → ls e = ls e' ∨ ∀ l ∈ ls e, l ∉ ls e') →
        ∀ e, body s e = true → valueAt u (ls e) =
          (valueAt s (ls e) + (((List.range (vlOf s.cur)).filter fun j => body s j && (ls j == ls e)).map (elt s.cur v k.width)).sum) % 2 ^ k.width))

/-- R213, R70, R71, R209: the outer products complete after their map step: element (i, j) of the shape becomes itself plus (MOPS:
minus) the rank-4 sum of BF16 products or the fused FP32 product of its row and column, and no other element changes. R214, R71:
MMAS with descriptors without reserved bits, aligned and inside the scratchpad that the pack holds, completes: from step MSTART to K
each element of the shape accumulates the rank-4 sum of the step's operands, then MSTART is 0. That operand bytes in a BOUND landing
slot do not trap ADDR (R214 with R310) is the model's choice (log entry 54). -/
def Obligations.OuterProducts : Prop :=
  (∀ (s u : State) (m : MReg) (a b : VReg), LegalShape s.cur → Mapped s [(m, .readWrite)] u → mBad u m (inShape s.cur) = none →
    let r := rowsOf s.cur
    let c := colsOf s.cur
    let b16 (v : VReg) (n : Nat) := numB16 (BitVec.ofNat 16 (elt s.cur v 16 n))
    let f32 (v : VReg) (n : Nat) := num32 (BitVec.ofNat 32 (elt s.cur v 32 n))
    let quad (sub : Bool) (i j : Nat) : R32 :=
      mac32 (mat u m i j) ((List.range 4).map fun k => mulNum (b16 a (4 * i + k)) (b16 b (4 * j + k))) sub
    let one (sub : Bool) (i j : Nat) : R32 :=
      to32 .rne (fmaNum .rne (if sub then negNum (f32 a i) else f32 a i) (f32 b j) (num32 (mat u m i j)))
    let wrote (f : Nat → Nat → R32) (x : State) : Prop :=
      MatWrote u x m (shape s) (fun i j => (f i j).1) (flagged (shapeFlags s fun i j => (f i j).2))
    (SpanReady s 16 (4 * max r c) →
      (∃ x, exec (.mopaB m a b) s = .next x ∧ wrote (quad false) x) ∧ (∃ x, exec (.mopsB m a b) s = .next x ∧ wrote (quad true) x)) ∧
    (SpanReady s 32 (max r c) →
      (∃ x, exec (.mopaF m a b) s = .next x ∧ wrote (one false) x) ∧ (∃ x, exec (.mopsF m a b) s = .next x ∧ wrote (one true) x))) ∧
  (∀ (s u : State) (m : MReg) (a b : SReg), Calm s → s.cur.elim = none → LegalShape s.cur →
    let g := mmasArgs s.cur.ctl.mshape (reg s a) (reg s b)
    let lo := fld s.cur.ctl.mstart 0 7
    let hi := max lo (stepsOf s.cur)
    mmasReserved (reg s a) (reg s b) = false → mmasCheck s g lo hi = none → Mapped s [(m, .readWrite)] u →
    mBad u m (inShape s.cur) = none → (∀ k, lo ≤ k → k < hi → mmasPoison u (cidOf s.cur) g k = none) →
    ∃ (x : State) (acc : Nat → Nat → Nat → F32) (fl : Flags), exec (.mmas m a b) s = .next x ∧
      acc lo = mat u m ∧
      (∀ k i j, lo ≤ k → k < hi → i < g.rows → j < g.cols → acc (k + 1) i j =
        (mac32 (acc k i j) ((List.range 4).map fun n => mulNum
          (numB16 (scratch16 u (g.base + k * g.rpitch + 2 * (4 * i + n))))
          (numB16 (scratch16 u (g.base + g.tpitch + k * g.rpitch + 2 * (4 * j + n))))) false).1) ∧
      MatWrote u x m (shape s) (acc hi) (fun t => { t with ctl := { t.ctl with
        mstart := 0, fflags := t.ctl.fflags ||| fl.zeroExtend 64 } }))

/-- R219, R203, R204: the map instructions complete. MZERO at 64 × 64 and MDEAD leave the entry ZERO without an access, MZERO of a
smaller shape writes +0 to the shape; MMOV copies all 4,096 elements, or with L passes the source's elements on and leaves its entry
ZERO; MPREF makes a backed register resident where that can be done; MFLUSH leaves its register and MFLUSHALL leaves every register
not resident, each dirty tile written to its backing bytes; MFLUSHALL waits until its write-backs have been acknowledged. That MMOV
of a register onto itself, and MMOV with L of a resident source, read no element and so meet no damaged one (R212 with R219) is the
model's choice (log entry 54). -/
def Obligations.MapInstructions : Prop :=
  ∀ (s u : State) (m n : MReg), Calm s →
    let zeroed (r : MReg) (x : State) : Prop := entryOf x.cur.map r = .zero
    (FolClear s [m.val] →
      (exec (.mdead m) s = .next (retired id (dropRegs [m.val] s)) ∧ zeroed m (dropRegs [m.val] s)) ∧
      (rowsOf s.cur = 64 → colsOf s.cur = 64 → exec (.mzero m) s = .next (retired id (dropRegs [m.val] s)))) ∧
    ((rowsOf s.cur ≠ 64 ∨ colsOf s.cur ≠ 64) → Mapped s [(m, .partial')] u → ∃ x, exec (.mzero m) s = .next x ∧
      MatWrote u x m (shape s) (fun _ _ => 0) id) ∧
    exec (.mmov m m false) s = .next (retired id s) ∧ exec (.mmov m m true) s = .next (trapped 0x01 (own (.mmov m m true)) 0 s) ∧
    (m ≠ n → FolClear s [n.val, m.val] →
      (entryOf s.cur.map n = .zero → ∀ l, exec (.mmov m n l) s = .next (retired id (dropRegs [m.val] s))) ∧
      (∀ k d l, slotOf s.cur.map n = some (k, d, l) → ∃ x, exec (.mmov m n true) s = .next x ∧ zeroed n x ∧
        slotOf x.cur.map m = some (k, true, l) ∧
        ((∀ q e, slotOf s.cur.map m ≠ some (q, e, true)) → ∀ i j, i < 64 → j < 64 → mat x m i j = mat s n i j)) ∧
      (entryOf s.cur.map n ≠ .zero → Mapped s [(n, .read), (m, .full)] u → mBad u n (fun _ => true) = none →
        ∃ x, exec (.mmov m n false) s = .next x ∧ MatWrote u x m (fun _ _ => true) (mat u n) id) ∧
      (entryOf s.cur.map n = .backed → ∀ p, planOf s [(m, .fillFrom n)] = some p → checkTiles s (ownTiles (dropPlan n p).moves) = none →
        FolFree s ((dropPlan n p).moves.flatMap mvReg) → ∃ x, exec (.mmov m n true) s = .next x ∧ zeroed n x ∧
          isResident x.cur.map m = true ∧
          ∀ k ls, p.moves = [.fill m.val n.val k] → backPlaces s false s.cur.ctl.pgroot (backAddr s.cur n) = .ok ls →
            ∀ j (hj : j < ls.length), tileByte (mval x m) j = byteAt s ls[j])) ∧
    (∀ p, planOf s [(m, .read)] = some p → checkTiles s (ownTiles p.moves) = none → FolFree s (m.val :: p.moves.flatMap mvReg) →
      exec (.mpref m) s = .next (retired id (applyPlan p s)) ∧
      (entryOf s.cur.map m = .backed → isResident (applyPlan p s).cur.map m = true)) ∧
    ((planOf s [(m, .read)] = none ∨ ∃ p, planOf s [(m, .read)] = some p ∧ (checkTiles s (ownTiles p.moves)).isSome = true) →
      exec (.mpref m) s = .next (retired id s)) ∧
    (FolClear s [m.val] →
      ((∀ h ∈ heldSlots s.cur.map, h.reg ≠ m.val) → exec (.mflush m) s = .next (retired id s)) ∧
      (∀ h ls, (heldSlots s.cur.map).filter (·.reg == m.val) = [h] → backPlaces s true s.cur.ctl.pgroot (backAddr s.cur m) = .ok ls →
        ls.Nodup → (∀ l ∈ ls, locFenced s l = false) →
        ∃ x, exec (.mflush m) s = .next x ∧ entryOf x.cur.map m = .backed ∧
          (h.dirty = true → ∀ j (hj : j < ls.length), byteAt x ls[j] = tileByte (tileOf (coreOf s (cidOf s.cur)) h.slot) j))) ∧
    (∀ (x : State) r k land ls, backPlaces x true x.cur.ctl.pgroot (backAddr x.cur r) = .ok ls → ls.Nodup → ∀ j (hj : j < ls.length),
      byteAt (applyMv x (.spill r k land)) ls[j] = tileByte (tileOf (coreOf x (cidOf x.cur)) k) j) ∧
    (let held := heldSlots s.cur.map
     let out (h : HeldSlot) : Mv := if h.dirty then .spill h.reg h.slot h.land else .evict h.reg h.slot h.land
     let p := held.foldl flushReg (startPlan s)
     let x := (held.map out).foldl applyMv s
     let y := { x with cur := { x.cur with map := p.map } }
     s.cur.fols = [] → s.cur.folBad = [] → s.cur.elim = none → checkTiles s (ownTiles (held.map out)) = none →
      (∀ r, isResident p.map r = false) ∧ (spilling y y.cur = false → exec .mflushall s = .next (retired id y)) ∧
      (spilling y y.cur = true → exec .mflushall s = .next (waiting .mflushall y)) ∧
      (held = [] → spilling s s.cur = false → exec .mflushall s = .next (retired id s)) ∧
      (∀ h ls, held = [h] → h.dirty = true → backPlaces s true s.cur.ctl.pgroot (backAddr s.cur h.reg) = .ok ls → ls.Nodup →
        ∀ j (hj : j < ls.length), byteAt y ls[j] = tileByte (tileOf (coreOf s (cidOf s.cur)) h.slot) j))

/-- R215-R217, R209: MLD and MST complete where every element of the shape from EPROG on is aligned and reached after the map step: MLD
puts load_convert of element i × COLS + j at (i, j) and +0 outside the shape where it began at 0; MST stores (i, j) in its format.
EPROG and VSTART become 0; with L the stored register's entry becomes ZERO. R218, R220: MROW reads row s_X of m into FP32 elements,
MCOL4 reads the column group s_X into BF16 elements, MWROW writes a row from a vector, each for the shape's columns or rows; L
leaves the read register's entry ZERO. MSTAT reports an entry and changes only its scalar. -/
def Obligations.TilesAndRows : Prop :=
  (∀ (s u : State) (m : MReg) (b x : SReg) (l : Bool) (h : Hint) (f : MFmt) (ls : Nat → List Loc), Calm s → s.cur.elim = none →
    LegalShape s.cur →
    let c := colsOf s.cur
    let n := rowsOf s.cur * c
    let lo := eprogOf s.cur
    let item (e : Nat) : Item := ⟨e, reg s b + BitVec.ofNat 64 (e / c) * s.cur.ctl.vpitch + BitVec.ofNat 64 (e % c) * reg s x, 0⟩
    let acted (e : Nat) : Bool := decide (lo ≤ e) && decide (e < n)
    let wide (p : F32) : F32 := (to32 .rne (numB16 (p.truncate 16), 0)).1
    let loaded (e : Nat) : F32 := let y := BitVec.ofNat 32 (valueAt u (ls e)); if f = .bf16 then wide y else y
    let stored (y : F32) : Nat × Flags := if f = .bf16 then ((toB16 .rne (num32 y, 0)).1.toNat, (toB16 .rne (num32 y, 0)).2) else (y.toNat, 0)
    let done (g : Flags) (t : Thread) : Thread := { t with ctl := { t.ctl with
      eprog := 0, vstart := 0, fflags := t.ctl.fflags ||| g.zeroExtend 64 } }
    (∀ e, e < n → (item e).addr.toNat % ebytes (mfmtOf f) = 0) →
    (Mapped s [(m, if lo = 0 then .full else .partial')] u →
      (∀ e, acted e = true → Accessed u (mfmtOf f) .load (item e) (ls e) ∧ Clean u (ls e)) →
      ∃ y, exec (.mld m b x h f) s = .next y ∧ (h.val ≠ 3 → y = hinted u y) ∧
        MatWrote u (hinted u y) m (fun i j => if shape s i j then acted (i * c + j) else lo == 0)
          (fun i j => if shape s i j then loaded (i * c + j) else 0) (done 0)) ∧
    (Mapped s [(m, .read)] u → (∀ e, acted e = true → Accessed u (mfmtOf f) .store (item e) (ls e)) →
      (∀ e, acted e = true → mBad u m (· == 64 * (e / c) + e % c) = none) →
      ∃ y fl, exec (.mst m b x l h f) s = .next (retired (done fl) (lastUse l m y)) ∧
        y = { u with mem := y.mem, written := y.written, past := y.past, cores := y.cores, poison := y.poison } ∧
        (∀ e, acted e = true → (∀ e', acted e' = true → e < e' → ∀ q ∈ ls e, q ∉ ls e') →
          valueAt y (ls e) = (stored (mat u m (e / c) (e % c))).1) ∧
        (∀ q, (∀ e, acted e = true → q ∉ ls e) → byteAt y q = byteAt u q))) ∧
  (∀ (s u : State) (m : MReg) (v : VReg) (x d : SReg) (l : Bool), Calm s → LegalShape s.cur → s.cur.vbad = [] → 0 < lanesOf s.cur →
    let r := (reg s x).toNat
    let rows := rowsOf s.cur
    let cols := colsOf s.cur
    let vecs (w n : Nat) (val : Nat → Nat) (y : State) (g : Flags) : Prop :=
      (∀ j, w * j + w ≤ 8192 → elt y.cur v w j = if j < n then val j % 2 ^ w else elt s.cur v w j) ∧
      (∀ q, q ≠ v → vreg y.cur q = vreg s.cur q) ∧
      y = retired (fun t => flagged g { t with v := y.cur.v, vheld := (v.val, vreg s.cur v) :: t.vheld }) (lastUse l m u)
    (r < 64 → cols ≤ vlmax s.cur 32 → Mapped s [(m, .read)] u →
      mBad u m (fun e => e / 64 == r && decide (e % 64 < cols)) = none →
      ∃ y, exec (.mrow m v x l) s = .next y ∧ vecs 32 cols (fun j => (mat u m r j).toNat) y 0) ∧
    (r < 16 → 4 * rows ≤ vlmax s.cur 16 → Mapped s [(m, .read)] u →
      mBad u m (fun e => decide (e / 64 < rows) && e % 64 / 4 == r) = none →
      let out (e : Nat) := toB16 .rne (num32 (mat u m (e / 4) (4 * r + e % 4)), 0)
      ∃ y, exec (.mcol4 m v x l) s = .next y ∧ vecs 16 (4 * rows) (fun e => (out e).1.toNat) y
        ((List.range (4 * rows)).foldl (fun g e => g ||| (out e).2) 0)) ∧
    (r < 64 → cols ≤ vlmax s.cur 32 → Mapped s [(m, .partial')] u →
      ∃ y, exec (.mwrow m v x) s = .next y ∧
        MatWrote u y m (fun i j => i == r && decide (j < cols)) (fun _ j => BitVec.ofNat 32 (elt s.cur v 32 j)) id) ∧
    exec (.mstat m d) s = .next (retired (put d (mstatWord s m)) s) ∧
    fld (mstatWord s m) 0 8 = (match entryOf s.cur.map m with
      | .zero => 0
      | .backed => 1
      | .resident _ dirty _ => if dirty then 3 else 2))

/-- R224, R225: OSGET, OSPUT and OSZERO read, write and reset (M = −∞, S = +0) one online-softmax register, and change nothing else.
R226-R232: the three members of an attention group complete in turn: ATSC after the group's one map step with the scores of its
heads, ATEX with (M, S) of each head's o-register renewed, ATAC with the output row of every head that is not skipped and with
VSTART = 0; a group that stops before its last head ends with the PC at its ATSC and VSTART at that head, in a trap where damage
stopped it. That a handler's group has no such stop is the model's choice (log entry 51). -/
def Obligations.Attention : Prop :=
  (∀ (s : State) (r : SReg) (o : OReg) (w : Stall), Calm s →
    exec (.osget r o w) s = .next (retired (put r (oreg s.cur o)) s) ∧
    exec (.osput r o w) s = .next (retired (fun t => { t with o := t.o.set o (reg s r) }) s) ∧
    exec (.oszero o w) s = .next (retired (fun t => { t with o := t.o.set o 0x00000000FF800000 }) s)) ∧
  (∀ (s u : State) (m am an : MReg) (a z : VReg) (b : SReg) (o f : OReg) (l : Bool) (w1 w2 : Nat) (p : Group), Calm s → LegalShape s.cur →
    s.cur.elim = none → s.cur.vbad = [] → s.cur.kbad = [] →
    let t := s.cur
    let n := vlOf t
    let g := 2 ^ segOf t
    let nh := (n + g - 1) / g
    let d := colsOf t
    let started (q : Group) (y : State) : Prop := ∃ fl sc, y = retired (fun t => { t with grp := some { q with flags := fl, scores := sc } }) u
    let whole : Group := ⟨t.pc, m.val, w1, w2, vstartOf t / g, nh, nh, .request, [], [], 0⟩
    (vstartOf t < n → 0 < lanesOf t → n ≤ 64 → nh * d ≤ vlmax t 32 → f.val + nh ≤ 8 → vstartOf t % g = 0 →
      Mapped s [(m, .read), (an, .read), (am, .readWrite)] u → Sound u [m.val, an.val, am.val] →
      (formGroup (own (.atsc m a b)) m s = .ok (w1, w2, f, am, an) →
        ∃ y q, exec (.atsc m a b) s = .next y ∧ started whole y ∧ y.cur.grp = some q ∧ GroupScores s u m a b none q.scores) ∧
      (n ≤ vlmax t 32 → formGroup (own (.atscBias m a b z)) m s = .ok (w1, w2, f, am, an) →
        ∃ y q, exec (.atscBias m a b z) s = .next y ∧ started whole y ∧ y.cur.grp = some q ∧
          GroupScores s u m a b (some z) q.scores)) ∧
    (t.grp = some p → t.pc = p.addr + 4 → p.first ≤ p.last → o.val + p.last ≤ 8 →
      let head (k : Nat) := atexHead (vnth t.o 0 (o.val + p.first + k)) ((p.scores.drop (k * g)).take g)
      ∃ y fl, exec (.atex o) s = .next y ∧
        (∀ r : OReg, oreg y.cur r = if o.val + p.first ≤ r.val ∧ r.val < o.val + p.last then (head (r.val - o.val - p.first)).1
          else oreg t r) ∧
        y = retired (fun t => { t with o := y.cur.o, grp := some { p with
          heads := (List.range (p.last - p.first)).map fun k => (head k).2.1, flags := p.flags ||| fl } }) s) ∧
    (t.grp = some p → t.pc = p.addr + 8 → isResident t.map m = true → p.first + p.heads.length ≤ 64 →
      ∃ y fl, (∀ i j, i < 64 → j < 64 → mat y m i j =
          match p.heads[i - p.first]? with
          | none => mat s m i j
          | some r => if p.first ≤ i ∧ j < d ∧ r.skip = false then (atacElt g n (mval s an) r i j (mat s m i j)).1 else mat s m i j) ∧
        y = { s with cores := y.cores } ∧
        (p.total ≤ p.last → exec (.atac m an l o) s =
          .next (retired (groupEnd 0 fl) (if l = true ∧ 0 < p.total then dropRegs [an.val] y else y))) ∧
        (p.last < p.total → p.stop = .request → exec (.atac m an l o) s =
          .next (stopped (fun t => { groupEnd (p.last * g) fl t with pc := p.addr }) y)) ∧
        (∀ i, p.last < p.total → p.stop = .trap i → exec (.atac m an l o) s = .next (trapped i.cause i.eval i.erec
          (onThread (fun t => { groupEnd (p.last * g) fl t with pc := p.addr }) y)))) ∧
    ((t.grp = none ∨ ∃ q, t.grp = some q ∧ t.pc ≠ q.addr + 4) → exec (.atex o) s = .next (trapped 0x01 (own (.atex o)) 0 s)) ∧
    ((t.grp = none ∨ ∃ q, t.grp = some q ∧ t.pc ≠ q.addr + 8) →
      exec (.atac m an l o) s = .next (trapped 0x01 (own (.atac m an l o)) 0 s)))

/-- R235: VTOPK with VSTART = 0 writes the indices of the greatest active elements, as many as s_B asks for, in order of rank; of
integers no active element left out exceeds one that is listed, and equal ones come by rising index. R236-R239: TMATCH completes by
storing the whole map of its match with VALID = 1, and leaves its reference healed; a stop request abandons it with VALID = 0 and
the PC at the TMATCH, no byte outside the map's fields having changed. TMERGE gives each output row the size-weighted mean of its
tokens, and TUNMRG gives each root token the row that the chain of maps leads to; every element outside those rows and columns is
+0. -/
def Obligations.TopKAndMerging : Prop :=
  (∀ (s : State) (d a : VReg) (b : SReg) (k : Kind), VecReady s (sewOf s.cur) → vstartOf s.cur = 0 → 0 < vlOf s.cur → kindOf s.cur = some k →
    let w := sewOf s.cur
    let act := (List.range (vlOf s.cur)).filter (acting s)
    let val (i : Nat) := elt s.cur a w i
    ∃ u order, exec (.vtopk d a b) s = .next u ∧
      order = (act.foldl (fun l i => topInsert k val i l) []).take (reg s b).toNat ∧
      VecWrote s u d w (fun r => decide (r < order.length)) (fun r => order.getD r 0) 0 ∧
      (isFloat k = false → order.length = min act.length (reg s b).toNat ∧
        ∀ r i, r < order.length → i ∈ act → i ∉ order.take r → i ≠ order.getD r 0 →
          intK k (val i) < intK k (val (order.getD r 0)) ∨
          (intK k (val i) = intK k (val (order.getD r 0)) ∧ order.getD r 0 < i))) ∧
  (∀ (s u : State) (m n : MReg) (a : SReg) (l : Bool) (h : HReg) (ref ref' : Word) (addr a0 : Nat) (c0 : Bool) (mp : MMap) (par : Option MMap)
    (ms : List MMap) (ls : List (List Loc)), Calm s → LegalShape s.cur →
    let x := hreg s.cur h
    let rows := rowsOf s.cur
    let cols := colsOf s.cur
    let r := (reg s a).toNat
    let q (o k : Nat) : List Loc := (ls.flatten.drop (if o < 32 then o - 16 else o - 24)).take k
    let merged (i : Instr) (on : Nat) (val : Nat → Nat → F32) : Prop :=
      ∃ y fl, exec i s = .next (retired (fun t => flagged fl { t with h := t.h.set h ref }) (lastUse l n y)) ∧ y = { u with cores := y.cores } ∧
        ∀ i j, i < 64 → j < 64 → mat y m i j = if i < on ∧ j < cols then val i j else 0
    (rows ≤ 32 → (cols = rows ∨ cols + 1 = rows) → r ≤ rows → matchParent s x = .ok par →
      parentOk par (rows + cols) = true → resolveT s x .store = .ok ref' addr c0 → Mapped s [(m, .read)] u →
      mBad u m (fun e => decide (e / 64 < rows) && decide (e % 64 < cols)) = none → matchPlaces u x addr = .ok ls → ls.flatten.Nodup →
      let out := matchOut (mval u m) rows cols r (sizeIn par)
      (s.cur.elim = none → ∃ y fl, exec (.tmatch m a h) s = .next y ∧ OnlyBytes u y (fun t => flagged fl { t with h := t.h.set h ref' }) ∧
        valueAt y (q 16 4) = 1 ∧ valueAt y (q 20 4) = rows + cols + 256 * r ∧
        (∀ t, t < 64 → valueAt y (q (32 + t) 1) = out.1.getD t 0) ∧
        (∀ o, o < 64 → valueAt y (q (96 + 4 * o) 4) = (out.2.getD o (0, 0)).1.toNat) ∧
        (∀ k, k ∉ ls.flatten → byteAt y k = byteAt u k)) ∧
      (∀ e, s.cur.elim = some (e, .request) → ∃ y, exec (.tmatch m a h) s = .next y ∧ y.cur = (stopped id u).cur ∧ y.cur.pc = s.cur.pc ∧
        valueAt y (q 16 4) = 0 ∧ (∀ k, k ∉ ls.flatten → byteAt y k = byteAt u k))) ∧
    (readMap s x = .ok (ref, a0, mp) →
      (usable mp = true → readParent s mp = .ok par → parentOk par mp.nin = true → Mapped s [(n, .read), (m, .full)] u →
        mBad u n (fun e => decide (e / 64 < mp.nin) && decide (e % 64 < cols)) = none →
        merged (.tmerge m n l h) (mp.nin - mp.nr) (fun i j => (mergedElt (mval u n) mp (sizeIn par) i j).1)) ∧
      (chainOf s 64 mp = .ok (some ms) → Mapped s [(n, .read), (m, .full)] u →
        mBad u n (fun e => decide (e / 64 < mp.nin - mp.nr) && decide (e % 64 < cols)) = none →
        merged (.tunmrg m n l h) ((ms.head?.map (·.nin)).getD 0) (fun i j => mat u n (ms.foldl (fun e mp => destRow mp e) i) j))))

/-- R247, R243, R244, R251: the barrier. A null or malformed reference and one outside the managed range or in a free or malformed
region fail; one of the region's good colour resolves at once to itself; one of no colour that the region still serves fails. One of
an older colour goes by its page and, where the page is in relocation, by the entry of its object in the sorted array: a page of no
relocation recolours it; a PENDING page leaves an object without an entry, or with an EMPTY one, in place, a FORWARDED page fails; a
COPYING entry serves a load from the old copy and makes any other use wait; a DONE entry answers the new place in the good colour. -/
def Obligations.BarrierFastPath : Prop :=
  ∀ (s : State) (x : Word) (u : Use) (e : Region),
    let n := (refAddr x - Config.wbase) / 2 ^ 30
    let pa := regionPa s.cur.ctl.hreg n
    (x = 0 ∨ fld x 57 3 ≠ 0 ∨ fld x 0 4 ≠ 0 ∨ inManaged (refAddr x) = false → resolveT s x u = .heap) ∧
    (x ≠ 0 → fld x 57 3 = 0 → fld x 0 4 = 0 → inManaged (refAddr x) = true → badPhys s pa 16 = false →
      (regionOf s (cidOf s.cur) s.cur.ctl.hreg n = none → resolveT s x u = .heap) ∧
      (regionOf s (cidOf s.cur) s.cur.ctl.hreg n = some e →
        (e.state = 0 → resolveT s x u = .heap) ∧
        (e.state ≠ 0 → fld x 60 4 = e.good → resolveT s x u = .ok x (refAddr x) false) ∧
        (e.state ≠ 0 → fld x 60 4 ≠ e.good → fld x 60 4 ∉ e.olds → resolveT s x u = .heap) ∧
        (e.state ≠ 0 → fld x 60 4 ≠ e.good → fld x 60 4 ∈ e.olds → badPhys s (pageEntry e (refAddr x)) 16 = false →
          let a := refAddr x
          let page := rdWord s (pageEntry e a)
          let item (i : Nat) := pageItem s e a i
          let old (i : Nat) := fld (rdWord s (item i)) 0 12
          let st (i : Nat) := fld (rdWord s (item i)) 62 2
          let unmoved : Res := if fld page 62 2 = 1 then .ok x a false else .heap
          (fld page 62 2 = 0 → resolveT s x u = .ok (recolour x e.good) a false) ∧
          (fld page 62 2 = 3 → resolveT s x u = .heap) ∧
          (fld page 62 2 = 1 ∨ fld page 62 2 = 2 → (∀ i j, i < j → j < fld page 0 13 → old i < old j) →
            (∀ i, i < fld page 0 13 → badPhys s (item i) 16 = false) →
            ((∀ i, i < fld page 0 13 → old i ≠ a / 16 % 4096) → resolveT s x u = unmoved) ∧
            (∀ i, i < fld page 0 13 → old i = a / 16 % 4096 →
              let new := refAddr (rdWord s (item i + 8))
              (st i = 0 → resolveT s x u = unmoved) ∧
              (st i = 1 → resolveT s x u = if u = .load then .ok x a true else .wait) ∧
              (st i = 2 → resolveT s x u = .ok (recolour (BitVec.ofNat 64 new) e.good) new false) ∧
              (st i = 3 → resolveT s x u = .heap))))))

/-- R259-R262: the heap loads and stores complete where the barrier resolves their reference and the bytes are reached: HLD extends what
stands there, HST and STH store, LDH leaves the healed reference in D and in memory, HCAS stores the next reference register where
the word names the expected object; each leaves h healed. R263: VLDH and VSTH complete as a unit-stride VLD and VST from the
resolved address where every active element is reached in pages of CLASS managed, and leave h healed. -/
def Obligations.HeapAccesses : Prop :=
  (∀ (s : State) (d : SReg) (g h : HReg) (o : BitVec 13) (nl : LdWidth) (ns : StWidth) (u : Use) (r : Word) (a : Nat) (c : Bool)
    (ls : List Loc), Calm s →
    let x := hreg s.cur h
    let ea := BitVec.ofNat 64 a + BitVec.ofInt 64 o.toInt
    let y : Word := BitVec.ofNat 64 (valueAt s ls)
    resolveT s x u = .ok r a c →
    (u = .load → heapRead s x ea (ldBytes nl) .load = .ok ls →
      exec (.hld d h o nl) s = .next (retired (fun t => put d (ldExt nl (valueAt s ls)) (setH h r t)) s)) ∧
    (u = .store → heapPlaces s x ea (stBytes ns) .store = .ok ls →
      ∃ t, exec (.hst d h o ns) s = .next t ∧ Wrote s t ls (reg s d).toNat (setH h r)) ∧
    (u = .store → heapPlaces s x ea 8 .store = .ok ls →
      ∃ t, exec (.sth g h o) s = .next t ∧ Wrote s t ls (hreg s.cur g).toNat (setH h r)) ∧
    (u = .load → heapRead s x ea 8 .load = .ok ls →
      (healed s y = y ∨ c = true → exec (.ldh g h o) s = .next (retired (fun t => setH g (healed s y) (setH h r t)) s)) ∧
      (healed s y ≠ y → c = false → ∀ qs, heapPlaces s x ea 8 .store = .ok qs →
        ∃ t, exec (.ldh g h o) s = .next t ∧ Wrote s t qs (healed s y).toNat (fun t => setH g (healed s y) (setH h r t)))) ∧
    (u = .store → heapRead s x ea 8 .store = .ok ls →
      (sameObject s y (hreg s.cur g) = some true → ∃ t, exec (.hcas g h o) s = .next t ∧
        Wrote s t ls (hreg s.cur (nextH g)).toNat (fun t => setH g (healed s y) (setH h r t))) ∧
      (sameObject s y (hreg s.cur g) = some false →
        exec (.hcas g h o) s = .next (retired (fun t => setH g (healed s y) (setH h r t)) s)))) ∧
  (∀ (s : State) (d : VReg) (h : HReg) (o : BitVec 13) (f : Fmt) (k : Kind) (r : Word) (a : Nat) (c : Bool) (ls : Nat → List Loc),
    VecReady s (sewOf s.cur) → kindOf s.cur = some k → pairOk f (some k) = true →
    let item (e : Nat) : Item := itemAt e (8 * ((a : Int) + o.toInt) + e * esz f)
    let x := hreg s.cur h
    let inn (e : Nat) := loadConv s.cur f k e (itemRead s f (item e) (ls e))
    let out (e : Nat) := storeConv s.cur f k e (elt s.cur d k.width e)
    (resolveT s x .load = .ok r a c → (∀ e, body s e = true → HeapElement s f .load (item e) (ls e) ∧ Clean s (ls e)) →
      ∃ u, exec (.vldh d h o f) s = .next u ∧ u.cur.h = s.cur.h.set h r ∧
        VecWrote (cleared .unit true s) (onThread (fun t => { t with h := s.cur.h }) u) d (sewOf s.cur) (body s) (fun e => (inn e).1)
          (bodyFlags s fun e => (inn e).2)) ∧
    (resolveT s x .store = .ok r a c → (∀ e, body s e = true → HeapElement s f .store (item e) (ls e)) →
      ∃ u, exec (.vsth d h o f) s = .next u ∧
        OnlyBytes s u (fun t => { t with h := t.h.set h r, ctl := { t.ctl with
          vstart := 0, fflags := t.ctl.fflags ||| (bodyFlags s fun e => (out e).2).zeroExtend 64 } }) ∧
        (∀ e, body s e = true → LastWriter (body s) f item ls e → itemRead u f (item e) (ls e) = (out e).1 % 2 ^ esz f) ∧
        (∀ l, (∀ e, body s e = true → l ∉ ls e) → byteAt u l = byteAt s l)))

/-- R264-R266: HPIN and HUNPIN raise and lower the pin count of the object's header, HHEAL leaves the healed reference, HCMP compares
objects, HALLOC writes a header, gives a reference of the good colour and advances HABUF, HNUL and HNUL.N branch on a null and on
another reference. A heap instruction that waits on COPYING is carried out again by its resumption. -/
def Obligations.PinsHealsAndAllocation : Prop :=
  ∀ (s : State) (d : SReg) (g h : HReg) (o : BitVec 13) (r q : Word) (a b : Nat) (c e : Bool) (ls : List Loc) (n : Nat) (z : Region), Calm s →
    let x := hreg s.cur h
    let y := hreg s.cur g
    let w : Word := BitVec.ofNat 64 (valueAt s ls)
    let pins := fld w 32 16
    let alloc (t : Thread) : Thread := setH g (recolour (BitVec.ofNat 64 (refAddr s.cur.ctl.habuf)) z.good)
      { t with ctl := { t.ctl with habuf := setFld t.ctl.habuf 4 53 (refAddr s.cur.ctl.habuf / 16 + n) } }
    (resolveT s x .heal = .ok r a c → heapRead s x (BitVec.ofNat 64 a) 8 .store = .ok ls →
      (pins < 65535 → ∃ t, exec (.hpin d h) s = .next t ∧
        Wrote s t ls (setFld w 32 16 (pins + 1)).toNat (fun t => put d (BitVec.ofNat 64 a) (setH h r t))) ∧
      (0 < pins → ∃ t, exec (.hunpin h) s = .next t ∧ Wrote s t ls (setFld w 32 16 (pins - 1)).toNat (setH h r)) ∧
      (pins = 65535 → exec (.hpin d h) s = .next (trapped 0x18 x 0 s)) ∧ (pins = 0 → exec (.hunpin h) s = .next (trapped 0x18 x 0 s))) ∧
    (x = 0 → exec (.hheal h) s = .next (retired id s)) ∧
    (x ≠ 0 → resolveT s x .heal = .ok r a c → exec (.hheal h) s = .next (retired (setH h r) s) ∧
      (s.cur.wait = some (.hheal h) → exec .heapStoreResume s = .next (retired (setH h r) s))) ∧
    (∀ i ∈ [Instr.hst d h o .b, .hst d h o .h, .hst d h o .w, .hst d h o .d, .sth g h o, .hcas g h o, .hpin d h, .hunpin h, .hcmp d h g],
      s.cur.wait = some i → exec .heapStoreResume s = exec i s) ∧
    (x = 0 ∨ y = 0 → exec (.hcmp d h g) s = .next (retired (put d (truth (x = y))) s)) ∧
    (x ≠ 0 → y ≠ 0 → resolveT s x .heal = .ok r a c → resolveT s y .heal = .ok q b e →
      exec (.hcmp d h g) s = .next (retired (fun t => put d (truth (a = b)) (setH g q (setH h r t))) s)) ∧
    (Room s n z ls → (∀ i : BitVec 13, i.toNat = n → ∃ t, exec (.hallocImmediate g i) s = .next t ∧ Wrote s t ls n alloc) ∧
      (0 < n → n < 16777216 → (reg s d).toNat = n → ∃ t, exec (.hallocRegister g d) s = .next t ∧ Wrote s t ls n alloc)) ∧
    (Flat s → let there := jumped (s.cur.pc + BitVec.ofInt 64 (4 * o.toInt)) id s
      exec (.hnul h o) s = .next (if x = 0 then there else retired id s) ∧
      exec (.hnulN h o) s = .next (if x = 0 then retired id s else there))

/-- R304-R308, R284: SARM of a word in reach arms it (COUNT 0, ARMED 1, ERR and its codes cleared, FREE 1 for a landing and as it was
for another word; a merging landing is noted by its core, its data slot becomes zeros and its eight (M, S) pairs (−∞, +0)), or traps
SYNC by what is wrong with it; an address that is no multiple of 16 or not in reach traps ADDR in SARM and SWAIT; SWAIT and its
return complete once GEN is ahead of the value or ERR is set, and wait until then; BAR counts an arrival and it and its departure
complete once every live thread of the pack has arrived as often. -/
def Obligations.SyncWordsAndBarriers : Prop :=
  ∀ (s : State) (d a : SReg) (cid w : Nat), Calm s →
    let f := flagsRd s cid w
    let target := hdrRd s cid w 4
    let slot := hdrRd s cid (w + 16) 4
    let arrived := if s.cur.barWait then s.cur.barCount else s.cur.barCount + 1
    let left (t : Thread) : Thread := { t with barCount := arrived, barWait := false }
    ((reg s a).toNat % 16 ≠ 0 ∨ scratchAt s s.cur (reg s a) = none →
      exec (.sarm a) s = .next (trapped 0x05 (reg s a) 0 s) ∧ exec (.swait d a) s = .next (trapped 0x05 (reg s a) 0 s)) ∧
    (syncWord s (reg s a) = .ok (cid, w) →
      (target = 0 → exec (.sarm a) s = .next (trapped 0x1B 1 0 s)) ∧
      (target ≠ 0 → wbit f 0 = true → (hdrRd s cid (w + 4) 4 ≠ 0 ∨ wbit f 6 = true) → exec (.sarm a) s = .next (trapped 0x1B 2 0 s)) ∧
      (target ≠ 0 → (wbit f 0 = false ∨ (hdrRd s cid (w + 4) 4 = 0 ∧ wbit f 6 = false)) →
        (fld f 24 6 ≠ 0 ∨ fld f 7 9 ≠ 0 ∨ (wbit f 31 = true ∧ malformedHeader s cid w f target = true) →
          exec (.sarm a) s = .next (trapped 0x1B 3 0 s)) ∧
        (fld f 24 6 = 0 → fld f 7 9 = 0 → (wbit f 31 = true → malformedHeader s cid w f target = false) →
          wbit f 31 = true → wbit f 30 = true → s.pkg.mbt = none → exec (.sarm a) s = .next (trapped 0x1B 7 0 s)) ∧
        (fld f 24 6 = 0 → fld f 7 9 = 0 → (wbit f 31 = true → malformedHeader s cid w f target = false) →
          (wbit f 31 = true → wbit f 30 = true → s.pkg.mbt ≠ none) →
          ∃ u, exec (.sarm a) s = .next u ∧ OnlyBytes s u id ∧
            hdrRd u cid (w + 4) 4 = 0 ∧ fld (flagsRd u cid w) 0 2 = 1 + 2 * fld f 1 1 ∧
            fld (flagsRd u cid w) 2 28 = (if wbit f 31 = true ∨ wbit f 4 = true then 4 else 0) ∧ fld (flagsRd u cid w) 30 2 = fld f 30 2 ∧
            (wbit f 31 = true → wbit f 30 = true → w ∈ (coreOf u cid).headers ∧
              (tileOf (coreOf u cid) slot = 0 ∧ slotBad (coreOf u cid) slot = []) ∧ (∀ h, h < 8 → hdrRd u cid (w + 64 + 8 * h) 8 = 0xFF800000) ∧
              ∀ l, l ∉ hdrLocs cid (w + 4) 4 → l ∉ hdrLocs cid (w + 12) 4 → l ∉ hdrLocs cid (w + 64) 64 → l ∉ slotLocs cid slot →
                byteAt u l = byteAt s l) ∧
            (wbit f 31 = false ∨ wbit f 30 = false →
              ∀ l, l ∉ hdrLocs cid (w + 4) 4 → l ∉ hdrLocs cid (w + 12) 4 → byteAt u l = byteAt s l)))) ∧
    (syncWord s (reg s a) = .ok (cid, w) →
      (Ahead (hdrRd s cid (w + 8) 4) (reg s d) ∨ wbit f 2 = true → exec (.swait d a) s = .next (retired id s) ∧
        (s.cur.wait = some (.swait d a) → exec .swaitReturn s = .next (retired id s))) ∧
      (¬ (Ahead (hdrRd s cid (w + 8) 4) (reg s d) ∨ wbit f 2 = true) → exec (.swait d a) s = .next (waiting (.swait d a) s))) ∧
    (barPassed (onThread (fun t => { t with barCount := arrived }) s) arrived = true →
      exec .bar s = .next (retired left s)) ∧
    (s.cur.wait = some .bar → s.cur.barWait = true → barPassed s s.cur.barCount = true → exec .barDeparture s = .next (retired left s)) ∧
    (barPassed (onThread (fun t => { t with barCount := arrived }) s) arrived = false →
      exec .bar s = .next (waiting .bar (onThread (fun t => { t with barCount := arrived, barWait := true }) s)))

/-- R309, R319, R322, R323: SPAWN of a record in reach copies it into an open queue at TAIL and moves TAIL on, traps SYNC 6 where the
queue is closed to it, and waits while it is full; its append does the same for the record it holds. END and its release, with
nothing of the thread outstanding, count the thread in its record's completion and leave its context blank: FINISHED rises by one,
FLAGS takes the thread's flags, STATUS becomes DONE with the last thread, which also lowers the join block's COUNT (to INIT where
that is set and COUNT was 1) and, where it was 1, appends the successor to the block's queue. -/
def Obligations.SpawnAndEnd : Prop :=
  ∀ (s : State) (a : SReg) (q : Fin 1024) (r : Rec) (ls : List Loc) (c : Nat) (p : Pack), Calm s →
    let x := reg s a
    let i : Instr := .spawn a q
    let last : Prop := ∀ m ∈ p.members, m.frame = s.cur.frame ∨ m.ended = true
    let seq := seqLocs (ticked s) p.src.pgroot
    let word (ls : List Loc) : Word := BitVec.ofNat 64 (valueAt s ls)
    let only (u : State) (ls : List Loc) : Prop := ∀ pa, Loc.phys pa ∉ ls → readPhys u pa = readPhys s pa
    let finished (u : State) (dl : List Loc) : Prop :=
      let w := word dl
      let w' : Word := BitVec.ofNat 64 (valueAt u dl)
      fld w' 0 7 = (fld w 0 7 + 1) % 128 ∧ fld w' 16 5 = fld w 16 5 ||| fld s.cur.ctl.fflags 0 5 ∧
      fld w' 62 2 = (if fld w 0 7 + 1 = recThreads p.record then 1 else fld w 62 2) ∧ fld w' 7 9 = fld w 7 9 ∧ fld w' 21 41 = fld w 21 41
    let joined (u : State) (jl : List Loc) : Prop :=
      let w0 := word (jl.take 8)
      let succ := word (jl.drop 8)
      let next := if fld w0 0 32 = 1 ∧ fld w0 32 16 ≠ 0 then fld w0 32 16 else fld w0 0 32 - 1
      let y := seqWrite p.src.pgroot p.src.join (jl.take 8) (leBytes 8 (setFld w0 0 32 next).toNat) (ticked s)
      (fld w0 58 6 = 0 → 1 < fld w0 0 32 ∨ (fld w0 0 32 = 1 ∧ succ = 0) →
        BitVec.ofNat 64 (valueAt u (jl.take 8)) = setFld w0 0 32 next ∧ only u (jl.take 8)) ∧
      (∀ rs, fld w0 58 6 = 0 → fld w0 0 32 = 1 → succ ≠ 0 → seqLocs y p.src.pgroot succ 64 false = some rs →
        Open y (fld w0 48 10) p.src.pgroot → u.mem = (appendRec (fld w0 48 10) (BitVec.ofNat 512 (valueAt y rs)) y).mem)
    let done (t : Thread) : Thread := { t with spawned := none }
    (canonical x = true → x.toNat % 64 = 0 → xlatN s s.cur x 64 .load = .ok (ls, c) → (∀ l ∈ ls, locFenced s l = false) → Clean s ls →
      r = BitVec.ofNat 512 (valueAt s ls) →
      (Open s q s.cur.ctl.pgroot → exec i s = .next (retired done (appendRec q r s))) ∧
      (appendOk s q s.cur.ctl.pgroot = false → ∃ u, exec i s = .next (trapped 0x1B 6 0 u) ∧ u.mem = s.mem ∧ u.cur.s = s.cur.s) ∧
      (appendOk s q s.cur.ctl.pgroot = true → appendWaits s q = true →
        exec i s = .next (waiting i (onThread (fun t => { t with spawned := some r }) s)))) ∧
    (s.cur.wait = some i → s.cur.spawned = some r → Open s q s.cur.ctl.pgroot →
      exec .spawnAppend s = .next (retired done (appendRec q r s))) ∧
    (Drained s → s.cur.live = true → packOf s s.cur.pack = some p →
      (∃ u, exec .endThread s = .next u ∧ u.cur = {} ∧ u.others = s.others.filter (fun t => !(t.live && t.frame == s.cur.frame)) ∧
        (∀ o, packOf u s.cur.pack = some o → ∀ m ∈ o.members, m.frame = s.cur.frame → m.ended = true) ∧
        (∀ dl, p.src.done ≠ 0 → p.src.inside = false → seq p.src.done 8 true = some dl → (last → p.src.join = 0) →
          finished u dl ∧ only u dl) ∧
        (∀ jl, p.src.done = 0 → last → p.src.join ≠ 0 → seq p.src.join 16 true = some jl → joined u jl)) ∧
      (s.cur.wait = some .endThread → exec .endRelease s = exec .endThread s ∧ ∃ u, exec .endRelease s = .next u ∧ u.cur = {})) ∧
    (¬ Drained s → s.cur.folBad = [] → exec .endThread s = .next (waiting .endThread s))

/-- R292-R297, R300, R301, R303, R355: the copy instructions answer with a status and write no other register: 2 for fields they refuse,
3 for an address they may not name, 1 while 256 commands are live, 0 once the command is accepted under the sett's next identifier;
CPYM answers 4 while four of the thread's follow-ons are pending, takes its follow-on with the values of the moment, or traps where
the follow-on's own check fails. RELOC in user mode traps PRIV. That a follow-on whose check fails with ILL (a reserved bit of an
MMAS descriptor) traps the CPYM, with the CPYM's own word and nothing issued, is the model's reading (DEDUCED, log entry 44). -/
def Obligations.CopyCommands : Prop :=
  ∀ (s u : State) (d : SReg) (a : CmdBase) (f : Instr), Calm s → s.cur.sett < 4 →
    let w8 := cmdWords a s
    let q := settOf s s.cur.sett
    let said (n : Nat) (x : State) : State := retired (put d (BitVec.ofNat 64 n)) x
    let entered (op : CmdOp) (y : State) : Prop := ∃ c, (settOf y s.cur.sett).cmds = q.cmds ++ [c] ∧ (settOf y s.cur.sett).nextCmd = q.nextCmd + 1 ∧
      c.id = q.nextCmd ∧ c.op = op ∧ c.c = w8 ∧ c.state = .running ∧ c.done = [] ∧ c.frame = s.cur.frame ∧ c.pgroot = s.cur.ctl.pgroot
    let good (op : CmdOp) : Prop := badCmd op w8 = false ∧ badAddr s op w8 = false ∧ q.cmds.length < 256
    (∀ p ∈ [(CmdOp.cpy, Instr.cpy d a), (.cgath, .cgath d a), (.reloc, .reloc d a)], (p.1 = .reloc → inSup s.cur = true) →
      (badCmd p.1 w8 = true → exec p.2 s = .next (said 2 s)) ∧
      (badCmd p.1 w8 = false → badAddr s p.1 w8 = true → exec p.2 s = .next (said 3 s)) ∧
      (badCmd p.1 w8 = false → badAddr s p.1 w8 = false → 256 ≤ q.cmds.length → exec p.2 s = .next (said 1 s)) ∧
      (good p.1 → ∃ y, exec p.2 s = .next (said 0 y) ∧ entered p.1 y ∧ y.cur = s.cur ∧ y.mem = s.mem ∧ y.cores = s.cores ∧ y.others = s.others)) ∧
    (inSup s.cur = false → exec (.reloc d a) s = .next (trapped 0x04 (own (.reloc d a)) 0 s)) ∧
    (good .cpym → folInstr s (fld w8[7] 0 32) = some f → s.cur.fols.length < 4 → folCheck s f = none → Mapped s (folOps f) u →
      ∃ y fo, exec (.cpym d a) s = .next y ∧ entered .cpym y ∧ y.cur.fols = s.cur.fols ++ [fo] ∧ fo.cmd = q.nextCmd ∧
        fo.word = BitVec.ofNat 32 (fld w8[7] 0 32) ∧ fo.mshape = s.cur.ctl.mshape ∧ fo.ready = false ∧
        (∀ r, (slotOf y.cur.map r).map (·.1) = (slotOf u.cur.map r).map (·.1)) ∧ ((∃ m x z, f = .mmas m x z) → y.cur.map = u.cur.map) ∧
        y.cur.s = (put d 0 s.cur).s ∧ y.cur.pc = s.cur.pc + 4) ∧
    (good .cpym → folInstr s (fld w8[7] 0 32) = some f → s.cur.fols.length < 4 → ∀ e, folCheck s f = some e →
      exec (.cpym d a) s = .next (if e.cause = 0x01 then trapped 0x01 (own (.cpym d a)) 0 s else trapped e.cause e.eval e.erec s)) ∧
    (badCmd .cpym w8 = true ∨ folInstr s (fld w8[7] 0 32) = none → exec (.cpym d a) s = .next (said 2 s)) ∧
    (badCmd .cpym w8 = false → folInstr s (fld w8[7] 0 32) ≠ none →
      (badAddr s .cpym w8 = true → exec (.cpym d a) s = .next (said 3 s)) ∧
      (badAddr s .cpym w8 = false → 256 ≤ q.cmds.length → exec (.cpym d a) s = .next (said 1 s)) ∧
      (badAddr s .cpym w8 = false → q.cmds.length < 256 → 4 ≤ s.cur.fols.length → exec (.cpym d a) s = .next (said 4 s)))

/-- R296-R302: what engines do with commands that are not traced and name no sync word. A chunk in one row and one pair of pages is
copied byte for byte, other bytes stay; a translation fault suspends the command and is due to be posted; a command whose bytes are
all written leaves its sett, and its follow-on becomes ready; a ready follow-on on a resident register is carried out and gone, with
the products of its MMAS accumulated in its register, or the elements of its MLD in it, from the scratchpad as it stood at the CPYM
with what the command wrote; CMD_RESUME lets a suspended command run, CMD_ABORT ends it. The chunks are given by the environment,
what a step makes due is the model's interleaving, and the number of the return code is PRESUMED (log entries 45, 3 and 29). -/
def Obligations.EngineProgress : Prop :=
  ∀ (s : State) (sett cmd first n tid : Nat) (c : Cmd) (src dst : List Loc) (va : Word) (wr : Bool) (t : State) (f : FollowOn) (i : Instr),
    let gone (u : State) : Prop := ∀ x ∈ (settOf u sett).cmds, x.id ≠ c.id
    (Working s sett cmd c → c.op ≠ .reloc → c.traced = false → c.owes = false → c.sync = none → 0 < n → nextTodo c.done first = first →
      nextDone c.done first (first + n) = first + n → first + n ≤ cmdTotal c → cmdChunk (ticked s) c first n = .ok (src, dst) →
      src.length = n → dst.Nodup →
      ∃ u, exec (.engineCommandStart sett cmd first n) s = .next u ∧ (∀ j (h1 : j < src.length) (h2 : j < dst.length), byteAt u dst[j] = byteAt s src[j]) ∧
        (∀ l, l ∉ dst → byteAt u l = byteAt s l) ∧ u.cur = s.cur ∧ u.others = s.others ∧ u.packs = s.packs ∧
        (∃ x, findCmd u sett cmd = some x ∧ x.done = addInterval first (first + n) c.done ∧ x.state = .running)) ∧
    (Working s sett cmd c → c.op ≠ .reloc → c.owes = false → c.sync = none → nextTodo c.done 0 = cmdTotal c →
      ∃ u, exec (.engineCommandComplete sett cmd) s = .next u ∧ gone u ∧ u.mem = s.mem ∧ u.cur.s = s.cur.s ∧
        (c.op = .cpym → Instr.followOn c.frame ∈ u.work ∧ (s.cur.live = true → s.cur.frame = c.frame →
          ∀ y ∈ u.cur.fols, y.cmd = c.id → y.ready = true))) ∧
    (findCmd s sett cmd = some c → c.fault = some (va, wr) →
      ∃ u e, exec (.engineTranslationFault sett cmd) s = .next u ∧ u.pkg.fqWait = s.pkg.fqWait ++ [e] ∧ e.getD 4 0 = va ∧
        fld (e.getD 0 0) 0 8 = 3 ∧ Instr.faultQueuePost ∈ u.work ∧ u.mem = s.mem ∧ u.cur = s.cur ∧
        (∃ x, findCmd u sett cmd = some x ∧ x.state = .suspended va wr ∧ x.fault = none)) ∧
    (focus tid s = some t → folNext [] t.cur.fols = some f → decode f.word.toNat = .ok i → isResident t.cur.map (folReg f) = true →
      ((∃ m a b, i = .mmas m a b) ∨ ∃ m b x h k, i = .mld m b x h k) →
      exec (.followOn tid) s = .next (folPerform f i (ticked t)) ∧ (folPerform f i (ticked t)).cur.fols = t.cur.fols.filter (·.cmd != f.cmd) ∧
        (folPerform f i (ticked t)).mem = t.mem ∧ (folPerform f i (ticked t)).cur.s = t.cur.s ∧
        (1 ≤ fld f.mshape 0 7 → fld f.mshape 0 7 ≤ 64 → 1 ≤ fld f.mshape 8 7 → fld f.mshape 8 7 ≤ 64 →
          FolResult f i (ticked t) (folPerform f i (ticked t)))) ∧
    (s.pkg.tripped = false → s.pkg.fwfail = false → s.pkg.mbox.background = none → findCmd s sett cmd = some c → isSuspended c = true →
      (∃ u, exec (.cmdResume sett cmd) s = .next u ∧ u.pkg.mbox.code = 0 ∧ u.mem = s.mem ∧ u.cur = s.cur ∧
        (∃ x, findCmd u sett cmd = some x ∧ x.state = .running ∧ x.done = c.done)) ∧
      (∃ u, exec (.cmdAbort sett cmd) s = .next u ∧ gone u ∧ u.pkg.mbox.code = 0 ∧ u.cur.s = s.cur.s))

/-- R253-R255, R303: relocation by commands that are not traced. A FLIP whose checks hold makes each listed page's directory entry
PENDING with the new colour as its EPOCH, gives its region entry the new colour in front of the old ones, changes no other byte, and
waits for every core that runs a thread; a core's acknowledgement drops its old entry and no other's, and the last one, of a core
that may have acknowledged as it fell idle, makes the region ACTIVE, counts the flip and reports. MOVE takes the entries of a page
by rising OLD: it marks an EMPTY entry without a pin COPYING, its next step copies the object, clears the copy's pin count and marks
the entry DONE; an entry with a pin becomes DONE in place with SKIP and is reported; a page whose entries are all done becomes
FORWARDED. That a step makes the next one due is the model's interleaving (log entry 3). -/
def Obligations.Relocation : Prop :=
  ∀ (s : State) (sett cmd cid pa : Nat) (c : Cmd) (e : Region) (pages : List Nat) (ls : List Loc),
    (Working s sett cmd c → c.op = .reloc → c.traced = false → c.owes = false → fld c.c[0] 28 4 = 0 → c.page ≠ 1 →
      pa = regionPa c.hreg (relocRegion c) →
      relocPages (ticked s) c = .ok pages → cmdSpan (ticked s) c true false c.c[2] 8 = .ok ls → relocResult s c pages = 0 →
      regionMk (rdWord s pa) (rdWord s (pa + 8)) = some e → s.cur.live = true →
      ∃ u, exec (.flip sett cmd) s = .next u ∧ u.cur = s.cur ∧ u.others = s.others ∧
        (∃ x, findCmd u sett cmd = some x ∧ x.state = .flipping pa) ∧
        fld (rdWord u pa) 60 4 = fld c.c[0] 24 4 ∧ fld (rdWord u pa) 56 4 = fld (rdWord s pa) 60 4 ∧
        fld (rdWord u pa) 52 4 = fld (rdWord s pa) 56 4 ∧ fld (rdWord u pa) 50 2 = min (fld (rdWord s pa) 50 2 + 1) 2 ∧ fld (rdWord u pa) 48 2 = 2 ∧
        (∀ p ∈ pages, dirPa e p + 8 ≤ pa ∨ pa + 8 ≤ dirPa e p → fld (rdWord u (dirPa e p)) 62 2 = 1 ∧
          fld (rdWord u (dirPa e p)) 58 4 = fld c.c[0] 24 4 ∧ fld (rdWord u (dirPa e p)) 0 58 = fld (rdWord s (dirPa e p)) 0 58) ∧
        (∀ k, (k < pa ∨ pa + 8 ≤ k) → (∀ p ∈ pages, k < dirPa e p ∨ dirPa e p + 8 ≤ k) → readPhys u k = readPhys s k) ∧
        (∀ t ∈ threads s, (tkeys (coreOf u (cidOf t)).oldEntry).contains pa = true ∧ Instr.flipAcknowledge (cidOf t) pa ∈ u.work)) ∧
    ((tkeys (coreOf s cid).oldEntry).contains pa = true → (∃ k, k ≠ cid ∧ k ∈ coresHold s pa) →
      ∃ u, exec (.flipAcknowledge cid pa) s = .next u ∧ (tkeys (coreOf u cid).oldEntry).contains pa = false ∧
        (∀ k, k ≠ cid → coreOf u k = coreOf s k) ∧ u.mem = s.mem ∧ u.cur = s.cur ∧ u.others = s.others) ∧
    (let acked : State := if (tkeys (coreOf s cid).oldEntry).contains pa = true then
        modCore cid (fun q => { q with oldEntry := terase q.oldEntry pa }) (ticked s) else s
     coresHold acked pa = [] → sett < 4 → c ∈ (settOf s sett).cmds →
      c.state = .flipping pa → (∀ k x, x ∈ (settOf s k).cmds → x.state = .flipping pa → k = sett ∧ x = c) → c.owes = false →
      c.sync = none →
      let y := wrWord pa (setFld (rdWord s pa) 48 2 1) acked
      let z := wrWord (pa + 16) (rdWord y (pa + 16) + 1) y
      cmdSpan z c true false c.c[2] 8 = .ok ls → ls.Nodup → (∀ j, j < 32 → Loc.phys (pa + j) ∉ ls) →
      ∃ u, exec (.flipAcknowledge cid pa) s = .next u ∧ fld (rdWord u pa) 48 2 = 1 ∧ fld (rdWord u pa) 52 12 = fld (rdWord s pa) 52 12 ∧
        rdWord u (pa + 16) = rdWord s (pa + 16) + 1 ∧ (tkeys (coreOf u cid).oldEntry).contains pa = false ∧
        valueAt u ls = 2 ^ 63 + c.nrep % 2 ^ 32 * 2 ^ 16 + (if fld c.c[4] 0 32 < c.nrep then 2 ^ 15 else 0) ∧
        (∀ x ∈ (settOf u sett).cmds, x.id ≠ c.id) ∧ u.cur = s.cur ∧ u.others = s.others) ∧
    (Working s sett cmd c → c.op = .reloc → c.traced = false → c.owes = false → fld c.c[0] 28 4 = 1 →
      pa = regionPa c.hreg (relocRegion c) → relocPages (ticked s) c = .ok pages → relocResult s c pages = 0 →
      regionMk (rdWord s pa) (rdWord s (pa + 8)) = some e → ∀ p, pages[c.page]? = some p →
      let count := fld (rdWord s (dirPa e p)) 0 13
      let item (i : Nat) := fld (rdWord s (dirPa e p + 8)) 4 48 * 16 + 16 * i
      let ent := item c.entry
      let base := Config.wbase + relocRegion c * 2 ^ 30
      let old := base + p * 65536 + fld (rdWord s ent) 0 12 * 16
      let new := refAddr (rdWord s (ent + 8))
      let hdr : Word := BitVec.ofNat 64 (valueAt s ls)
      let size := 16 * fld hdr 0 24
      let fits : Prop := base ≤ new ∧ new < base + 2 ^ 30 ∧ ∀ q ∈ pages, base + (q + 1) * 65536 ≤ new ∨ new + size ≤ base + q * 65536
      let at' (u : State) (i : Nat) (m : Bool) : Prop := (∃ x, findCmd u sett cmd = some x ∧ x.entry = i ∧ x.moving = m ∧ x.page = c.page) ∧
        u.cur = s.cur ∧ Instr.move sett cmd ∈ u.work
      (c.moving = false → c.kept.contains c.page = false → count = c.entry →
        ∃ u, exec (.move sett cmd) s = .next u ∧ u.cur = s.cur ∧ fld (rdWord u (dirPa e p)) 62 2 = 2 ∧
          (∃ x, findCmd u sett cmd = some x ∧ x.page = c.page + 1 ∧ x.entry = 0) ∧ Instr.move sett cmd ∈ u.work) ∧
      (c.entry < count → (∀ i j, i < j → j < count → fld (rdWord s (item i)) 0 12 < fld (rdWord s (item j)) 0 12) →
        cmdSpan (ticked s) c false false (BitVec.ofNat 64 old) 8 = .ok ls →
        (c.moving = false → fld (rdWord s ent) 62 2 = 0 → fits → fld hdr 32 16 = 0 →
          ∃ u, exec (.move sett cmd) s = .next u ∧ fld (rdWord u ent) 62 2 = 1 ∧ at' u c.entry true) ∧
        (∀ rl, c.moving = false → fld (rdWord s ent) 62 2 = 0 → fits → fld hdr 32 16 ≠ 0 → c.nrep < fld c.c[4] 0 32 →
          cmdSpan (ticked s) c true false (c.c[2] + BitVec.ofNat 64 (8 + 8 * c.nrep)) 8 = .ok rl → rl.Nodup →
          (∀ j, j < 16 → Loc.phys (ent + j) ∉ rl) →
          ∃ u, exec (.move sett cmd) s = .next u ∧ fld (rdWord u ent) 62 2 = 2 ∧ fld (rdWord u ent) 61 1 = 1 ∧
            rdWord u (ent + 8) = BitVec.ofNat 64 old ∧ valueAt u rl = 2 ^ 60 + old % 2 ^ 57 / 16 * 16 ∧ at' u (c.entry + 1) false) ∧
        (∀ src dst, c.moving = true → cmdSpan (ticked s) c false false (BitVec.ofNat 64 old) size = .ok src →
          cmdSpan (ticked s) c true false (BitVec.ofNat 64 new) size = .ok dst → dst.Nodup → (∀ j, j < 8 → Loc.phys (ent + j) ∉ dst) →
          ∃ u, exec (.move sett cmd) s = .next u ∧ fld (rdWord u ent) 62 2 = 2 ∧ at' u (c.entry + 1) false ∧
            (∀ j (h1 : j < src.length) (h2 : j < dst.length), byteAt u dst[j] = if j = 4 ∨ j = 5 then 0 else byteAt s src[j]) ∧
            (∀ l, l ∉ dst → (∀ j, j < 8 → l ≠ .phys (ent + j)) → byteAt u l = byteAt s l))))

/-- R310-R312: MSEND and MSENDM to a port of this package, with their map step done and a sound source, take the port's answer: a
reservation accepted sets the tile or the contribution on its way and the thread waits for the acknowledgement; a port that refuses
it traps LINK or SYNC with its reason; one without room makes it wait. A reservation from another package's port and its
acknowledgement do the same for a send that waits; a failed link traps LINK 2 at the sender and frees the landing slot. ILL for
reserved fields of the descriptor, and that a step makes the arrival due, are the model's (log entries 35 and 3). -/
def Obligations.SendingTiles : Prop :=
  ∀ (s u : State) (m : MReg) (x y : SReg) (l : Bool) (tid cid off : Nat) (data : Tile) (fl : BitVec 5) (r : RemoteReply), Calm s →
    Mapped s [(m, .read)] u → mBad u m (fun _ => true) = none →
    let d := reg s y
    let i : Instr := .msend m x y l
    let j : Instr := .msendm m x y l
    let sent (i : Instr) (t : Thread) : Thread := { t with sent := true, wait := some i }
    let w := headerAt s cid off
    (sendPkg d = s.pkg.index → badSend false d = false →
      (portReply u false (sendCid d) (reg s x) = .accepted → ∃ v, exec i s = .next v ∧ v.cur = sent i u.cur ∧ v.mem = u.mem ∧
        wbit (flagsRd v (sendCid d) (headerAt u (sendCid d) (reg s x).toNat)) 4 = false ∧
        v.work = u.work ++ [.tileArrival (sendCid d) (reg s x).toNat (placeOf u u.cur) (mval u m)]) ∧
      (∀ n, portReply u false (sendCid d) (reg s x) = .link n → exec i s = .next (trapped 0x1A (BitVec.ofNat 64 n) 0 u)) ∧
      (∀ n, portReply u false (sendCid d) (reg s x) = .sync n → exec i s = .next (trapped 0x1B (BitVec.ofNat 64 n) 0 u)) ∧
      (portReply u false (sendCid d) (reg s x) = .waiting → exec i s = .next (waiting i u))) ∧
    (sendPkg d = s.pkg.index → badSend true d = false → portReply u true (sendCid d) (reg s x) = .accepted →
      exec j s = .next { ticked (onThread (sent j) u) with
        work := u.work ++ [.mergeContribution (sendCid d) (reg s x).toNat (contributionOf u m d)] }) ∧
    (badSend false d = true → exec i s = .next (trapped 0x01 (own i) 0 s)) ∧
    (badSend false d = false → sendPkg d ≠ s.pkg.index → s.pkg.peers.contains (sendPkg d) = true → s.pkg.fenced.contains (sendPkg d) = false →
      exec i s = .next (waiting i u) ∧
      (s.cur.live = true → s.cur.frame = tid → s.cur.wait = some i → s.cur.sent = false → r = .accepted →
        exec (.sendReservation (.sender tid) r) s = .next (ticked (onThread (sent i) u)))) ∧
    (portReply s false cid (BitVec.ofNat 64 off) = .accepted → ∃ v, exec (.sendReservation (.incoming cid off data) r) s = .next v ∧
      wbit (flagsRd v cid w) 4 = false ∧ v.cur = s.cur ∧ v.mem = s.mem) ∧
    (s.cur.live = true → s.cur.frame = tid → s.cur.sent = true →
      (s.cur.wait = some i → inFlight s (placeOf s s.cur) = false →
        exec (.sendAcknowledgement tid fl) s = .next (retired (fun t => { t with sent := false }) (lastUse l m s))) ∧
      (s.cur.wait = some j → inFlight s (placeOf s s.cur) = false → exec (.sendAcknowledgement tid fl) s =
        .next (retired (fun t => flagged fl { t with sent := false }) (lastUse l m s))) ∧
      (s.cur.wait = some i → sendPkg d ≠ s.pkg.index → exec (.linkFailure (.sender tid)) s =
        .next (trapped 0x1A 2 0 (onThread (fun t => { t with sent := false }) s)))) ∧
    (reservedAt s cid off = true → ∃ v, exec (.linkFailure (.incoming cid off data)) s = .next v ∧ v.cur = s.cur ∧ v.mem = s.mem ∧
      (Apart w (hdrRd s cid (w + 16) 4) → wbit (flagsRd v cid w) 4 = true ∧ ∀ j, j < Config.slotBytes →
        tileByte (tileOf (coreOf v cid) (hdrRd s cid (w + 16) 4)) j = tileByte (tileOf (coreOf s cid) (hdrRd s cid (w + 16) 4)) j ∨
        tileByte (tileOf (coreOf v cid) (hdrRd s cid (w + 16) 4)) j = tileByte data j))

/-- R310-R313, R233, R234, R372, R306: a tile that arrives at its reserved landing fills the data slot and SRC, and of an armed word
that expects it makes FULL 1 and FREE 0, and where SLOT is no scratchpad slot no register slot changes and MRECV leaves its register
without a slot (log entry 31: the model's, with R10); a merge contribution sets its bit in the merge table, merges each of its heads
into that head's (M, S) and row and leaves the rest of the tile, and names its sender, and one whose bit is set changes nothing.
MRECV binds a full landing slot to its register, waits for one that is not full, and its bind does the same for a thread that waits. -/
def Obligations.LandingTiles : Prop :=
  ∀ (s : State) (m : MReg) (x : SReg) (cid off slot w base : Nat) (place : Word) (data : Tile) (c : Contribution),
    let own := fld place 16 10 = s.pkg.index
    let f := flagsRd s cid w
    let bit := c.seq % 64
    let a := base + 8 * (c.group % 256 * 1024 + fld c.place 16 10)
    let expected : Prop := if fld c.place 16 10 = s.pkg.index then localSender s c.place ≠ none else portReply s true cid (BitVec.ofNat 64 off) = .accepted
    (w = headerAt s cid off → slot = hdrRd s cid (w + 16) 4 → dataSlot (coreOf s cid) slot = true → Apart w slot →
      ((own ∧ localSender s place ≠ none) ∨ (¬ own ∧ reservedAt s cid off = true) → ∃ u, exec (.tileArrival cid off place data) s = .next u ∧
        tileOf (coreOf u cid) slot = data ∧ hdrRd u cid (w + 24) 8 = place.toNat ∧ u.mem = s.mem ∧ u.cur.s = s.cur.s ∧
        (wbit f 31 = true → wbit f 0 = true → hdrRd s cid w 4 = 16384 → hdrRd s cid (w + 4) 4 = 0 → (∀ q ∈ allCmds s, q.sync ≠ some (cid, w)) →
          wbit (flagsRd u cid w) 5 = true ∧ wbit (flagsRd u cid w) 4 = false)) ∧
      (s.pkg.mbt = some base → expected →
        (wbit (rdWord s a) bit = false → ∃ u, exec (.mergeContribution cid off c) s = .next u ∧
          rdWord u a = setFld (setFld (rdWord s a) bit 1 1) ((bit + 32) % 64) 1 0 ∧ hdrRd u cid (w + 24) 8 = c.place.toNat ∧
          (c.cols ≤ 64 → (∀ y ∈ c.heads, y.2.length = c.cols) → ∀ h, h < 64 →
            let elt (z : State) (j : Nat) : F32 := tileElt (tileOf (coreOf z cid) slot) (64 * h + j)
            let row (z : State) : List F32 := (List.range c.cols).map (elt z)
            let ms (z : State) : Word := BitVec.ofNat 64 (hdrRd z cid (w + 64 + 8 * h) 8)
            let merged : Option (Word × List F32 × Flags) := match c.heads[h]? with
              | some (o, r) => if h < 8 then mergeHead (ms s) (row s) o r else none
              | none => none
            (h < 8 → ms u = (merged.map (·.1)).getD (ms s)) ∧ row u = (merged.map (·.2.1)).getD (row s) ∧
            ∀ j, c.cols ≤ j → j < 64 → elt u j = elt s j)) ∧
        (wbit (rdWord s a) bit = true → ∃ u, exec (.mergeContribution cid off c) s = .next u ∧ u.mem = s.mem ∧ u.cores = s.cores ∧ u.cur = s.cur))) ∧
    (w = headerAt s cid off → dataSlot (coreOf s cid) (hdrRd s cid (w + 16) 4) = false →
      ∃ u v, exec (.tileArrival cid off place data) s = .next u ∧ exec (.mergeContribution cid off c) s = .next v ∧
        ∀ k, k < scratchSlot (coreOf s cid) → tileOf (coreOf u cid) k = tileOf (coreOf s cid) k ∧
          tileOf (coreOf v cid) k = tileOf (coreOf s cid) k) ∧
    (Calm s → (reg s x).toNat % 128 = 0 → inOwnWindow (reg s x) = true → scratchAt s s.cur (reg s x) = some (cid, w) →
      Clean s (hdrLocs cid w 128) → wbit f 31 = true →
      (wbit f 5 = true → FolClear s [m.val] → slot = hdrRd s cid (w + 16) 4 → dataSlot (coreOf s cid) slot = true →
        ∃ u, exec (.mrecv m x) s = .next u ∧ (s.cur.wait = some (.mrecv m x) → exec .mrecvBind s = .next u) ∧
          slotOf u.cur.map m = some (slot, true, true) ∧ wbit (flagsRd u cid w) 5 = false ∧ wbit (flagsRd u cid w) 6 = true ∧
          u.cur.pc = s.cur.pc + 4 ∧ u.mem = s.mem ∧ u.cur.s = s.cur.s) ∧
      (wbit f 5 = true → FolClear s [m.val] → dataSlot (coreOf s cid) (hdrRd s cid (w + 16) 4) = false →
        ∃ u, exec (.mrecv m x) s = .next u ∧ slotOf u.cur.map m = none ∧ wbit (flagsRd u cid w) 5 = false ∧
          wbit (flagsRd u cid w) 6 = wbit f 6 ∧ u.cur.pc = s.cur.pc + 4 ∧ u.mem = s.mem ∧ u.cur.s = s.cur.s) ∧
      (wbit f 5 = false → exec (.mrecv m x) s = .next (waiting (.mrecv m x) s)))

/-- R317-R324, R329: a doorbell in range moves TAIL, one out of range of TAIL or HEAD is an event; enabling a queue with a legal
descriptor sets EN and lets it be served, one that breaks a rule is an event and stays disabled, closing a queue ends its service; a
decide record, or a loop record that has counted down, without completion or join words appends the successor that its condition
chooses, a nop record is DONE; a held append takes place once there is room. An event record goes to log 1, or is counted where that
is full. -/
def Obligations.QueuesAndNodes : Prop :=
  ∀ (s : State) (q : Fin 1024) (tail idx : BitVec 32) (x : Rec) (ls rs : List Loc) (h : Held) (hs : List Held),
    let w := setFld (queueWord s q 1) 5 1 1
    let pg := (spaceOf s (queueAsid s q)).pgroot
    let t := ticked s
    let v : Word := BitVec.ofNat 64 (valueAt s ls)
    let chosen (b : Bool) : Word := if b then recWord x 5 else recWord x 6
    let lone : Prop := recWord x 4 = 0 ∧ recWord x 3 = 0
    let grown (u : State) : Prop :=
      if (vnth s.pkg.logs [] 1).length < Config.logCapacity 1 then
        ∃ e, e.queueError = true ∧ vnth u.pkg.logs [] 1 = vnth s.pkg.logs [] 1 ++ [e] ∧ signalled u.pkg 2 = true
      else vnth u.pkg.logs [] 1 = vnth s.pkg.logs [] 1 ∧ vnth u.pkg.logLost 0 1 = vnth s.pkg.logLost 0 1 + 1
    (queueEnabled s q = true → queueHost s q = true →
      ((tail - queueTail s q).toNat ≤ queueSize s q → (tail - queueHead s q).toNat ≤ queueSize s q →
        exec (.doorbell q tail) s = .next (setTail q tail t) ∧ queueTail (setTail q tail t) q = tail) ∧
      (queueSize s q < (tail - queueTail s q).toNat ∨ queueSize s q < (tail - queueHead s q).toNat → ∃ u, exec (.doorbell q tail) s = .next u ∧ grown u ∧ u.mem = s.mem)) ∧
    (s.pkg.qt ≠ none → queueEnabled s q = false → s.pkg.fwfail = false →
      (fld (queueWord s q 0) 0 12 = 0 → fld w 13 51 = 0 → wbit w 7 = false → 4 ≤ fld w 0 5 → fld w 0 5 ≤ 16 →
        ∃ u, exec (.queueEnable q) s = .next u ∧ queueEnabled u q = true ∧ queueWord u q 1 = w ∧ u.cur = s.cur) ∧
      (fld w 0 5 < 4 ∨ 16 < fld w 0 5 ∨ fld (queueWord s q 0) 0 12 ≠ 0 ∨ fld w 13 51 ≠ 0 ∨ wbit w 7 = true → ∃ u, exec (.queueEnable q) s = .next u ∧ queueEnabled u q = false ∧ grown u)) ∧
    (queueEnabled s q = true → ∃ u, exec (.queueClose q) s = .next u ∧ queueEnabled u q = false ∧ heldFor u q = [] ∧ u.cur = s.cur ∧
      (heldFor s q = [] → wbit (queueWord u q 1) 5 = false)) ∧
    (lone → seqLocs t pg (recWord x 1) 8 false = some ls →
      let b := cmpHolds (fld (recWord x 0) 61 3) v (recWord x 2)
      (chosen b = 0 → exec (.decideNode q idx x) s = .next t) ∧
      (chosen b ≠ 0 → seqLocs t pg (chosen b) 64 false = some rs → Open s q pg →
        exec (.decideNode q idx x) s = .next (appendRec q (BitVec.ofNat 512 (valueAt s rs)) t))) ∧
    (lone → seqLocs t pg (recWord x 1) 8 true = some ls → chosen (v - 1 != 0) = 0 →
      ∃ u, exec (.loopNode q idx x) s = .next u ∧ valueAt u ls = (v - 1).toNat ∧ (∀ l, l ∉ ls → byteAt u l = byteAt s l) ∧ u.cur = s.cur) ∧
    (lone → seqLocs t pg (recWord x 1) 8 true = some ls → chosen (v - 1 != 0) ≠ 0 →
      let y := seqWrite pg (recWord x 1) ls (leBytes 8 (v - 1).toNat) t
      valueAt y ls = (v - 1).toNat ∧ (∀ l, l ∉ ls → byteAt y l = byteAt s l) ∧
      (seqLocs y pg (chosen (v - 1 != 0)) 64 false = some rs → Open y q pg →
        exec (.loopNode q idx x) s = .next (appendRec q (BitVec.ofNat 512 (valueAt y rs)) y))) ∧
    (lone → exec (.nopNode q idx x) s = .next t) ∧
    (recWord x 4 ≠ 0 → recWord x 3 = 0 → seqLocs t pg (recWord x 4) 8 true = some ls →
      seqLocs (seqWrite pg (recWord x 4) ls (leBytes 8 0) t) pg (recWord x 4) 8 true = some ls →
      ∃ u, exec (.nopNode q idx x) s = .next u ∧ valueAt u ls = 2 ^ 62 ∧ (∀ l, l ∉ ls → byteAt u l = byteAt s l)) ∧
    (heldFor s q = h :: hs → h.node = false → queueCount s q < queueSize s q →
      ∃ u, exec (.heldAppend q) s = .next u ∧ u.mem = (appendRec q h.record s).mem ∧ u.pkg.held = s.pkg.held.erase h ∧ u.cur = s.cur)

/-- R325-R328, R332-R336, R48, R349, R359-R361, R357, R368: the life of a pack. Of the head records that can be served the one of
highest priority is taken, at equal priority the first queue after the one served last at that level; a code record becomes a pack
on free contexts of usable cores of the cool sett with the most free contexts, or with packs of lower priority to be pre-empted; a
pack whose contexts are free starts with the registers of R48, one whose contexts are not waits; a save writes each thread's
registers to its frame, shown on a pack of one thread, clears its contexts and leaves the pack saved, or parked where a thread
parks; a restore gives each thread the registers of its frame, or parks a pack with a malformed frame; PACK_RESUME, PACK_ABORT and
PACK_ADOPT do what their names say; a thread that holds octets beyond its target is pre-empted; a transfer of the map ends; an
abandoned reply stops an instruction at its element. Model's choices: that a step makes the next one due (log entry 3); what waits
on a core taken away (log entry 12); the return code 0 of PACK_RESUME, PACK_ABORT and PACK_ADOPT (log entry 29, PRESUMED); that
these name a pack by any live frame of it (log entry 28); that contexts of parked cores count as free (log entry 11); and that a
pack awaited on a core makes another wait for it (log entry 16). -/
def Obligations.PackLife : Prop :=
  ∀ (s : State) (id tid g cid q : Nat) (p : Pack) (t : Thread) (pref : List Nat) (x : Rec) (fs : List Nat) (f : Xfer) (fx : List Xfer),
    let live := p.members.filter fun m => !m.ended
    let ready (k : Nat) (cs : List (Nat × Nat)) : Bool := cs.all fun c => !coreBarred s (32 * k + c.1) &&
      startReady s (32 * k + c.1) (recOctets p.record) c.2 (cs.contains (c.1, 0)) (cs.contains (c.1, 1))
    let here := p.members.map fun m => (m.core, m.ctx)
    let there := live.map fun m => (m.toCore, m.toCtx)
    let mine := (threads s).filter (·.pack == id)
    let serving : Prop := s.pkg.tripped = false ∧ s.pkg.fwfail = false ∧ s.pkg.mbox.background = none
    let prio (k : Nat) (y : Rec) := min (recPrio y) (queuePmax s k)
    let last := tget s.pkg.served 1023 (prio q x)
    let turn (k : Nat) := (k + 1023 - last) % 1024
    let first : Prop := s.pkg.fwfail = false ∧ s.pkg.ready = true ∧ (∀ r ∈ s.packs, r.state ≠ .saved) ∧ q ∈ s.pkg.enabled ∧
      s.pkg.enabled.Nodup ∧ q < 1024 ∧ queueCount s q ≠ 0 ∧ headRecord s q = some x ∧ intake x (spaceOf s (queueAsid s q)).pool = 0 ∧
      heldFor s q = [] ∧ ∀ k ∈ s.pkg.enabled, k ≠ q → queueCount s k ≠ 0 → ∃ y, headRecord s k = some y ∧
        (prio k y < prio q x ∨ (prio k y = prio q x ∧ turn q < turn k))
    let place (gone : List Nat) (k : Nat) := placeNew (ticked s) gone 0 x k (recThreads x) pref
    let chosen := choosePlace (ticked s) (prio q x) [0, 1, 2, 3] fun k gone => place gone k
    (first → recKind x ≠ 0 →
      ∃ u, exec (.dispatchDecision pref) s = .next u ∧ queueHead u q = queueHead s q + 1 ∧ tget u.pkg.served 1023 (prio q x) = q ∧
        u.work = s.work ++ [if recKind x = 1 then .decideNode (finQ q) (queueHead s q) x
          else if recKind x = 2 then .loopNode (finQ q) (queueHead s q) x else .nopNode (finQ q) (queueHead s q) x] ∧
        u.cur = s.cur ∧ u.packs = s.packs) ∧
    (∀ k cs gone pools frames, first → recKind x = 0 → recWord x 4 = 0 → chosen = some (k, cs, gone) →
      lowest (recThreads x) (spaceOf s (queueAsid s q)).pool (poolsUsed s (queueAsid s q)) = some pools →
      lowest (recThreads x) (frameCount s) (framesUsed s) = some frames →
      ∃ u r, exec (.dispatchDecision pref) s = .next u ∧ queueHead u q = queueHead s q + 1 ∧ u.packs = s.packs ++ [r] ∧
        r.record = x ∧ r.state = .starting ∧ r.prio = prio q x ∧ r.sett = k ∧ r.asid = queueAsid s q ∧
        r.members.map (fun m => (m.core, m.ctx)) = cs ∧ r.members.map (·.frame) = frames ∧ r.members.map (·.pool) = pools ∧
        r.members.map (·.index) = List.range (recThreads x) ∧ (∀ v ∈ gone, Instr.packSave v [] ∈ u.work) ∧ Instr.packStart r.id ∈ u.work ∧
        u.cur = s.cur) ∧
    (∀ k cs gone, chosen = some (k, cs, gone) → k < 4 ∧ cs.length = recThreads x ∧ cs.Nodup ∧
      (∀ c ∈ cs, c.1 < 32 ∧ c.2 < 2 ∧ coreBarred s (32 * k + c.1) = false ∧
        ∀ r ∈ s.packs, r.id ∉ gone → r.state = .running ∨ waitsForStart r = true → memberOn r (32 * k + c.1) c.2 = false) ∧
      (∀ v ∈ gone, ∃ r ∈ s.packs, r.id = v ∧ r.state = .running ∧ r.sett = k ∧ r.prio < prio q x) ∧
      (∀ j, j < 4 → isCool s j = true → (place [] j).isSome = true →
        gone = [] ∧ isCool s k = true ∧ freeContexts s j ≤ freeContexts s k ∧ (freeContexts s j = freeContexts s k → k ≤ j)) ∧
      (prio q x < 24 → isCool s k = true)) ∧
    (packOf s id = some p → p.state = .starting →
      (ready p.sett here = true → (∀ k, (coreOf s k).tags = []) → (p.members.map (·.frame)).Nodup →
        (∀ m ∈ p.members, m.frame < frameCount s) → (∀ t ∈ threads s, t.frame ∉ p.members.map (·.frame)) →
        ∃ u, exec (.packStart id) s = .next u ∧ (∀ r, packOf u id = some r → r.state = .running) ∧ u.cur = s.cur ∧
        ∀ m ∈ p.members, ∃ t ∈ u.others, t = { startOf s p m with
          logged := t.logged, ctl := { (startOf s p m).ctl with lanes := lanesWord (targetMask (coreOf u (32 * p.sett + m.core)) m.ctx) } }) ∧
      (ready p.sett here = false → (∀ c ∈ here, (coreOf s (32 * p.sett + c.1)).outOfService = false) →
        ∃ u, exec (.packStart id) s = .next u ∧ u.work = s.work ++ [.packStart id] ∧ u.packs = s.packs ∧ u.cur = s.cur ∧
          u.others = s.others ∧ u.mem = s.mem)) ∧
    (packOf s id = some p → p.state = .running → (∀ t ∈ mine, t.grp = none ∧ t.sent = false) →
      ∃ u, exec (.packSave id []) s = .next u ∧ (∀ t ∈ threads u, t.pack ≠ id) ∧
        (∀ r, packOf u id = some r → r.state = if mine.any (·.parking.isSome) then .parked else .saved) ∧
        (mine = [t] → ((threads s).map (·.frame)).Nodup → t.frame < frameCount s → HeldIn u t)) ∧
    (packOf s id = some p → p.state = .resuming →
      (ready p.toSett there = true → live.all (fun m => !frameMalformed s m.frame) = true → (∀ k, (coreOf s k).tags = []) →
        ∃ u, exec (.contextRestore id) s = .next u ∧ (∀ r, packOf u id = some r → r.state = .running) ∧
          ∀ m ∈ live, ∃ t ∈ u.others, t.live = true ∧ t.frame = m.frame ∧ t.pack = id ∧ t.core = (32 * p.toSett + m.toCore) % 32 ∧ t.ctx = m.toCtx ∧
            (m.idled = false → s.pkg.dbg = none → TakenFrom s m.frame t)) ∧
      (ready p.toSett there = true → live.any (fun m => frameMalformed s m.frame) = true →
        ∃ u e, exec (.contextRestore id) s = .next u ∧ (∀ r, packOf u id = some r → r.state = .parked) ∧
          u.pkg.fqWait = s.pkg.fqWait ++ [e] ∧ fld (e.getD 0 0) 0 8 = 4)) ∧
    (serving → parkedPack s g = some p →
      (recScratch p.record = 0 → ∃ u, exec (.packResume g) s = .next u ∧ u.pkg.mbox.code = 0 ∧ u.mem = s.mem ∧ (∀ r, packOf u p.id = some r → r.state = .saved)) ∧
      (∃ u, exec (.packAbort g) s = .next u ∧ u.pkg.mbox.code = 0 ∧ (∀ r ∈ u.packs, r.id ≠ p.id))) ∧
    (serving → adoptOk s x fs = true → ∃ u r, exec (.packAdopt x fs) s = .next u ∧ u.packs = s.packs ++ [r] ∧ r.state = .parked ∧ r.record = x ∧
      u.pkg.mbox.code = 0 ∧ (r.members.filter fun m => !m.ended).map (·.frame) = fs) ∧
    (threadOf s tid = some t → (lanesMask t.ctl.lanes &&& (255 - targetMask (coreOf s (cidOf t)) t.ctx % 256)) ≠ 0 →
      exec (.laneReclaimTimeout tid) s = .next { ticked s with work := s.work ++ [.packSave t.pack []] }) ∧
    ((coreOf s cid).xfers = f :: fx → ∃ u, exec (.mapTransferComplete cid) s = .next u ∧ (coreOf u cid).xfers = fx ∧ u.mem = s.mem ∧ u.cur = s.cur ∧
      (∀ k, k ≠ cid → coreOf u k = coreOf s k)) ∧
    (s.cur.live = true → s.cur.frame = tid → s.cur.elim = none → (∀ u ∈ s.others, u.frame ≠ tid) →
      exec (.replyAbandonment tid g) s = .next (ticked (onThread (fun t => { t with elim := some (g, .abandon) }) s)))

/-- R355, R362, R393-R396, R404, R409: a STEP trap that is due and drained is taken between instructions; a halt traps BRKPT with EVAL =
15 at the stop point; a core that re-reads the debug table holds the breakpoint set of each address space it runs, with a header
that breaks the rules read as zero, and a ring that is enabled becomes active; a queued trace record is written at TAIL; the 64
bytes of the oldest fault entry, with its sequence number, are posted at its ring's tail. -/
def Obligations.DebugAndFaults : Prop :=
  ∀ (s s' : State) (tid cid base : Nat) (ids : List (BitVec 32)) (sett : Nat) (rec0 : BitVec 128) (e : List Word) (l : List (List Word))
    (z : FaultQ) (t : Thread),
    let between (cause : Nat) (eval : Word) (u : State) : Prop := u.cur.ctl.ecause = BitVec.ofNat 64 cause ∧ u.cur.ctl.eval = eval ∧ u.cur.trapped = true
    let ring := (coreOf s cid).ring
    let d := ringDesc base cid
    let slot := ring.base + 16 * (ring.tail.toNat % 2 ^ ring.log2)
    let head := if ring.wrap then ring.head else BitVec.ofNat 32 (rdPhys s (d + 16) 4)
    let tail := rdPhys s (z.desc + 24) 4
    let place := z.ring + 64 * (tail % 2 ^ z.log2)
    (s.cur.stepDue = some (sett, ids) → drained s s.cur sett ids = true →
      ∃ u, exec .singleStepTrap s = .next u ∧ between 0x21 0 u ∧ u.cur.ctl.epc = wordAddr s.cur.pc ∧
      u.cur.seq = s.cur.seq ∧ u.cur.stepDue = none ∧ u.cur.s = s.cur.s ∧ u.mem = s.mem) ∧
    (focus tid s = some s' → haltDue s' s'.cur = true → s'.cur.grp = none → s'.cur.sent = false → s'.cur.parking = none →
      s'.cur.stepDue = none →
      ∃ u, exec (.halt tid) s = .next u ∧ between 0x20 15 u ∧ u.cur.ctl.epc = wordAddr s'.cur.pc ∧ u.cur.wait = none ∧
        u.cur.seq = (if s'.cur.wait = none then s'.cur.seq else s'.cur.seq + 1) ∧
        u.cur.s = s'.cur.s ∧ u.mem = s'.mem) ∧
    (s.pkg.dbg = none → exec (.debugTableReread cid) s = .next (ticked s)) ∧
    (s.pkg.dbg = some base → (ring.act = true → ring.desc = d) →
      ∃ u, exec (.debugTableReread cid) s = .next u ∧ u.cur = s.cur ∧ u.others = s.others ∧ (coreOf u cid).ring.en = ringEnabled s d ∧
        (ringEnabled s d = true → (coreOf u cid).ring.act = true) ∧
        (cid < 128 → t ∈ threads s → cidOf t = cid →
          let w (i : Nat) := rdWord s (base + 0x2000 + 256 * asidOf t.ctl.pgroot + 8 * i)
          let broken : Prop := fld (w 0) 35 29 ≠ 0 ∨ fld (w 1) 16 48 ≠ 0 ∨ w 2 ≠ 0 ∨ w 3 ≠ 0
          ∀ i, i < 32 → ((¬ broken ∨ 4 ≤ i) → (tget (coreOf u cid).sets [] (asidOf t.ctl.pgroot)).getD i 0 = w i) ∧
            (broken → i < 4 → (tget (coreOf u cid).sets [] (asidOf t.ctl.pgroot)).getD i 0 = 0))) ∧
    (s.pkg.dbg = some base → ring.act = true → ring.desc = d → ring.queue = [rec0] → ring.held = [] → (ring.wrap = true ∨ (ring.tail - head).toNat ≠ 2 ^ ring.log2) →
      (slot + 16 ≤ d ∨ d + 64 ≤ slot) →
      ∃ u, exec (.traceTailWrite cid) s = .next u ∧ rdPhys u slot 16 = rec0.toNat ∧ rdPhys u (d + 24) 8 = (ring.tail + 1).toNat ∧
        (coreOf u cid).ring.queue = [] ∧ u.cur = s.cur) ∧
    (s.pkg.fqWait = e :: l → s.pkg.fq = some z → (tail + 2 ^ 32 - rdPhys s (z.desc + 16) 4) % 2 ^ 32 ≠ 2 ^ z.log2 →
      e.length = 8 → (place + 64 ≤ z.desc + 24 ∨ z.desc + 32 ≤ place) →
      ∃ u, exec .faultQueuePost s = .next u ∧ rdWord u place = setFld (e.getD 0 0) 48 16 s.pkg.fqSeq.toNat ∧
        (∀ i, 0 < i → i < 8 → rdWord u (place + 8 * i) = e.getD i 0) ∧ u.pkg.fqWait = l ∧ u.pkg.fqSeq = s.pkg.fqSeq + 1 ∧ signalled u.pkg 1 = true ∧
        rdPhys u (z.desc + 24) 8 = (tail + 1) % 2 ^ 32 ∧ u.cur = s.cur)

/-- R367, R375, R458: a standard command answers Success with its payload; ACTIVATE_FW without an image is Invalid Input. Every command
answers Busy while a background command runs, only four answer while firmware has failed, and none after a trip. The numbers of the
return codes are PRESUMED (log entry 29), payloads that CXL 3.1 lays out are opaque (log entry 10), and the time that has passed is
free (log entry 8). -/
def Obligations.MailboxCommands : Prop :=
  ∀ (s : State) (log q : Fin 4) (k : Fin 8) (v b va : Word) (img : List Byte) (n pa cmd : Nat) (h : BitVec 16)
    (mask : BitVec 32) (x : Rec) (fs : List Nat) (flash : List (Option (BitVec 32))),
    let always : List Instr := [.identify, .transferFw img, .activateFw, .getLog]
    let others : List Instr := [.getEventRecords log, .clearEventRecords log, .getTimestamp, .setTimestamp v, .setAstbase b, .setQtbase b,
      .setFqbase b, .setFrames b n, .setMbtbase b, .setDthr h, .shootdown n va pa, .pageExpand pa, .packResume n, .packAbort n, .packAdopt x fs,
      .cmdResume n cmd, .cmdAbort n cmd, .setPstate n, .corePark q mask, .coreUnpark q mask, .hbmSrEnter k, .hbmSrExit k, .setDbgbase b,
      .warmReset flash]
    (s.pkg.tripped = true → ∀ i ∈ always ++ others, exec i s = .next (ticked s)) ∧
    (s.pkg.tripped = false → s.pkg.fwfail = true → ∀ i ∈ others, exec i s = .next (replied 3 id s)) ∧
    (s.pkg.tripped = false → s.pkg.mbox.background ≠ none → (∀ i ∈ always, exec i s = .next (replied 6 id s)) ∧
      (s.pkg.fwfail = false → ∀ i ∈ others, exec i s = .next (replied 6 id s))) ∧
    (Serving s →
      exec .identify s = .next (replied 0 (answer (Config.cxlPayload 0)) s) ∧ exec .getLog s = .next (replied 0 (answer (Config.cxlPayload 1)) s) ∧
      exec (.getEventRecords log) s = .next (replied 0 (answer ((vnth s.pkg.logs [] log).flatMap fun r =>
        leBytes 16 (Config.eventUuid r.queueError).toNat ++ leBytes 16 r.data.toNat)) s) ∧
      exec (.clearEventRecords log) s = .next (replied 0 (fun p => { p with logs := vput p.logs log [], logLost := vput p.logLost log 0 }) s) ∧
      (∃ v : Word, exec .getTimestamp s = .next (replied 0 (fun p => answer (leBytes 8 v.toNat) { p with mbox := { p.mbox with timestamp := v } }) s)) ∧
      exec (.setTimestamp v) s = .next (replied 0 (fun p => { p with mbox := { p.mbox with timestamp := v } }) s) ∧
      exec (.transferFw img) s = .next (replied 0 (fun p => { p with mbox := { p.mbox with image := some img } }) s) ∧
      (s.pkg.mbox.image = some img →
        exec .activateFw s = .next (replied 0 (fun p => { p with mbox := { p.mbox with active := some img } }) s)) ∧
      (s.pkg.mbox.image = none → exec .activateFw s = .next (replied 2 id s)) ∧
      exec (.setDthr h) s = .next (replied 0 (fun p => { p with dthr := h }) s) ∧
      (n ≤ 8 → exec (.setPstate n) s = .next (replied 0 (fun p => { p with hStep := n }) s)) ∧
      (8 < n → exec (.setPstate n) s = .next (replied 2 id s)))

/-- R315, R317, R347, R355, R365, R372, R345, R393, R456, R367: the commands that set a base take one that is aligned and local, under
their conditions, and answer Invalid Input otherwise; the commands that run in the background answer 1 and complete later, with
MSI-X vector 0; a parked core takes no pack until it is unparked; a stack enters self-refresh once its sett is parked. The numbers
of the return codes are PRESUMED, and what makes a step due or leaves the state as it is the model's (log entries 29, 3 and 23);
that SET_FRAMES takes effect beside a pack that is placed and has not started is log entry 12 (DEDUCED). -/
def Obligations.BasesAndBackground : Prop :=
  ∀ (s : State) (b va : Word) (n asid pages pa base sett : Nat) (q : Fin 4) (k : Fin 8) (mask : BitVec 32) (bg : Background), 
    let w0 := rdWord s b.toNat
    let w1 := rdWord s (b.toNat + 8)
    let fqOk : Prop := LocalTable s b 32 1 ∧ (∀ z, s.pkg.fq = some z → rdPhys s (z.desc + 16) 4 = rdPhys s (z.desc + 24) 4) ∧
      fld w0 0 12 = 0 ∧ fld w0 52 12 = 0 ∧ LocalTable s w0 4096 1 ∧ fld w1 5 59 = 0 ∧ 6 ≤ fld w1 0 5 ∧ fld w1 0 5 ≤ 16
    let framesOk : Prop := LocalTable s b 65536 1 ∧ 1 ≤ n ∧ n ≤ 65536 ∧ ∀ p ∈ s.packs, p.state = .dead ∨ p.state = .starting
    let dbgOk : Prop := LocalTable s b 4096 1 ∧ ∀ t, s.pkg.dbg = some t → ∀ cid < 128, ringEnabled s (ringDesc t cid) = false
    let mbtOk : Prop := LocalTable s b (2 ^ 21) (2 ^ 21) ∧ mergeBusy s = false
    let shootOk : Prop := va.toNat % 4096 = 0 ∧ asid < 4096 ∧ 1 ≤ pages ∧ pages ≤ 2 ^ 32
    let expandOk : Prop := pa % 65536 = 0 ∧ ownRange s pa 65536 = true ∧ onlyCompressed s pa = true
    let parkedAll : Prop := ∀ i < 32, (coreOf s (32 * (k.val / 2) + i)).parked = true
    let begun (g : Background) : State := replied 1 (fun p => { p with mbox := { p.mbox with background := some g } }) s
    let on (c : Nat) : Prop := ∃ i < 32, mask.getLsbD i = true ∧ c = 32 * sett + i
    let ended (u : State) : Prop := u.pkg.mbox.background = none ∧ u.pkg.mbox.code = 0 ∧ signalled u.pkg 0 = true ∧ u.cur = s.cur ∧ u.others = s.others
    (Serving s →
      (LocalTable s b 4096 1 → s.pkg.enabled = [] →
        exec (.setAstbase b) s = .next (replied 0 (fun p => { p with ast := some b.toNat }) s) ∧
        exec (.setQtbase b) s = .next (replied 0 (fun p => { p with qt := some b.toNat }) s)) ∧
      (¬ (LocalTable s b 4096 1 ∧ s.pkg.enabled = []) →
        exec (.setAstbase b) s = .next (replied 2 id s) ∧ exec (.setQtbase b) s = .next (replied 2 id s)) ∧
      (fqOk → exec (.setFqbase b) s = .next (replied 0 (fun p => { p with fq := some ⟨b.toNat, w0.toNat, fld w1 0 5⟩ }) s)) ∧
      (¬ fqOk → exec (.setFqbase b) s = .next (replied 2 id s)) ∧
      (framesOk → exec (.setFrames b n) s = .next (replied 0 (fun p => { p with sf := some (b.toNat, n) }) s)) ∧
      (¬ framesOk → exec (.setFrames b n) s = .next (replied 2 id s)) ∧
      (dbgOk → ∃ u, exec (.setDbgbase b) s = .next u ∧ u.pkg = (replied 0 (fun p => { p with dbg := some b.toNat }) s).pkg ∧ u.cur = s.cur ∧
        u.others = s.others ∧ (∀ c ∈ s.cores, c.2.ring.act = true → (coreOf u c.1).ring.en = false ∧
          ((coreOf s c.1).ring.queue = [] → (coreOf s c.1).ring.owed = 0 → (coreOf u c.1).ring.act = false)) ∧
        ((∀ c ∈ s.cores, c.2.ring.act = false) → u = replied 0 (fun p => { p with dbg := some b.toNat }) s)) ∧
      (¬ dbgOk → exec (.setDbgbase b) s = .next (replied 2 id s)) ∧
      (mbtOk → exec (.setMbtbase b) s = .next (begun (.mergeTable b.toNat))) ∧ (¬ mbtOk → exec (.setMbtbase b) s = .next (replied 2 id s)) ∧
      (shootOk → exec (.shootdown asid va pages) s = .next (begun (.shootdown asid va pages))) ∧
      (¬ shootOk → exec (.shootdown asid va pages) s = .next (replied 2 id s)) ∧
      (expandOk → exec (.pageExpand pa) s = .next (begun (.expand pa))) ∧ (¬ expandOk → exec (.pageExpand pa) s = .next (replied 2 id s)) ∧
      (sett = q.val → ∃ u, exec (.corePark q mask) s = .next u ∧ u.pkg.mbox.code = 1 ∧ u.pkg.mbox.background = some (.park q mask) ∧ OnlyFleet s u ∧
        (∀ c, on c → (coreOf u c).parked = true) ∧ (∀ c, ¬ on c → coreOf u c = coreOf s c) ∧
        ∀ t ∈ threads s, on (cidOf t) → Instr.packSave t.pack [] ∈ u.work) ∧
      exec (.coreUnpark q mask) s = .next (begun (.unpark q.val mask)) ∧
      (parkedAll → exec (.hbmSrEnter k) s = .next (replied 0 (fun p => { p with selfRefresh := sinsert p.selfRefresh k }) s)) ∧
      (¬ parkedAll → exec (.hbmSrEnter k) s = .next (replied 2 id s)) ∧
      exec (.hbmSrExit k) s = .next (replied 0 (fun p => { p with selfRefresh := p.selfRefresh.filter (· != k.val) }) s)) ∧
    (s.pkg.mbox.background = none → exec .backgroundCommandComplete s = .next s) ∧
    (s.pkg.mbox.background = some bg →
      ((bg = .shootdown asid va pages ∨ bg = .expand pa) → ∃ u, exec .backgroundCommandComplete s = .next u ∧ ended u ∧ u.mem = s.mem ∧ u.cores = s.cores) ∧
      (bg = .mergeTable base → ∃ u, exec .backgroundCommandComplete s = .next u ∧ ended u ∧ u.pkg.mbt = some base ∧
        ∀ a, readPhys u a = if base ≤ a ∧ a < base + 2 ^ 21 then 0 else readPhys s a) ∧
      (bg = .unpark sett mask → ∃ u, exec .backgroundCommandComplete s = .next u ∧ ended u ∧ u.mem = s.mem ∧
        (∀ c, on c → (coreOf u c).parked = false ∧ (coreOf u c).retention = false ∧ (coreOf u c).tiles = (coreOf s c).tiles) ∧
        ∀ c, ¬ on c → coreOf u c = coreOf s c) ∧
      (bg = .park sett mask →
        ((∃ t ∈ threads s, on (cidOf t)) → exec .backgroundCommandComplete s = .next s) ∧
        ((∀ t ∈ threads s, ¬ on (cidOf t)) → ∃ u, exec .backgroundCommandComplete s = .next u ∧ ended u ∧
          ∀ c, on c → scratchHolder s c = true → (coreOf u c).retention = true ∧ (coreOf u c).tiles = (coreOf s c).tiles)))

/-- R364, R370, R363, R374-R379, R371, R459: CXL.mem reads and writes of local memory (poison before READY and after a trip); the
attestation responses; a peer's read, write and atomics; a port fenced; a page migrated with its mappings; and what the three resets
leave: a cold reset zeroes memory, a warm reset keeps it and the stores of the setts that retain theirs, a function-level reset
clears the mailbox; firmware that the boot ROM refuses is not measured and leaves READY clear. Images, keys, signatures and digests
are opaque (log entry 9), what a reset keeps beyond the words of R378 is the model's (log entry 12), an image outlives a
function-level reset (log entry 19), and what a host or a peer has read is kept in State beside the answer (log entry 36). -/
def Obligations.HostAndResets : Prop :=
  ∀ (s : State) (x k src dst pa pkg : Nat) (bytes : List Byte) (key b e : Word) (wide high : Bool) (v : BitVec 4) (z : BitVec 32)
    (flash : List (Option (BitVec 32))),
    let m := measBytes s
    let signed (r : List Byte) : List Byte := r ++ leBytes 49856 (Config.signature (Config.identityKey s.pkg.fuses.secret) r).toNat
    let n := if wide then 8 else 4
    let y := b.toNat % 2 ^ (8 * n)
    let img := s.pkg.mbox.active.getD s.pkg.firmware
    let ok := bootOk s.pkg.fuses img
    let page := pageSpan s src
    let moved := moveBytes (physLocs src page) (physLocs dst page) (ticked s)
    let inside (l : Nat × Nat × Word) : Prop := src ≤ pteAddr l.2.2 ∧ pteAddr l.2.2 < src + page
    let awake (u : State) : Prop := u.cur = s.cur ∧ u.others = s.others ∧ u.pkg = { s.pkg with
      selfRefresh := u.pkg.selfRefresh, hostRead := u.pkg.hostRead, peerRead := u.pkg.peerRead }
    let stored (u : State) (a : Nat) (l : List Byte) : Prop := awake u ∧
      (∀ j (h : j < l.length), readPhys u (a + j) = l[j]) ∧ ∀ k, (k < a ∨ a + l.length ≤ k) → readPhys u k = readPhys s k
    let seen (a : Nat) : List (Option Byte) := (List.range k).map fun j => if poisoned s (.phys (a + j)) then none else some (readPhys s (a + j))
    let booted (u : State) : Prop := u.cur = {} ∧ u.others = [] ∧ u.packs = [] ∧ u.work = [] ∧ u.pkg.ast = none ∧ u.pkg.qt = none ∧ u.pkg.fq = none ∧
      u.pkg.sf = none ∧ u.pkg.mbt = none ∧ u.pkg.dbg = none ∧ u.pkg.dthr = 80 ∧ u.pkg.enabled = [] ∧ u.pkg.held = [] ∧ u.pkg.ide = none ∧
      u.pkg.ready = ok ∧ u.pkg.fwfail = !ok ∧ u.pkg.firmware = img ∧ (ok = true → u.pkg.svn = Config.imageSvn img) ∧
      (ok = false → u.pkg.meas = Vector.replicate 8 0)
    let rmw (n : Nat) (f : Nat → Nat) (op : RemoteOp) : Prop := ∃ u, exec (.remoteAccess op) s = .next u ∧ awake u ∧
      rdPhys u pa n = f (rdPhys s pa n) % 2 ^ (8 * n) ∧ ∀ k, (k < pa ∨ pa + n ≤ k) → readPhys u k = readPhys s k
    (x + k ≤ Config.hbmBytes → ∃ u, exec (.hostCxlMemRead x k) s = .next u ∧ awake u ∧ u.mem = s.mem ∧
      u.pkg.hostRead = if s.pkg.ready = true ∧ s.pkg.tripped = false then seen (localPa s x) else List.replicate k none) ∧
    (s.pkg.ready = true → s.pkg.tripped = false → x + bytes.length ≤ Config.hbmBytes →
      ∃ u, exec (.hostCxlMemWrite x bytes) s = .next u ∧ stored u (localPa s x) bytes) ∧
    (s.pkg.ready = false → exec (.hostCxlMemWrite x bytes) s = .next s) ∧
    (s.pkg.fwfail = false →
      exec .getCertificate s = .next (onPkg (fun p => { p with spdm := Config.certificateChain }) s) ∧
      exec (.challenge key) s = .next (onPkg (fun p => { p with spdm := signed (m ++ leBytes 8 key.toNat) }) s) ∧
      exec .getMeasurements s = .next (onPkg (fun p => { p with spdm := signed m }) s) ∧
      exec (.ideKeyProgramming key) s = .next (onPkg (fun p => { p with ide := some key }) s)) ∧
    (s.pkg.fwfail = true → ∀ i ∈ [Instr.getCertificate, .challenge key, .getMeasurements, .ideKeyProgramming key], exec i s = .next s) ∧
    (ownRange s pa k = true → ∃ u, exec (.remoteAccess (.read pa k)) s = .next u ∧ awake u ∧ u.mem = s.mem ∧ u.pkg.peerRead = seen pa) ∧
    (memRange s pa bytes.length = true → ∃ u, exec (.remoteAccess (.write pa bytes)) s = .next u ∧ stored u pa bytes) ∧
    (pa % n = 0 → memRange s pa n = true → badPhys s pa n = false →
      rmw n (· + y) (.atomic .add pa wide b) ∧ rmw n (· &&& y) (.atomic .and pa wide b) ∧ rmw n (· ||| y) (.atomic .or pa wide b) ∧
      rmw n (fun _ => y) (.atomic .swp pa wide b) ∧ rmw n (fun o => if o = e.toNat % 2 ^ (8 * n) then y else o) (.atomicCas pa wide b e) ∧
      rmw n (fun o => if sint (8 * n) y < sint (8 * n) o then y else o) (.atomic .min pa wide b) ∧
      rmw n (fun o => if sint (8 * n) o ≤ sint (8 * n) y then y else o) (.atomic .max pa wide b)) ∧
    (memRange s pa 1 = true → badPhys s pa 1 = false →
      let at' (g : Nat → Nat) (o : Nat) : Nat := if high then o % 16 + 16 * (g (o / 16) % 16) else o / 16 * 16 + g (o % 16) % 16
      rmw 1 (at' (· + v.toNat)) (.atomicNibble .add pa high v) ∧ rmw 1 (at' (· &&& v.toNat)) (.atomicNibble .and pa high v) ∧
      rmw 1 (at' (· ||| v.toNat)) (.atomicNibble .or pa high v) ∧ rmw 1 (at' fun _ => v.toNat) (.atomicNibble .swp pa high v)) ∧
    (pa % 4 = 0 → memRange s pa 4 = true → badPhys s pa 4 = false →
      rmw 4 (fun o => (add32 .rne (BitVec.ofNat 32 o) z).1.toNat) (.atomicFadd pa z)) ∧
    (pkg ≠ s.pkg.index → s.pkg.fenced.contains pkg = false →
      exec (.portFence pkg) s = .next (onPkg (fun p => { p with fenced := p.fenced ++ [pkg] }) s)) ∧
    (src % page = 0 → dst % page = 0 → memRange s src page = true → memRange s dst page = true → src ≠ dst →
      (∀ l ∈ allLeaves s, ¬ (leafBase l.2.1 l.2.2 < src ∧ src < leafBase l.2.1 l.2.2 + leafSpan l.2.1 l.2.2)) →
      ∃ u, exec (.migration src dst) s = .next u ∧ awake u ∧
        (∀ l ∈ allLeaves moved, inside l → fld (rdWord u l.1) 12 40 = (dst + (pteAddr l.2.2 - src)) / 4096 % 2 ^ 40 ∧ fld (rdWord u l.1) 7 2 = 0) ∧
        ((∀ l ∈ allLeaves moved, l.1 + 8 ≤ dst ∨ dst + page ≤ l.1) → ∀ j < page, readPhys u (dst + j) = readPhys s (src + j))) ∧
    (∃ u, exec .coldReset s = .next u ∧ booted u ∧ u.mem = [] ∧ u.poison = [] ∧ u.cores = [] ∧ u.pkg.lastRst = 0 ∧
      (ok = true → u.pkg.meas = bootMeas s.pkg.fuses img []) ∧ u.pkg.index = s.pkg.index ∧ u.pkg.fuses = s.pkg.fuses) ∧
    (Serving s → ∃ u, exec (.warmReset flash) s = .next u ∧ booted u ∧ u.mem = s.mem ∧ u.poison = s.poison ∧ u.pkg.lastRst = 1 ∧
      u.pkg.health = s.pkg.health ∧ u.pkg.logs = s.pkg.logs ∧ u.pkg.sfBefore = s.pkg.sf ∧
      (∀ k < 4, u.pkg.retainOk.getLsbD k = (flash.getD k none == some (settOf s k).repsum) ∧ u.pkg.retainLost.getLsbD k = !u.pkg.retainOk.getLsbD k ∧
        ∀ c, flash.getD k none = some c → (settOf u k).repsum = c) ∧
      ∀ c < 128, (coreOf u c).tiles = if u.pkg.retainOk.getLsbD (c / 32) then (coreOf s c).tiles else []) ∧
    (s.pkg.tripped = true → exec (.warmReset flash) s = .next (ticked s)) ∧
    (∃ u, exec .functionLevelReset s = .next u ∧ u.pkg.mbox.background = none ∧ u.pkg.mbox.out = [] ∧ u.pkg.spdm = [] ∧ u.pkg.ide = none ∧ u.pkg.lastRst = 2 ∧
      u.cur = s.cur ∧ u.others = s.others ∧ u.pkg.ast = s.pkg.ast ∧ u.pkg.qt = s.pkg.qt ∧ u.pkg.fq = s.pkg.fq ∧ u.pkg.sf = s.pkg.sf)

/-- R451-R458, R371, R385, R392, R190, R151, R212, R193, R281: the clock follows the larger step; the thermal steps, the trip, refresh
rates (doubled above 85.0 °C, normal again at 82.0), retired cores, spare lanes and failing links change HEALTH and record their
events, and set REPLACE, which stays set, where a condition of R452 holds, as a cold reset does; an uncorrectable error damages its
data and changes no byte; replies and evictions change nothing, since every access is performed at its home (log entry 4). The step
stays below 9, a retirement takes a step for the saves, and an event whose conditions do not hold changes nothing: the model's
choices (log entries 34, 32 and 23). -/
def Obligations.FleetEvents : Prop :=
  ∀ (s : State) (q : Fin 4) (k : Fin 8) (port : Fin 12) (tenths : BitVec 12) (hs : List Nat) (cid tid pa slot e : Nat) (crc : BitVec 32)
    (r : VReg) (byte : Fin 1024) (kr : KReg) (bit : Fin 512),
    let p := s.pkg
    let head (j : Nat) : Nat := fld (settOf s j).tallow 0 16
    let step := max p.hStep p.tStep
    let down := min 8 (step + 1)
    let core := cid / 32
    let spares := fld p.health (48 + 2 * core) 2
    let lanes := p.lanes[port]
    let links (u : State) (f : Nat → Bool) : Nat := u.pkg.lanes.toList.countP f
    (step ≤ 15 → fld p.health 56 4 ≠ step → ∃ u, exec .clockChange s = .next u ∧ OnlyFleet s u ∧ fld u.pkg.health 56 4 = step ∧ fld u.pkg.health 0 56 = fld p.health 0 56) ∧
    (fld p.health 56 4 = step → exec .clockChange s = .next s) ∧
    (p.selfRefresh.contains k.val = true → exec (.hbmWake k) s = .next (onPkg (fun p => { p with selfRefresh := p.selfRefresh.filter (· != k.val) }) s)) ∧
    (∃ u, exec (.tallowUpdate hs) s = .next u ∧ OnlyFleet s u ∧ u.pkg = s.pkg ∧
      ∀ j < 4, (settOf u j).tallow = BitVec.ofNat 64 (min 65535 (hs.getD j (head j))) ∧ (settOf u j).cmds = (settOf s j).cmds) ∧
    (head q = 0 → p.tStep < 8 → ∃ u, exec (.thermalStepDown q) s = .next u ∧ OnlyFleet s u ∧ u.pkg.tStep = down ∧ wbit u.pkg.health 62 = true ∧
      fld u.pkg.health 56 4 = max p.hStep down % 16 ∧ Recorded s u 1 7 ∧ (wbit p.health 62 = true → exec (.thermalRepeatStep q) s = .next u)) ∧
    ((∀ j < 4, 16 ≤ head j) → p.hStep < p.tStep → ∃ u, exec .thermalStepUp s = .next u ∧ OnlyFleet s u ∧ u.pkg.tStep = p.tStep - 1 ∧
      (p.tStep - 1 ≤ p.hStep → wbit u.pkg.health 62 = false) ∧ Recorded s u 0 8) ∧
    (p.tStep = 8 → p.tripped = false → ∃ u, exec (.thermalTrip q) s = .next u ∧ OnlyFleet s u ∧ u.pkg.tripped = true ∧ Recorded s u 2 10) ∧
    (p.doubled.contains k.val = false → 850 < tenths.toNat → ∃ u, exec (.refreshRateChange k tenths) s = .next u ∧ OnlyFleet s u ∧
      u.pkg.doubled.contains k.val = true ∧ Recorded s u 0 9) ∧
    (p.doubled.contains k.val = true → tenths.toNat ≤ 820 → ∃ u, exec (.refreshRateChange k tenths) s = .next u ∧ OnlyFleet s u ∧
      u.pkg.doubled.contains k.val = false ∧ Recorded s u 0 9) ∧
    ((p.doubled.contains k.val = true → 820 < tenths.toNat) → (p.doubled.contains k.val = false → tenths.toNat ≤ 850) →
      exec (.refreshRateChange k tenths) s = .next s) ∧
    (cid < 128 → (coreOf s cid).outOfService = false →
      ((∃ t ∈ threads s, cidOf t = cid) → ∃ u, exec (.coreRetirement cid crc) s = .next u ∧ OnlyFleet s u ∧
        ∀ t ∈ threads s, cidOf t = cid → Instr.packSave t.pack [] ∈ u.work) ∧
      ((∀ t ∈ threads s, cidOf t ≠ cid) →
        (0 < spares → ∃ u, exec (.coreRetirement cid crc) s = .next u ∧ OnlyFleet s u ∧ u.cores = s.cores ∧ (settOf u core).repsum = crc ∧ Replaced False s u ∧
          fld u.pkg.health (48 + 2 * core) 2 = spares - 1 ∧ fld u.pkg.health 0 8 = min 255 (fld p.health 0 8 + 1) ∧ Recorded s u 0 2) ∧
        (spares = 0 → (coreOf s cid).tags = [] → ∃ u, exec (.coreRetirement cid crc) s = .next u ∧ u.cur = s.cur ∧ (coreOf u cid).outOfService = true ∧
          Recorded s u 1 3 ∧ wbit u.pkg.health 63 = true ∧ ∀ x ∈ s.packs, 0 < recScratch x.record → x.state ≠ .dead → x.state ≠ .starting → memberOnCore x cid = true →
            ∀ y, packOf u x.id = some y → y.state = .parked))) ∧
    (fld p.health (32 + 4 * q.val) 4 ≠ 0 → ∃ u, exec (.bondLaneRepair q crc) s = .next u ∧ OnlyFleet s u ∧ (settOf u q).repsum = crc ∧
      fld u.pkg.health (32 + 4 * q.val) 4 = fld p.health (32 + 4 * q.val) 4 - 1 ∧ Recorded s u 0 1 ∧ Replaced False s u) ∧
    (lanes ≠ 0 → ∃ u, exec (.laneFailure port) s = .next u ∧ OnlyFleet s u ∧ u.pkg.lanes = p.lanes.set port (lanes / 2) ∧
      fld u.pkg.health 16 8 = links u (· == 0) ∧ fld u.pkg.health 24 8 = links u (fun x => 0 < x && x < 4) ∧
      Recorded s u 1 (if lanes / 2 = 0 then 5 else 4) ∧ Replaced False s u) ∧
    (∃ u, exec .coldReset s = .next u ∧ (wbit u.pkg.health 63 = true ↔ Worn u.pkg.health) ∧
      (wbit u.pkg.health 63 = true → 0 < Config.logCapacity 1 → ∃ e, vnth u.pkg.logs [] 1 = [e] ∧ e.queueError = false ∧ e.data.toNat % 256 = 6)) ∧
    exec (.memoryReply tid) s = .next s ∧ exec (.cacheEviction pa) s = .next s ∧
    (∃ u, exec (.uncorrectableError (.sector pa)) s = .next u ∧ OnlyFleet s u ∧ poisoned u (.phys pa) = true) ∧
    (s.cur.live = true → s.cur.frame = tid → (∃ u, exec (.uncorrectableError (.vreg tid r byte)) s = .next u ∧ (r.val, byte.val) ∈ u.cur.vbad ∧ u.cur.v = s.cur.v) ∧
      (kr ≠ 0 → ∃ u, exec (.uncorrectableError (.kreg tid kr bit)) s = .next u ∧ (kr.val, bit.val) ∈ u.cur.kbad ∧ u.cur.k = s.cur.k)) ∧
    (cid < 128 → slot < 256 → e < 4096 → ∃ u, exec (.uncorrectableError (.store cid slot e)) s = .next u ∧ OnlyFleet s u ∧
      (coreOf u cid).bad.contains (slot * 4096 + e) = true ∧ (coreOf u cid).tiles = (coreOf s cid).tiles)

/-- R378, R366, R367: after a cold reset memory and the matrix stores are zero, there is no thread, no pack, no copy command, no queue
is served, every base set by the mailbox is cleared, DTHR is 80, and nothing of the mailbox, SPDM, MSI-X or the IDE keys is left.
That the boot after it finds a good image is log entry 9. -/
def Obligations.ResetState : Prop :=
  let s := State.reset
  (∀ a, readPhys s a = 0) ∧ (∀ c k j, tileByte (tileOf (coreOf s c) k) j = 0) ∧ threads s = [] ∧ s.packs = [] ∧
  (∀ k < 4, (settOf s k).cmds = []) ∧ s.pkg.enabled = [] ∧ s.pkg.ast = none ∧ s.pkg.qt = none ∧ s.pkg.fq = none ∧ s.pkg.sf = none ∧
  s.pkg.mbt = none ∧ s.pkg.dbg = none ∧ s.pkg.dthr = 80 ∧ s.pkg.mbox.background = none ∧ s.pkg.mbox.out = [] ∧ s.pkg.spdm = [] ∧
  s.pkg.ide = none ∧ (∀ k < 3, signalled s.pkg k = false) ∧ s.pkg.ready = true ∧ s.pkg.fwfail = false

/-- The memory after reset is in its canonical form: the start of the invariant of StepKeepsMemoryForm. -/
def Obligations.ResetInv : Prop :=
  Inv State.reset

/-- A step from any state whose memory is in canonical form (addresses strictly rising, no byte that is zero) leads to another such
state: equal memories stay equal data, whatever the instruction or event. The form is the model's own (log entry 2). -/
def Obligations.StepKeepsMemoryForm : Prop :=
  ∀ s t : State, Inv s → step s = .next t → Inv t

/-- R83-R97: the encoder and the decoder agree. The word of every well-formed instruction that has one decodes to that instruction, with
every operand at every value; and a word that decodes is the word of a well-formed instruction, so that no two words mean one
instruction and no bit of a word is ignored. -/
def Obligations.DecodeEncode : Prop :=
  (∀ (i : Instr) (w : Nat), i.wellFormed = true → encode i = some w → w < 2 ^ 32 ∧ decode w = .ok i) ∧
  (∀ (w : Nat) (i : Instr), decode w = .ok i → i.wellFormed = true ∧ encode i = some w)

/-- R84-R97 and the tables of the instruction chapters: words written out from their encodings, one per family, decode to the
instructions they stand for, and words that break a check of R90 are refused under its name. -/
def Obligations.DecodeWords : Prop :=
  decode 0x02531C02 = .ok (.add 5 6 7 2) ∧ decode 0x0852FFFC = .ok (.addi 5 5 8191 0) ∧
  decode 0x803A1000 = .ok (.vld 3 20 .fp8e4 .unit 0 0) ∧ decode 0x803A1080 = .ok (.vld 3 20 .fp8e4 .unit 2 0) ∧
  decode 0x803A1001 = .ok (.vld 3 20 .fp8e4 .unit 0 1) ∧ decode 0xB00C2140 = .ok (.mopaB 12 4 5) ∧ decode 0xB00C2141 = .ok (.mopaF 12 4 5) ∧
  decode 0x98000010 = .ok (.phase .sett) ∧ decode 0x98000021 = .ok (.fence .pod) ∧ decode 0xFA000000 = .ok .eret ∧
  decode 0xFFFFFFFF = .ok .brk ∧ decode 0x4A012030 = .error .rsv ∧ decode 0x4A100030 = .ok (.vid 1) ∧
  decode 0 = .error .zero ∧ decode 1 = .error .ill ∧ decode 0x803A7000 = .error .ill ∧ decode 0x90000380 = .error .ill

/-- R83, R90, R342: at its turn a thread runs the instruction that the word at its PC decodes to: the step is `exec` of it in the
settled state, followed by what the trace, the watches and single-step add; with none of these in force it is `exec` alone, but for
the stacks its accesses wake (R456) and the arrangement its stores give a 64 KiB unit and its sectors (R343, log entry 22). A load
that the device chains takes the later members of its group with it (R191, log entry 5). A word that does not decode takes its trap
in place of an instruction, and so does an address whose word cannot be fetched. -/
def Obligations.StepRunsDecoded : Prop :=
  ∀ (s u : State), AtTurn s u → pcBrk u [u.cur.pc] = none →
    (∀ (w : Nat) (i : Instr), Issues s u w → decode w = .ok i → groupBrk i u = none →
      (chainBehind i u = [] → elemBrk i u = none → step s = runAs i (exec i) u) ∧
      (chainBehind i u = [] → Untraced u → ∀ t, exec i u = .next t → t.cur.logged = false →
        (coreOf t (cidOf t.cur)).ring.en = false → step s = .next (noteGang i u (wakeStacks i u t))) ∧
      (∀ l, chainBehind i u = l → l ≠ [] → Untraced u → step s = runChain i l (runAs i (exec i)) u)) ∧
    (∀ (w : Nat) (e : DecodeError), Issues s u w → decode w = .error e → Untraced u →
      ∃ t, exec (.unassignedEncoding (BitVec.ofNat 32 w)) u = .next t ∧
        (t.cur.logged = false → (coreOf t (cidOf t.cur)).ring.en = false →
          step s = .next (wakeStacks (.unassignedEncoding (BitVec.ofNat 32 w)) u t))) ∧
    (∀ x, fetchAt u u.cur u.cur.pc = .error x → Untraced u →
      ∃ t, exec (.instructionFetchFault u.cur.pc) u = .next t ∧
        (t.cur.logged = false → (coreOf t (cidOf t.cur)).ring.en = false →
          step s = .next (wakeStacks (.instructionFetchFault u.cur.pc) u t))) ∧
    (∀ (i : Instr) (t : State), noteGang i u (wakeStacks i u t) =
      { t with
        gang := (noteGang i u (wakeStacks i u t)).gang, plain := (noteGang i u (wakeStacks i u t)).plain
        pkg := { t.pkg with selfRefresh := (wakeStacks i u t).pkg.selfRefresh } }) ∧
    ∀ (i : Instr) (t : State), (∀ x ∈ accessesOf i u, x.store = false) → t.pkg.selfRefresh = [] → noteGang i u (wakeStacks i u t) = t

/-- R406, R404, R405, R410, R411: an entry of TYPE 1 for the address of the next instruction, in force for the thread and not passed
over by an ERET, traps BRKPT with EPC at that address and the entry's index in EVAL, before the word there is fetched or decoded and
before the instruction has any effect: no register, no other thread and no byte of memory changes. Model's choices (log entry 37,
DEDUCED): the entry is taken before the instruction has a sequence number, so that the number stays, and which entries concern the
first instruction of an attention group. -/
def Obligations.BreakpointStops : Prop :=
  ∀ (s u : State) (k : Nat) (b : Brk), AtTurn s u → inSup u.cur = false →
    1 ≤ k → k ≤ 7 → brkAt u u.cur k = some b → b.type = 1 → b.addr = u.cur.pc → u.cur.brkSkip ≠ some k →
    (∀ j c, 1 ≤ j → j < k → brkAt u u.cur j = some c → c.type = 1 → c.addr = u.cur.pc → u.cur.brkSkip = some j) →
    ∃ t, step s = .next t ∧ t.cur.ctl.ecause = 0x20 ∧ t.cur.ctl.eval = BitVec.ofNat 64 k ∧ t.cur.ctl.epc = wordAddr u.cur.pc ∧ t.cur.trapped = true ∧
      t.cur.s = u.cur.s ∧ t.cur.v = u.cur.v ∧ t.cur.k = u.cur.k ∧ t.cur.h = u.cur.h ∧ t.cur.o = u.cur.o ∧ t.cur.sf = u.cur.sf ∧
      t.cur.map = u.cur.map ∧ t.cur.seq = u.cur.seq ∧ t.cur.ctl.vl = u.cur.ctl.vl ∧ t.cur.ctl.fflags = u.cur.ctl.fflags ∧
      t.mem = u.mem ∧ t.others = u.others
end

