-- ==== Sys2Proof/Laws/Dispatch.lean ====
section
/-! SUPPORT. What the dispatcher calls for each constructor. -/

namespace Sys2Proof.Machine

@[simp] theorem exec_unassignedEncoding x1 (s : State) : exec (.unassignedEncoding x1) s = execUnassignedEncoding x1 s := rfl
@[simp] theorem exec_instructionFetchFault x1 (s : State) : exec (.instructionFetchFault x1) s = execInstructionFetchFault x1 s := rfl
@[simp] theorem exec_packStart x1 (s : State) : exec (.packStart x1) s = execPackStart x1 s := rfl
@[simp] theorem exec_packSave x1 x2 (s : State) : exec (.packSave x1 x2) s = execPackSave x1 x2 s := rfl
@[simp] theorem exec_contextRestore x1 (s : State) : exec (.contextRestore x1) s = execContextRestore x1 s := rfl
@[simp] theorem exec_mapTransferComplete x1 (s : State) : exec (.mapTransferComplete x1) s = execMapTransferComplete x1 s := rfl
@[simp] theorem exec_decideNode x1 x2 x3 (s : State) : exec (.decideNode x1 x2 x3) s = execDecideNode x1 x2 x3 s := rfl
@[simp] theorem exec_loopNode x1 x2 x3 (s : State) : exec (.loopNode x1 x2 x3) s = execLoopNode x1 x2 x3 s := rfl
@[simp] theorem exec_nopNode x1 x2 x3 (s : State) : exec (.nopNode x1 x2 x3) s = execNopNode x1 x2 x3 s := rfl
@[simp] theorem exec_heldAppend x1 (s : State) : exec (.heldAppend x1) s = execHeldAppend x1 s := rfl
@[simp] theorem exec_followOn x1 (s : State) : exec (.followOn x1) s = execFollowOn x1 s := rfl
@[simp] theorem exec_engineCommandStart x1 x2 x3 x4 (s : State) : exec (.engineCommandStart x1 x2 x3 x4) s = execEngineCommandStart x1 x2 x3 x4 s := rfl
@[simp] theorem exec_engineTranslationFault x1 x2 (s : State) : exec (.engineTranslationFault x1 x2) s = execEngineTranslationFault x1 x2 s := rfl
@[simp] theorem exec_engineCommandComplete x1 x2 (s : State) : exec (.engineCommandComplete x1 x2) s = execEngineCommandComplete x1 x2 s := rfl
@[simp] theorem exec_flip x1 x2 (s : State) : exec (.flip x1 x2) s = execFlip x1 x2 s := rfl
@[simp] theorem exec_flipAcknowledge x1 x2 (s : State) : exec (.flipAcknowledge x1 x2) s = execFlipAcknowledge x1 x2 s := rfl
@[simp] theorem exec_move x1 x2 (s : State) : exec (.move x1 x2) s = execMove x1 x2 s := rfl
@[simp] theorem exec_tileArrival x1 x2 x3 x4 (s : State) : exec (.tileArrival x1 x2 x3 x4) s = execTileArrival x1 x2 x3 x4 s := rfl
@[simp] theorem exec_mergeContribution x1 x2 x3 (s : State) : exec (.mergeContribution x1 x2 x3) s = execMergeContribution x1 x2 x3 s := rfl
@[simp] theorem exec_sendReservation x1 x2 (s : State) : exec (.sendReservation x1 x2) s = execSendReservation x1 x2 s := rfl
@[simp] theorem exec_sendAcknowledgement x1 x2 (s : State) : exec (.sendAcknowledgement x1 x2) s = execSendAcknowledgement x1 x2 s := rfl
@[simp] theorem exec_traceTailWrite x1 (s : State) : exec (.traceTailWrite x1) s = execTraceTailWrite x1 s := rfl
@[simp] theorem exec_add x1 x2 x3 x4 (s : State) : exec (.add x1 x2 x3 x4) s = execAdd x1 x2 x3 x4 s := rfl
@[simp] theorem exec_sub x1 x2 x3 x4 (s : State) : exec (.sub x1 x2 x3 x4) s = execSub x1 x2 x3 x4 s := rfl
@[simp] theorem exec_and x1 x2 x3 x4 (s : State) : exec (.and x1 x2 x3 x4) s = execAnd x1 x2 x3 x4 s := rfl
@[simp] theorem exec_or x1 x2 x3 x4 (s : State) : exec (.or x1 x2 x3 x4) s = execOr x1 x2 x3 x4 s := rfl
@[simp] theorem exec_xor x1 x2 x3 x4 (s : State) : exec (.xor x1 x2 x3 x4) s = execXor x1 x2 x3 x4 s := rfl
@[simp] theorem exec_sll x1 x2 x3 x4 (s : State) : exec (.sll x1 x2 x3 x4) s = execSll x1 x2 x3 x4 s := rfl
@[simp] theorem exec_srl x1 x2 x3 x4 (s : State) : exec (.srl x1 x2 x3 x4) s = execSrl x1 x2 x3 x4 s := rfl
@[simp] theorem exec_sra x1 x2 x3 x4 (s : State) : exec (.sra x1 x2 x3 x4) s = execSra x1 x2 x3 x4 s := rfl
@[simp] theorem exec_min x1 x2 x3 x4 (s : State) : exec (.min x1 x2 x3 x4) s = execMin x1 x2 x3 x4 s := rfl
@[simp] theorem exec_max x1 x2 x3 x4 (s : State) : exec (.max x1 x2 x3 x4) s = execMax x1 x2 x3 x4 s := rfl
@[simp] theorem exec_minU x1 x2 x3 x4 (s : State) : exec (.minU x1 x2 x3 x4) s = execMinU x1 x2 x3 x4 s := rfl
@[simp] theorem exec_maxU x1 x2 x3 x4 (s : State) : exec (.maxU x1 x2 x3 x4) s = execMaxU x1 x2 x3 x4 s := rfl
@[simp] theorem exec_slt x1 x2 x3 x4 (s : State) : exec (.slt x1 x2 x3 x4) s = execSlt x1 x2 x3 x4 s := rfl
@[simp] theorem exec_sltu x1 x2 x3 x4 (s : State) : exec (.sltu x1 x2 x3 x4) s = execSltu x1 x2 x3 x4 s := rfl
@[simp] theorem exec_clz x1 x2 x3 (s : State) : exec (.clz x1 x2 x3) s = execClz x1 x2 x3 s := rfl
@[simp] theorem exec_popc x1 x2 x3 (s : State) : exec (.popc x1 x2 x3) s = execPopc x1 x2 x3 s := rfl
@[simp] theorem exec_mul x1 x2 x3 x4 (s : State) : exec (.mul x1 x2 x3 x4) s = execMul x1 x2 x3 x4 s := rfl
@[simp] theorem exec_mulh x1 x2 x3 x4 (s : State) : exec (.mulh x1 x2 x3 x4) s = execMulh x1 x2 x3 x4 s := rfl
@[simp] theorem exec_mulhU x1 x2 x3 x4 (s : State) : exec (.mulhU x1 x2 x3 x4) s = execMulhU x1 x2 x3 x4 s := rfl
@[simp] theorem exec_div x1 x2 x3 x4 (s : State) : exec (.div x1 x2 x3 x4) s = execDiv x1 x2 x3 x4 s := rfl
@[simp] theorem exec_divU x1 x2 x3 x4 (s : State) : exec (.divU x1 x2 x3 x4) s = execDivU x1 x2 x3 x4 s := rfl
@[simp] theorem exec_rem x1 x2 x3 x4 (s : State) : exec (.rem x1 x2 x3 x4) s = execRem x1 x2 x3 x4 s := rfl
@[simp] theorem exec_remU x1 x2 x3 x4 (s : State) : exec (.remU x1 x2 x3 x4) s = execRemU x1 x2 x3 x4 s := rfl
@[simp] theorem exec_fadd x1 x2 x3 x4 x5 (s : State) : exec (.fadd x1 x2 x3 x4 x5) s = execFadd x1 x2 x3 x4 x5 s := rfl
@[simp] theorem exec_fsub x1 x2 x3 x4 x5 (s : State) : exec (.fsub x1 x2 x3 x4 x5) s = execFsub x1 x2 x3 x4 x5 s := rfl
@[simp] theorem exec_fmul x1 x2 x3 x4 x5 (s : State) : exec (.fmul x1 x2 x3 x4 x5) s = execFmul x1 x2 x3 x4 x5 s := rfl
@[simp] theorem exec_ffma x1 x2 x3 x4 x5 (s : State) : exec (.ffma x1 x2 x3 x4 x5) s = execFfma x1 x2 x3 x4 x5 s := rfl
@[simp] theorem exec_fdiv x1 x2 x3 x4 x5 (s : State) : exec (.fdiv x1 x2 x3 x4 x5) s = execFdiv x1 x2 x3 x4 x5 s := rfl
@[simp] theorem exec_fsqrt x1 x2 x3 x4 (s : State) : exec (.fsqrt x1 x2 x3 x4) s = execFsqrt x1 x2 x3 x4 s := rfl
@[simp] theorem exec_fmin x1 x2 x3 x4 (s : State) : exec (.fmin x1 x2 x3 x4) s = execFmin x1 x2 x3 x4 s := rfl
@[simp] theorem exec_fmax x1 x2 x3 x4 (s : State) : exec (.fmax x1 x2 x3 x4) s = execFmax x1 x2 x3 x4 s := rfl
@[simp] theorem exec_fcmp x1 x2 x3 x4 x5 (s : State) : exec (.fcmp x1 x2 x3 x4 x5) s = execFcmp x1 x2 x3 x4 x5 s := rfl
@[simp] theorem exec_fcvt x1 x2 x3 x4 x5 (s : State) : exec (.fcvt x1 x2 x3 x4 x5) s = execFcvt x1 x2 x3 x4 x5 s := rfl
@[simp] theorem exec_addi x1 x2 x3 x4 (s : State) : exec (.addi x1 x2 x3 x4) s = execAddi x1 x2 x3 x4 s := rfl
@[simp] theorem exec_andi x1 x2 x3 x4 (s : State) : exec (.andi x1 x2 x3 x4) s = execAndi x1 x2 x3 x4 s := rfl
@[simp] theorem exec_ori x1 x2 x3 x4 (s : State) : exec (.ori x1 x2 x3 x4) s = execOri x1 x2 x3 x4 s := rfl
@[simp] theorem exec_xori x1 x2 x3 x4 (s : State) : exec (.xori x1 x2 x3 x4) s = execXori x1 x2 x3 x4 s := rfl
@[simp] theorem exec_slti x1 x2 x3 x4 (s : State) : exec (.slti x1 x2 x3 x4) s = execSlti x1 x2 x3 x4 s := rfl
@[simp] theorem exec_slli x1 x2 x3 x4 (s : State) : exec (.slli x1 x2 x3 x4) s = execSlli x1 x2 x3 x4 s := rfl
@[simp] theorem exec_srli x1 x2 x3 x4 (s : State) : exec (.srli x1 x2 x3 x4) s = execSrli x1 x2 x3 x4 s := rfl
@[simp] theorem exec_srai x1 x2 x3 x4 (s : State) : exec (.srai x1 x2 x3 x4) s = execSrai x1 x2 x3 x4 s := rfl
@[simp] theorem exec_lui x1 x2 (s : State) : exec (.lui x1 x2) s = execLui x1 x2 s := rfl
@[simp] theorem exec_ldB x1 x2 x3 x4 (s : State) : exec (.ldB x1 x2 x3 x4) s = execLdB x1 x2 x3 x4 s := rfl
@[simp] theorem exec_ldBu x1 x2 x3 x4 (s : State) : exec (.ldBu x1 x2 x3 x4) s = execLdBu x1 x2 x3 x4 s := rfl
@[simp] theorem exec_ldH x1 x2 x3 x4 (s : State) : exec (.ldH x1 x2 x3 x4) s = execLdH x1 x2 x3 x4 s := rfl
@[simp] theorem exec_ldHu x1 x2 x3 x4 (s : State) : exec (.ldHu x1 x2 x3 x4) s = execLdHu x1 x2 x3 x4 s := rfl
@[simp] theorem exec_ldW x1 x2 x3 x4 (s : State) : exec (.ldW x1 x2 x3 x4) s = execLdW x1 x2 x3 x4 s := rfl
@[simp] theorem exec_ldWu x1 x2 x3 x4 (s : State) : exec (.ldWu x1 x2 x3 x4) s = execLdWu x1 x2 x3 x4 s := rfl
@[simp] theorem exec_ldD x1 x2 x3 x4 (s : State) : exec (.ldD x1 x2 x3 x4) s = execLdD x1 x2 x3 x4 s := rfl
@[simp] theorem exec_stB x1 x2 x3 x4 (s : State) : exec (.stB x1 x2 x3 x4) s = execStB x1 x2 x3 x4 s := rfl
@[simp] theorem exec_stH x1 x2 x3 x4 (s : State) : exec (.stH x1 x2 x3 x4) s = execStH x1 x2 x3 x4 s := rfl
@[simp] theorem exec_stW x1 x2 x3 x4 (s : State) : exec (.stW x1 x2 x3 x4) s = execStW x1 x2 x3 x4 s := rfl
@[simp] theorem exec_stD x1 x2 x3 x4 (s : State) : exec (.stD x1 x2 x3 x4) s = execStD x1 x2 x3 x4 s := rfl
@[simp] theorem exec_beq x1 x2 x3 (s : State) : exec (.beq x1 x2 x3) s = execBeq x1 x2 x3 s := rfl
@[simp] theorem exec_bne x1 x2 x3 (s : State) : exec (.bne x1 x2 x3) s = execBne x1 x2 x3 s := rfl
@[simp] theorem exec_blt x1 x2 x3 (s : State) : exec (.blt x1 x2 x3) s = execBlt x1 x2 x3 s := rfl
@[simp] theorem exec_bge x1 x2 x3 (s : State) : exec (.bge x1 x2 x3) s = execBge x1 x2 x3 s := rfl
@[simp] theorem exec_bltu x1 x2 x3 (s : State) : exec (.bltu x1 x2 x3) s = execBltu x1 x2 x3 s := rfl
@[simp] theorem exec_bgeu x1 x2 x3 (s : State) : exec (.bgeu x1 x2 x3) s = execBgeu x1 x2 x3 s := rfl
@[simp] theorem exec_jal x1 x2 (s : State) : exec (.jal x1 x2) s = execJal x1 x2 s := rfl
@[simp] theorem exec_jalr x1 x2 x3 x4 (s : State) : exec (.jalr x1 x2 x3 x4) s = execJalr x1 x2 x3 x4 s := rfl
@[simp] theorem exec_loop x1 x2 (s : State) : exec (.loop x1 x2) s = execLoop x1 x2 s := rfl
@[simp] theorem exec_loopv x1 x2 (s : State) : exec (.loopv x1 x2) s = execLoopv x1 x2 s := rfl
@[simp] theorem exec_bkany x1 x2 (s : State) : exec (.bkany x1 x2) s = execBkany x1 x2 s := rfl
@[simp] theorem exec_bknone x1 x2 (s : State) : exec (.bknone x1 x2) s = execBknone x1 x2 s := rfl
@[simp] theorem exec_bkall x1 x2 (s : State) : exec (.bkall x1 x2) s = execBkall x1 x2 s := rfl
@[simp] theorem exec_setvl x1 x2 x3 (s : State) : exec (.setvl x1 x2 x3) s = execSetvl x1 x2 x3 s := rfl
@[simp] theorem exec_vadd x1 x2 x3 (s : State) : exec (.vadd x1 x2 x3) s = execVadd x1 x2 x3 s := rfl
@[simp] theorem exec_vsub x1 x2 x3 (s : State) : exec (.vsub x1 x2 x3) s = execVsub x1 x2 x3 s := rfl
@[simp] theorem exec_vmul x1 x2 x3 (s : State) : exec (.vmul x1 x2 x3) s = execVmul x1 x2 x3 s := rfl
@[simp] theorem exec_vmin x1 x2 x3 (s : State) : exec (.vmin x1 x2 x3) s = execVmin x1 x2 x3 s := rfl
@[simp] theorem exec_vmax x1 x2 x3 (s : State) : exec (.vmax x1 x2 x3) s = execVmax x1 x2 x3 s := rfl
@[simp] theorem exec_vdiv x1 x2 x3 (s : State) : exec (.vdiv x1 x2 x3) s = execVdiv x1 x2 x3 s := rfl
@[simp] theorem exec_vfma x1 x2 x3 (s : State) : exec (.vfma x1 x2 x3) s = execVfma x1 x2 x3 s := rfl
@[simp] theorem exec_vfms x1 x2 x3 (s : State) : exec (.vfms x1 x2 x3) s = execVfms x1 x2 x3 s := rfl
@[simp] theorem exec_vabs x1 x2 (s : State) : exec (.vabs x1 x2) s = execVabs x1 x2 s := rfl
@[simp] theorem exec_vneg x1 x2 (s : State) : exec (.vneg x1 x2) s = execVneg x1 x2 s := rfl
@[simp] theorem exec_vsqrt x1 x2 (s : State) : exec (.vsqrt x1 x2) s = execVsqrt x1 x2 s := rfl
@[simp] theorem exec_vrcp x1 x2 (s : State) : exec (.vrcp x1 x2) s = execVrcp x1 x2 s := rfl
@[simp] theorem exec_vrsqrt x1 x2 (s : State) : exec (.vrsqrt x1 x2) s = execVrsqrt x1 x2 s := rfl
@[simp] theorem exec_vexp2 x1 x2 (s : State) : exec (.vexp2 x1 x2) s = execVexp2 x1 x2 s := rfl
@[simp] theorem exec_vexp x1 x2 (s : State) : exec (.vexp x1 x2) s = execVexp x1 x2 s := rfl
@[simp] theorem exec_vln2 x1 x2 (s : State) : exec (.vln2 x1 x2) s = execVln2 x1 x2 s := rfl
@[simp] theorem exec_vand x1 x2 x3 (s : State) : exec (.vand x1 x2 x3) s = execVand x1 x2 x3 s := rfl
@[simp] theorem exec_vor x1 x2 x3 (s : State) : exec (.vor x1 x2 x3) s = execVor x1 x2 x3 s := rfl
@[simp] theorem exec_vxor x1 x2 x3 (s : State) : exec (.vxor x1 x2 x3) s = execVxor x1 x2 x3 s := rfl
@[simp] theorem exec_vsll x1 x2 x3 (s : State) : exec (.vsll x1 x2 x3) s = execVsll x1 x2 x3 s := rfl
@[simp] theorem exec_vsrl x1 x2 x3 (s : State) : exec (.vsrl x1 x2 x3) s = execVsrl x1 x2 x3 s := rfl
@[simp] theorem exec_vsra x1 x2 x3 (s : State) : exec (.vsra x1 x2 x3) s = execVsra x1 x2 x3 s := rfl
@[simp] theorem exec_vcmp x1 x2 x3 x4 (s : State) : exec (.vcmp x1 x2 x3 x4) s = execVcmp x1 x2 x3 x4 s := rfl
@[simp] theorem exec_kand x1 x2 x3 (s : State) : exec (.kand x1 x2 x3) s = execKand x1 x2 x3 s := rfl
@[simp] theorem exec_kor x1 x2 x3 (s : State) : exec (.kor x1 x2 x3) s = execKor x1 x2 x3 s := rfl
@[simp] theorem exec_kxor x1 x2 x3 (s : State) : exec (.kxor x1 x2 x3) s = execKxor x1 x2 x3 s := rfl
@[simp] theorem exec_knot x1 x2 (s : State) : exec (.knot x1 x2) s = execKnot x1 x2 s := rfl
@[simp] theorem exec_kpop x1 x2 (s : State) : exec (.kpop x1 x2) s = execKpop x1 x2 s := rfl
@[simp] theorem exec_kfirst x1 x2 (s : State) : exec (.kfirst x1 x2) s = execKfirst x1 x2 s := rfl
@[simp] theorem exec_vcompress x1 x2 x3 (s : State) : exec (.vcompress x1 x2 x3) s = execVcompress x1 x2 x3 s := rfl
@[simp] theorem exec_vexpand x1 x2 x3 (s : State) : exec (.vexpand x1 x2 x3) s = execVexpand x1 x2 x3 s := rfl
@[simp] theorem exec_viota x1 x2 (s : State) : exec (.viota x1 x2) s = execViota x1 x2 s := rfl
@[simp] theorem exec_vid x1 (s : State) : exec (.vid x1) s = execVid x1 s := rfl
@[simp] theorem exec_vscan x1 x2 x3 (s : State) : exec (.vscan x1 x2 x3) s = execVscan x1 x2 x3 s := rfl
@[simp] theorem exec_vslideup x1 x2 x3 (s : State) : exec (.vslideup x1 x2 x3) s = execVslideup x1 x2 x3 s := rfl
@[simp] theorem exec_vslidedn x1 x2 x3 (s : State) : exec (.vslidedn x1 x2 x3) s = execVslidedn x1 x2 x3 s := rfl
@[simp] theorem exec_vperm x1 x2 x3 (s : State) : exec (.vperm x1 x2 x3) s = execVperm x1 x2 x3 s := rfl
@[simp] theorem exec_vbcast x1 x2 (s : State) : exec (.vbcast x1 x2) s = execVbcast x1 x2 s := rfl
@[simp] theorem exec_vmvsToScalar x1 x2 (s : State) : exec (.vmvsToScalar x1 x2) s = execVmvsToScalar x1 x2 s := rfl
@[simp] theorem exec_vmvsToVector x1 x2 (s : State) : exec (.vmvsToVector x1 x2) s = execVmvsToVector x1 x2 s := rfl
@[simp] theorem exec_vmerge x1 x2 x3 (s : State) : exec (.vmerge x1 x2 x3) s = execVmerge x1 x2 x3 s := rfl
@[simp] theorem exec_vredsum x1 x2 x3 (s : State) : exec (.vredsum x1 x2 x3) s = execVredsum x1 x2 x3 s := rfl
@[simp] theorem exec_vredmax x1 x2 x3 (s : State) : exec (.vredmax x1 x2 x3) s = execVredmax x1 x2 x3 s := rfl
@[simp] theorem exec_vredmin x1 x2 x3 (s : State) : exec (.vredmin x1 x2 x3) s = execVredmin x1 x2 x3 s := rfl
@[simp] theorem exec_vsegred x1 x2 x3 (s : State) : exec (.vsegred x1 x2 x3) s = execVsegred x1 x2 x3 s := rfl
@[simp] theorem exec_vcvt x1 x2 x3 (s : State) : exec (.vcvt x1 x2 x3) s = execVcvt x1 x2 x3 s := rfl
@[simp] theorem exec_vld x1 x2 x3 x4 x5 x6 (s : State) : exec (.vld x1 x2 x3 x4 x5 x6) s = execVld x1 x2 x3 x4 x5 x6 s := rfl
@[simp] theorem exec_vst x1 x2 x3 x4 x5 x6 (s : State) : exec (.vst x1 x2 x3 x4 x5 x6) s = execVst x1 x2 x3 x4 x5 x6 s := rfl
@[simp] theorem exec_vldx x1 x2 x3 x4 x5 (s : State) : exec (.vldx x1 x2 x3 x4 x5) s = execVldx x1 x2 x3 x4 x5 s := rfl
@[simp] theorem exec_vstx x1 x2 x3 x4 x5 (s : State) : exec (.vstx x1 x2 x3 x4 x5) s = execVstx x1 x2 x3 x4 x5 s := rfl
@[simp] theorem exec_vldsc x1 x2 x3 (s : State) : exec (.vldsc x1 x2 x3) s = execVldsc x1 x2 x3 s := rfl
@[simp] theorem exec_vpref x1 x2 x3 x4 x5 (s : State) : exec (.vpref x1 x2 x3 x4 x5) s = execVpref x1 x2 x3 x4 x5 s := rfl
@[simp] theorem exec_vldk x1 x2 x3 x4 (s : State) : exec (.vldk x1 x2 x3 x4) s = execVldk x1 x2 x3 x4 s := rfl
@[simp] theorem exec_vstk x1 x2 x3 x4 (s : State) : exec (.vstk x1 x2 x3 x4) s = execVstk x1 x2 x3 x4 s := rfl
@[simp] theorem exec_amoaddW x1 x2 x3 x4 x5 x6 x7 (s : State) : exec (.amoaddW x1 x2 x3 x4 x5 x6 x7) s = execAmoaddW x1 x2 x3 x4 x5 x6 x7 s := rfl
@[simp] theorem exec_amominW x1 x2 x3 x4 x5 x6 x7 (s : State) : exec (.amominW x1 x2 x3 x4 x5 x6 x7) s = execAmominW x1 x2 x3 x4 x5 x6 x7 s := rfl
@[simp] theorem exec_amomaxW x1 x2 x3 x4 x5 x6 x7 (s : State) : exec (.amomaxW x1 x2 x3 x4 x5 x6 x7) s = execAmomaxW x1 x2 x3 x4 x5 x6 x7 s := rfl
@[simp] theorem exec_amoandW x1 x2 x3 x4 x5 x6 x7 (s : State) : exec (.amoandW x1 x2 x3 x4 x5 x6 x7) s = execAmoandW x1 x2 x3 x4 x5 x6 x7 s := rfl
@[simp] theorem exec_amoorW x1 x2 x3 x4 x5 x6 x7 (s : State) : exec (.amoorW x1 x2 x3 x4 x5 x6 x7) s = execAmoorW x1 x2 x3 x4 x5 x6 x7 s := rfl
@[simp] theorem exec_amoswpW x1 x2 x3 x4 x5 x6 x7 (s : State) : exec (.amoswpW x1 x2 x3 x4 x5 x6 x7) s = execAmoswpW x1 x2 x3 x4 x5 x6 x7 s := rfl
@[simp] theorem exec_amocasW x1 x2 x3 x4 x5 x6 x7 (s : State) : exec (.amocasW x1 x2 x3 x4 x5 x6 x7) s = execAmocasW x1 x2 x3 x4 x5 x6 x7 s := rfl
@[simp] theorem exec_amoaddD x1 x2 x3 x4 x5 x6 x7 (s : State) : exec (.amoaddD x1 x2 x3 x4 x5 x6 x7) s = execAmoaddD x1 x2 x3 x4 x5 x6 x7 s := rfl
@[simp] theorem exec_amominD x1 x2 x3 x4 x5 x6 x7 (s : State) : exec (.amominD x1 x2 x3 x4 x5 x6 x7) s = execAmominD x1 x2 x3 x4 x5 x6 x7 s := rfl
@[simp] theorem exec_amomaxD x1 x2 x3 x4 x5 x6 x7 (s : State) : exec (.amomaxD x1 x2 x3 x4 x5 x6 x7) s = execAmomaxD x1 x2 x3 x4 x5 x6 x7 s := rfl
@[simp] theorem exec_amoandD x1 x2 x3 x4 x5 x6 x7 (s : State) : exec (.amoandD x1 x2 x3 x4 x5 x6 x7) s = execAmoandD x1 x2 x3 x4 x5 x6 x7 s := rfl
@[simp] theorem exec_amoorD x1 x2 x3 x4 x5 x6 x7 (s : State) : exec (.amoorD x1 x2 x3 x4 x5 x6 x7) s = execAmoorD x1 x2 x3 x4 x5 x6 x7 s := rfl
@[simp] theorem exec_amoswpD x1 x2 x3 x4 x5 x6 x7 (s : State) : exec (.amoswpD x1 x2 x3 x4 x5 x6 x7) s = execAmoswpD x1 x2 x3 x4 x5 x6 x7 s := rfl
@[simp] theorem exec_amocasD x1 x2 x3 x4 x5 x6 x7 (s : State) : exec (.amocasD x1 x2 x3 x4 x5 x6 x7) s = execAmocasD x1 x2 x3 x4 x5 x6 x7 s := rfl
@[simp] theorem exec_amonib x1 x2 x3 x4 x5 x6 x7 x8 (s : State) : exec (.amonib x1 x2 x3 x4 x5 x6 x7 x8) s = execAmonib x1 x2 x3 x4 x5 x6 x7 x8 s := rfl
@[simp] theorem exec_vamoadd x1 x2 x3 x4 x5 x6 x7 (s : State) : exec (.vamoadd x1 x2 x3 x4 x5 x6 x7) s = execVamoadd x1 x2 x3 x4 x5 x6 x7 s := rfl
@[simp] theorem exec_phase x1 (s : State) : exec (.phase x1) s = execPhase x1 s := rfl
@[simp] theorem exec_fence x1 (s : State) : exec (.fence x1) s = execFence x1 s := rfl
@[simp] theorem exec_mopaB x1 x2 x3 (s : State) : exec (.mopaB x1 x2 x3) s = execMopaB x1 x2 x3 s := rfl
@[simp] theorem exec_mopaF x1 x2 x3 (s : State) : exec (.mopaF x1 x2 x3) s = execMopaF x1 x2 x3 s := rfl
@[simp] theorem exec_mopsB x1 x2 x3 (s : State) : exec (.mopsB x1 x2 x3) s = execMopsB x1 x2 x3 s := rfl
@[simp] theorem exec_mopsF x1 x2 x3 (s : State) : exec (.mopsF x1 x2 x3) s = execMopsF x1 x2 x3 s := rfl
@[simp] theorem exec_mmas x1 x2 x3 (s : State) : exec (.mmas x1 x2 x3) s = execMmas x1 x2 x3 s := rfl
@[simp] theorem exec_mzero x1 (s : State) : exec (.mzero x1) s = execMzero x1 s := rfl
@[simp] theorem exec_mmov x1 x2 x3 (s : State) : exec (.mmov x1 x2 x3) s = execMmov x1 x2 x3 s := rfl
@[simp] theorem exec_mdead x1 (s : State) : exec (.mdead x1) s = execMdead x1 s := rfl
@[simp] theorem exec_mpref x1 (s : State) : exec (.mpref x1) s = execMpref x1 s := rfl
@[simp] theorem exec_mflush x1 (s : State) : exec (.mflush x1) s = execMflush x1 s := rfl
@[simp] theorem exec_mflushall (s : State) : exec (.mflushall) s = execMflushall s := rfl
@[simp] theorem exec_mld x1 x2 x3 x4 x5 (s : State) : exec (.mld x1 x2 x3 x4 x5) s = execMld x1 x2 x3 x4 x5 s := rfl
@[simp] theorem exec_mst x1 x2 x3 x4 x5 x6 (s : State) : exec (.mst x1 x2 x3 x4 x5 x6) s = execMst x1 x2 x3 x4 x5 x6 s := rfl
@[simp] theorem exec_mrow x1 x2 x3 x4 (s : State) : exec (.mrow x1 x2 x3 x4) s = execMrow x1 x2 x3 x4 s := rfl
@[simp] theorem exec_mcol4 x1 x2 x3 x4 (s : State) : exec (.mcol4 x1 x2 x3 x4) s = execMcol4 x1 x2 x3 x4 s := rfl
@[simp] theorem exec_mwrow x1 x2 x3 (s : State) : exec (.mwrow x1 x2 x3) s = execMwrow x1 x2 x3 s := rfl
@[simp] theorem exec_mstat x1 x2 (s : State) : exec (.mstat x1 x2) s = execMstat x1 x2 s := rfl
@[simp] theorem exec_setvlr x1 x2 x3 x4 x5 (s : State) : exec (.setvlr x1 x2 x3 x4 x5) s = execSetvlr x1 x2 x3 x4 x5 s := rfl
@[simp] theorem exec_atsc x1 x2 x3 (s : State) : exec (.atsc x1 x2 x3) s = execAtsc x1 x2 x3 s := rfl
@[simp] theorem exec_atscBias x1 x2 x3 x4 (s : State) : exec (.atscBias x1 x2 x3 x4) s = execAtscBias x1 x2 x3 x4 s := rfl
@[simp] theorem exec_atex x1 (s : State) : exec (.atex x1) s = execAtex x1 s := rfl
@[simp] theorem exec_atac x1 x2 x3 x4 (s : State) : exec (.atac x1 x2 x3 x4) s = execAtac x1 x2 x3 x4 s := rfl
@[simp] theorem exec_osget x1 x2 x3 (s : State) : exec (.osget x1 x2 x3) s = execOsget x1 x2 x3 s := rfl
@[simp] theorem exec_osput x1 x2 x3 (s : State) : exec (.osput x1 x2 x3) s = execOsput x1 x2 x3 s := rfl
@[simp] theorem exec_oszero x1 x2 (s : State) : exec (.oszero x1 x2) s = execOszero x1 x2 s := rfl
@[simp] theorem exec_vtopk x1 x2 x3 (s : State) : exec (.vtopk x1 x2 x3) s = execVtopk x1 x2 x3 s := rfl
@[simp] theorem exec_tmatch x1 x2 x3 (s : State) : exec (.tmatch x1 x2 x3) s = execTmatch x1 x2 x3 s := rfl
@[simp] theorem exec_tmerge x1 x2 x3 x4 (s : State) : exec (.tmerge x1 x2 x3 x4) s = execTmerge x1 x2 x3 x4 s := rfl
@[simp] theorem exec_tunmrg x1 x2 x3 x4 (s : State) : exec (.tunmrg x1 x2 x3 x4) s = execTunmrg x1 x2 x3 x4 s := rfl
@[simp] theorem exec_hld x1 x2 x3 x4 (s : State) : exec (.hld x1 x2 x3 x4) s = execHld x1 x2 x3 x4 s := rfl
@[simp] theorem exec_hst x1 x2 x3 x4 (s : State) : exec (.hst x1 x2 x3 x4) s = execHst x1 x2 x3 x4 s := rfl
@[simp] theorem exec_ldh x1 x2 x3 (s : State) : exec (.ldh x1 x2 x3) s = execLdh x1 x2 x3 s := rfl
@[simp] theorem exec_sth x1 x2 x3 (s : State) : exec (.sth x1 x2 x3) s = execSth x1 x2 x3 s := rfl
@[simp] theorem exec_hcas x1 x2 x3 (s : State) : exec (.hcas x1 x2 x3) s = execHcas x1 x2 x3 s := rfl
@[simp] theorem exec_vldh x1 x2 x3 x4 (s : State) : exec (.vldh x1 x2 x3 x4) s = execVldh x1 x2 x3 x4 s := rfl
@[simp] theorem exec_vsth x1 x2 x3 x4 (s : State) : exec (.vsth x1 x2 x3 x4) s = execVsth x1 x2 x3 x4 s := rfl
@[simp] theorem exec_hpin x1 x2 (s : State) : exec (.hpin x1 x2) s = execHpin x1 x2 s := rfl
@[simp] theorem exec_hunpin x1 (s : State) : exec (.hunpin x1) s = execHunpin x1 s := rfl
@[simp] theorem exec_hheal x1 (s : State) : exec (.hheal x1) s = execHheal x1 s := rfl
@[simp] theorem exec_hcmp x1 x2 x3 (s : State) : exec (.hcmp x1 x2 x3) s = execHcmp x1 x2 x3 s := rfl
@[simp] theorem exec_hallocImmediate x1 x2 (s : State) : exec (.hallocImmediate x1 x2) s = execHallocImmediate x1 x2 s := rfl
@[simp] theorem exec_hallocRegister x1 x2 (s : State) : exec (.hallocRegister x1 x2) s = execHallocRegister x1 x2 s := rfl
@[simp] theorem exec_hnul x1 x2 (s : State) : exec (.hnul x1 x2) s = execHnul x1 x2 s := rfl
@[simp] theorem exec_hnulN x1 x2 (s : State) : exec (.hnulN x1 x2) s = execHnulN x1 x2 s := rfl
@[simp] theorem exec_heapStoreResume (s : State) : exec (.heapStoreResume) s = execHeapStoreResume s := rfl
@[simp] theorem exec_cpy x1 x2 (s : State) : exec (.cpy x1 x2) s = execCpy x1 x2 s := rfl
@[simp] theorem exec_cpym x1 x2 (s : State) : exec (.cpym x1 x2) s = execCpym x1 x2 s := rfl
@[simp] theorem exec_cgath x1 x2 (s : State) : exec (.cgath x1 x2) s = execCgath x1 x2 s := rfl
@[simp] theorem exec_reloc x1 x2 (s : State) : exec (.reloc x1 x2) s = execReloc x1 x2 s := rfl
@[simp] theorem exec_sarm x1 (s : State) : exec (.sarm x1) s = execSarm x1 s := rfl
@[simp] theorem exec_swait x1 x2 (s : State) : exec (.swait x1 x2) s = execSwait x1 x2 s := rfl
@[simp] theorem exec_swaitReturn (s : State) : exec (.swaitReturn) s = execSwaitReturn s := rfl
@[simp] theorem exec_bar (s : State) : exec (.bar) s = execBar s := rfl
@[simp] theorem exec_barDeparture (s : State) : exec (.barDeparture) s = execBarDeparture s := rfl
@[simp] theorem exec_spawn x1 x2 (s : State) : exec (.spawn x1 x2) s = execSpawn x1 x2 s := rfl
@[simp] theorem exec_spawnAppend (s : State) : exec (.spawnAppend) s = execSpawnAppend s := rfl
@[simp] theorem exec_endThread (s : State) : exec (.endThread) s = execEndThread s := rfl
@[simp] theorem exec_endRelease (s : State) : exec (.endRelease) s = execEndRelease s := rfl
@[simp] theorem exec_msend x1 x2 x3 x4 (s : State) : exec (.msend x1 x2 x3 x4) s = execMsend x1 x2 x3 x4 s := rfl
@[simp] theorem exec_msendm x1 x2 x3 x4 (s : State) : exec (.msendm x1 x2 x3 x4) s = execMsendm x1 x2 x3 x4 s := rfl
@[simp] theorem exec_mrecv x1 x2 (s : State) : exec (.mrecv x1 x2) s = execMrecv x1 x2 s := rfl
@[simp] theorem exec_mrecvBind (s : State) : exec (.mrecvBind) s = execMrecvBind s := rfl
@[simp] theorem exec_getc x1 x2 (s : State) : exec (.getc x1 x2) s = execGetc x1 x2 s := rfl
@[simp] theorem exec_putc x1 x2 (s : State) : exec (.putc x1 x2) s = execPutc x1 x2 s := rfl
@[simp] theorem exec_eret (s : State) : exec (.eret) s = execEret s := rfl
@[simp] theorem exec_wait (s : State) : exec (.wait) s = execWait s := rfl
@[simp] theorem exec_trap x1 (s : State) : exec (.trap x1) s = execTrap x1 s := rfl
@[simp] theorem exec_fencei (s : State) : exec (.fencei) s = execFencei s := rfl
@[simp] theorem exec_idle (s : State) : exec (.idle) s = execIdle s := rfl
@[simp] theorem exec_brk (s : State) : exec (.brk) s = execBrk s := rfl
@[simp] theorem exec_msplitWrite x1 (s : State) : exec (.msplitWrite x1) s = execMsplitWrite x1 s := rfl
@[simp] theorem exec_mapbaseWrite x1 (s : State) : exec (.mapbaseWrite x1) s = execMapbaseWrite x1 s := rfl
@[simp] theorem exec_lanepartWrite x1 (s : State) : exec (.lanepartWrite x1) s = execLanepartWrite x1 s := rfl
@[simp] theorem exec_lcntWrite x1 x2 (s : State) : exec (.lcntWrite x1 x2) s = execLcntWrite x1 x2 s := rfl
@[simp] theorem exec_lbegLendWrite x1 x2 x3 (s : State) : exec (.lbegLendWrite x1 x2 x3) s = execLbegLendWrite x1 x2 x3 s := rfl
@[simp] theorem exec_ldepthWrite x1 (s : State) : exec (.ldepthWrite x1) s = execLdepthWrite x1 s := rfl
@[simp] theorem exec_doorbell x1 x2 (s : State) : exec (.doorbell x1 x2) s = execDoorbell x1 x2 s := rfl
@[simp] theorem exec_queueEnable x1 (s : State) : exec (.queueEnable x1) s = execQueueEnable x1 s := rfl
@[simp] theorem exec_queueClose x1 (s : State) : exec (.queueClose x1) s = execQueueClose x1 s := rfl
@[simp] theorem exec_dispatchDecision x1 (s : State) : exec (.dispatchDecision x1) s = execDispatchDecision x1 s := rfl
@[simp] theorem exec_laneReclaimTimeout x1 (s : State) : exec (.laneReclaimTimeout x1) s = execLaneReclaimTimeout x1 s := rfl
@[simp] theorem exec_replyAbandonment x1 x2 (s : State) : exec (.replyAbandonment x1 x2) s = execReplyAbandonment x1 x2 s := rfl
@[simp] theorem exec_remoteAccess x1 (s : State) : exec (.remoteAccess x1) s = execRemoteAccess x1 s := rfl
@[simp] theorem exec_linkFailure x1 (s : State) : exec (.linkFailure x1) s = execLinkFailure x1 s := rfl
@[simp] theorem exec_laneFailure x1 (s : State) : exec (.laneFailure x1) s = execLaneFailure x1 s := rfl
@[simp] theorem exec_faultQueuePost (s : State) : exec (.faultQueuePost) s = execFaultQueuePost s := rfl
@[simp] theorem exec_singleStepTrap (s : State) : exec (.singleStepTrap) s = execSingleStepTrap s := rfl
@[simp] theorem exec_halt x1 (s : State) : exec (.halt x1) s = execHalt x1 s := rfl
@[simp] theorem exec_debugTableReread x1 (s : State) : exec (.debugTableReread x1) s = execDebugTableReread x1 s := rfl
@[simp] theorem exec_hostCxlMemRead x1 x2 (s : State) : exec (.hostCxlMemRead x1 x2) s = execHostCxlMemRead x1 x2 s := rfl
@[simp] theorem exec_hostCxlMemWrite x1 x2 (s : State) : exec (.hostCxlMemWrite x1 x2) s = execHostCxlMemWrite x1 x2 s := rfl
@[simp] theorem exec_identify (s : State) : exec (.identify) s = execIdentify s := rfl
@[simp] theorem exec_getEventRecords x1 (s : State) : exec (.getEventRecords x1) s = execGetEventRecords x1 s := rfl
@[simp] theorem exec_clearEventRecords x1 (s : State) : exec (.clearEventRecords x1) s = execClearEventRecords x1 s := rfl
@[simp] theorem exec_getTimestamp (s : State) : exec (.getTimestamp) s = execGetTimestamp s := rfl
@[simp] theorem exec_setTimestamp x1 (s : State) : exec (.setTimestamp x1) s = execSetTimestamp x1 s := rfl
@[simp] theorem exec_transferFw x1 (s : State) : exec (.transferFw x1) s = execTransferFw x1 s := rfl
@[simp] theorem exec_activateFw (s : State) : exec (.activateFw) s = execActivateFw s := rfl
@[simp] theorem exec_getLog (s : State) : exec (.getLog) s = execGetLog s := rfl
@[simp] theorem exec_setAstbase x1 (s : State) : exec (.setAstbase x1) s = execSetAstbase x1 s := rfl
@[simp] theorem exec_setQtbase x1 (s : State) : exec (.setQtbase x1) s = execSetQtbase x1 s := rfl
@[simp] theorem exec_setFqbase x1 (s : State) : exec (.setFqbase x1) s = execSetFqbase x1 s := rfl
@[simp] theorem exec_setFrames x1 x2 (s : State) : exec (.setFrames x1 x2) s = execSetFrames x1 x2 s := rfl
@[simp] theorem exec_setMbtbase x1 (s : State) : exec (.setMbtbase x1) s = execSetMbtbase x1 s := rfl
@[simp] theorem exec_setDthr x1 (s : State) : exec (.setDthr x1) s = execSetDthr x1 s := rfl
@[simp] theorem exec_shootdown x1 x2 x3 (s : State) : exec (.shootdown x1 x2 x3) s = execShootdown x1 x2 x3 s := rfl
@[simp] theorem exec_pageExpand x1 (s : State) : exec (.pageExpand x1) s = execPageExpand x1 s := rfl
@[simp] theorem exec_backgroundCommandComplete (s : State) : exec (.backgroundCommandComplete) s = execBackgroundCommandComplete s := rfl
@[simp] theorem exec_packResume x1 (s : State) : exec (.packResume x1) s = execPackResume x1 s := rfl
@[simp] theorem exec_packAbort x1 (s : State) : exec (.packAbort x1) s = execPackAbort x1 s := rfl
@[simp] theorem exec_packAdopt x1 x2 (s : State) : exec (.packAdopt x1 x2) s = execPackAdopt x1 x2 s := rfl
@[simp] theorem exec_cmdResume x1 x2 (s : State) : exec (.cmdResume x1 x2) s = execCmdResume x1 x2 s := rfl
@[simp] theorem exec_cmdAbort x1 x2 (s : State) : exec (.cmdAbort x1 x2) s = execCmdAbort x1 x2 s := rfl
@[simp] theorem exec_setPstate x1 (s : State) : exec (.setPstate x1) s = execSetPstate x1 s := rfl
@[simp] theorem exec_clockChange (s : State) : exec (.clockChange) s = execClockChange s := rfl
@[simp] theorem exec_corePark x1 x2 (s : State) : exec (.corePark x1 x2) s = execCorePark x1 x2 s := rfl
@[simp] theorem exec_coreUnpark x1 x2 (s : State) : exec (.coreUnpark x1 x2) s = execCoreUnpark x1 x2 s := rfl
@[simp] theorem exec_hbmSrEnter x1 (s : State) : exec (.hbmSrEnter x1) s = execHbmSrEnter x1 s := rfl
@[simp] theorem exec_hbmSrExit x1 (s : State) : exec (.hbmSrExit x1) s = execHbmSrExit x1 s := rfl
@[simp] theorem exec_hbmWake x1 (s : State) : exec (.hbmWake x1) s = execHbmWake x1 s := rfl
@[simp] theorem exec_setDbgbase x1 (s : State) : exec (.setDbgbase x1) s = execSetDbgbase x1 s := rfl
@[simp] theorem exec_warmReset x1 (s : State) : exec (.warmReset x1) s = execWarmReset x1 s := rfl
@[simp] theorem exec_coldReset (s : State) : exec (.coldReset) s = execColdReset s := rfl
@[simp] theorem exec_functionLevelReset (s : State) : exec (.functionLevelReset) s = execFunctionLevelReset s := rfl
@[simp] theorem exec_getCertificate (s : State) : exec (.getCertificate) s = execGetCertificate s := rfl
@[simp] theorem exec_challenge x1 (s : State) : exec (.challenge x1) s = execChallenge x1 s := rfl
@[simp] theorem exec_getMeasurements (s : State) : exec (.getMeasurements) s = execGetMeasurements s := rfl
@[simp] theorem exec_tallowUpdate x1 (s : State) : exec (.tallowUpdate x1) s = execTallowUpdate x1 s := rfl
@[simp] theorem exec_thermalStepDown x1 (s : State) : exec (.thermalStepDown x1) s = execThermalStepDown x1 s := rfl
@[simp] theorem exec_thermalRepeatStep x1 (s : State) : exec (.thermalRepeatStep x1) s = execThermalRepeatStep x1 s := rfl
@[simp] theorem exec_thermalStepUp (s : State) : exec (.thermalStepUp) s = execThermalStepUp s := rfl
@[simp] theorem exec_thermalTrip x1 (s : State) : exec (.thermalTrip x1) s = execThermalTrip x1 s := rfl
@[simp] theorem exec_refreshRateChange x1 x2 (s : State) : exec (.refreshRateChange x1 x2) s = execRefreshRateChange x1 x2 s := rfl
@[simp] theorem exec_coreRetirement x1 x2 (s : State) : exec (.coreRetirement x1 x2) s = execCoreRetirement x1 x2 s := rfl
@[simp] theorem exec_bondLaneRepair x1 x2 (s : State) : exec (.bondLaneRepair x1 x2) s = execBondLaneRepair x1 x2 s := rfl
@[simp] theorem exec_memoryReply x1 (s : State) : exec (.memoryReply x1) s = execMemoryReply x1 s := rfl
@[simp] theorem exec_cacheEviction x1 (s : State) : exec (.cacheEviction x1) s = execCacheEviction x1 s := rfl
@[simp] theorem exec_uncorrectableError x1 (s : State) : exec (.uncorrectableError x1) s = execUncorrectableError x1 s := rfl
@[simp] theorem exec_migration x1 x2 (s : State) : exec (.migration x1 x2) s = execMigration x1 x2 s := rfl
@[simp] theorem exec_portFence x1 (s : State) : exec (.portFence x1) s = execPortFence x1 s := rfl
@[simp] theorem exec_ideKeyProgramming x1 (s : State) : exec (.ideKeyProgramming x1) s = execIdeKeyProgramming x1 s := rfl

end Sys2Proof.Machine
end

