-- ==== Sys2Proof/Laws/NMap.lean ====
section
/-! SUPPORT. Laws of sparse tables: a read after a write, and the canonical form kept. -/

namespace Sys2Proof.Machine

variable {α : Type}

theorem tget_tput_same (m : NMap α) (d : α) (k : Nat) (x : α) : tget (tput m k x) d k = x := by
  induction m with
  | nil => simp [tput, tget]
  | cons p t ih =>
    obtain ⟨a, y⟩ := p
    unfold tput
    by_cases h1 : k < a
    · simp [h1, tget]
    · by_cases h2 : k = a
      · simp [h2, tget]
      · have : a ≠ k := fun e => h2 e.symm
        simp [h1, h2, tget, this, ih]

theorem tget_tput_other (m : NMap α) (d : α) (k j : Nat) (x : α) (h : j ≠ k) : tget (tput m k x) d j = tget m d j := by
  induction m with
  | nil => simp [tput, tget, h.symm]
  | cons p t ih =>
    obtain ⟨a, y⟩ := p
    unfold tput
    by_cases h1 : k < a
    · simp [h1, tget, h.symm]
    · by_cases h2 : k = a
      · subst h2; simp [tget, h.symm]
      · simp [h1, h2, tget, ih]

theorem tget_terase_other (m : NMap α) (d : α) (k j : Nat) (h : j ≠ k) : tget (terase m k) d j = tget m d j := by
  induction m with
  | nil => rfl
  | cons p t ih =>
    obtain ⟨a, y⟩ := p
    unfold terase
    by_cases h2 : a = k
    · have : a ≠ j := fun e => h (e.symm.trans h2)
      simp [h2, tget, ih, h.symm]
    · simp [h2, tget, ih]

theorem tget_terase_same (m : NMap α) (d : α) (k : Nat) : tget (terase m k) d k = d := by
  induction m with
  | nil => rfl
  | cons p t ih =>
    obtain ⟨a, y⟩ := p
    unfold terase
    by_cases h2 : a = k
    · simpa [h2] using ih
    · simp [h2, tget, ih]

/-- A write leaves every other key alone. -/
theorem tget_tset_other [DecidableEq α] (m : NMap α) (d : α) (k j : Nat) (x : α) (h : j ≠ k) :
    tget (tset m d k x) d j = tget m d j := by
  unfold tset; split
  · exact tget_terase_other m d k j h
  · exact tget_tput_other m d k j x h

/-- A read after a write at the same key gives what was written. -/
theorem tget_tset_same [DecidableEq α] (m : NMap α) (d : α) (k : Nat) (x : α) : tget (tset m d k x) d k = x := by
  unfold tset; split
  · next e => rw [e]; exact tget_terase_same m d k
  · exact tget_tput_same m d k x

/-- The canonical form holds from any lower bound. -/
theorem twf_mono [DecidableEq α] (d : α) (m : NMap α) (lo lo' : Nat) (h : lo' ≤ lo) (hw : twf d lo m = true) : twf d lo' m = true := by
  cases m with
  | nil => rfl
  | cons p t =>
    obtain ⟨a, y⟩ := p
    simp only [twf, Bool.and_eq_true, decide_eq_true_eq] at hw ⊢
    exact ⟨⟨by omega, hw.1.2⟩, hw.2⟩

theorem twf_terase [DecidableEq α] (d : α) (m : NMap α) (lo k : Nat) (hw : twf d lo m = true) : twf d lo (terase m k) = true := by
  induction m generalizing lo with
  | nil => rfl
  | cons p t ih =>
    obtain ⟨a, y⟩ := p
    simp only [twf, Bool.and_eq_true, decide_eq_true_eq] at hw
    unfold terase
    by_cases h2 : a = k
    · simpa [h2] using twf_mono d _ (a + 1) lo (by omega) (ih (a + 1) hw.2)
    · simp only [h2, if_false, twf, Bool.and_eq_true, decide_eq_true_eq]
      exact ⟨hw.1, ih (a + 1) hw.2⟩

theorem twf_tput [DecidableEq α] (d : α) (m : NMap α) (lo k : Nat) (x : α) (hx : x ≠ d) (hk : lo ≤ k) (hw : twf d lo m = true) :
    twf d lo (tput m k x) = true := by
  induction m generalizing lo with
  | nil => simp [tput, twf, hx, hk]
  | cons p t ih =>
    obtain ⟨a, y⟩ := p
    simp only [twf, Bool.and_eq_true, decide_eq_true_eq] at hw
    unfold tput
    by_cases h1 : k < a
    · have : k + 1 ≤ a := h1
      simp only [h1, if_true, twf, Bool.and_eq_true, decide_eq_true_eq]
      exact ⟨⟨hk, by simpa using hx⟩, ⟨this, hw.1.2⟩, hw.2⟩
    · by_cases h2 : k = a
      · subst h2
        simp only [h1, if_false, if_true, twf, Bool.and_eq_true, decide_eq_true_eq]
        exact ⟨⟨hk, by simpa using hx⟩, hw.2⟩
      · simp only [h1, h2, if_false, twf, Bool.and_eq_true, decide_eq_true_eq]
        exact ⟨hw.1, ih (a + 1) (by omega) hw.2⟩

/-- A write keeps the canonical form. -/
theorem twf_tset [DecidableEq α] (d : α) (m : NMap α) (k : Nat) (x : α) (hw : twf d 0 m = true) : twf d 0 (tset m d k x) = true := by
  unfold tset; split
  · exact twf_terase d m 0 k hw
  · next h => exact twf_tput d m 0 k x h (Nat.zero_le k) hw

theorem twf_filter [DecidableEq α] (d : α) (m : NMap α) (lo : Nat) (p : Nat × α → Bool) (hw : twf d lo m = true) :
    twf d lo (m.filter p) = true := by
  induction m generalizing lo with
  | nil => rfl
  | cons q t ih =>
    obtain ⟨a, y⟩ := q
    simp only [twf, Bool.and_eq_true, decide_eq_true_eq] at hw
    by_cases h : p (a, y) = true
    · simp only [List.filter_cons, h, if_true, twf, Bool.and_eq_true, decide_eq_true_eq]
      exact ⟨hw.1, ih (a + 1) hw.2⟩
    · simp only [List.filter_cons, h]
      exact twf_mono d _ (a + 1) lo (by omega) (ih (a + 1) hw.2)

end Sys2Proof.Machine
end

