-- ==== Sys2Proof/Laws/State.lean ====
section
/-! SUPPORT. One lemma per field per update of the state, so that no later proof unfolds a record update. -/

namespace Sys2Proof.Machine

@[simp] theorem modT_others (f : Thread → Thread) (s : State) : (modT f s).others = s.others := rfl
@[simp] theorem modT_cores (f : Thread → Thread) (s : State) : (modT f s).cores = s.cores := rfl
@[simp] theorem modT_setts (f : Thread → Thread) (s : State) : (modT f s).setts = s.setts := rfl
@[simp] theorem modT_mem (f : Thread → Thread) (s : State) : (modT f s).mem = s.mem := rfl
@[simp] theorem modT_written (f : Thread → Thread) (s : State) : (modT f s).written = s.written := rfl
@[simp] theorem modT_past (f : Thread → Thread) (s : State) : (modT f s).past = s.past := rfl
@[simp] theorem modT_walkTick (f : Thread → Thread) (s : State) : (modT f s).walkTick = s.walkTick := rfl
@[simp] theorem modT_gang (f : Thread → Thread) (s : State) : (modT f s).gang = s.gang := rfl
@[simp] theorem modT_plain (f : Thread → Thread) (s : State) : (modT f s).plain = s.plain := rfl
@[simp] theorem modT_poison (f : Thread → Thread) (s : State) : (modT f s).poison = s.poison := rfl
@[simp] theorem modT_packs (f : Thread → Thread) (s : State) : (modT f s).packs = s.packs := rfl
@[simp] theorem modT_packSeq (f : Thread → Thread) (s : State) : (modT f s).packSeq = s.packSeq := rfl
@[simp] theorem modT_pkg (f : Thread → Thread) (s : State) : (modT f s).pkg = s.pkg := rfl
@[simp] theorem modT_tick (f : Thread → Thread) (s : State) : (modT f s).tick = s.tick := rfl
@[simp] theorem modT_turns (f : Thread → Thread) (s : State) : (modT f s).turns = s.turns := rfl
@[simp] theorem modT_work (f : Thread → Thread) (s : State) : (modT f s).work = s.work := rfl
@[simp] theorem modT_cur (f : Thread → Thread) (s : State) : (modT f s).cur = f s.cur := rfl
@[simp] theorem modPkg_cur (f : Pkg → Pkg) (s : State) : (modPkg f s).cur = s.cur := rfl
@[simp] theorem modPkg_others (f : Pkg → Pkg) (s : State) : (modPkg f s).others = s.others := rfl
@[simp] theorem modPkg_cores (f : Pkg → Pkg) (s : State) : (modPkg f s).cores = s.cores := rfl
@[simp] theorem modPkg_setts (f : Pkg → Pkg) (s : State) : (modPkg f s).setts = s.setts := rfl
@[simp] theorem modPkg_mem (f : Pkg → Pkg) (s : State) : (modPkg f s).mem = s.mem := rfl
@[simp] theorem modPkg_written (f : Pkg → Pkg) (s : State) : (modPkg f s).written = s.written := rfl
@[simp] theorem modPkg_past (f : Pkg → Pkg) (s : State) : (modPkg f s).past = s.past := rfl
@[simp] theorem modPkg_walkTick (f : Pkg → Pkg) (s : State) : (modPkg f s).walkTick = s.walkTick := rfl
@[simp] theorem modPkg_gang (f : Pkg → Pkg) (s : State) : (modPkg f s).gang = s.gang := rfl
@[simp] theorem modPkg_plain (f : Pkg → Pkg) (s : State) : (modPkg f s).plain = s.plain := rfl
@[simp] theorem modPkg_poison (f : Pkg → Pkg) (s : State) : (modPkg f s).poison = s.poison := rfl
@[simp] theorem modPkg_packs (f : Pkg → Pkg) (s : State) : (modPkg f s).packs = s.packs := rfl
@[simp] theorem modPkg_packSeq (f : Pkg → Pkg) (s : State) : (modPkg f s).packSeq = s.packSeq := rfl
@[simp] theorem modPkg_tick (f : Pkg → Pkg) (s : State) : (modPkg f s).tick = s.tick := rfl
@[simp] theorem modPkg_turns (f : Pkg → Pkg) (s : State) : (modPkg f s).turns = s.turns := rfl
@[simp] theorem modPkg_work (f : Pkg → Pkg) (s : State) : (modPkg f s).work = s.work := rfl
@[simp] theorem modPkg_pkg (f : Pkg → Pkg) (s : State) : (modPkg f s).pkg = f s.pkg := rfl
@[simp] theorem setCore_cur (cid : Nat) (c : Core) (s : State) : (setCore cid c s).cur = s.cur := rfl
@[simp] theorem setCore_others (cid : Nat) (c : Core) (s : State) : (setCore cid c s).others = s.others := rfl
@[simp] theorem setCore_setts (cid : Nat) (c : Core) (s : State) : (setCore cid c s).setts = s.setts := rfl
@[simp] theorem setCore_mem (cid : Nat) (c : Core) (s : State) : (setCore cid c s).mem = s.mem := rfl
@[simp] theorem setCore_written (cid : Nat) (c : Core) (s : State) : (setCore cid c s).written = s.written := rfl
@[simp] theorem setCore_past (cid : Nat) (c : Core) (s : State) : (setCore cid c s).past = s.past := rfl
@[simp] theorem setCore_walkTick (cid : Nat) (c : Core) (s : State) : (setCore cid c s).walkTick = s.walkTick := rfl
@[simp] theorem setCore_gang (cid : Nat) (c : Core) (s : State) : (setCore cid c s).gang = s.gang := rfl
@[simp] theorem setCore_plain (cid : Nat) (c : Core) (s : State) : (setCore cid c s).plain = s.plain := rfl
@[simp] theorem setCore_poison (cid : Nat) (c : Core) (s : State) : (setCore cid c s).poison = s.poison := rfl
@[simp] theorem setCore_packs (cid : Nat) (c : Core) (s : State) : (setCore cid c s).packs = s.packs := rfl
@[simp] theorem setCore_packSeq (cid : Nat) (c : Core) (s : State) : (setCore cid c s).packSeq = s.packSeq := rfl
@[simp] theorem setCore_pkg (cid : Nat) (c : Core) (s : State) : (setCore cid c s).pkg = s.pkg := rfl
@[simp] theorem setCore_tick (cid : Nat) (c : Core) (s : State) : (setCore cid c s).tick = s.tick := rfl
@[simp] theorem setCore_turns (cid : Nat) (c : Core) (s : State) : (setCore cid c s).turns = s.turns := rfl
@[simp] theorem setCore_work (cid : Nat) (c : Core) (s : State) : (setCore cid c s).work = s.work := rfl
@[simp] theorem modCore_cur (cid : Nat) (f : Core → Core) (s : State) : (modCore cid f s).cur = s.cur := rfl
@[simp] theorem modCore_others (cid : Nat) (f : Core → Core) (s : State) : (modCore cid f s).others = s.others := rfl
@[simp] theorem modCore_setts (cid : Nat) (f : Core → Core) (s : State) : (modCore cid f s).setts = s.setts := rfl
@[simp] theorem modCore_mem (cid : Nat) (f : Core → Core) (s : State) : (modCore cid f s).mem = s.mem := rfl
@[simp] theorem modCore_written (cid : Nat) (f : Core → Core) (s : State) : (modCore cid f s).written = s.written := rfl
@[simp] theorem modCore_past (cid : Nat) (f : Core → Core) (s : State) : (modCore cid f s).past = s.past := rfl
@[simp] theorem modCore_walkTick (cid : Nat) (f : Core → Core) (s : State) : (modCore cid f s).walkTick = s.walkTick := rfl
@[simp] theorem modCore_gang (cid : Nat) (f : Core → Core) (s : State) : (modCore cid f s).gang = s.gang := rfl
@[simp] theorem modCore_plain (cid : Nat) (f : Core → Core) (s : State) : (modCore cid f s).plain = s.plain := rfl
@[simp] theorem modCore_poison (cid : Nat) (f : Core → Core) (s : State) : (modCore cid f s).poison = s.poison := rfl
@[simp] theorem modCore_packs (cid : Nat) (f : Core → Core) (s : State) : (modCore cid f s).packs = s.packs := rfl
@[simp] theorem modCore_packSeq (cid : Nat) (f : Core → Core) (s : State) : (modCore cid f s).packSeq = s.packSeq := rfl
@[simp] theorem modCore_pkg (cid : Nat) (f : Core → Core) (s : State) : (modCore cid f s).pkg = s.pkg := rfl
@[simp] theorem modCore_tick (cid : Nat) (f : Core → Core) (s : State) : (modCore cid f s).tick = s.tick := rfl
@[simp] theorem modCore_turns (cid : Nat) (f : Core → Core) (s : State) : (modCore cid f s).turns = s.turns := rfl
@[simp] theorem modCore_work (cid : Nat) (f : Core → Core) (s : State) : (modCore cid f s).work = s.work := rfl
@[simp] theorem addWork_cur (i : Instr) (s : State) : (addWork i s).cur = s.cur := rfl
@[simp] theorem addWork_others (i : Instr) (s : State) : (addWork i s).others = s.others := rfl
@[simp] theorem addWork_cores (i : Instr) (s : State) : (addWork i s).cores = s.cores := rfl
@[simp] theorem addWork_setts (i : Instr) (s : State) : (addWork i s).setts = s.setts := rfl
@[simp] theorem addWork_mem (i : Instr) (s : State) : (addWork i s).mem = s.mem := rfl
@[simp] theorem addWork_written (i : Instr) (s : State) : (addWork i s).written = s.written := rfl
@[simp] theorem addWork_past (i : Instr) (s : State) : (addWork i s).past = s.past := rfl
@[simp] theorem addWork_walkTick (i : Instr) (s : State) : (addWork i s).walkTick = s.walkTick := rfl
@[simp] theorem addWork_gang (i : Instr) (s : State) : (addWork i s).gang = s.gang := rfl
@[simp] theorem addWork_plain (i : Instr) (s : State) : (addWork i s).plain = s.plain := rfl
@[simp] theorem addWork_poison (i : Instr) (s : State) : (addWork i s).poison = s.poison := rfl
@[simp] theorem addWork_packs (i : Instr) (s : State) : (addWork i s).packs = s.packs := rfl
@[simp] theorem addWork_packSeq (i : Instr) (s : State) : (addWork i s).packSeq = s.packSeq := rfl
@[simp] theorem addWork_pkg (i : Instr) (s : State) : (addWork i s).pkg = s.pkg := rfl
@[simp] theorem addWork_tick (i : Instr) (s : State) : (addWork i s).tick = s.tick := rfl
@[simp] theorem addWork_turns (i : Instr) (s : State) : (addWork i s).turns = s.turns := rfl
@[simp] theorem bump_cur  (s : State) : (bump  s).cur = s.cur := rfl
@[simp] theorem bump_others  (s : State) : (bump  s).others = s.others := rfl
@[simp] theorem bump_cores  (s : State) : (bump  s).cores = s.cores := rfl
@[simp] theorem bump_setts  (s : State) : (bump  s).setts = s.setts := rfl
@[simp] theorem bump_mem  (s : State) : (bump  s).mem = s.mem := rfl
@[simp] theorem bump_written  (s : State) : (bump  s).written = s.written := rfl
@[simp] theorem bump_past  (s : State) : (bump  s).past = s.past := rfl
@[simp] theorem bump_walkTick  (s : State) : (bump  s).walkTick = s.walkTick := rfl
@[simp] theorem bump_gang  (s : State) : (bump  s).gang = s.gang := rfl
@[simp] theorem bump_plain  (s : State) : (bump  s).plain = s.plain := rfl
@[simp] theorem bump_poison  (s : State) : (bump  s).poison = s.poison := rfl
@[simp] theorem bump_packs  (s : State) : (bump  s).packs = s.packs := rfl
@[simp] theorem bump_packSeq  (s : State) : (bump  s).packSeq = s.packSeq := rfl
@[simp] theorem bump_pkg  (s : State) : (bump  s).pkg = s.pkg := rfl
@[simp] theorem bump_turns  (s : State) : (bump  s).turns = s.turns := rfl
@[simp] theorem bump_work  (s : State) : (bump  s).work = s.work := rfl
@[simp] theorem modSett_cur (k : Nat) (g : Sett → Sett) (s : State) : (modSett k g s).cur = s.cur := by unfold modSett; split <;> rfl
@[simp] theorem modSett_others (k : Nat) (g : Sett → Sett) (s : State) : (modSett k g s).others = s.others := by unfold modSett; split <;> rfl
@[simp] theorem modSett_cores (k : Nat) (g : Sett → Sett) (s : State) : (modSett k g s).cores = s.cores := by unfold modSett; split <;> rfl
@[simp] theorem modSett_mem (k : Nat) (g : Sett → Sett) (s : State) : (modSett k g s).mem = s.mem := by unfold modSett; split <;> rfl
@[simp] theorem modSett_written (k : Nat) (g : Sett → Sett) (s : State) : (modSett k g s).written = s.written := by unfold modSett; split <;> rfl
@[simp] theorem modSett_past (k : Nat) (g : Sett → Sett) (s : State) : (modSett k g s).past = s.past := by unfold modSett; split <;> rfl
@[simp] theorem modSett_walkTick (k : Nat) (g : Sett → Sett) (s : State) : (modSett k g s).walkTick = s.walkTick := by unfold modSett; split <;> rfl
@[simp] theorem modSett_gang (k : Nat) (g : Sett → Sett) (s : State) : (modSett k g s).gang = s.gang := by unfold modSett; split <;> rfl
@[simp] theorem modSett_plain (k : Nat) (g : Sett → Sett) (s : State) : (modSett k g s).plain = s.plain := by unfold modSett; split <;> rfl
@[simp] theorem modSett_poison (k : Nat) (g : Sett → Sett) (s : State) : (modSett k g s).poison = s.poison := by unfold modSett; split <;> rfl
@[simp] theorem modSett_packs (k : Nat) (g : Sett → Sett) (s : State) : (modSett k g s).packs = s.packs := by unfold modSett; split <;> rfl
@[simp] theorem modSett_packSeq (k : Nat) (g : Sett → Sett) (s : State) : (modSett k g s).packSeq = s.packSeq := by unfold modSett; split <;> rfl
@[simp] theorem modSett_pkg (k : Nat) (g : Sett → Sett) (s : State) : (modSett k g s).pkg = s.pkg := by unfold modSett; split <;> rfl
@[simp] theorem modSett_tick (k : Nat) (g : Sett → Sett) (s : State) : (modSett k g s).tick = s.tick := by unfold modSett; split <;> rfl
@[simp] theorem modSett_turns (k : Nat) (g : Sett → Sett) (s : State) : (modSett k g s).turns = s.turns := by unfold modSett; split <;> rfl
@[simp] theorem modSett_work (k : Nat) (g : Sett → Sett) (s : State) : (modSett k g s).work = s.work := by unfold modSett; split <;> rfl
@[simp] theorem putByte_cur (l : Loc) (b : Byte) (s : State) : (putByte l b s).cur = s.cur := by cases l <;> rfl
@[simp] theorem putByte_others (l : Loc) (b : Byte) (s : State) : (putByte l b s).others = s.others := by cases l <;> rfl
@[simp] theorem putByte_setts (l : Loc) (b : Byte) (s : State) : (putByte l b s).setts = s.setts := by cases l <;> rfl
@[simp] theorem putByte_past (l : Loc) (b : Byte) (s : State) : (putByte l b s).past = s.past := by cases l <;> rfl
@[simp] theorem putByte_walkTick (l : Loc) (b : Byte) (s : State) : (putByte l b s).walkTick = s.walkTick := by cases l <;> rfl
@[simp] theorem putByte_gang (l : Loc) (b : Byte) (s : State) : (putByte l b s).gang = s.gang := by cases l <;> rfl
@[simp] theorem putByte_plain (l : Loc) (b : Byte) (s : State) : (putByte l b s).plain = s.plain := by cases l <;> rfl
@[simp] theorem putByte_poison (l : Loc) (b : Byte) (s : State) : (putByte l b s).poison = s.poison := by cases l <;> rfl
@[simp] theorem putByte_packs (l : Loc) (b : Byte) (s : State) : (putByte l b s).packs = s.packs := by cases l <;> rfl
@[simp] theorem putByte_packSeq (l : Loc) (b : Byte) (s : State) : (putByte l b s).packSeq = s.packSeq := by cases l <;> rfl
@[simp] theorem putByte_pkg (l : Loc) (b : Byte) (s : State) : (putByte l b s).pkg = s.pkg := by cases l <;> rfl
@[simp] theorem putByte_tick (l : Loc) (b : Byte) (s : State) : (putByte l b s).tick = s.tick := by cases l <;> rfl
@[simp] theorem putByte_turns (l : Loc) (b : Byte) (s : State) : (putByte l b s).turns = s.turns := by cases l <;> rfl
@[simp] theorem putByte_work (l : Loc) (b : Byte) (s : State) : (putByte l b s).work = s.work := by cases l <;> rfl
@[simp] theorem modC_live (g : Ctl → Ctl) (t : Thread) : (modC g t).live = t.live := rfl
@[simp] theorem modC_frame (g : Ctl → Ctl) (t : Thread) : (modC g t).frame = t.frame := rfl
@[simp] theorem modC_pool (g : Ctl → Ctl) (t : Thread) : (modC g t).pool = t.pool := rfl
@[simp] theorem modC_pack (g : Ctl → Ctl) (t : Thread) : (modC g t).pack = t.pack := rfl
@[simp] theorem modC_index (g : Ctl → Ctl) (t : Thread) : (modC g t).index = t.index := rfl
@[simp] theorem modC_sett (g : Ctl → Ctl) (t : Thread) : (modC g t).sett = t.sett := rfl
@[simp] theorem modC_core (g : Ctl → Ctl) (t : Thread) : (modC g t).core = t.core := rfl
@[simp] theorem modC_ctx (g : Ctl → Ctl) (t : Thread) : (modC g t).ctx = t.ctx := rfl
@[simp] theorem modC_s (g : Ctl → Ctl) (t : Thread) : (modC g t).s = t.s := rfl
@[simp] theorem modC_v (g : Ctl → Ctl) (t : Thread) : (modC g t).v = t.v := rfl
@[simp] theorem modC_k (g : Ctl → Ctl) (t : Thread) : (modC g t).k = t.k := rfl
@[simp] theorem modC_h (g : Ctl → Ctl) (t : Thread) : (modC g t).h = t.h := rfl
@[simp] theorem modC_sf (g : Ctl → Ctl) (t : Thread) : (modC g t).sf = t.sf := rfl
@[simp] theorem modC_o (g : Ctl → Ctl) (t : Thread) : (modC g t).o = t.o := rfl
@[simp] theorem modC_map (g : Ctl → Ctl) (t : Thread) : (modC g t).map = t.map := rfl
@[simp] theorem modC_lkind (g : Ctl → Ctl) (t : Thread) : (modC g t).lkind = t.lkind := rfl
@[simp] theorem modC_pc (g : Ctl → Ctl) (t : Thread) : (modC g t).pc = t.pc := rfl
@[simp] theorem modC_pend (g : Ctl → Ctl) (t : Thread) : (modC g t).pend = t.pend := rfl
@[simp] theorem modC_chain (g : Ctl → Ctl) (t : Thread) : (modC g t).chain = t.chain := rfl
@[simp] theorem modC_barCount (g : Ctl → Ctl) (t : Thread) : (modC g t).barCount = t.barCount := rfl
@[simp] theorem modC_barWait (g : Ctl → Ctl) (t : Thread) : (modC g t).barWait = t.barWait := rfl
@[simp] theorem modC_fols (g : Ctl → Ctl) (t : Thread) : (modC g t).fols = t.fols := rfl
@[simp] theorem modC_folBad (g : Ctl → Ctl) (t : Thread) : (modC g t).folBad = t.folBad := rfl
@[simp] theorem modC_seq (g : Ctl → Ctl) (t : Thread) : (modC g t).seq = t.seq := rfl
@[simp] theorem modC_issued (g : Ctl → Ctl) (t : Thread) : (modC g t).issued = t.issued := rfl
@[simp] theorem modC_vheld (g : Ctl → Ctl) (t : Thread) : (modC g t).vheld = t.vheld := rfl
@[simp] theorem modC_kheld (g : Ctl → Ctl) (t : Thread) : (modC g t).kheld = t.kheld := rfl
@[simp] theorem modC_vbad (g : Ctl → Ctl) (t : Thread) : (modC g t).vbad = t.vbad := rfl
@[simp] theorem modC_kbad (g : Ctl → Ctl) (t : Thread) : (modC g t).kbad = t.kbad := rfl
@[simp] theorem modC_wait (g : Ctl → Ctl) (t : Thread) : (modC g t).wait = t.wait := rfl
@[simp] theorem modC_spawned (g : Ctl → Ctl) (t : Thread) : (modC g t).spawned = t.spawned := rfl
@[simp] theorem modC_grp (g : Ctl → Ctl) (t : Thread) : (modC g t).grp = t.grp := rfl
@[simp] theorem modC_elim (g : Ctl → Ctl) (t : Thread) : (modC g t).elim = t.elim := rfl
@[simp] theorem modC_cut (g : Ctl → Ctl) (t : Thread) : (modC g t).cut = t.cut := rfl
@[simp] theorem modC_touched (g : Ctl → Ctl) (t : Thread) : (modC g t).touched = t.touched := rfl
@[simp] theorem modC_stepDue (g : Ctl → Ctl) (t : Thread) : (modC g t).stepDue = t.stepDue := rfl
@[simp] theorem modC_brkSkip (g : Ctl → Ctl) (t : Thread) : (modC g t).brkSkip = t.brkSkip := rfl
@[simp] theorem modC_logged (g : Ctl → Ctl) (t : Thread) : (modC g t).logged = t.logged := rfl
@[simp] theorem modC_parking (g : Ctl → Ctl) (t : Thread) : (modC g t).parking = t.parking := rfl
@[simp] theorem modC_trapped (g : Ctl → Ctl) (t : Thread) : (modC g t).trapped = t.trapped := rfl
@[simp] theorem modC_sent (g : Ctl → Ctl) (t : Thread) : (modC g t).sent = t.sent := rfl
@[simp] theorem modC_begun (g : Ctl → Ctl) (t : Thread) : (modC g t).begun = t.begun := rfl
@[simp] theorem modC_ctl (g : Ctl → Ctl) (t : Thread) : (modC g t).ctl = g t.ctl := rfl
@[simp] theorem setS_live (d : SReg) (x : Word) (t : Thread) : (setS d x t).live = t.live := by unfold setS; split <;> rfl
@[simp] theorem setS_frame (d : SReg) (x : Word) (t : Thread) : (setS d x t).frame = t.frame := by unfold setS; split <;> rfl
@[simp] theorem setS_pool (d : SReg) (x : Word) (t : Thread) : (setS d x t).pool = t.pool := by unfold setS; split <;> rfl
@[simp] theorem setS_pack (d : SReg) (x : Word) (t : Thread) : (setS d x t).pack = t.pack := by unfold setS; split <;> rfl
@[simp] theorem setS_index (d : SReg) (x : Word) (t : Thread) : (setS d x t).index = t.index := by unfold setS; split <;> rfl
@[simp] theorem setS_sett (d : SReg) (x : Word) (t : Thread) : (setS d x t).sett = t.sett := by unfold setS; split <;> rfl
@[simp] theorem setS_core (d : SReg) (x : Word) (t : Thread) : (setS d x t).core = t.core := by unfold setS; split <;> rfl
@[simp] theorem setS_ctx (d : SReg) (x : Word) (t : Thread) : (setS d x t).ctx = t.ctx := by unfold setS; split <;> rfl
@[simp] theorem setS_v (d : SReg) (x : Word) (t : Thread) : (setS d x t).v = t.v := by unfold setS; split <;> rfl
@[simp] theorem setS_k (d : SReg) (x : Word) (t : Thread) : (setS d x t).k = t.k := by unfold setS; split <;> rfl
@[simp] theorem setS_h (d : SReg) (x : Word) (t : Thread) : (setS d x t).h = t.h := by unfold setS; split <;> rfl
@[simp] theorem setS_sf (d : SReg) (x : Word) (t : Thread) : (setS d x t).sf = t.sf := by unfold setS; split <;> rfl
@[simp] theorem setS_o (d : SReg) (x : Word) (t : Thread) : (setS d x t).o = t.o := by unfold setS; split <;> rfl
@[simp] theorem setS_map (d : SReg) (x : Word) (t : Thread) : (setS d x t).map = t.map := by unfold setS; split <;> rfl
@[simp] theorem setS_ctl (d : SReg) (x : Word) (t : Thread) : (setS d x t).ctl = t.ctl := by unfold setS; split <;> rfl
@[simp] theorem setS_lkind (d : SReg) (x : Word) (t : Thread) : (setS d x t).lkind = t.lkind := by unfold setS; split <;> rfl
@[simp] theorem setS_pc (d : SReg) (x : Word) (t : Thread) : (setS d x t).pc = t.pc := by unfold setS; split <;> rfl
@[simp] theorem setS_chain (d : SReg) (x : Word) (t : Thread) : (setS d x t).chain = t.chain := by unfold setS; split <;> rfl
@[simp] theorem setS_barCount (d : SReg) (x : Word) (t : Thread) : (setS d x t).barCount = t.barCount := by unfold setS; split <;> rfl
@[simp] theorem setS_barWait (d : SReg) (x : Word) (t : Thread) : (setS d x t).barWait = t.barWait := by unfold setS; split <;> rfl
@[simp] theorem setS_fols (d : SReg) (x : Word) (t : Thread) : (setS d x t).fols = t.fols := by unfold setS; split <;> rfl
@[simp] theorem setS_folBad (d : SReg) (x : Word) (t : Thread) : (setS d x t).folBad = t.folBad := by unfold setS; split <;> rfl
@[simp] theorem setS_seq (d : SReg) (x : Word) (t : Thread) : (setS d x t).seq = t.seq := by unfold setS; split <;> rfl
@[simp] theorem setS_issued (d : SReg) (x : Word) (t : Thread) : (setS d x t).issued = t.issued := by unfold setS; split <;> rfl
@[simp] theorem setS_vheld (d : SReg) (x : Word) (t : Thread) : (setS d x t).vheld = t.vheld := by unfold setS; split <;> rfl
@[simp] theorem setS_kheld (d : SReg) (x : Word) (t : Thread) : (setS d x t).kheld = t.kheld := by unfold setS; split <;> rfl
@[simp] theorem setS_vbad (d : SReg) (x : Word) (t : Thread) : (setS d x t).vbad = t.vbad := by unfold setS; split <;> rfl
@[simp] theorem setS_kbad (d : SReg) (x : Word) (t : Thread) : (setS d x t).kbad = t.kbad := by unfold setS; split <;> rfl
@[simp] theorem setS_wait (d : SReg) (x : Word) (t : Thread) : (setS d x t).wait = t.wait := by unfold setS; split <;> rfl
@[simp] theorem setS_spawned (d : SReg) (x : Word) (t : Thread) : (setS d x t).spawned = t.spawned := by unfold setS; split <;> rfl
@[simp] theorem setS_grp (d : SReg) (x : Word) (t : Thread) : (setS d x t).grp = t.grp := by unfold setS; split <;> rfl
@[simp] theorem setS_elim (d : SReg) (x : Word) (t : Thread) : (setS d x t).elim = t.elim := by unfold setS; split <;> rfl
@[simp] theorem setS_cut (d : SReg) (x : Word) (t : Thread) : (setS d x t).cut = t.cut := by unfold setS; split <;> rfl
@[simp] theorem setS_touched (d : SReg) (x : Word) (t : Thread) : (setS d x t).touched = t.touched := by unfold setS; split <;> rfl
@[simp] theorem setS_stepDue (d : SReg) (x : Word) (t : Thread) : (setS d x t).stepDue = t.stepDue := by unfold setS; split <;> rfl
@[simp] theorem setS_brkSkip (d : SReg) (x : Word) (t : Thread) : (setS d x t).brkSkip = t.brkSkip := by unfold setS; split <;> rfl
@[simp] theorem setS_logged (d : SReg) (x : Word) (t : Thread) : (setS d x t).logged = t.logged := by unfold setS; split <;> rfl
@[simp] theorem setS_parking (d : SReg) (x : Word) (t : Thread) : (setS d x t).parking = t.parking := by unfold setS; split <;> rfl
@[simp] theorem setS_trapped (d : SReg) (x : Word) (t : Thread) : (setS d x t).trapped = t.trapped := by unfold setS; split <;> rfl
@[simp] theorem setS_sent (d : SReg) (x : Word) (t : Thread) : (setS d x t).sent = t.sent := by unfold setS; split <;> rfl
@[simp] theorem setS_begun (d : SReg) (x : Word) (t : Thread) : (setS d x t).begun = t.begun := by unfold setS; split <;> rfl
@[simp] theorem setS4_live (w : Nat) (d : SReg) (x : Word) (t : Thread) : (setS4 w d x t).live = t.live := by unfold setS4; split <;> rfl
@[simp] theorem setS4_frame (w : Nat) (d : SReg) (x : Word) (t : Thread) : (setS4 w d x t).frame = t.frame := by unfold setS4; split <;> rfl
@[simp] theorem setS4_pool (w : Nat) (d : SReg) (x : Word) (t : Thread) : (setS4 w d x t).pool = t.pool := by unfold setS4; split <;> rfl
@[simp] theorem setS4_pack (w : Nat) (d : SReg) (x : Word) (t : Thread) : (setS4 w d x t).pack = t.pack := by unfold setS4; split <;> rfl
@[simp] theorem setS4_index (w : Nat) (d : SReg) (x : Word) (t : Thread) : (setS4 w d x t).index = t.index := by unfold setS4; split <;> rfl
@[simp] theorem setS4_sett (w : Nat) (d : SReg) (x : Word) (t : Thread) : (setS4 w d x t).sett = t.sett := by unfold setS4; split <;> rfl
@[simp] theorem setS4_core (w : Nat) (d : SReg) (x : Word) (t : Thread) : (setS4 w d x t).core = t.core := by unfold setS4; split <;> rfl
@[simp] theorem setS4_ctx (w : Nat) (d : SReg) (x : Word) (t : Thread) : (setS4 w d x t).ctx = t.ctx := by unfold setS4; split <;> rfl
@[simp] theorem setS4_v (w : Nat) (d : SReg) (x : Word) (t : Thread) : (setS4 w d x t).v = t.v := by unfold setS4; split <;> rfl
@[simp] theorem setS4_k (w : Nat) (d : SReg) (x : Word) (t : Thread) : (setS4 w d x t).k = t.k := by unfold setS4; split <;> rfl
@[simp] theorem setS4_h (w : Nat) (d : SReg) (x : Word) (t : Thread) : (setS4 w d x t).h = t.h := by unfold setS4; split <;> rfl
@[simp] theorem setS4_sf (w : Nat) (d : SReg) (x : Word) (t : Thread) : (setS4 w d x t).sf = t.sf := by unfold setS4; split <;> rfl
@[simp] theorem setS4_o (w : Nat) (d : SReg) (x : Word) (t : Thread) : (setS4 w d x t).o = t.o := by unfold setS4; split <;> rfl
@[simp] theorem setS4_map (w : Nat) (d : SReg) (x : Word) (t : Thread) : (setS4 w d x t).map = t.map := by unfold setS4; split <;> rfl
@[simp] theorem setS4_ctl (w : Nat) (d : SReg) (x : Word) (t : Thread) : (setS4 w d x t).ctl = t.ctl := by unfold setS4; split <;> rfl
@[simp] theorem setS4_lkind (w : Nat) (d : SReg) (x : Word) (t : Thread) : (setS4 w d x t).lkind = t.lkind := by unfold setS4; split <;> rfl
@[simp] theorem setS4_pc (w : Nat) (d : SReg) (x : Word) (t : Thread) : (setS4 w d x t).pc = t.pc := by unfold setS4; split <;> rfl
@[simp] theorem setS4_chain (w : Nat) (d : SReg) (x : Word) (t : Thread) : (setS4 w d x t).chain = t.chain := by unfold setS4; split <;> rfl
@[simp] theorem setS4_barCount (w : Nat) (d : SReg) (x : Word) (t : Thread) : (setS4 w d x t).barCount = t.barCount := by unfold setS4; split <;> rfl
@[simp] theorem setS4_barWait (w : Nat) (d : SReg) (x : Word) (t : Thread) : (setS4 w d x t).barWait = t.barWait := by unfold setS4; split <;> rfl
@[simp] theorem setS4_fols (w : Nat) (d : SReg) (x : Word) (t : Thread) : (setS4 w d x t).fols = t.fols := by unfold setS4; split <;> rfl
@[simp] theorem setS4_folBad (w : Nat) (d : SReg) (x : Word) (t : Thread) : (setS4 w d x t).folBad = t.folBad := by unfold setS4; split <;> rfl
@[simp] theorem setS4_seq (w : Nat) (d : SReg) (x : Word) (t : Thread) : (setS4 w d x t).seq = t.seq := by unfold setS4; split <;> rfl
@[simp] theorem setS4_issued (w : Nat) (d : SReg) (x : Word) (t : Thread) : (setS4 w d x t).issued = t.issued := by unfold setS4; split <;> rfl
@[simp] theorem setS4_vheld (w : Nat) (d : SReg) (x : Word) (t : Thread) : (setS4 w d x t).vheld = t.vheld := by unfold setS4; split <;> rfl
@[simp] theorem setS4_kheld (w : Nat) (d : SReg) (x : Word) (t : Thread) : (setS4 w d x t).kheld = t.kheld := by unfold setS4; split <;> rfl
@[simp] theorem setS4_vbad (w : Nat) (d : SReg) (x : Word) (t : Thread) : (setS4 w d x t).vbad = t.vbad := by unfold setS4; split <;> rfl
@[simp] theorem setS4_kbad (w : Nat) (d : SReg) (x : Word) (t : Thread) : (setS4 w d x t).kbad = t.kbad := by unfold setS4; split <;> rfl
@[simp] theorem setS4_wait (w : Nat) (d : SReg) (x : Word) (t : Thread) : (setS4 w d x t).wait = t.wait := by unfold setS4; split <;> rfl
@[simp] theorem setS4_spawned (w : Nat) (d : SReg) (x : Word) (t : Thread) : (setS4 w d x t).spawned = t.spawned := by unfold setS4; split <;> rfl
@[simp] theorem setS4_grp (w : Nat) (d : SReg) (x : Word) (t : Thread) : (setS4 w d x t).grp = t.grp := by unfold setS4; split <;> rfl
@[simp] theorem setS4_elim (w : Nat) (d : SReg) (x : Word) (t : Thread) : (setS4 w d x t).elim = t.elim := by unfold setS4; split <;> rfl
@[simp] theorem setS4_cut (w : Nat) (d : SReg) (x : Word) (t : Thread) : (setS4 w d x t).cut = t.cut := by unfold setS4; split <;> rfl
@[simp] theorem setS4_touched (w : Nat) (d : SReg) (x : Word) (t : Thread) : (setS4 w d x t).touched = t.touched := by unfold setS4; split <;> rfl
@[simp] theorem setS4_stepDue (w : Nat) (d : SReg) (x : Word) (t : Thread) : (setS4 w d x t).stepDue = t.stepDue := by unfold setS4; split <;> rfl
@[simp] theorem setS4_brkSkip (w : Nat) (d : SReg) (x : Word) (t : Thread) : (setS4 w d x t).brkSkip = t.brkSkip := by unfold setS4; split <;> rfl
@[simp] theorem setS4_logged (w : Nat) (d : SReg) (x : Word) (t : Thread) : (setS4 w d x t).logged = t.logged := by unfold setS4; split <;> rfl
@[simp] theorem setS4_parking (w : Nat) (d : SReg) (x : Word) (t : Thread) : (setS4 w d x t).parking = t.parking := by unfold setS4; split <;> rfl
@[simp] theorem setS4_trapped (w : Nat) (d : SReg) (x : Word) (t : Thread) : (setS4 w d x t).trapped = t.trapped := by unfold setS4; split <;> rfl
@[simp] theorem setS4_sent (w : Nat) (d : SReg) (x : Word) (t : Thread) : (setS4 w d x t).sent = t.sent := by unfold setS4; split <;> rfl
@[simp] theorem setS4_begun (w : Nat) (d : SReg) (x : Word) (t : Thread) : (setS4 w d x t).begun = t.begun := by unfold setS4; split <;> rfl
@[simp] theorem setK_live (d : KReg) (x : KBits) (t : Thread) : (setK d x t).live = t.live := by unfold setK; split <;> rfl
@[simp] theorem setK_frame (d : KReg) (x : KBits) (t : Thread) : (setK d x t).frame = t.frame := by unfold setK; split <;> rfl
@[simp] theorem setK_pool (d : KReg) (x : KBits) (t : Thread) : (setK d x t).pool = t.pool := by unfold setK; split <;> rfl
@[simp] theorem setK_pack (d : KReg) (x : KBits) (t : Thread) : (setK d x t).pack = t.pack := by unfold setK; split <;> rfl
@[simp] theorem setK_index (d : KReg) (x : KBits) (t : Thread) : (setK d x t).index = t.index := by unfold setK; split <;> rfl
@[simp] theorem setK_sett (d : KReg) (x : KBits) (t : Thread) : (setK d x t).sett = t.sett := by unfold setK; split <;> rfl
@[simp] theorem setK_core (d : KReg) (x : KBits) (t : Thread) : (setK d x t).core = t.core := by unfold setK; split <;> rfl
@[simp] theorem setK_ctx (d : KReg) (x : KBits) (t : Thread) : (setK d x t).ctx = t.ctx := by unfold setK; split <;> rfl
@[simp] theorem setK_s (d : KReg) (x : KBits) (t : Thread) : (setK d x t).s = t.s := by unfold setK; split <;> rfl
@[simp] theorem setK_v (d : KReg) (x : KBits) (t : Thread) : (setK d x t).v = t.v := by unfold setK; split <;> rfl
@[simp] theorem setK_h (d : KReg) (x : KBits) (t : Thread) : (setK d x t).h = t.h := by unfold setK; split <;> rfl
@[simp] theorem setK_sf (d : KReg) (x : KBits) (t : Thread) : (setK d x t).sf = t.sf := by unfold setK; split <;> rfl
@[simp] theorem setK_o (d : KReg) (x : KBits) (t : Thread) : (setK d x t).o = t.o := by unfold setK; split <;> rfl
@[simp] theorem setK_map (d : KReg) (x : KBits) (t : Thread) : (setK d x t).map = t.map := by unfold setK; split <;> rfl
@[simp] theorem setK_ctl (d : KReg) (x : KBits) (t : Thread) : (setK d x t).ctl = t.ctl := by unfold setK; split <;> rfl
@[simp] theorem setK_lkind (d : KReg) (x : KBits) (t : Thread) : (setK d x t).lkind = t.lkind := by unfold setK; split <;> rfl
@[simp] theorem setK_pc (d : KReg) (x : KBits) (t : Thread) : (setK d x t).pc = t.pc := by unfold setK; split <;> rfl
@[simp] theorem setK_pend (d : KReg) (x : KBits) (t : Thread) : (setK d x t).pend = t.pend := by unfold setK; split <;> rfl
@[simp] theorem setK_chain (d : KReg) (x : KBits) (t : Thread) : (setK d x t).chain = t.chain := by unfold setK; split <;> rfl
@[simp] theorem setK_barCount (d : KReg) (x : KBits) (t : Thread) : (setK d x t).barCount = t.barCount := by unfold setK; split <;> rfl
@[simp] theorem setK_barWait (d : KReg) (x : KBits) (t : Thread) : (setK d x t).barWait = t.barWait := by unfold setK; split <;> rfl
@[simp] theorem setK_fols (d : KReg) (x : KBits) (t : Thread) : (setK d x t).fols = t.fols := by unfold setK; split <;> rfl
@[simp] theorem setK_folBad (d : KReg) (x : KBits) (t : Thread) : (setK d x t).folBad = t.folBad := by unfold setK; split <;> rfl
@[simp] theorem setK_seq (d : KReg) (x : KBits) (t : Thread) : (setK d x t).seq = t.seq := by unfold setK; split <;> rfl
@[simp] theorem setK_issued (d : KReg) (x : KBits) (t : Thread) : (setK d x t).issued = t.issued := by unfold setK; split <;> rfl
@[simp] theorem setK_vheld (d : KReg) (x : KBits) (t : Thread) : (setK d x t).vheld = t.vheld := by unfold setK; split <;> rfl
@[simp] theorem setK_vbad (d : KReg) (x : KBits) (t : Thread) : (setK d x t).vbad = t.vbad := by unfold setK; split <;> rfl
@[simp] theorem setK_kbad (d : KReg) (x : KBits) (t : Thread) : (setK d x t).kbad = t.kbad := by unfold setK; split <;> rfl
@[simp] theorem setK_wait (d : KReg) (x : KBits) (t : Thread) : (setK d x t).wait = t.wait := by unfold setK; split <;> rfl
@[simp] theorem setK_spawned (d : KReg) (x : KBits) (t : Thread) : (setK d x t).spawned = t.spawned := by unfold setK; split <;> rfl
@[simp] theorem setK_grp (d : KReg) (x : KBits) (t : Thread) : (setK d x t).grp = t.grp := by unfold setK; split <;> rfl
@[simp] theorem setK_elim (d : KReg) (x : KBits) (t : Thread) : (setK d x t).elim = t.elim := by unfold setK; split <;> rfl
@[simp] theorem setK_cut (d : KReg) (x : KBits) (t : Thread) : (setK d x t).cut = t.cut := by unfold setK; split <;> rfl
@[simp] theorem setK_touched (d : KReg) (x : KBits) (t : Thread) : (setK d x t).touched = t.touched := by unfold setK; split <;> rfl
@[simp] theorem setK_stepDue (d : KReg) (x : KBits) (t : Thread) : (setK d x t).stepDue = t.stepDue := by unfold setK; split <;> rfl
@[simp] theorem setK_brkSkip (d : KReg) (x : KBits) (t : Thread) : (setK d x t).brkSkip = t.brkSkip := by unfold setK; split <;> rfl
@[simp] theorem setK_logged (d : KReg) (x : KBits) (t : Thread) : (setK d x t).logged = t.logged := by unfold setK; split <;> rfl
@[simp] theorem setK_parking (d : KReg) (x : KBits) (t : Thread) : (setK d x t).parking = t.parking := by unfold setK; split <;> rfl
@[simp] theorem setK_trapped (d : KReg) (x : KBits) (t : Thread) : (setK d x t).trapped = t.trapped := by unfold setK; split <;> rfl
@[simp] theorem setK_sent (d : KReg) (x : KBits) (t : Thread) : (setK d x t).sent = t.sent := by unfold setK; split <;> rfl
@[simp] theorem setK_begun (d : KReg) (x : KBits) (t : Thread) : (setK d x t).begun = t.begun := by unfold setK; split <;> rfl
@[simp] theorem setV_live (d : VReg) (x : VBits) (t : Thread) : (setV d x t).live = t.live := rfl
@[simp] theorem setV_frame (d : VReg) (x : VBits) (t : Thread) : (setV d x t).frame = t.frame := rfl
@[simp] theorem setV_pool (d : VReg) (x : VBits) (t : Thread) : (setV d x t).pool = t.pool := rfl
@[simp] theorem setV_pack (d : VReg) (x : VBits) (t : Thread) : (setV d x t).pack = t.pack := rfl
@[simp] theorem setV_index (d : VReg) (x : VBits) (t : Thread) : (setV d x t).index = t.index := rfl
@[simp] theorem setV_sett (d : VReg) (x : VBits) (t : Thread) : (setV d x t).sett = t.sett := rfl
@[simp] theorem setV_core (d : VReg) (x : VBits) (t : Thread) : (setV d x t).core = t.core := rfl
@[simp] theorem setV_ctx (d : VReg) (x : VBits) (t : Thread) : (setV d x t).ctx = t.ctx := rfl
@[simp] theorem setV_s (d : VReg) (x : VBits) (t : Thread) : (setV d x t).s = t.s := rfl
@[simp] theorem setV_k (d : VReg) (x : VBits) (t : Thread) : (setV d x t).k = t.k := rfl
@[simp] theorem setV_h (d : VReg) (x : VBits) (t : Thread) : (setV d x t).h = t.h := rfl
@[simp] theorem setV_sf (d : VReg) (x : VBits) (t : Thread) : (setV d x t).sf = t.sf := rfl
@[simp] theorem setV_o (d : VReg) (x : VBits) (t : Thread) : (setV d x t).o = t.o := rfl
@[simp] theorem setV_map (d : VReg) (x : VBits) (t : Thread) : (setV d x t).map = t.map := rfl
@[simp] theorem setV_ctl (d : VReg) (x : VBits) (t : Thread) : (setV d x t).ctl = t.ctl := rfl
@[simp] theorem setV_lkind (d : VReg) (x : VBits) (t : Thread) : (setV d x t).lkind = t.lkind := rfl
@[simp] theorem setV_pc (d : VReg) (x : VBits) (t : Thread) : (setV d x t).pc = t.pc := rfl
@[simp] theorem setV_pend (d : VReg) (x : VBits) (t : Thread) : (setV d x t).pend = t.pend := rfl
@[simp] theorem setV_chain (d : VReg) (x : VBits) (t : Thread) : (setV d x t).chain = t.chain := rfl
@[simp] theorem setV_barCount (d : VReg) (x : VBits) (t : Thread) : (setV d x t).barCount = t.barCount := rfl
@[simp] theorem setV_barWait (d : VReg) (x : VBits) (t : Thread) : (setV d x t).barWait = t.barWait := rfl
@[simp] theorem setV_fols (d : VReg) (x : VBits) (t : Thread) : (setV d x t).fols = t.fols := rfl
@[simp] theorem setV_folBad (d : VReg) (x : VBits) (t : Thread) : (setV d x t).folBad = t.folBad := rfl
@[simp] theorem setV_seq (d : VReg) (x : VBits) (t : Thread) : (setV d x t).seq = t.seq := rfl
@[simp] theorem setV_issued (d : VReg) (x : VBits) (t : Thread) : (setV d x t).issued = t.issued := rfl
@[simp] theorem setV_kheld (d : VReg) (x : VBits) (t : Thread) : (setV d x t).kheld = t.kheld := rfl
@[simp] theorem setV_vbad (d : VReg) (x : VBits) (t : Thread) : (setV d x t).vbad = t.vbad := rfl
@[simp] theorem setV_kbad (d : VReg) (x : VBits) (t : Thread) : (setV d x t).kbad = t.kbad := rfl
@[simp] theorem setV_wait (d : VReg) (x : VBits) (t : Thread) : (setV d x t).wait = t.wait := rfl
@[simp] theorem setV_spawned (d : VReg) (x : VBits) (t : Thread) : (setV d x t).spawned = t.spawned := rfl
@[simp] theorem setV_grp (d : VReg) (x : VBits) (t : Thread) : (setV d x t).grp = t.grp := rfl
@[simp] theorem setV_elim (d : VReg) (x : VBits) (t : Thread) : (setV d x t).elim = t.elim := rfl
@[simp] theorem setV_cut (d : VReg) (x : VBits) (t : Thread) : (setV d x t).cut = t.cut := rfl
@[simp] theorem setV_touched (d : VReg) (x : VBits) (t : Thread) : (setV d x t).touched = t.touched := rfl
@[simp] theorem setV_stepDue (d : VReg) (x : VBits) (t : Thread) : (setV d x t).stepDue = t.stepDue := rfl
@[simp] theorem setV_brkSkip (d : VReg) (x : VBits) (t : Thread) : (setV d x t).brkSkip = t.brkSkip := rfl
@[simp] theorem setV_logged (d : VReg) (x : VBits) (t : Thread) : (setV d x t).logged = t.logged := rfl
@[simp] theorem setV_parking (d : VReg) (x : VBits) (t : Thread) : (setV d x t).parking = t.parking := rfl
@[simp] theorem setV_trapped (d : VReg) (x : VBits) (t : Thread) : (setV d x t).trapped = t.trapped := rfl
@[simp] theorem setV_sent (d : VReg) (x : VBits) (t : Thread) : (setV d x t).sent = t.sent := rfl
@[simp] theorem setV_begun (d : VReg) (x : VBits) (t : Thread) : (setV d x t).begun = t.begun := rfl
@[simp] theorem setH_live (d : HReg) (x : Word) (t : Thread) : (setH d x t).live = t.live := rfl
@[simp] theorem setH_frame (d : HReg) (x : Word) (t : Thread) : (setH d x t).frame = t.frame := rfl
@[simp] theorem setH_pool (d : HReg) (x : Word) (t : Thread) : (setH d x t).pool = t.pool := rfl
@[simp] theorem setH_pack (d : HReg) (x : Word) (t : Thread) : (setH d x t).pack = t.pack := rfl
@[simp] theorem setH_index (d : HReg) (x : Word) (t : Thread) : (setH d x t).index = t.index := rfl
@[simp] theorem setH_sett (d : HReg) (x : Word) (t : Thread) : (setH d x t).sett = t.sett := rfl
@[simp] theorem setH_core (d : HReg) (x : Word) (t : Thread) : (setH d x t).core = t.core := rfl
@[simp] theorem setH_ctx (d : HReg) (x : Word) (t : Thread) : (setH d x t).ctx = t.ctx := rfl
@[simp] theorem setH_s (d : HReg) (x : Word) (t : Thread) : (setH d x t).s = t.s := rfl
@[simp] theorem setH_v (d : HReg) (x : Word) (t : Thread) : (setH d x t).v = t.v := rfl
@[simp] theorem setH_k (d : HReg) (x : Word) (t : Thread) : (setH d x t).k = t.k := rfl
@[simp] theorem setH_sf (d : HReg) (x : Word) (t : Thread) : (setH d x t).sf = t.sf := rfl
@[simp] theorem setH_o (d : HReg) (x : Word) (t : Thread) : (setH d x t).o = t.o := rfl
@[simp] theorem setH_map (d : HReg) (x : Word) (t : Thread) : (setH d x t).map = t.map := rfl
@[simp] theorem setH_ctl (d : HReg) (x : Word) (t : Thread) : (setH d x t).ctl = t.ctl := rfl
@[simp] theorem setH_lkind (d : HReg) (x : Word) (t : Thread) : (setH d x t).lkind = t.lkind := rfl
@[simp] theorem setH_pc (d : HReg) (x : Word) (t : Thread) : (setH d x t).pc = t.pc := rfl
@[simp] theorem setH_pend (d : HReg) (x : Word) (t : Thread) : (setH d x t).pend = t.pend := rfl
@[simp] theorem setH_chain (d : HReg) (x : Word) (t : Thread) : (setH d x t).chain = t.chain := rfl
@[simp] theorem setH_barCount (d : HReg) (x : Word) (t : Thread) : (setH d x t).barCount = t.barCount := rfl
@[simp] theorem setH_barWait (d : HReg) (x : Word) (t : Thread) : (setH d x t).barWait = t.barWait := rfl
@[simp] theorem setH_fols (d : HReg) (x : Word) (t : Thread) : (setH d x t).fols = t.fols := rfl
@[simp] theorem setH_folBad (d : HReg) (x : Word) (t : Thread) : (setH d x t).folBad = t.folBad := rfl
@[simp] theorem setH_seq (d : HReg) (x : Word) (t : Thread) : (setH d x t).seq = t.seq := rfl
@[simp] theorem setH_issued (d : HReg) (x : Word) (t : Thread) : (setH d x t).issued = t.issued := rfl
@[simp] theorem setH_vheld (d : HReg) (x : Word) (t : Thread) : (setH d x t).vheld = t.vheld := rfl
@[simp] theorem setH_kheld (d : HReg) (x : Word) (t : Thread) : (setH d x t).kheld = t.kheld := rfl
@[simp] theorem setH_vbad (d : HReg) (x : Word) (t : Thread) : (setH d x t).vbad = t.vbad := rfl
@[simp] theorem setH_kbad (d : HReg) (x : Word) (t : Thread) : (setH d x t).kbad = t.kbad := rfl
@[simp] theorem setH_wait (d : HReg) (x : Word) (t : Thread) : (setH d x t).wait = t.wait := rfl
@[simp] theorem setH_spawned (d : HReg) (x : Word) (t : Thread) : (setH d x t).spawned = t.spawned := rfl
@[simp] theorem setH_grp (d : HReg) (x : Word) (t : Thread) : (setH d x t).grp = t.grp := rfl
@[simp] theorem setH_elim (d : HReg) (x : Word) (t : Thread) : (setH d x t).elim = t.elim := rfl
@[simp] theorem setH_cut (d : HReg) (x : Word) (t : Thread) : (setH d x t).cut = t.cut := rfl
@[simp] theorem setH_touched (d : HReg) (x : Word) (t : Thread) : (setH d x t).touched = t.touched := rfl
@[simp] theorem setH_stepDue (d : HReg) (x : Word) (t : Thread) : (setH d x t).stepDue = t.stepDue := rfl
@[simp] theorem setH_brkSkip (d : HReg) (x : Word) (t : Thread) : (setH d x t).brkSkip = t.brkSkip := rfl
@[simp] theorem setH_logged (d : HReg) (x : Word) (t : Thread) : (setH d x t).logged = t.logged := rfl
@[simp] theorem setH_parking (d : HReg) (x : Word) (t : Thread) : (setH d x t).parking = t.parking := rfl
@[simp] theorem setH_trapped (d : HReg) (x : Word) (t : Thread) : (setH d x t).trapped = t.trapped := rfl
@[simp] theorem setH_sent (d : HReg) (x : Word) (t : Thread) : (setH d x t).sent = t.sent := rfl
@[simp] theorem setH_begun (d : HReg) (x : Word) (t : Thread) : (setH d x t).begun = t.begun := rfl
@[simp] theorem setO_live (d : OReg) (x : Word) (t : Thread) : (setO d x t).live = t.live := rfl
@[simp] theorem setO_frame (d : OReg) (x : Word) (t : Thread) : (setO d x t).frame = t.frame := rfl
@[simp] theorem setO_pool (d : OReg) (x : Word) (t : Thread) : (setO d x t).pool = t.pool := rfl
@[simp] theorem setO_pack (d : OReg) (x : Word) (t : Thread) : (setO d x t).pack = t.pack := rfl
@[simp] theorem setO_index (d : OReg) (x : Word) (t : Thread) : (setO d x t).index = t.index := rfl
@[simp] theorem setO_sett (d : OReg) (x : Word) (t : Thread) : (setO d x t).sett = t.sett := rfl
@[simp] theorem setO_core (d : OReg) (x : Word) (t : Thread) : (setO d x t).core = t.core := rfl
@[simp] theorem setO_ctx (d : OReg) (x : Word) (t : Thread) : (setO d x t).ctx = t.ctx := rfl
@[simp] theorem setO_s (d : OReg) (x : Word) (t : Thread) : (setO d x t).s = t.s := rfl
@[simp] theorem setO_v (d : OReg) (x : Word) (t : Thread) : (setO d x t).v = t.v := rfl
@[simp] theorem setO_k (d : OReg) (x : Word) (t : Thread) : (setO d x t).k = t.k := rfl
@[simp] theorem setO_h (d : OReg) (x : Word) (t : Thread) : (setO d x t).h = t.h := rfl
@[simp] theorem setO_sf (d : OReg) (x : Word) (t : Thread) : (setO d x t).sf = t.sf := rfl
@[simp] theorem setO_map (d : OReg) (x : Word) (t : Thread) : (setO d x t).map = t.map := rfl
@[simp] theorem setO_ctl (d : OReg) (x : Word) (t : Thread) : (setO d x t).ctl = t.ctl := rfl
@[simp] theorem setO_lkind (d : OReg) (x : Word) (t : Thread) : (setO d x t).lkind = t.lkind := rfl
@[simp] theorem setO_pc (d : OReg) (x : Word) (t : Thread) : (setO d x t).pc = t.pc := rfl
@[simp] theorem setO_pend (d : OReg) (x : Word) (t : Thread) : (setO d x t).pend = t.pend := rfl
@[simp] theorem setO_chain (d : OReg) (x : Word) (t : Thread) : (setO d x t).chain = t.chain := rfl
@[simp] theorem setO_barCount (d : OReg) (x : Word) (t : Thread) : (setO d x t).barCount = t.barCount := rfl
@[simp] theorem setO_barWait (d : OReg) (x : Word) (t : Thread) : (setO d x t).barWait = t.barWait := rfl
@[simp] theorem setO_fols (d : OReg) (x : Word) (t : Thread) : (setO d x t).fols = t.fols := rfl
@[simp] theorem setO_folBad (d : OReg) (x : Word) (t : Thread) : (setO d x t).folBad = t.folBad := rfl
@[simp] theorem setO_seq (d : OReg) (x : Word) (t : Thread) : (setO d x t).seq = t.seq := rfl
@[simp] theorem setO_issued (d : OReg) (x : Word) (t : Thread) : (setO d x t).issued = t.issued := rfl
@[simp] theorem setO_vheld (d : OReg) (x : Word) (t : Thread) : (setO d x t).vheld = t.vheld := rfl
@[simp] theorem setO_kheld (d : OReg) (x : Word) (t : Thread) : (setO d x t).kheld = t.kheld := rfl
@[simp] theorem setO_vbad (d : OReg) (x : Word) (t : Thread) : (setO d x t).vbad = t.vbad := rfl
@[simp] theorem setO_kbad (d : OReg) (x : Word) (t : Thread) : (setO d x t).kbad = t.kbad := rfl
@[simp] theorem setO_wait (d : OReg) (x : Word) (t : Thread) : (setO d x t).wait = t.wait := rfl
@[simp] theorem setO_spawned (d : OReg) (x : Word) (t : Thread) : (setO d x t).spawned = t.spawned := rfl
@[simp] theorem setO_grp (d : OReg) (x : Word) (t : Thread) : (setO d x t).grp = t.grp := rfl
@[simp] theorem setO_elim (d : OReg) (x : Word) (t : Thread) : (setO d x t).elim = t.elim := rfl
@[simp] theorem setO_cut (d : OReg) (x : Word) (t : Thread) : (setO d x t).cut = t.cut := rfl
@[simp] theorem setO_touched (d : OReg) (x : Word) (t : Thread) : (setO d x t).touched = t.touched := rfl
@[simp] theorem setO_stepDue (d : OReg) (x : Word) (t : Thread) : (setO d x t).stepDue = t.stepDue := rfl
@[simp] theorem setO_brkSkip (d : OReg) (x : Word) (t : Thread) : (setO d x t).brkSkip = t.brkSkip := rfl
@[simp] theorem setO_logged (d : OReg) (x : Word) (t : Thread) : (setO d x t).logged = t.logged := rfl
@[simp] theorem setO_parking (d : OReg) (x : Word) (t : Thread) : (setO d x t).parking = t.parking := rfl
@[simp] theorem setO_trapped (d : OReg) (x : Word) (t : Thread) : (setO d x t).trapped = t.trapped := rfl
@[simp] theorem setO_sent (d : OReg) (x : Word) (t : Thread) : (setO d x t).sent = t.sent := rfl
@[simp] theorem setO_begun (d : OReg) (x : Word) (t : Thread) : (setO d x t).begun = t.begun := rfl
@[simp] theorem counted_live  (t : Thread) : (counted  t).live = t.live := rfl
@[simp] theorem counted_frame  (t : Thread) : (counted  t).frame = t.frame := rfl
@[simp] theorem counted_pool  (t : Thread) : (counted  t).pool = t.pool := rfl
@[simp] theorem counted_pack  (t : Thread) : (counted  t).pack = t.pack := rfl
@[simp] theorem counted_index  (t : Thread) : (counted  t).index = t.index := rfl
@[simp] theorem counted_sett  (t : Thread) : (counted  t).sett = t.sett := rfl
@[simp] theorem counted_core  (t : Thread) : (counted  t).core = t.core := rfl
@[simp] theorem counted_ctx  (t : Thread) : (counted  t).ctx = t.ctx := rfl
@[simp] theorem counted_s  (t : Thread) : (counted  t).s = t.s := rfl
@[simp] theorem counted_v  (t : Thread) : (counted  t).v = t.v := rfl
@[simp] theorem counted_k  (t : Thread) : (counted  t).k = t.k := rfl
@[simp] theorem counted_h  (t : Thread) : (counted  t).h = t.h := rfl
@[simp] theorem counted_sf  (t : Thread) : (counted  t).sf = t.sf := rfl
@[simp] theorem counted_o  (t : Thread) : (counted  t).o = t.o := rfl
@[simp] theorem counted_map  (t : Thread) : (counted  t).map = t.map := rfl
@[simp] theorem counted_ctl  (t : Thread) : (counted  t).ctl = t.ctl := rfl
@[simp] theorem counted_lkind  (t : Thread) : (counted  t).lkind = t.lkind := rfl
@[simp] theorem counted_pc  (t : Thread) : (counted  t).pc = t.pc := rfl
@[simp] theorem counted_pend  (t : Thread) : (counted  t).pend = t.pend := rfl
@[simp] theorem counted_chain  (t : Thread) : (counted  t).chain = t.chain := rfl
@[simp] theorem counted_barCount  (t : Thread) : (counted  t).barCount = t.barCount := rfl
@[simp] theorem counted_barWait  (t : Thread) : (counted  t).barWait = t.barWait := rfl
@[simp] theorem counted_fols  (t : Thread) : (counted  t).fols = t.fols := rfl
@[simp] theorem counted_folBad  (t : Thread) : (counted  t).folBad = t.folBad := rfl
@[simp] theorem counted_vheld  (t : Thread) : (counted  t).vheld = t.vheld := rfl
@[simp] theorem counted_kheld  (t : Thread) : (counted  t).kheld = t.kheld := rfl
@[simp] theorem counted_vbad  (t : Thread) : (counted  t).vbad = t.vbad := rfl
@[simp] theorem counted_kbad  (t : Thread) : (counted  t).kbad = t.kbad := rfl
@[simp] theorem counted_spawned  (t : Thread) : (counted  t).spawned = t.spawned := rfl
@[simp] theorem counted_grp  (t : Thread) : (counted  t).grp = t.grp := rfl
@[simp] theorem counted_cut  (t : Thread) : (counted  t).cut = t.cut := rfl
@[simp] theorem counted_touched  (t : Thread) : (counted  t).touched = t.touched := rfl
@[simp] theorem counted_stepDue  (t : Thread) : (counted  t).stepDue = t.stepDue := rfl
@[simp] theorem counted_logged  (t : Thread) : (counted  t).logged = t.logged := rfl
@[simp] theorem counted_parking  (t : Thread) : (counted  t).parking = t.parking := rfl
@[simp] theorem counted_trapped  (t : Thread) : (counted  t).trapped = t.trapped := rfl
@[simp] theorem counted_sent  (t : Thread) : (counted  t).sent = t.sent := rfl
@[simp] theorem counted_begun  (t : Thread) : (counted  t).begun = t.begun := rfl
@[simp] theorem writeElts_live (d : VReg) (w : Nat) (l : List (Nat × Nat)) (t : Thread) : (writeElts d w l t).live = t.live := rfl
@[simp] theorem writeElts_frame (d : VReg) (w : Nat) (l : List (Nat × Nat)) (t : Thread) : (writeElts d w l t).frame = t.frame := rfl
@[simp] theorem writeElts_pool (d : VReg) (w : Nat) (l : List (Nat × Nat)) (t : Thread) : (writeElts d w l t).pool = t.pool := rfl
@[simp] theorem writeElts_pack (d : VReg) (w : Nat) (l : List (Nat × Nat)) (t : Thread) : (writeElts d w l t).pack = t.pack := rfl
@[simp] theorem writeElts_index (d : VReg) (w : Nat) (l : List (Nat × Nat)) (t : Thread) : (writeElts d w l t).index = t.index := rfl
@[simp] theorem writeElts_sett (d : VReg) (w : Nat) (l : List (Nat × Nat)) (t : Thread) : (writeElts d w l t).sett = t.sett := rfl
@[simp] theorem writeElts_core (d : VReg) (w : Nat) (l : List (Nat × Nat)) (t : Thread) : (writeElts d w l t).core = t.core := rfl
@[simp] theorem writeElts_ctx (d : VReg) (w : Nat) (l : List (Nat × Nat)) (t : Thread) : (writeElts d w l t).ctx = t.ctx := rfl
@[simp] theorem writeElts_s (d : VReg) (w : Nat) (l : List (Nat × Nat)) (t : Thread) : (writeElts d w l t).s = t.s := rfl
@[simp] theorem writeElts_k (d : VReg) (w : Nat) (l : List (Nat × Nat)) (t : Thread) : (writeElts d w l t).k = t.k := rfl
@[simp] theorem writeElts_h (d : VReg) (w : Nat) (l : List (Nat × Nat)) (t : Thread) : (writeElts d w l t).h = t.h := rfl
@[simp] theorem writeElts_sf (d : VReg) (w : Nat) (l : List (Nat × Nat)) (t : Thread) : (writeElts d w l t).sf = t.sf := rfl
@[simp] theorem writeElts_o (d : VReg) (w : Nat) (l : List (Nat × Nat)) (t : Thread) : (writeElts d w l t).o = t.o := rfl
@[simp] theorem writeElts_map (d : VReg) (w : Nat) (l : List (Nat × Nat)) (t : Thread) : (writeElts d w l t).map = t.map := rfl
@[simp] theorem writeElts_ctl (d : VReg) (w : Nat) (l : List (Nat × Nat)) (t : Thread) : (writeElts d w l t).ctl = t.ctl := rfl
@[simp] theorem writeElts_lkind (d : VReg) (w : Nat) (l : List (Nat × Nat)) (t : Thread) : (writeElts d w l t).lkind = t.lkind := rfl
@[simp] theorem writeElts_pc (d : VReg) (w : Nat) (l : List (Nat × Nat)) (t : Thread) : (writeElts d w l t).pc = t.pc := rfl
@[simp] theorem writeElts_pend (d : VReg) (w : Nat) (l : List (Nat × Nat)) (t : Thread) : (writeElts d w l t).pend = t.pend := rfl
@[simp] theorem writeElts_chain (d : VReg) (w : Nat) (l : List (Nat × Nat)) (t : Thread) : (writeElts d w l t).chain = t.chain := rfl
@[simp] theorem writeElts_barCount (d : VReg) (w : Nat) (l : List (Nat × Nat)) (t : Thread) : (writeElts d w l t).barCount = t.barCount := rfl
@[simp] theorem writeElts_barWait (d : VReg) (w : Nat) (l : List (Nat × Nat)) (t : Thread) : (writeElts d w l t).barWait = t.barWait := rfl
@[simp] theorem writeElts_fols (d : VReg) (w : Nat) (l : List (Nat × Nat)) (t : Thread) : (writeElts d w l t).fols = t.fols := rfl
@[simp] theorem writeElts_folBad (d : VReg) (w : Nat) (l : List (Nat × Nat)) (t : Thread) : (writeElts d w l t).folBad = t.folBad := rfl
@[simp] theorem writeElts_seq (d : VReg) (w : Nat) (l : List (Nat × Nat)) (t : Thread) : (writeElts d w l t).seq = t.seq := rfl
@[simp] theorem writeElts_issued (d : VReg) (w : Nat) (l : List (Nat × Nat)) (t : Thread) : (writeElts d w l t).issued = t.issued := rfl
@[simp] theorem writeElts_kheld (d : VReg) (w : Nat) (l : List (Nat × Nat)) (t : Thread) : (writeElts d w l t).kheld = t.kheld := rfl
@[simp] theorem writeElts_kbad (d : VReg) (w : Nat) (l : List (Nat × Nat)) (t : Thread) : (writeElts d w l t).kbad = t.kbad := rfl
@[simp] theorem writeElts_wait (d : VReg) (w : Nat) (l : List (Nat × Nat)) (t : Thread) : (writeElts d w l t).wait = t.wait := rfl
@[simp] theorem writeElts_spawned (d : VReg) (w : Nat) (l : List (Nat × Nat)) (t : Thread) : (writeElts d w l t).spawned = t.spawned := rfl
@[simp] theorem writeElts_grp (d : VReg) (w : Nat) (l : List (Nat × Nat)) (t : Thread) : (writeElts d w l t).grp = t.grp := rfl
@[simp] theorem writeElts_elim (d : VReg) (w : Nat) (l : List (Nat × Nat)) (t : Thread) : (writeElts d w l t).elim = t.elim := rfl
@[simp] theorem writeElts_cut (d : VReg) (w : Nat) (l : List (Nat × Nat)) (t : Thread) : (writeElts d w l t).cut = t.cut := rfl
@[simp] theorem writeElts_touched (d : VReg) (w : Nat) (l : List (Nat × Nat)) (t : Thread) : (writeElts d w l t).touched = t.touched := rfl
@[simp] theorem writeElts_stepDue (d : VReg) (w : Nat) (l : List (Nat × Nat)) (t : Thread) : (writeElts d w l t).stepDue = t.stepDue := rfl
@[simp] theorem writeElts_brkSkip (d : VReg) (w : Nat) (l : List (Nat × Nat)) (t : Thread) : (writeElts d w l t).brkSkip = t.brkSkip := rfl
@[simp] theorem writeElts_logged (d : VReg) (w : Nat) (l : List (Nat × Nat)) (t : Thread) : (writeElts d w l t).logged = t.logged := rfl
@[simp] theorem writeElts_parking (d : VReg) (w : Nat) (l : List (Nat × Nat)) (t : Thread) : (writeElts d w l t).parking = t.parking := rfl
@[simp] theorem writeElts_trapped (d : VReg) (w : Nat) (l : List (Nat × Nat)) (t : Thread) : (writeElts d w l t).trapped = t.trapped := rfl
@[simp] theorem writeElts_sent (d : VReg) (w : Nat) (l : List (Nat × Nat)) (t : Thread) : (writeElts d w l t).sent = t.sent := rfl
@[simp] theorem writeElts_begun (d : VReg) (w : Nat) (l : List (Nat × Nat)) (t : Thread) : (writeElts d w l t).begun = t.begun := rfl
@[simp] theorem writeBits_live (d : KReg) (l : List (Nat × Bool)) (t : Thread) : (writeBits d l t).live = t.live := by unfold writeBits setK; split <;> rfl
@[simp] theorem writeBits_frame (d : KReg) (l : List (Nat × Bool)) (t : Thread) : (writeBits d l t).frame = t.frame := by unfold writeBits setK; split <;> rfl
@[simp] theorem writeBits_pool (d : KReg) (l : List (Nat × Bool)) (t : Thread) : (writeBits d l t).pool = t.pool := by unfold writeBits setK; split <;> rfl
@[simp] theorem writeBits_pack (d : KReg) (l : List (Nat × Bool)) (t : Thread) : (writeBits d l t).pack = t.pack := by unfold writeBits setK; split <;> rfl
@[simp] theorem writeBits_index (d : KReg) (l : List (Nat × Bool)) (t : Thread) : (writeBits d l t).index = t.index := by unfold writeBits setK; split <;> rfl
@[simp] theorem writeBits_sett (d : KReg) (l : List (Nat × Bool)) (t : Thread) : (writeBits d l t).sett = t.sett := by unfold writeBits setK; split <;> rfl
@[simp] theorem writeBits_core (d : KReg) (l : List (Nat × Bool)) (t : Thread) : (writeBits d l t).core = t.core := by unfold writeBits setK; split <;> rfl
@[simp] theorem writeBits_ctx (d : KReg) (l : List (Nat × Bool)) (t : Thread) : (writeBits d l t).ctx = t.ctx := by unfold writeBits setK; split <;> rfl
@[simp] theorem writeBits_s (d : KReg) (l : List (Nat × Bool)) (t : Thread) : (writeBits d l t).s = t.s := by unfold writeBits setK; split <;> rfl
@[simp] theorem writeBits_v (d : KReg) (l : List (Nat × Bool)) (t : Thread) : (writeBits d l t).v = t.v := by unfold writeBits setK; split <;> rfl
@[simp] theorem writeBits_h (d : KReg) (l : List (Nat × Bool)) (t : Thread) : (writeBits d l t).h = t.h := by unfold writeBits setK; split <;> rfl
@[simp] theorem writeBits_sf (d : KReg) (l : List (Nat × Bool)) (t : Thread) : (writeBits d l t).sf = t.sf := by unfold writeBits setK; split <;> rfl
@[simp] theorem writeBits_o (d : KReg) (l : List (Nat × Bool)) (t : Thread) : (writeBits d l t).o = t.o := by unfold writeBits setK; split <;> rfl
@[simp] theorem writeBits_map (d : KReg) (l : List (Nat × Bool)) (t : Thread) : (writeBits d l t).map = t.map := by unfold writeBits setK; split <;> rfl
@[simp] theorem writeBits_ctl (d : KReg) (l : List (Nat × Bool)) (t : Thread) : (writeBits d l t).ctl = t.ctl := by unfold writeBits setK; split <;> rfl
@[simp] theorem writeBits_lkind (d : KReg) (l : List (Nat × Bool)) (t : Thread) : (writeBits d l t).lkind = t.lkind := by unfold writeBits setK; split <;> rfl
@[simp] theorem writeBits_pc (d : KReg) (l : List (Nat × Bool)) (t : Thread) : (writeBits d l t).pc = t.pc := by unfold writeBits setK; split <;> rfl
@[simp] theorem writeBits_pend (d : KReg) (l : List (Nat × Bool)) (t : Thread) : (writeBits d l t).pend = t.pend := by unfold writeBits setK; split <;> rfl
@[simp] theorem writeBits_chain (d : KReg) (l : List (Nat × Bool)) (t : Thread) : (writeBits d l t).chain = t.chain := by unfold writeBits setK; split <;> rfl
@[simp] theorem writeBits_barCount (d : KReg) (l : List (Nat × Bool)) (t : Thread) : (writeBits d l t).barCount = t.barCount := by unfold writeBits setK; split <;> rfl
@[simp] theorem writeBits_barWait (d : KReg) (l : List (Nat × Bool)) (t : Thread) : (writeBits d l t).barWait = t.barWait := by unfold writeBits setK; split <;> rfl
@[simp] theorem writeBits_fols (d : KReg) (l : List (Nat × Bool)) (t : Thread) : (writeBits d l t).fols = t.fols := by unfold writeBits setK; split <;> rfl
@[simp] theorem writeBits_folBad (d : KReg) (l : List (Nat × Bool)) (t : Thread) : (writeBits d l t).folBad = t.folBad := by unfold writeBits setK; split <;> rfl
@[simp] theorem writeBits_seq (d : KReg) (l : List (Nat × Bool)) (t : Thread) : (writeBits d l t).seq = t.seq := by unfold writeBits setK; split <;> rfl
@[simp] theorem writeBits_issued (d : KReg) (l : List (Nat × Bool)) (t : Thread) : (writeBits d l t).issued = t.issued := by unfold writeBits setK; split <;> rfl
@[simp] theorem writeBits_vheld (d : KReg) (l : List (Nat × Bool)) (t : Thread) : (writeBits d l t).vheld = t.vheld := by unfold writeBits setK; split <;> rfl
@[simp] theorem writeBits_vbad (d : KReg) (l : List (Nat × Bool)) (t : Thread) : (writeBits d l t).vbad = t.vbad := by unfold writeBits setK; split <;> rfl
@[simp] theorem writeBits_wait (d : KReg) (l : List (Nat × Bool)) (t : Thread) : (writeBits d l t).wait = t.wait := by unfold writeBits setK; split <;> rfl
@[simp] theorem writeBits_spawned (d : KReg) (l : List (Nat × Bool)) (t : Thread) : (writeBits d l t).spawned = t.spawned := by unfold writeBits setK; split <;> rfl
@[simp] theorem writeBits_grp (d : KReg) (l : List (Nat × Bool)) (t : Thread) : (writeBits d l t).grp = t.grp := by unfold writeBits setK; split <;> rfl
@[simp] theorem writeBits_elim (d : KReg) (l : List (Nat × Bool)) (t : Thread) : (writeBits d l t).elim = t.elim := by unfold writeBits setK; split <;> rfl
@[simp] theorem writeBits_cut (d : KReg) (l : List (Nat × Bool)) (t : Thread) : (writeBits d l t).cut = t.cut := by unfold writeBits setK; split <;> rfl
@[simp] theorem writeBits_touched (d : KReg) (l : List (Nat × Bool)) (t : Thread) : (writeBits d l t).touched = t.touched := by unfold writeBits setK; split <;> rfl
@[simp] theorem writeBits_stepDue (d : KReg) (l : List (Nat × Bool)) (t : Thread) : (writeBits d l t).stepDue = t.stepDue := by unfold writeBits setK; split <;> rfl
@[simp] theorem writeBits_brkSkip (d : KReg) (l : List (Nat × Bool)) (t : Thread) : (writeBits d l t).brkSkip = t.brkSkip := by unfold writeBits setK; split <;> rfl
@[simp] theorem writeBits_logged (d : KReg) (l : List (Nat × Bool)) (t : Thread) : (writeBits d l t).logged = t.logged := by unfold writeBits setK; split <;> rfl
@[simp] theorem writeBits_parking (d : KReg) (l : List (Nat × Bool)) (t : Thread) : (writeBits d l t).parking = t.parking := by unfold writeBits setK; split <;> rfl
@[simp] theorem writeBits_trapped (d : KReg) (l : List (Nat × Bool)) (t : Thread) : (writeBits d l t).trapped = t.trapped := by unfold writeBits setK; split <;> rfl
@[simp] theorem writeBits_sent (d : KReg) (l : List (Nat × Bool)) (t : Thread) : (writeBits d l t).sent = t.sent := by unfold writeBits setK; split <;> rfl
@[simp] theorem writeBits_begun (d : KReg) (l : List (Nat × Bool)) (t : Thread) : (writeBits d l t).begun = t.begun := by unfold writeBits setK; split <;> rfl
@[simp] theorem setVl_live (n : Nat) (t : Thread) : (setVl n t).live = t.live := rfl
@[simp] theorem setVl_frame (n : Nat) (t : Thread) : (setVl n t).frame = t.frame := rfl
@[simp] theorem setVl_pool (n : Nat) (t : Thread) : (setVl n t).pool = t.pool := rfl
@[simp] theorem setVl_pack (n : Nat) (t : Thread) : (setVl n t).pack = t.pack := rfl
@[simp] theorem setVl_index (n : Nat) (t : Thread) : (setVl n t).index = t.index := rfl
@[simp] theorem setVl_sett (n : Nat) (t : Thread) : (setVl n t).sett = t.sett := rfl
@[simp] theorem setVl_core (n : Nat) (t : Thread) : (setVl n t).core = t.core := rfl
@[simp] theorem setVl_ctx (n : Nat) (t : Thread) : (setVl n t).ctx = t.ctx := rfl
@[simp] theorem setVl_s (n : Nat) (t : Thread) : (setVl n t).s = t.s := rfl
@[simp] theorem setVl_v (n : Nat) (t : Thread) : (setVl n t).v = t.v := rfl
@[simp] theorem setVl_k (n : Nat) (t : Thread) : (setVl n t).k = t.k := rfl
@[simp] theorem setVl_h (n : Nat) (t : Thread) : (setVl n t).h = t.h := rfl
@[simp] theorem setVl_sf (n : Nat) (t : Thread) : (setVl n t).sf = t.sf := rfl
@[simp] theorem setVl_o (n : Nat) (t : Thread) : (setVl n t).o = t.o := rfl
@[simp] theorem setVl_map (n : Nat) (t : Thread) : (setVl n t).map = t.map := rfl
@[simp] theorem setVl_lkind (n : Nat) (t : Thread) : (setVl n t).lkind = t.lkind := rfl
@[simp] theorem setVl_pc (n : Nat) (t : Thread) : (setVl n t).pc = t.pc := rfl
@[simp] theorem setVl_pend (n : Nat) (t : Thread) : (setVl n t).pend = t.pend := rfl
@[simp] theorem setVl_chain (n : Nat) (t : Thread) : (setVl n t).chain = t.chain := rfl
@[simp] theorem setVl_barCount (n : Nat) (t : Thread) : (setVl n t).barCount = t.barCount := rfl
@[simp] theorem setVl_barWait (n : Nat) (t : Thread) : (setVl n t).barWait = t.barWait := rfl
@[simp] theorem setVl_fols (n : Nat) (t : Thread) : (setVl n t).fols = t.fols := rfl
@[simp] theorem setVl_folBad (n : Nat) (t : Thread) : (setVl n t).folBad = t.folBad := rfl
@[simp] theorem setVl_seq (n : Nat) (t : Thread) : (setVl n t).seq = t.seq := rfl
@[simp] theorem setVl_issued (n : Nat) (t : Thread) : (setVl n t).issued = t.issued := rfl
@[simp] theorem setVl_vheld (n : Nat) (t : Thread) : (setVl n t).vheld = t.vheld := rfl
@[simp] theorem setVl_kheld (n : Nat) (t : Thread) : (setVl n t).kheld = t.kheld := rfl
@[simp] theorem setVl_vbad (n : Nat) (t : Thread) : (setVl n t).vbad = t.vbad := rfl
@[simp] theorem setVl_kbad (n : Nat) (t : Thread) : (setVl n t).kbad = t.kbad := rfl
@[simp] theorem setVl_wait (n : Nat) (t : Thread) : (setVl n t).wait = t.wait := rfl
@[simp] theorem setVl_spawned (n : Nat) (t : Thread) : (setVl n t).spawned = t.spawned := rfl
@[simp] theorem setVl_grp (n : Nat) (t : Thread) : (setVl n t).grp = t.grp := rfl
@[simp] theorem setVl_elim (n : Nat) (t : Thread) : (setVl n t).elim = t.elim := rfl
@[simp] theorem setVl_cut (n : Nat) (t : Thread) : (setVl n t).cut = t.cut := rfl
@[simp] theorem setVl_touched (n : Nat) (t : Thread) : (setVl n t).touched = t.touched := rfl
@[simp] theorem setVl_stepDue (n : Nat) (t : Thread) : (setVl n t).stepDue = t.stepDue := rfl
@[simp] theorem setVl_brkSkip (n : Nat) (t : Thread) : (setVl n t).brkSkip = t.brkSkip := rfl
@[simp] theorem setVl_logged (n : Nat) (t : Thread) : (setVl n t).logged = t.logged := rfl
@[simp] theorem setVl_parking (n : Nat) (t : Thread) : (setVl n t).parking = t.parking := rfl
@[simp] theorem setVl_trapped (n : Nat) (t : Thread) : (setVl n t).trapped = t.trapped := rfl
@[simp] theorem setVl_sent (n : Nat) (t : Thread) : (setVl n t).sent = t.sent := rfl
@[simp] theorem setVl_begun (n : Nat) (t : Thread) : (setVl n t).begun = t.begun := rfl
@[simp] theorem setVstart_live (n : Nat) (t : Thread) : (setVstart n t).live = t.live := rfl
@[simp] theorem setVstart_frame (n : Nat) (t : Thread) : (setVstart n t).frame = t.frame := rfl
@[simp] theorem setVstart_pool (n : Nat) (t : Thread) : (setVstart n t).pool = t.pool := rfl
@[simp] theorem setVstart_pack (n : Nat) (t : Thread) : (setVstart n t).pack = t.pack := rfl
@[simp] theorem setVstart_index (n : Nat) (t : Thread) : (setVstart n t).index = t.index := rfl
@[simp] theorem setVstart_sett (n : Nat) (t : Thread) : (setVstart n t).sett = t.sett := rfl
@[simp] theorem setVstart_core (n : Nat) (t : Thread) : (setVstart n t).core = t.core := rfl
@[simp] theorem setVstart_ctx (n : Nat) (t : Thread) : (setVstart n t).ctx = t.ctx := rfl
@[simp] theorem setVstart_s (n : Nat) (t : Thread) : (setVstart n t).s = t.s := rfl
@[simp] theorem setVstart_v (n : Nat) (t : Thread) : (setVstart n t).v = t.v := rfl
@[simp] theorem setVstart_k (n : Nat) (t : Thread) : (setVstart n t).k = t.k := rfl
@[simp] theorem setVstart_h (n : Nat) (t : Thread) : (setVstart n t).h = t.h := rfl
@[simp] theorem setVstart_sf (n : Nat) (t : Thread) : (setVstart n t).sf = t.sf := rfl
@[simp] theorem setVstart_o (n : Nat) (t : Thread) : (setVstart n t).o = t.o := rfl
@[simp] theorem setVstart_map (n : Nat) (t : Thread) : (setVstart n t).map = t.map := rfl
@[simp] theorem setVstart_lkind (n : Nat) (t : Thread) : (setVstart n t).lkind = t.lkind := rfl
@[simp] theorem setVstart_pc (n : Nat) (t : Thread) : (setVstart n t).pc = t.pc := rfl
@[simp] theorem setVstart_pend (n : Nat) (t : Thread) : (setVstart n t).pend = t.pend := rfl
@[simp] theorem setVstart_chain (n : Nat) (t : Thread) : (setVstart n t).chain = t.chain := rfl
@[simp] theorem setVstart_barCount (n : Nat) (t : Thread) : (setVstart n t).barCount = t.barCount := rfl
@[simp] theorem setVstart_barWait (n : Nat) (t : Thread) : (setVstart n t).barWait = t.barWait := rfl
@[simp] theorem setVstart_fols (n : Nat) (t : Thread) : (setVstart n t).fols = t.fols := rfl
@[simp] theorem setVstart_folBad (n : Nat) (t : Thread) : (setVstart n t).folBad = t.folBad := rfl
@[simp] theorem setVstart_seq (n : Nat) (t : Thread) : (setVstart n t).seq = t.seq := rfl
@[simp] theorem setVstart_issued (n : Nat) (t : Thread) : (setVstart n t).issued = t.issued := rfl
@[simp] theorem setVstart_vheld (n : Nat) (t : Thread) : (setVstart n t).vheld = t.vheld := rfl
@[simp] theorem setVstart_kheld (n : Nat) (t : Thread) : (setVstart n t).kheld = t.kheld := rfl
@[simp] theorem setVstart_vbad (n : Nat) (t : Thread) : (setVstart n t).vbad = t.vbad := rfl
@[simp] theorem setVstart_kbad (n : Nat) (t : Thread) : (setVstart n t).kbad = t.kbad := rfl
@[simp] theorem setVstart_wait (n : Nat) (t : Thread) : (setVstart n t).wait = t.wait := rfl
@[simp] theorem setVstart_spawned (n : Nat) (t : Thread) : (setVstart n t).spawned = t.spawned := rfl
@[simp] theorem setVstart_grp (n : Nat) (t : Thread) : (setVstart n t).grp = t.grp := rfl
@[simp] theorem setVstart_elim (n : Nat) (t : Thread) : (setVstart n t).elim = t.elim := rfl
@[simp] theorem setVstart_cut (n : Nat) (t : Thread) : (setVstart n t).cut = t.cut := rfl
@[simp] theorem setVstart_touched (n : Nat) (t : Thread) : (setVstart n t).touched = t.touched := rfl
@[simp] theorem setVstart_stepDue (n : Nat) (t : Thread) : (setVstart n t).stepDue = t.stepDue := rfl
@[simp] theorem setVstart_brkSkip (n : Nat) (t : Thread) : (setVstart n t).brkSkip = t.brkSkip := rfl
@[simp] theorem setVstart_logged (n : Nat) (t : Thread) : (setVstart n t).logged = t.logged := rfl
@[simp] theorem setVstart_parking (n : Nat) (t : Thread) : (setVstart n t).parking = t.parking := rfl
@[simp] theorem setVstart_trapped (n : Nat) (t : Thread) : (setVstart n t).trapped = t.trapped := rfl
@[simp] theorem setVstart_sent (n : Nat) (t : Thread) : (setVstart n t).sent = t.sent := rfl
@[simp] theorem setVstart_begun (n : Nat) (t : Thread) : (setVstart n t).begun = t.begun := rfl
@[simp] theorem setEprog_live (n : Nat) (t : Thread) : (setEprog n t).live = t.live := rfl
@[simp] theorem setEprog_frame (n : Nat) (t : Thread) : (setEprog n t).frame = t.frame := rfl
@[simp] theorem setEprog_pool (n : Nat) (t : Thread) : (setEprog n t).pool = t.pool := rfl
@[simp] theorem setEprog_pack (n : Nat) (t : Thread) : (setEprog n t).pack = t.pack := rfl
@[simp] theorem setEprog_index (n : Nat) (t : Thread) : (setEprog n t).index = t.index := rfl
@[simp] theorem setEprog_sett (n : Nat) (t : Thread) : (setEprog n t).sett = t.sett := rfl
@[simp] theorem setEprog_core (n : Nat) (t : Thread) : (setEprog n t).core = t.core := rfl
@[simp] theorem setEprog_ctx (n : Nat) (t : Thread) : (setEprog n t).ctx = t.ctx := rfl
@[simp] theorem setEprog_s (n : Nat) (t : Thread) : (setEprog n t).s = t.s := rfl
@[simp] theorem setEprog_v (n : Nat) (t : Thread) : (setEprog n t).v = t.v := rfl
@[simp] theorem setEprog_k (n : Nat) (t : Thread) : (setEprog n t).k = t.k := rfl
@[simp] theorem setEprog_h (n : Nat) (t : Thread) : (setEprog n t).h = t.h := rfl
@[simp] theorem setEprog_sf (n : Nat) (t : Thread) : (setEprog n t).sf = t.sf := rfl
@[simp] theorem setEprog_o (n : Nat) (t : Thread) : (setEprog n t).o = t.o := rfl
@[simp] theorem setEprog_map (n : Nat) (t : Thread) : (setEprog n t).map = t.map := rfl
@[simp] theorem setEprog_lkind (n : Nat) (t : Thread) : (setEprog n t).lkind = t.lkind := rfl
@[simp] theorem setEprog_pc (n : Nat) (t : Thread) : (setEprog n t).pc = t.pc := rfl
@[simp] theorem setEprog_pend (n : Nat) (t : Thread) : (setEprog n t).pend = t.pend := rfl
@[simp] theorem setEprog_chain (n : Nat) (t : Thread) : (setEprog n t).chain = t.chain := rfl
@[simp] theorem setEprog_barCount (n : Nat) (t : Thread) : (setEprog n t).barCount = t.barCount := rfl
@[simp] theorem setEprog_barWait (n : Nat) (t : Thread) : (setEprog n t).barWait = t.barWait := rfl
@[simp] theorem setEprog_fols (n : Nat) (t : Thread) : (setEprog n t).fols = t.fols := rfl
@[simp] theorem setEprog_folBad (n : Nat) (t : Thread) : (setEprog n t).folBad = t.folBad := rfl
@[simp] theorem setEprog_seq (n : Nat) (t : Thread) : (setEprog n t).seq = t.seq := rfl
@[simp] theorem setEprog_issued (n : Nat) (t : Thread) : (setEprog n t).issued = t.issued := rfl
@[simp] theorem setEprog_vheld (n : Nat) (t : Thread) : (setEprog n t).vheld = t.vheld := rfl
@[simp] theorem setEprog_kheld (n : Nat) (t : Thread) : (setEprog n t).kheld = t.kheld := rfl
@[simp] theorem setEprog_vbad (n : Nat) (t : Thread) : (setEprog n t).vbad = t.vbad := rfl
@[simp] theorem setEprog_kbad (n : Nat) (t : Thread) : (setEprog n t).kbad = t.kbad := rfl
@[simp] theorem setEprog_wait (n : Nat) (t : Thread) : (setEprog n t).wait = t.wait := rfl
@[simp] theorem setEprog_spawned (n : Nat) (t : Thread) : (setEprog n t).spawned = t.spawned := rfl
@[simp] theorem setEprog_grp (n : Nat) (t : Thread) : (setEprog n t).grp = t.grp := rfl
@[simp] theorem setEprog_elim (n : Nat) (t : Thread) : (setEprog n t).elim = t.elim := rfl
@[simp] theorem setEprog_cut (n : Nat) (t : Thread) : (setEprog n t).cut = t.cut := rfl
@[simp] theorem setEprog_touched (n : Nat) (t : Thread) : (setEprog n t).touched = t.touched := rfl
@[simp] theorem setEprog_stepDue (n : Nat) (t : Thread) : (setEprog n t).stepDue = t.stepDue := rfl
@[simp] theorem setEprog_brkSkip (n : Nat) (t : Thread) : (setEprog n t).brkSkip = t.brkSkip := rfl
@[simp] theorem setEprog_logged (n : Nat) (t : Thread) : (setEprog n t).logged = t.logged := rfl
@[simp] theorem setEprog_parking (n : Nat) (t : Thread) : (setEprog n t).parking = t.parking := rfl
@[simp] theorem setEprog_trapped (n : Nat) (t : Thread) : (setEprog n t).trapped = t.trapped := rfl
@[simp] theorem setEprog_sent (n : Nat) (t : Thread) : (setEprog n t).sent = t.sent := rfl
@[simp] theorem setEprog_begun (n : Nat) (t : Thread) : (setEprog n t).begun = t.begun := rfl
@[simp] theorem setMstart_live (n : Nat) (t : Thread) : (setMstart n t).live = t.live := rfl
@[simp] theorem setMstart_frame (n : Nat) (t : Thread) : (setMstart n t).frame = t.frame := rfl
@[simp] theorem setMstart_pool (n : Nat) (t : Thread) : (setMstart n t).pool = t.pool := rfl
@[simp] theorem setMstart_pack (n : Nat) (t : Thread) : (setMstart n t).pack = t.pack := rfl
@[simp] theorem setMstart_index (n : Nat) (t : Thread) : (setMstart n t).index = t.index := rfl
@[simp] theorem setMstart_sett (n : Nat) (t : Thread) : (setMstart n t).sett = t.sett := rfl
@[simp] theorem setMstart_core (n : Nat) (t : Thread) : (setMstart n t).core = t.core := rfl
@[simp] theorem setMstart_ctx (n : Nat) (t : Thread) : (setMstart n t).ctx = t.ctx := rfl
@[simp] theorem setMstart_s (n : Nat) (t : Thread) : (setMstart n t).s = t.s := rfl
@[simp] theorem setMstart_v (n : Nat) (t : Thread) : (setMstart n t).v = t.v := rfl
@[simp] theorem setMstart_k (n : Nat) (t : Thread) : (setMstart n t).k = t.k := rfl
@[simp] theorem setMstart_h (n : Nat) (t : Thread) : (setMstart n t).h = t.h := rfl
@[simp] theorem setMstart_sf (n : Nat) (t : Thread) : (setMstart n t).sf = t.sf := rfl
@[simp] theorem setMstart_o (n : Nat) (t : Thread) : (setMstart n t).o = t.o := rfl
@[simp] theorem setMstart_map (n : Nat) (t : Thread) : (setMstart n t).map = t.map := rfl
@[simp] theorem setMstart_lkind (n : Nat) (t : Thread) : (setMstart n t).lkind = t.lkind := rfl
@[simp] theorem setMstart_pc (n : Nat) (t : Thread) : (setMstart n t).pc = t.pc := rfl
@[simp] theorem setMstart_pend (n : Nat) (t : Thread) : (setMstart n t).pend = t.pend := rfl
@[simp] theorem setMstart_chain (n : Nat) (t : Thread) : (setMstart n t).chain = t.chain := rfl
@[simp] theorem setMstart_barCount (n : Nat) (t : Thread) : (setMstart n t).barCount = t.barCount := rfl
@[simp] theorem setMstart_barWait (n : Nat) (t : Thread) : (setMstart n t).barWait = t.barWait := rfl
@[simp] theorem setMstart_fols (n : Nat) (t : Thread) : (setMstart n t).fols = t.fols := rfl
@[simp] theorem setMstart_folBad (n : Nat) (t : Thread) : (setMstart n t).folBad = t.folBad := rfl
@[simp] theorem setMstart_seq (n : Nat) (t : Thread) : (setMstart n t).seq = t.seq := rfl
@[simp] theorem setMstart_issued (n : Nat) (t : Thread) : (setMstart n t).issued = t.issued := rfl
@[simp] theorem setMstart_vheld (n : Nat) (t : Thread) : (setMstart n t).vheld = t.vheld := rfl
@[simp] theorem setMstart_kheld (n : Nat) (t : Thread) : (setMstart n t).kheld = t.kheld := rfl
@[simp] theorem setMstart_vbad (n : Nat) (t : Thread) : (setMstart n t).vbad = t.vbad := rfl
@[simp] theorem setMstart_kbad (n : Nat) (t : Thread) : (setMstart n t).kbad = t.kbad := rfl
@[simp] theorem setMstart_wait (n : Nat) (t : Thread) : (setMstart n t).wait = t.wait := rfl
@[simp] theorem setMstart_spawned (n : Nat) (t : Thread) : (setMstart n t).spawned = t.spawned := rfl
@[simp] theorem setMstart_grp (n : Nat) (t : Thread) : (setMstart n t).grp = t.grp := rfl
@[simp] theorem setMstart_elim (n : Nat) (t : Thread) : (setMstart n t).elim = t.elim := rfl
@[simp] theorem setMstart_cut (n : Nat) (t : Thread) : (setMstart n t).cut = t.cut := rfl
@[simp] theorem setMstart_touched (n : Nat) (t : Thread) : (setMstart n t).touched = t.touched := rfl
@[simp] theorem setMstart_stepDue (n : Nat) (t : Thread) : (setMstart n t).stepDue = t.stepDue := rfl
@[simp] theorem setMstart_brkSkip (n : Nat) (t : Thread) : (setMstart n t).brkSkip = t.brkSkip := rfl
@[simp] theorem setMstart_logged (n : Nat) (t : Thread) : (setMstart n t).logged = t.logged := rfl
@[simp] theorem setMstart_parking (n : Nat) (t : Thread) : (setMstart n t).parking = t.parking := rfl
@[simp] theorem setMstart_trapped (n : Nat) (t : Thread) : (setMstart n t).trapped = t.trapped := rfl
@[simp] theorem setMstart_sent (n : Nat) (t : Thread) : (setMstart n t).sent = t.sent := rfl
@[simp] theorem setMstart_begun (n : Nat) (t : Thread) : (setMstart n t).begun = t.begun := rfl
@[simp] theorem setDepth_live (n : Nat) (t : Thread) : (setDepth n t).live = t.live := rfl
@[simp] theorem setDepth_frame (n : Nat) (t : Thread) : (setDepth n t).frame = t.frame := rfl
@[simp] theorem setDepth_pool (n : Nat) (t : Thread) : (setDepth n t).pool = t.pool := rfl
@[simp] theorem setDepth_pack (n : Nat) (t : Thread) : (setDepth n t).pack = t.pack := rfl
@[simp] theorem setDepth_index (n : Nat) (t : Thread) : (setDepth n t).index = t.index := rfl
@[simp] theorem setDepth_sett (n : Nat) (t : Thread) : (setDepth n t).sett = t.sett := rfl
@[simp] theorem setDepth_core (n : Nat) (t : Thread) : (setDepth n t).core = t.core := rfl
@[simp] theorem setDepth_ctx (n : Nat) (t : Thread) : (setDepth n t).ctx = t.ctx := rfl
@[simp] theorem setDepth_s (n : Nat) (t : Thread) : (setDepth n t).s = t.s := rfl
@[simp] theorem setDepth_v (n : Nat) (t : Thread) : (setDepth n t).v = t.v := rfl
@[simp] theorem setDepth_k (n : Nat) (t : Thread) : (setDepth n t).k = t.k := rfl
@[simp] theorem setDepth_h (n : Nat) (t : Thread) : (setDepth n t).h = t.h := rfl
@[simp] theorem setDepth_sf (n : Nat) (t : Thread) : (setDepth n t).sf = t.sf := rfl
@[simp] theorem setDepth_o (n : Nat) (t : Thread) : (setDepth n t).o = t.o := rfl
@[simp] theorem setDepth_map (n : Nat) (t : Thread) : (setDepth n t).map = t.map := rfl
@[simp] theorem setDepth_lkind (n : Nat) (t : Thread) : (setDepth n t).lkind = t.lkind := rfl
@[simp] theorem setDepth_pc (n : Nat) (t : Thread) : (setDepth n t).pc = t.pc := rfl
@[simp] theorem setDepth_pend (n : Nat) (t : Thread) : (setDepth n t).pend = t.pend := rfl
@[simp] theorem setDepth_chain (n : Nat) (t : Thread) : (setDepth n t).chain = t.chain := rfl
@[simp] theorem setDepth_barCount (n : Nat) (t : Thread) : (setDepth n t).barCount = t.barCount := rfl
@[simp] theorem setDepth_barWait (n : Nat) (t : Thread) : (setDepth n t).barWait = t.barWait := rfl
@[simp] theorem setDepth_fols (n : Nat) (t : Thread) : (setDepth n t).fols = t.fols := rfl
@[simp] theorem setDepth_folBad (n : Nat) (t : Thread) : (setDepth n t).folBad = t.folBad := rfl
@[simp] theorem setDepth_seq (n : Nat) (t : Thread) : (setDepth n t).seq = t.seq := rfl
@[simp] theorem setDepth_issued (n : Nat) (t : Thread) : (setDepth n t).issued = t.issued := rfl
@[simp] theorem setDepth_vheld (n : Nat) (t : Thread) : (setDepth n t).vheld = t.vheld := rfl
@[simp] theorem setDepth_kheld (n : Nat) (t : Thread) : (setDepth n t).kheld = t.kheld := rfl
@[simp] theorem setDepth_vbad (n : Nat) (t : Thread) : (setDepth n t).vbad = t.vbad := rfl
@[simp] theorem setDepth_kbad (n : Nat) (t : Thread) : (setDepth n t).kbad = t.kbad := rfl
@[simp] theorem setDepth_wait (n : Nat) (t : Thread) : (setDepth n t).wait = t.wait := rfl
@[simp] theorem setDepth_spawned (n : Nat) (t : Thread) : (setDepth n t).spawned = t.spawned := rfl
@[simp] theorem setDepth_grp (n : Nat) (t : Thread) : (setDepth n t).grp = t.grp := rfl
@[simp] theorem setDepth_elim (n : Nat) (t : Thread) : (setDepth n t).elim = t.elim := rfl
@[simp] theorem setDepth_cut (n : Nat) (t : Thread) : (setDepth n t).cut = t.cut := rfl
@[simp] theorem setDepth_touched (n : Nat) (t : Thread) : (setDepth n t).touched = t.touched := rfl
@[simp] theorem setDepth_stepDue (n : Nat) (t : Thread) : (setDepth n t).stepDue = t.stepDue := rfl
@[simp] theorem setDepth_brkSkip (n : Nat) (t : Thread) : (setDepth n t).brkSkip = t.brkSkip := rfl
@[simp] theorem setDepth_logged (n : Nat) (t : Thread) : (setDepth n t).logged = t.logged := rfl
@[simp] theorem setDepth_parking (n : Nat) (t : Thread) : (setDepth n t).parking = t.parking := rfl
@[simp] theorem setDepth_trapped (n : Nat) (t : Thread) : (setDepth n t).trapped = t.trapped := rfl
@[simp] theorem setDepth_sent (n : Nat) (t : Thread) : (setDepth n t).sent = t.sent := rfl
@[simp] theorem setDepth_begun (n : Nat) (t : Thread) : (setDepth n t).begun = t.begun := rfl
@[simp] theorem orFlags_live (f : Flags) (t : Thread) : (orFlags f t).live = t.live := rfl
@[simp] theorem orFlags_frame (f : Flags) (t : Thread) : (orFlags f t).frame = t.frame := rfl
@[simp] theorem orFlags_pool (f : Flags) (t : Thread) : (orFlags f t).pool = t.pool := rfl
@[simp] theorem orFlags_pack (f : Flags) (t : Thread) : (orFlags f t).pack = t.pack := rfl
@[simp] theorem orFlags_index (f : Flags) (t : Thread) : (orFlags f t).index = t.index := rfl
@[simp] theorem orFlags_sett (f : Flags) (t : Thread) : (orFlags f t).sett = t.sett := rfl
@[simp] theorem orFlags_core (f : Flags) (t : Thread) : (orFlags f t).core = t.core := rfl
@[simp] theorem orFlags_ctx (f : Flags) (t : Thread) : (orFlags f t).ctx = t.ctx := rfl
@[simp] theorem orFlags_s (f : Flags) (t : Thread) : (orFlags f t).s = t.s := rfl
@[simp] theorem orFlags_v (f : Flags) (t : Thread) : (orFlags f t).v = t.v := rfl
@[simp] theorem orFlags_k (f : Flags) (t : Thread) : (orFlags f t).k = t.k := rfl
@[simp] theorem orFlags_h (f : Flags) (t : Thread) : (orFlags f t).h = t.h := rfl
@[simp] theorem orFlags_sf (f : Flags) (t : Thread) : (orFlags f t).sf = t.sf := rfl
@[simp] theorem orFlags_o (f : Flags) (t : Thread) : (orFlags f t).o = t.o := rfl
@[simp] theorem orFlags_map (f : Flags) (t : Thread) : (orFlags f t).map = t.map := rfl
@[simp] theorem orFlags_lkind (f : Flags) (t : Thread) : (orFlags f t).lkind = t.lkind := rfl
@[simp] theorem orFlags_pc (f : Flags) (t : Thread) : (orFlags f t).pc = t.pc := rfl
@[simp] theorem orFlags_pend (f : Flags) (t : Thread) : (orFlags f t).pend = t.pend := rfl
@[simp] theorem orFlags_chain (f : Flags) (t : Thread) : (orFlags f t).chain = t.chain := rfl
@[simp] theorem orFlags_barCount (f : Flags) (t : Thread) : (orFlags f t).barCount = t.barCount := rfl
@[simp] theorem orFlags_barWait (f : Flags) (t : Thread) : (orFlags f t).barWait = t.barWait := rfl
@[simp] theorem orFlags_fols (f : Flags) (t : Thread) : (orFlags f t).fols = t.fols := rfl
@[simp] theorem orFlags_folBad (f : Flags) (t : Thread) : (orFlags f t).folBad = t.folBad := rfl
@[simp] theorem orFlags_seq (f : Flags) (t : Thread) : (orFlags f t).seq = t.seq := rfl
@[simp] theorem orFlags_issued (f : Flags) (t : Thread) : (orFlags f t).issued = t.issued := rfl
@[simp] theorem orFlags_vheld (f : Flags) (t : Thread) : (orFlags f t).vheld = t.vheld := rfl
@[simp] theorem orFlags_kheld (f : Flags) (t : Thread) : (orFlags f t).kheld = t.kheld := rfl
@[simp] theorem orFlags_vbad (f : Flags) (t : Thread) : (orFlags f t).vbad = t.vbad := rfl
@[simp] theorem orFlags_kbad (f : Flags) (t : Thread) : (orFlags f t).kbad = t.kbad := rfl
@[simp] theorem orFlags_wait (f : Flags) (t : Thread) : (orFlags f t).wait = t.wait := rfl
@[simp] theorem orFlags_spawned (f : Flags) (t : Thread) : (orFlags f t).spawned = t.spawned := rfl
@[simp] theorem orFlags_grp (f : Flags) (t : Thread) : (orFlags f t).grp = t.grp := rfl
@[simp] theorem orFlags_elim (f : Flags) (t : Thread) : (orFlags f t).elim = t.elim := rfl
@[simp] theorem orFlags_cut (f : Flags) (t : Thread) : (orFlags f t).cut = t.cut := rfl
@[simp] theorem orFlags_touched (f : Flags) (t : Thread) : (orFlags f t).touched = t.touched := rfl
@[simp] theorem orFlags_stepDue (f : Flags) (t : Thread) : (orFlags f t).stepDue = t.stepDue := rfl
@[simp] theorem orFlags_brkSkip (f : Flags) (t : Thread) : (orFlags f t).brkSkip = t.brkSkip := rfl
@[simp] theorem orFlags_logged (f : Flags) (t : Thread) : (orFlags f t).logged = t.logged := rfl
@[simp] theorem orFlags_parking (f : Flags) (t : Thread) : (orFlags f t).parking = t.parking := rfl
@[simp] theorem orFlags_trapped (f : Flags) (t : Thread) : (orFlags f t).trapped = t.trapped := rfl
@[simp] theorem orFlags_sent (f : Flags) (t : Thread) : (orFlags f t).sent = t.sent := rfl
@[simp] theorem orFlags_begun (f : Flags) (t : Thread) : (orFlags f t).begun = t.begun := rfl
@[simp] theorem setVl_ctl (n : Nat) (t : Thread) : (setVl n t).ctl = { t.ctl with vl := BitVec.ofNat 64 n } := rfl
@[simp] theorem setVstart_ctl (n : Nat) (t : Thread) : (setVstart n t).ctl = { t.ctl with vstart := BitVec.ofNat 64 n } := rfl
@[simp] theorem setEprog_ctl (n : Nat) (t : Thread) : (setEprog n t).ctl = { t.ctl with eprog := BitVec.ofNat 64 n } := rfl
@[simp] theorem setMstart_ctl (n : Nat) (t : Thread) : (setMstart n t).ctl = { t.ctl with mstart := BitVec.ofNat 64 n } := rfl
@[simp] theorem setDepth_ctl (n : Nat) (t : Thread) : (setDepth n t).ctl = { t.ctl with ldepth := BitVec.ofNat 64 n } := rfl
@[simp] theorem orFlags_ctl (f : Flags) (t : Thread) : (orFlags f t).ctl = { t.ctl with fflags := t.ctl.fflags ||| f.zeroExtend 64 } := rfl

/-- A register read after a write of a scalar: the value, zero for s0, every other register as before (R14). -/
theorem sreg_setS (d r : SReg) (x : Word) (t : Thread) :
    sreg (setS d x t) r = if r = 0 then 0 else if r = d then x else sreg t r := by
  unfold sreg setS
  by_cases hr : r = 0
  · simp [hr]
  · by_cases hd : d = 0
    · subst hd; simp [hr]
    · by_cases h : r = d
      · subst h; simp [hr]
      · have : d.val ≠ r.val := fun e => h (Fin.ext e.symm)
        simp [hr, hd, h, Vector.getElem_set_ne _ _ this]

end Sys2Proof.Machine
end

