-- ==== Sys2Proof/Laws/Mem.lean ====
section
/-! SUPPORT. Bytes of memory: a read after a write gives the byte written, every other byte is left alone, and the canonical
form of memory is kept. -/

namespace Sys2Proof.Machine

theorem coreOf_setCore (s : State) (cid k : Nat) (c : Core) : coreOf (setCore cid c s) k = if k = cid then c else coreOf s k := by
  unfold coreOf setCore
  split
  · next h => subst h; exact tget_tset_same _ _ _ _
  · next h => exact tget_tset_other _ _ _ _ _ h

theorem coreOf_modCore (s : State) (cid k : Nat) (f : Core → Core) :
    coreOf (modCore cid f s) k = if k = cid then f (coreOf s cid) else coreOf s k := coreOf_setCore _ _ _ _

theorem tileOf_setTile (c : Core) (slot k : Nat) (x : Tile) : tileOf (setTile slot x c) k = if k = slot then x else tileOf c k := by
  unfold tileOf setTile
  split
  · next h => subst h; exact tget_tset_same _ _ _ _
  · next h => exact tget_tset_other _ _ _ _ _ h

theorem tileByte_setTileByte (x : Tile) (j k : Nat) (b : Byte) (hj : j < 16384) (hk : k < 16384) :
    tileByte (setTileByte x j b) k = if k = j then b else tileByte x k := by
  unfold tileByte setTileByte
  apply BitVec.eq_of_getLsbD_eq
  intro i hi
  have h255 : ∀ n, (255 : Tile).getLsbD n = decide (n < 8) := by
    intro n
    have e : (255 : Tile).getLsbD n = (decide (n < 131072) && (2 ^ 8 - 1 : Nat).testBit n) := by
      show (BitVec.ofNat 131072 255).getLsbD n = _
      rw [BitVec.getLsbD_ofNat]; norm_num
    rw [e, Nat.testBit_two_pow_sub_one]
    by_cases h : n < 8
    · have : n < 131072 := by omega
      simp [h, this]
    · simp [h]
  simp only [BitVec.getLsbD_extractLsb', hi, decide_true, Bool.true_and, BitVec.getLsbD_or, BitVec.getLsbD_and,
    BitVec.getLsbD_not, BitVec.getLsbD_shiftLeft, BitVec.truncate_eq_setWidth, BitVec.getLsbD_setWidth, h255]
  have hb : 8 * k + i < 131072 := by omega
  have hb' : 8 * k + i - 8 * j < 131072 := by omega
  by_cases hkj : k = j
  · subst hkj
    have e : 8 * k + i - 8 * k = i := by omega
    simp [hb, e, hi, show ¬ 8 * k + i < 8 * k by omega]
    intro; omega
  · simp only [hkj, if_false, hb, hb', decide_true, Bool.true_and, BitVec.getLsbD_extractLsb', hi]
    by_cases hlt : 8 * k + i < 8 * j
    · simp [hlt]
    · have h8 : ¬ 8 * k + i - 8 * j < 8 := by omega
      simp [hlt, h8, BitVec.getLsbD_of_ge b (8 * k + i - 8 * j) (by omega)]

/-- A byte read after a byte is written. -/
theorem byteAt_putByte (s : State) (l k : Loc) (b : Byte) : byteAt (putByte l b s) k = if k = l then b else byteAt s k := by
  cases l with
  | phys pa =>
    cases k with
    | phys pb =>
      simp only [byteAt, putByte, Loc.phys.injEq]
      split
      · next h => subst h; exact tget_tset_same _ _ _ _
      · next h => exact tget_tset_other _ _ _ _ _ h
    | store c j => simp [byteAt, putByte, coreOf]
  | store c j =>
    cases k with
    | phys pb => simp [byteAt, putByte]
    | store c' j' =>
      simp only [byteAt, putByte, coreOf_modCore, Loc.store.injEq]
      by_cases hc : c' = c
      · subst hc
        simp only [if_true, true_and, tileOf_setTile]
        by_cases hs : j' / Config.slotBytes = j / Config.slotBytes
        · have l1 : j % Config.slotBytes < 16384 := Nat.mod_lt _ (by decide)
          have l2 : j' % Config.slotBytes < 16384 := Nat.mod_lt _ (by decide)
          rw [if_pos hs, tileByte_setTileByte _ _ _ _ l1 l2, hs]
          have : (j' % Config.slotBytes = j % Config.slotBytes) ↔ j' = j := by
            constructor
            · intro h
              rw [← Nat.div_add_mod j' Config.slotBytes, ← Nat.div_add_mod j Config.slotBytes, h, hs]
            · intro h; rw [h]
          simp only [this]
        · have : j' ≠ j := fun e => hs (by rw [e])
          simp [hs, this]
      · simp [hc]

theorem byteAt_clearSector (q k : Loc) (s : State) : byteAt (clearSector q s) k = byteAt s k := by
  cases q with
  | phys n => cases k <;> rfl
  | store c n =>
    cases k with
    | phys pb => rfl
    | store c' j =>
      simp only [byteAt, clearSector, coreOf_modCore]
      split
      · next h => subst h; rfl
      · rfl

theorem byteAt_foldl_clear (qs : List Loc) (k : Loc) (s : State) :
    byteAt (qs.foldl (fun s q => clearSector q s) s) k = byteAt s k := by
  induction qs generalizing s with
  | nil => rfl
  | cons q t ih => simp [ih, byteAt_clearSector]

theorem byteAt_foldl_wr1 (ws : List Wr) (k : Loc) (s : State) (h : ∀ w ∈ ws, w.loc ≠ k) : byteAt (ws.foldl wr1 s) k = byteAt s k := by
  induction ws generalizing s with
  | nil => rfl
  | cons w t ih =>
    have h1 : k ≠ w.loc := fun e => h w List.mem_cons_self e.symm
    rw [List.foldl_cons, ih _ (fun x hx => h x (List.mem_cons_of_mem _ hx))]
    simp [wr1, byteAt_putByte, h1]

/-- What an access leaves in a byte is what its single writes leave there. -/
theorem byteAt_writeAll (ws : List Wr) (k : Loc) (s : State) : byteAt (writeAll ws s) k = byteAt (ws.foldl wr1 s) k := by
  have h : byteAt (writeAll ws s) k = byteAt (((touchedBad s ws).filter (covers ws)).foldl (fun s q => clearSector q s) (ws.foldl wr1 s)) k := by
    cases k <;> rfl
  rw [h, byteAt_foldl_clear]

/-- An access leaves every byte alone that it does not write. -/
theorem byteAt_writeAll_other (ws : List Wr) (k : Loc) (s : State) (h : ∀ w ∈ ws, w.loc ≠ k) : byteAt (writeAll ws s) k = byteAt s k := by
  rw [byteAt_writeAll, byteAt_foldl_wr1 _ _ _ h]

/-- A whole byte written at places that differ is the byte that stands there afterwards. -/
theorem byteAt_writeAll_bytes (ls : List Loc) (bs : List Byte) (s : State) (hn : ls.Nodup) (i : Nat) (hl : i < ls.length)
    (hb : i < bs.length) : byteAt (writeAll (wrBytes ls bs) s) ls[i] = bs[i] := by
  rw [byteAt_writeAll]
  induction ls generalizing bs s i with
  | nil => simp at hl
  | cons l t ih =>
    cases bs with
    | nil => simp at hb
    | cons b r =>
      simp only [wrBytes, List.zip_cons_cons, List.map_cons, List.foldl_cons]
      have hn' := List.nodup_cons.mp hn
      cases i with
      | zero =>
        simp only [List.getElem_cons_zero]
        rw [byteAt_foldl_wr1]
        · simp [wr1, byteAt_putByte]
        · intro w hw
          obtain ⟨p, hp, rfl⟩ := List.mem_map.mp hw
          intro e
          exact hn'.1 (e ▸ (List.of_mem_zip hp).1)
      | succ j =>
        simp only [List.getElem_cons_succ]
        exact ih r _ hn'.2 j (by simpa using hl) (by simpa using hb)

@[simp] theorem wr1_cur (s : State) (w : Wr) : (wr1 s w).cur = s.cur := by simp [wr1]
@[simp] theorem clearSector_cur (q : Loc) (s : State) : (clearSector q s).cur = s.cur := by cases q <;> rfl

/-- A memory access leaves the thread in focus alone. -/
@[simp] theorem writeAll_cur (ws : List Wr) (s : State) : (writeAll ws s).cur = s.cur := by
  have h1 : ∀ (qs : List Loc) (u : State), (qs.foldl (fun s q => clearSector q s) u).cur = u.cur := by
    intro qs; induction qs with
    | nil => intro u; rfl
    | cons q t ih => intro u; simp [ih]
  have h2 : ∀ (l : List Wr) (u : State), (l.foldl wr1 u).cur = u.cur := by
    intro l; induction l with
    | nil => intro u; rfl
    | cons q t ih => intro u; simp [ih]
  simp [writeAll, h1, h2]

/-! ## The canonical form of memory -/

theorem wf_putByte (l : Loc) (b : Byte) (s : State) (h : Memory.wf s.mem = true) : Memory.wf (putByte l b s).mem = true := by
  cases l with
  | phys pa => exact twf_tset _ _ _ _ h
  | store c j => exact h

theorem wf_wr1 (w : Wr) (s : State) (h : Memory.wf s.mem = true) : Memory.wf (wr1 s w).mem = true := wf_putByte _ _ _ h

theorem clearSector_mem (q : Loc) (s : State) : (clearSector q s).mem = s.mem := by cases q <;> rfl

theorem poisonSector_mem (q : Loc) (s : State) : (poisonSector q s).mem = s.mem := by cases q <;> rfl

/-- An access keeps the canonical form. -/
theorem wf_writeAll (ws : List Wr) (s : State) (h : Memory.wf s.mem = true) : Memory.wf (writeAll ws s).mem = true := by
  have h1 : ∀ (qs : List Loc) (u : State), (qs.foldl (fun s q => clearSector q s) u).mem = u.mem := by
    intro qs; induction qs with
    | nil => intro u; rfl
    | cons q t ih => intro u; rw [List.foldl_cons, ih, clearSector_mem]
  have h2 : ∀ (l : List Wr) (u : State), Memory.wf u.mem = true → Memory.wf (l.foldl wr1 u).mem = true := by
    intro l; induction l with
    | nil => intro u hu; exact hu
    | cons w t ih => intro u hu; exact ih _ (wf_wr1 w u hu)
  unfold writeAll
  rw [h1]
  exact h2 ws s h

/-- A write by physical address changes no more of the state beside its bytes than which sectors are plain. -/
theorem plainSectors_plain (pa n : Nat) (s : State) : ∃ p, plainSectors pa n s = { s with plain := p } := by
  unfold plainSectors; split <;> exact ⟨_, rfl⟩

@[simp] theorem plainSectors_mem (pa n : Nat) (s : State) : (plainSectors pa n s).mem = s.mem := by
  obtain ⟨p, h⟩ := plainSectors_plain pa n s; rw [h]

theorem wf_wrPhys (pa n x : Nat) (s : State) (h : Memory.wf s.mem = true) : Memory.wf (wrPhys pa n x s).mem = true := by
  simpa [wrPhys] using wf_writeAll _ _ h

theorem wf_wrWord (pa : Nat) (x : Word) (s : State) (h : Memory.wf s.mem = true) : Memory.wf (wrWord pa x s).mem = true :=
  wf_wrPhys _ _ _ _ h

/-- Memory after reset lists nothing, so it has the canonical form. -/
theorem reset_mem : State.reset.mem = [] := rfl

/-- Bytes that memory does not list read as zero. -/
theorem rdPhys_unlisted (s : State) (pa n : Nat) (h : s.mem.all (fun c => decide (c.1 < pa) || decide (pa + n ≤ c.1)) = true) :
    rdPhys s pa n = 0 := by
  have blank : ∀ (m : List Host.Cell) (k : Nat), (∀ c ∈ m, c.1 ≠ k) → tget m Memory.blank k = 0 := by
    intro m k hm
    induction m with
    | nil => rfl
    | cons c m ih => simp [tget, hm c (by simp), ih fun c hc => hm c (by simp [hc])]
  have zero : ∀ l : List Byte, (∀ b ∈ l, b = 0) → ofBytes l = 0 := by
    intro l hl
    induction l with
    | nil => rfl
    | cons b l ih => simp [ofBytes, hl b (by simp), ih fun b hb => hl b (by simp [hb])]
  refine zero _ fun b hb => ?_
  simp only [readBytes, physLocs, List.map_map, List.mem_map, List.mem_range] at hb
  obtain ⟨i, hi, rfl⟩ := hb
  refine blank _ _ fun c hc => ?_
  have := List.all_eq_true.mp h c hc
  simp at this
  omega

/-- Writes to physical memory leave the cores alone. -/
theorem cores_writeAll (ws : List Wr) (s : State) (h : ∀ w ∈ ws, ∃ pa, w.loc = .phys pa) : (writeAll ws s).cores = s.cores := by
  have one (s : State) (w : Wr) (hw : ∃ pa, w.loc = .phys pa) : (wr1 s w).cores = s.cores := by
    obtain ⟨pa, hp⟩ := hw; simp [wr1, putByte, hp]
  have bytes : ∀ (l : List Wr) (s : State), (∀ w ∈ l, ∃ pa, w.loc = .phys pa) → (l.foldl wr1 s).cores = s.cores := by
    intro l
    induction l with
    | nil => intro s _; rfl
    | cons w l ih => intro s hl; rw [List.foldl_cons, ih _ fun w hw => hl w (by simp [hw]), one s w (hl w (by simp))]
  have clears : ∀ (l : List Loc) (s : State), (∀ q ∈ l, ∃ k, q = .phys k) → (l.foldl (fun s q => clearSector q s) s).cores = s.cores := by
    intro l
    induction l with
    | nil => intro s _; rfl
    | cons q l ih =>
      intro s hl
      obtain ⟨k, hk⟩ := hl q (by simp)
      rw [List.foldl_cons, ih _ fun q hq => hl q (by simp [hq]), hk, clearSector]
  simp only [writeAll]
  rw [clears, bytes _ _ h]
  intro q hq
  have hq := List.mem_filter.mp (List.mem_eraseDups.mp (List.mem_filter.mp hq).1)
  obtain ⟨w, hw, rfl⟩ := List.mem_map.mp hq.1
  obtain ⟨pa, hp⟩ := h w hw
  exact ⟨pa / 32, by simp [sectorOf, hp]⟩

end Sys2Proof.Machine
end

