-- ==== Sys2Proof/Laws/Map.lean ====
section
/-! SUPPORT. The register map's transfers: backing tiles lie in physical memory, and writing one back leaves the cores alone. -/

namespace Sys2Proof.Machine

/-- A store through a leaf changes no more of the state than the arrangement of a unit. -/
theorem noteUnit_gang (l : Leaf) (s : State) : ∃ g, noteUnit l s = { s with gang := g } := by
  unfold noteUnit; simp only []; split <;> split <;> exact ⟨_, rfl⟩

theorem noteSector_plain (l : Leaf) (s : State) : ∃ p, noteSector l s = { s with plain := p } := by
  unfold noteSector; split <;> exact ⟨_, rfl⟩

/-- Putting a unit's bytes in order keeps the canonical form of memory. -/
theorem wf_arrangeUnit (u g : Nat) (s : State) (h : Memory.wf s.mem = true) : Memory.wf (arrangeUnit u g s).mem = true := by
  have fold : ∀ (l : List Host.Cell) (m : List Host.Cell), Memory.wf m = true →
      Memory.wf (l.foldl (fun m c => tset m Memory.blank (homeByte s u g c.1) c.2) m) = true := by
    intro l; induction l with
    | nil => intro m hm; exact hm
    | cons c l ih => intro m hm; exact ih _ (twf_tset _ _ _ _ hm)
  exact fold _ _ (twf_filter _ _ _ _ h)

theorem wf_settleUnits (s : State) (h : Memory.wf s.mem = true) : Memory.wf (settleUnits s).mem = true := by
  have fold : ∀ (l : List (Nat × Nat)) (s : State), Memory.wf s.mem = true →
      Memory.wf (l.foldl (fun s (u, k) => arrangeUnit u (k / 4 - 1) s) s).mem = true := by
    intro l; induction l with
    | nil => intro s h; exact h
    | cons x l ih => intro s h; exact ih _ (wf_arrangeUnit _ _ _ h)
  exact fold _ s h

/-- Where no unit waits to be put in order nothing changes. -/
theorem settleUnits_idle (s : State) (h : s.gang.all (fun x => decide (x.2 < 4)) = true)
    (hp : s.plain.all (fun x => decide (x.2 < 2)) = true) : settleUnits s = s := by
  have e : s.gang.filter (4 ≤ ·.2) = [] := by
    rw [List.filter_eq_nil_iff]
    intro x hx
    have := List.all_eq_true.mp h x hx
    simp only [decide_eq_true_eq] at this ⊢
    omega
  have p : s.plain.filter (·.2 < 2) = s.plain := by
    rw [List.filter_eq_self]
    intro x hx
    exact List.all_eq_true.mp hp x hx
  unfold settleUnits; rw [e]; simp only [List.foldl_nil]; rw [p]

/-- A store under page tables changes no more of the state than the arrangement of units and which sectors are plain. -/
theorem noteAt_units (s0 : State) (pg : Word) (s : State) (a : Nat) : ∃ g p, noteAt s0 pg s a = { s with gang := g, plain := p } := by
  unfold noteAt
  split
  · next l _ =>
    obtain ⟨g, hg⟩ := noteUnit_gang l s
    obtain ⟨p, hp⟩ := noteSector_plain l (noteUnit l s)
    exact ⟨g, p, by rw [hp, hg]⟩
  · exact ⟨_, _, rfl⟩

theorem noteStore_units (s0 : State) (pg : Word) (a n : Nat) (s : State) :
    ∃ g p, noteStore s0 pg a n s = { s with gang := g, plain := p } := by
  have fold : ∀ (l : List Nat) (s : State), ∃ g p, l.foldl (noteAt s0 pg) s = { s with gang := g, plain := p } := by
    intro l; induction l with
    | nil => intro s; exact ⟨_, _, rfl⟩
    | cons b l ih =>
      intro s
      obtain ⟨g, p, h⟩ := noteAt_units s0 pg s b
      obtain ⟨g', p', h'⟩ := ih (noteAt s0 pg s b)
      exact ⟨g', p', by rw [List.foldl_cons, h', h]⟩
  unfold noteStore
  split
  · exact ⟨_, _, rfl⟩
  · exact fold _ s

/-- A tile written back changes no more of the state beside its bytes than the arrangement of units and which sectors are plain. -/
theorem noteTile_units (s0 : State) (pg a : Word) (s : State) : ∃ g p, noteTile s0 pg a s = { s with gang := g, plain := p } := by
  unfold noteTile
  generalize List.range 4 = l
  induction l generalizing s with
  | nil => exact ⟨_, _, rfl⟩
  | cons p l ih =>
    obtain ⟨g, q, h⟩ := noteStore_units s0 pg (a + BitVec.ofNat 64 (4096 * p)).toNat 4096 s
    obtain ⟨g', q', h'⟩ := ih { s with gang := g, plain := q }
    exact ⟨g', q', by rw [List.foldl_cons, h, h']⟩

@[simp] theorem noteTile_cores (s0 : State) (pg a : Word) (s : State) : (noteTile s0 pg a s).cores = s.cores := by
  obtain ⟨g, p, h⟩ := noteTile_units s0 pg a s; rw [h]

/-- A backing tile lies in physical memory. -/
theorem backPlaces_phys {s : State} {w : Bool} {g a : Word} {ls : List Loc} (h : backPlaces s w g a = .ok ls) : ∀ l ∈ ls, ∃ pa, l = .phys pa := by
  have page {b : Word} {p : List Loc} (hp : backPage s w g b = .ok p) : ∀ l ∈ p, ∃ pa, l = .phys pa := by
    unfold backPage at hp
    split at hp
    · cases hp
    · split at hp
      · cases hp
      · split at hp
        · injection hp with hp; subst hp
          intro l hl
          simp only [leafLocs, List.mem_map] at hl
          obtain ⟨i, _, rfl⟩ := hl
          unfold arranged; split <;> exact ⟨_, rfl⟩
        · injection hp
  suffices H : ∀ (ps : List Nat) (acc : List Loc), (∀ l ∈ acc, ∃ pa, l = .phys pa) → ∀ ls,
      ps.foldl (fun acc p => match acc with
        | .error e => .error e
        | .ok ls => match backPage s w g (a + BitVec.ofNat 64 (4096 * p)) with
          | .ok page => .ok (ls ++ page)
          | .error b => .error (b, a + BitVec.ofNat 64 (4096 * p))) (.ok acc : Except (Bad × Word) (List Loc)) = .ok ls → ∀ l ∈ ls, ∃ pa, l = .phys pa from
    H _ [] (by simp) _ h
  intro ps
  induction ps with
  | nil => intro acc ha ls h; cases h; exact ha
  | cons p ps ih =>
    intro acc ha ls h
    rw [List.foldl_cons] at h
    cases hp : backPage s w g (a + BitVec.ofNat 64 (4096 * p)) with
    | error b =>
      simp only [hp] at h
      have stuck : ∀ (qs : List Nat) (e : Bad × Word), qs.foldl (fun acc p => match acc with
        | .error e => .error e
        | .ok ls => match backPage s w g (a + BitVec.ofNat 64 (4096 * p)) with
          | .ok page => .ok (ls ++ page)
          | .error b => .error (b, a + BitVec.ofNat 64 (4096 * p))) (.error e : Except (Bad × Word) (List Loc)) = .error e := by
        intro qs e; induction qs <;> simp_all
      rw [stuck] at h; cases h
    | ok q =>
      simp only [hp] at h
      exact ih _ (fun l hl => (List.mem_append.mp hl).elim (ha l) (page hp l)) _ h

theorem cores_tileOut (cid slot : Nat) (ls : List Loc) (s : State) (h : ∀ l ∈ ls, ∃ pa, l = .phys pa) : (tileOut cid slot ls s).cores = s.cores := by
  have kept (f : State → Nat → State) (hf : ∀ s e, (f s e).cores = s.cores) : ∀ (es : List Nat) (s : State), (es.foldl f s).cores = s.cores := by
    intro es
    induction es with
    | nil => intro s; rfl
    | cons e es ih => intro s; rw [List.foldl_cons, ih, hf]
  simp only [tileOut]
  rw [kept _ fun s e => ?_, cores_writeAll]
  rotate_left
  · split
    · next l hl => obtain ⟨pa, rfl⟩ := h l (List.mem_of_getElem? hl); rfl
    · rfl
  intro w hw
  obtain ⟨⟨l, b⟩, hx, rfl⟩ := List.mem_map.mp hw
  exact h l (List.of_mem_zip hx).1

/-- A SPILL of a slot that is bound to nothing leaves the cores as its begin record does. -/
theorem cores_spill (s : State) (r k : Nat) : (applyMv s (.spill r k false)).cores =
    (mapSpan s.cur true r k false ((backPlaces s true s.cur.ctl.pgroot (backAddr s.cur r)).toOption.getD []) s).cores := by
  simp only [applyMv, Bool.false_eq_true, if_false]
  split
  · next ls h => rw [noteTile_cores]; exact cores_tileOut _ _ _ _ (backPlaces_phys h)
  · rfl

theorem checkTiles_one (s : State) (w : Bool) (r : Nat) (ls : List Loc) (h : backPlaces s w s.cur.ctl.pgroot (backAddr s.cur r) = .ok ls)
    (hf : ∀ l ∈ ls, locFenced s l = false) : checkTiles s [(r, w)] = none := by
  simp [checkTiles, h]
  exact hf

end Sys2Proof.Machine
end

