-- ==== Sys2Proof/Laws/Ops.lean ====
section
/-! SUPPORT. What each shared operation can do, once: the guards, the completion of an instruction, traps, transfers. -/

namespace Sys2Proof.Machine

open Sys2Proof.Safety

/-- With no result in flight a read gives the register (R114). -/
theorem rs_quiet (s : State) (h : s.cur.pend = []) (j : Nat) (r : SReg) : rs j s r = sreg s.cur r := by
  simp [rs, h]

theorem stallOf_quiet (t : Thread) (h : t.pend = []) (l : List SReg) : stallOf t l = none := by
  simp [stallOf, isEarly, h]

/-- With no result in flight the stall rule does not act (R115). -/
theorem guardS_quiet (s : State) (h : s.cur.pend = []) (l : List SReg) (k : State) : guardS l s k = k := by
  simp [guardS, stallOf_quiet _ h]

theorem agePend_quiet (t : Thread) (h : t.pend = []) (w : Nat) : agePend w t = t := by
  cases t; subst h; rfl

theorem sreg_eq_reg (s : State) (r : SReg) : sreg s.cur r = reg s r := rfl

theorem setS_quiet (d : SReg) (x : Word) (t : Thread) (h : t.pend = []) : setS d x t = put d x t := by
  unfold setS put; split
  · rfl
  · simp [h]

theorem setS4_quiet (d : SReg) (x : Word) (t : Thread) (h : t.pend = []) (w : Nat) :
    setS4 w d x t = if d = 0 then t else { t with s := t.s.set d x, pend := [⟨d, t.s[d], w⟩] } := by
  unfold setS4; split
  · rfl
  · simp [h]

theorem atLoopEnd_false (t : Thread) (h : NoEdge t) : atLoopEnd t = false := by
  unfold atLoopEnd
  rcases h with h | h | h
  · simp [h]
  · simp [h]
  · cases e : depthOf t with
    | zero => simp
    | succ n => rw [e] at h; simp at h; simp [h]

/-- The back-edges do nothing where no level ends (R128). -/
theorem backEdge_noEdge (t : Thread) (hs : inSup t = false) (h : NoEdge t) :
    backEdge t.pc (depthOf t) t = ({ t with pc := t.pc + 4 }, none) := by
  rcases h with h | h | h
  · simp [h] at hs
  · rw [h]; rfl
  · cases e : depthOf t with
    | zero => rfl
    | succ n => rw [e] at h; simp at h; simp [backEdge, h]

/-- An instruction that completes where no loop body ends: its effect, then the next instruction. -/
theorem finish_calm (w : Nat) (f : Thread → Thread) (s : State) (hp : s.cur.pend = []) (hn : NoEdge (f s.cur)) :
    finish w f s = retired f s := by
  unfold finish
  simp only [agePend_quiet _ hp]
  have e : ∀ t : Thread, ({ counted t with pc := (counted t).pc + 4 } : Thread) = after t := fun _ => rfl
  by_cases hs : inSup (f s.cur) = true
  · have : inSup (counted (f s.cur)) = true := hs
    simp only [this, if_true]; rfl
  · have h1 : inSup (counted (f s.cur)) = false := by simpa [inSup] using hs
    have h2 : NoEdge (counted (f s.cur)) := hn
    simp only [h1, Bool.false_eq_true, if_false, backEdge_noEdge _ h1 h2]; rfl

theorem noEdge_of (t u : Thread) (h : NoEdge t) (h1 : u.pc = t.pc) (h2 : u.ctl.estat = t.ctl.estat)
    (h3 : u.ctl.ldepth = t.ctl.ldepth) (h4 : u.ctl.lend = t.ctl.lend) : NoEdge u := by
  unfold NoEdge inSup depthOf lendOf at *
  rw [h1, h2, h3, h4]; exact h

theorem noEdge_setS (d : SReg) (x : Word) (t : Thread) (h : NoEdge t) : NoEdge (setS d x t) := by
  unfold setS; split
  · exact h
  · exact noEdge_of t _ h rfl rfl rfl rfl

theorem noEdge_setS4 (w : Nat) (d : SReg) (x : Word) (t : Thread) (h : NoEdge t) : NoEdge (setS4 w d x t) := by
  unfold setS4; split
  · exact h
  · exact noEdge_of t _ h rfl rfl rfl rfl

theorem guardEnd_calm (s : State) (h : NoEdge s.cur) (k : State) : guardEnd s k = k := by
  simp [guardEnd, atLoopEnd_false _ h]

/-- A trap at the PC is delivered or parks (R139). -/
theorem trapAt_eq (epc : Word) (i : TrapInfo) (s : State) : trapAt epc i s = trappedAt epc i.cause i.eval i.erec s := by
  unfold trapAt trappedAt entered undelivered
  by_cases h : i.cause = cECC
  · simp only [h, show cECC = 0x19 from rfl, if_true, modT, issued, setTrapRegs, modC, consumedError, telemetry, modPkg]
  · simp only [h, show ¬ i.cause = 0x19 from h, if_false, modT, issued, setTrapRegs, modC]

theorem trap_eq (i : TrapInfo) (s : State) : trap i s = Safety.trapped i.cause i.eval i.erec s := trapAt_eq _ _ _

end Sys2Proof.Machine
end

