-- ==== Sys2Proof/Laws/PerInstr.lean ====
section
/-! SUPPORT. The round trip per instruction: the family RoundTrip. A well-formed instruction's word lies below 2^32 and
decodes back to the instruction (03 R84-R97). An environment event has no word. -/

namespace Sys2Proof.Laws.RoundTrip

open Sys2Proof

/-- The word of `i`, where it has one, is a 32-bit word that the decoder reads as `i`. -/
def Statement (i : Instr) : Prop :=
  ∀ W, encode i = some W → i.wellFormed = true → W < 2 ^ 32 ∧ decode W = .ok i

/-! ## Fields read back -/

theorem bit_eq {W lo : Nat} {q : Bool} (h : W / 2 ^ lo % 2 = q.toNat) : Dec.bit W lo = q := by
  cases q <;> simp_all [Dec.bit]

theorem bv_eq {n W lo : Nat} {i : BitVec n} (h : W / 2 ^ lo % 2 ^ n = i.toNat) : Dec.bv n W lo = i :=
  BitVec.eq_of_toNat_eq (by simpa [Dec.bv] using h)

theorem srcB_lt (b : VSrc) : Enc.srcB b < 32 := by cases b <;> exact Fin.isLt _
theorem srcSB_lt (b : VSrc) : Enc.srcSB b < 2 := by cases b <;> simp [Enc.srcSB]

theorem vsrc_eq {W : Nat} {b : VSrc} (h : W / 2 ^ 10 % 32 = Enc.srcB b) (h' : W / 2 ^ 3 % 2 = Enc.srcSB b) :
    Dec.vsrc W = b := by
  cases b with
  | vec r =>
    have hb : Dec.bit W 3 = false := bit_eq h'
    have hr : Dec.r5 W 10 = r := Fin.ext h
    simp [Dec.vsrc, hb, hr]
  | scl r =>
    have hb : Dec.bit W 3 = true := bit_eq h'
    have hr : Dec.r5 W 10 = r := Fin.ext h
    simp [Dec.vsrc, hb, hr]

theorem rm_lt (m : Rm) : Enc.rm m < 4 := by cases m <;> decide
theorem fcond_lt (c : FCond) : Enc.fcond c < 5 := by cases c <;> decide
theorem fconv_lt (c : FConv) : Enc.fconv c < 6 := by cases c <;> decide
theorem vcond_lt (c : VCond) : Enc.vcond c < 8 := by cases c <;> decide
theorem redop_lt (c : RedOp) : Enc.redop c < 3 := by cases c <;> decide
theorem vconv_lt (c : VConv) : Enc.vconv c < 12 := by cases c <;> decide
theorem vmode_lt (c : VMode) : Enc.vmode c < 3 := by cases c <;> decide
theorem scope_lt (c : Scope) : Enc.scope c < 5 := by cases c <;> decide
theorem nibop_lt (c : NibOp) : Enc.nibop c < 6 := by cases c <;> decide
theorem ldwidth_lt (c : LdWidth) : Enc.ldwidth c < 7 := by cases c <;> decide
theorem stwidth_lt (c : StWidth) : Enc.stwidth c < 7 := by cases c <;> decide
theorem cmdbase_lt (c : CmdBase) : Enc.cmdbase c < 32 := by cases c <;> decide
theorem code_lt (f : Fmt) : f.code < 12 := by cases f <;> decide

theorem rm_dec (m : Rm) : Dec.rm (Enc.rm m) = some m := by cases m <;> rfl
theorem fcond_dec (c : FCond) : Dec.fcond (Enc.fcond c) = some c := by cases c <;> rfl
theorem fconv_dec (c : FConv) : Dec.fconv (Enc.fconv c) = some c := by cases c <;> rfl
theorem vcond_dec (c : VCond) : Dec.vcond (Enc.vcond c) = c := by cases c <;> rfl
theorem redop_dec (c : RedOp) : Dec.redop (Enc.redop c) = some c := by cases c <;> rfl
theorem vconv_dec (c : VConv) : Dec.vconv (Enc.vconv c) = some c := by cases c <;> rfl
theorem vmode_dec (c : VMode) : Dec.vmode (Enc.vmode c) = some c := by cases c <;> rfl
theorem scope_dec (c : Scope) : Dec.scope (Enc.scope c) = some c := by cases c <;> rfl
theorem nibop_dec (c : NibOp) : Dec.nibop (Enc.nibop c) = some c := by cases c <;> rfl
theorem ldwidth_dec (c : LdWidth) : Dec.ldwidth (Enc.ldwidth c) = some c := by cases c <;> rfl
theorem stwidth_dec (c : StWidth) : Dec.stwidth (Enc.stwidth c) = some c := by cases c <;> rfl
theorem cmdbase_dec (c : CmdBase) : Dec.cmdbase (Enc.cmdbase c) = some c := by cases c <;> rfl
theorem code_dec (f : Fmt) : Dec.fmt f.code = some f := by cases f <;> rfl

/-! ## The major selects the decoder of its group -/

theorem not_special {W m : Nat} (hm : W / 2 ^ 25 = m) (h1 : 1 ≤ m) (h2 : m ≤ 126) : W ≠ 0 ∧ W ≠ 0xFFFFFFFF := by
  omega

theorem decode_varith {W m : Nat} (hm : W / 2 ^ 25 = m) (h : m = 32) : decode W = Dec.varith W := by
  subst h
  obtain ⟨h0, h1⟩ := not_special hm (by decide) (by decide)
  unfold decode
  rw [if_neg h0, if_neg h1, hm]
  rfl

theorem decode_vunary {W m : Nat} (hm : W / 2 ^ 25 = m) (h : m = 33) : decode W = Dec.vunary W := by
  subst h
  obtain ⟨h0, h1⟩ := not_special hm (by decide) (by decide)
  unfold decode
  rw [if_neg h0, if_neg h1, hm]
  rfl

theorem decode_vlogic {W m : Nat} (hm : W / 2 ^ 25 = m) (h : m = 34) : decode W = Dec.vlogic W := by
  subst h
  obtain ⟨h0, h1⟩ := not_special hm (by decide) (by decide)
  unfold decode
  rw [if_neg h0, if_neg h1, hm]
  rfl

theorem decode_vcmp {W m : Nat} (hm : W / 2 ^ 25 = m) (h : m = 35) : decode W = Dec.vcmp W := by
  subst h
  obtain ⟨h0, h1⟩ := not_special hm (by decide) (by decide)
  unfold decode
  rw [if_neg h0, if_neg h1, hm]
  rfl

theorem decode_kops {W m : Nat} (hm : W / 2 ^ 25 = m) (h : m = 36) : decode W = Dec.kops W := by
  subst h
  obtain ⟨h0, h1⟩ := not_special hm (by decide) (by decide)
  unfold decode
  rw [if_neg h0, if_neg h1, hm]
  rfl

theorem decode_vcompact {W m : Nat} (hm : W / 2 ^ 25 = m) (h : m = 37) : decode W = Dec.vcompact W := by
  subst h
  obtain ⟨h0, h1⟩ := not_special hm (by decide) (by decide)
  unfold decode
  rw [if_neg h0, if_neg h1, hm]
  rfl

theorem decode_vmoves {W m : Nat} (hm : W / 2 ^ 25 = m) (h : m = 38) : decode W = Dec.vmoves W := by
  subst h
  obtain ⟨h0, h1⟩ := not_special hm (by decide) (by decide)
  unfold decode
  rw [if_neg h0, if_neg h1, hm]
  rfl

theorem decode_vreduce {W m : Nat} (hm : W / 2 ^ 25 = m) (h : m = 39) : decode W = Dec.vreduce W := by
  subst h
  obtain ⟨h0, h1⟩ := not_special hm (by decide) (by decide)
  unfold decode
  rw [if_neg h0, if_neg h1, hm]
  rfl

theorem decode_vconvert {W m : Nat} (hm : W / 2 ^ 25 = m) (h : m = 40) : decode W = Dec.vconvert W := by
  subst h
  obtain ⟨h0, h1⟩ := not_special hm (by decide) (by decide)
  unfold decode
  rw [if_neg h0, if_neg h1, hm]
  rfl

theorem decode_scalar {W m : Nat} (hm : W / 2 ^ 25 = m) (h : 1 ≤ m ∧ m ≤ 31) : decode W = Dec.scalar W := by
  obtain ⟨h0, h1⟩ := not_special hm (by omega) (by omega)
  unfold decode
  rw [if_neg h0, if_neg h1, hm]
  split <;> first | omega | skip
  simp only [Bool.and_eq_true, decide_eq_true_eq]
  repeat' split
  all_goals first | rfl | omega

theorem decode_memory {W m : Nat} (hm : W / 2 ^ 25 = m) (h : 64 ≤ m ∧ m ≤ 76) : decode W = Dec.memory W := by
  obtain ⟨h0, h1⟩ := not_special hm (by omega) (by omega)
  unfold decode
  rw [if_neg h0, if_neg h1, hm]
  split <;> first | omega | skip
  simp only [Bool.and_eq_true, decide_eq_true_eq]
  repeat' split
  all_goals first | rfl | omega

theorem decode_matrix {W m : Nat} (hm : W / 2 ^ 25 = m) (h : 88 ≤ m ∧ m ≤ 95) : decode W = Dec.matrix W := by
  obtain ⟨h0, h1⟩ := not_special hm (by omega) (by omega)
  unfold decode
  rw [if_neg h0, if_neg h1, hm]
  split <;> first | omega | skip
  simp only [Bool.and_eq_true, decide_eq_true_eq]
  repeat' split
  all_goals first | rfl | omega

theorem decode_attention {W m : Nat} (hm : W / 2 ^ 25 = m) (h : 104 ≤ m ∧ m ≤ 111) : decode W = Dec.attention W := by
  obtain ⟨h0, h1⟩ := not_special hm (by omega) (by omega)
  unfold decode
  rw [if_neg h0, if_neg h1, hm]
  split <;> first | omega | skip
  simp only [Bool.and_eq_true, decide_eq_true_eq]
  repeat' split
  all_goals first | rfl | omega

theorem decode_heap {W m : Nat} (hm : W / 2 ^ 25 = m) (h : 112 ≤ m ∧ m ≤ 119) : decode W = Dec.heap W := by
  obtain ⟨h0, h1⟩ := not_special hm (by omega) (by omega)
  unfold decode
  rw [if_neg h0, if_neg h1, hm]
  split <;> first | omega | skip
  simp only [Bool.and_eq_true, decide_eq_true_eq]
  repeat' split
  all_goals first | rfl | omega

theorem decode_system {W m : Nat} (hm : W / 2 ^ 25 = m) (h : 120 ≤ m ∧ m ≤ 125) : decode W = Dec.system W := by
  obtain ⟨h0, h1⟩ := not_special hm (by omega) (by omega)
  unfold decode
  rw [if_neg h0, if_neg h1, hm]
  split <;> first | omega | skip
  simp only [Bool.and_eq_true, decide_eq_true_eq]
  repeat' split
  all_goals first | rfl | omega

/-! ## One lemma per constructor of `Instr` -/

theorem unassignedEncoding (w : BitVec 32) : Statement (.unassignedEncoding w) := fun _ h => nomatch h

theorem instructionFetchFault (addr : Word) : Statement (.instructionFetchFault addr) := fun _ h => nomatch h

theorem packStart (p : Nat) : Statement (.packStart p) := fun _ h => nomatch h

theorem packSave (p : Nat) (stops : List (Nat × Nat)) : Statement (.packSave p stops) := fun _ h => nomatch h

theorem contextRestore (p : Nat) : Statement (.contextRestore p) := fun _ h => nomatch h

theorem mapTransferComplete (cid : Nat) : Statement (.mapTransferComplete cid) := fun _ h => nomatch h

theorem decideNode (q : Fin 1024) (idx : BitVec 32) (r : Rec) :
    Statement (.decideNode q idx r) := fun _ h => nomatch h

theorem loopNode (q : Fin 1024) (idx : BitVec 32) (r : Rec) : Statement (.loopNode q idx r) := fun _ h => nomatch h

theorem nopNode (q : Fin 1024) (idx : BitVec 32) (r : Rec) : Statement (.nopNode q idx r) := fun _ h => nomatch h

theorem heldAppend (q : Fin 1024) : Statement (.heldAppend q) := fun _ h => nomatch h

theorem followOn (tid : Nat) : Statement (.followOn tid) := fun _ h => nomatch h

theorem engineCommandStart (sett : Nat) (cmd : Nat) (first : Nat) (bytes : Nat) :
    Statement (.engineCommandStart sett cmd first bytes) := fun _ h => nomatch h

theorem engineTranslationFault (sett : Nat) (cmd : Nat) :
    Statement (.engineTranslationFault sett cmd) := fun _ h => nomatch h

theorem engineCommandComplete (sett : Nat) (cmd : Nat) :
    Statement (.engineCommandComplete sett cmd) := fun _ h => nomatch h

theorem flip (sett : Nat) (cmd : Nat) : Statement (.flip sett cmd) := fun _ h => nomatch h

theorem flipAcknowledge (cid : Nat) (region : Nat) : Statement (.flipAcknowledge cid region) := fun _ h => nomatch h

theorem move (sett : Nat) (cmd : Nat) : Statement (.move sett cmd) := fun _ h => nomatch h

theorem tileArrival (cid : Nat) (off : Nat) (place : Word) (data : Tile) :
    Statement (.tileArrival cid off place data) := fun _ h => nomatch h

theorem mergeContribution (cid : Nat) (off : Nat) (c : Contribution) :
    Statement (.mergeContribution cid off c) := fun _ h => nomatch h

theorem sendReservation (e : LinkEnd) (r : RemoteReply) : Statement (.sendReservation e r) := fun _ h => nomatch h

theorem sendAcknowledgement (tid : Nat) (flags : BitVec 5) :
    Statement (.sendAcknowledgement tid flags) := fun _ h => nomatch h

theorem traceTailWrite (cid : Nat) : Statement (.traceTailWrite cid) := fun _ h => nomatch h

theorem add (d : SReg) (a : SReg) (b : SReg) (w : Stall) : Statement (.add d a b w) := by
  intro W hW hw
  replace hW := Option.some.inj hW
  simp only [Enc.sr] at hW
  have hm : W / 2 ^ 25 = 1 := by omega
  have hm2 : W / 33554432 = 1 := by omega
  have f0 : Dec.fA W = a := Fin.ext (show W / 2 ^ 15 % 32 = a.val by omega)
  have f1 : Dec.fB W = b := Fin.ext (show W / 2 ^ 10 % 32 = b.val by omega)
  have f2 : Dec.fD W = d := Fin.ext (show W / 2 ^ 20 % 32 = d.val by omega)
  have f3 : Dec.fW W = w := Fin.ext (show W / 2 ^ 0 % 4 = w.val by omega)
  have f4 : Dec.fld W 2 256 = 0 := by unfold Dec.fld; omega
  refine ⟨by omega, ?_⟩
  rw [decode_scalar hm (by decide)]
  simp [Dec.scalar, Dec.alu, hm2, f0, f1, f2, f3, f4]

theorem sub (d : SReg) (a : SReg) (b : SReg) (w : Stall) : Statement (.sub d a b w) := by
  intro W hW hw
  replace hW := Option.some.inj hW
  simp only [Enc.sr] at hW
  have hm : W / 2 ^ 25 = 1 := by omega
  have hm2 : W / 33554432 = 1 := by omega
  have f0 : Dec.fA W = a := Fin.ext (show W / 2 ^ 15 % 32 = a.val by omega)
  have f1 : Dec.fB W = b := Fin.ext (show W / 2 ^ 10 % 32 = b.val by omega)
  have f2 : Dec.fD W = d := Fin.ext (show W / 2 ^ 20 % 32 = d.val by omega)
  have f3 : Dec.fW W = w := Fin.ext (show W / 2 ^ 0 % 4 = w.val by omega)
  have f4 : Dec.fld W 2 256 = 1 := by unfold Dec.fld; omega
  refine ⟨by omega, ?_⟩
  rw [decode_scalar hm (by decide)]
  simp [Dec.scalar, Dec.alu, hm2, f0, f1, f2, f3, f4]

theorem and (d : SReg) (a : SReg) (b : SReg) (w : Stall) : Statement (.and d a b w) := by
  intro W hW hw
  replace hW := Option.some.inj hW
  simp only [Enc.sr] at hW
  have hm : W / 2 ^ 25 = 1 := by omega
  have hm2 : W / 33554432 = 1 := by omega
  have f0 : Dec.fA W = a := Fin.ext (show W / 2 ^ 15 % 32 = a.val by omega)
  have f1 : Dec.fB W = b := Fin.ext (show W / 2 ^ 10 % 32 = b.val by omega)
  have f2 : Dec.fD W = d := Fin.ext (show W / 2 ^ 20 % 32 = d.val by omega)
  have f3 : Dec.fW W = w := Fin.ext (show W / 2 ^ 0 % 4 = w.val by omega)
  have f4 : Dec.fld W 2 256 = 2 := by unfold Dec.fld; omega
  refine ⟨by omega, ?_⟩
  rw [decode_scalar hm (by decide)]
  simp [Dec.scalar, Dec.alu, hm2, f0, f1, f2, f3, f4]

theorem or (d : SReg) (a : SReg) (b : SReg) (w : Stall) : Statement (.or d a b w) := by
  intro W hW hw
  replace hW := Option.some.inj hW
  simp only [Enc.sr] at hW
  have hm : W / 2 ^ 25 = 1 := by omega
  have hm2 : W / 33554432 = 1 := by omega
  have f0 : Dec.fA W = a := Fin.ext (show W / 2 ^ 15 % 32 = a.val by omega)
  have f1 : Dec.fB W = b := Fin.ext (show W / 2 ^ 10 % 32 = b.val by omega)
  have f2 : Dec.fD W = d := Fin.ext (show W / 2 ^ 20 % 32 = d.val by omega)
  have f3 : Dec.fW W = w := Fin.ext (show W / 2 ^ 0 % 4 = w.val by omega)
  have f4 : Dec.fld W 2 256 = 3 := by unfold Dec.fld; omega
  refine ⟨by omega, ?_⟩
  rw [decode_scalar hm (by decide)]
  simp [Dec.scalar, Dec.alu, hm2, f0, f1, f2, f3, f4]

theorem xor (d : SReg) (a : SReg) (b : SReg) (w : Stall) : Statement (.xor d a b w) := by
  intro W hW hw
  replace hW := Option.some.inj hW
  simp only [Enc.sr] at hW
  have hm : W / 2 ^ 25 = 1 := by omega
  have hm2 : W / 33554432 = 1 := by omega
  have f0 : Dec.fA W = a := Fin.ext (show W / 2 ^ 15 % 32 = a.val by omega)
  have f1 : Dec.fB W = b := Fin.ext (show W / 2 ^ 10 % 32 = b.val by omega)
  have f2 : Dec.fD W = d := Fin.ext (show W / 2 ^ 20 % 32 = d.val by omega)
  have f3 : Dec.fW W = w := Fin.ext (show W / 2 ^ 0 % 4 = w.val by omega)
  have f4 : Dec.fld W 2 256 = 4 := by unfold Dec.fld; omega
  refine ⟨by omega, ?_⟩
  rw [decode_scalar hm (by decide)]
  simp [Dec.scalar, Dec.alu, hm2, f0, f1, f2, f3, f4]

theorem sll (d : SReg) (a : SReg) (b : SReg) (w : Stall) : Statement (.sll d a b w) := by
  intro W hW hw
  replace hW := Option.some.inj hW
  simp only [Enc.sr] at hW
  have hm : W / 2 ^ 25 = 1 := by omega
  have hm2 : W / 33554432 = 1 := by omega
  have f0 : Dec.fA W = a := Fin.ext (show W / 2 ^ 15 % 32 = a.val by omega)
  have f1 : Dec.fB W = b := Fin.ext (show W / 2 ^ 10 % 32 = b.val by omega)
  have f2 : Dec.fD W = d := Fin.ext (show W / 2 ^ 20 % 32 = d.val by omega)
  have f3 : Dec.fW W = w := Fin.ext (show W / 2 ^ 0 % 4 = w.val by omega)
  have f4 : Dec.fld W 2 256 = 5 := by unfold Dec.fld; omega
  refine ⟨by omega, ?_⟩
  rw [decode_scalar hm (by decide)]
  simp [Dec.scalar, Dec.alu, hm2, f0, f1, f2, f3, f4]

theorem srl (d : SReg) (a : SReg) (b : SReg) (w : Stall) : Statement (.srl d a b w) := by
  intro W hW hw
  replace hW := Option.some.inj hW
  simp only [Enc.sr] at hW
  have hm : W / 2 ^ 25 = 1 := by omega
  have hm2 : W / 33554432 = 1 := by omega
  have f0 : Dec.fA W = a := Fin.ext (show W / 2 ^ 15 % 32 = a.val by omega)
  have f1 : Dec.fB W = b := Fin.ext (show W / 2 ^ 10 % 32 = b.val by omega)
  have f2 : Dec.fD W = d := Fin.ext (show W / 2 ^ 20 % 32 = d.val by omega)
  have f3 : Dec.fW W = w := Fin.ext (show W / 2 ^ 0 % 4 = w.val by omega)
  have f4 : Dec.fld W 2 256 = 6 := by unfold Dec.fld; omega
  refine ⟨by omega, ?_⟩
  rw [decode_scalar hm (by decide)]
  simp [Dec.scalar, Dec.alu, hm2, f0, f1, f2, f3, f4]

theorem sra (d : SReg) (a : SReg) (b : SReg) (w : Stall) : Statement (.sra d a b w) := by
  intro W hW hw
  replace hW := Option.some.inj hW
  simp only [Enc.sr] at hW
  have hm : W / 2 ^ 25 = 1 := by omega
  have hm2 : W / 33554432 = 1 := by omega
  have f0 : Dec.fA W = a := Fin.ext (show W / 2 ^ 15 % 32 = a.val by omega)
  have f1 : Dec.fB W = b := Fin.ext (show W / 2 ^ 10 % 32 = b.val by omega)
  have f2 : Dec.fD W = d := Fin.ext (show W / 2 ^ 20 % 32 = d.val by omega)
  have f3 : Dec.fW W = w := Fin.ext (show W / 2 ^ 0 % 4 = w.val by omega)
  have f4 : Dec.fld W 2 256 = 7 := by unfold Dec.fld; omega
  refine ⟨by omega, ?_⟩
  rw [decode_scalar hm (by decide)]
  simp [Dec.scalar, Dec.alu, hm2, f0, f1, f2, f3, f4]

theorem min (d : SReg) (a : SReg) (b : SReg) (w : Stall) : Statement (.min d a b w) := by
  intro W hW hw
  replace hW := Option.some.inj hW
  simp only [Enc.sr] at hW
  have hm : W / 2 ^ 25 = 1 := by omega
  have hm2 : W / 33554432 = 1 := by omega
  have f0 : Dec.fA W = a := Fin.ext (show W / 2 ^ 15 % 32 = a.val by omega)
  have f1 : Dec.fB W = b := Fin.ext (show W / 2 ^ 10 % 32 = b.val by omega)
  have f2 : Dec.fD W = d := Fin.ext (show W / 2 ^ 20 % 32 = d.val by omega)
  have f3 : Dec.fW W = w := Fin.ext (show W / 2 ^ 0 % 4 = w.val by omega)
  have f4 : Dec.fld W 2 256 = 8 := by unfold Dec.fld; omega
  refine ⟨by omega, ?_⟩
  rw [decode_scalar hm (by decide)]
  simp [Dec.scalar, Dec.alu, hm2, f0, f1, f2, f3, f4]

theorem max (d : SReg) (a : SReg) (b : SReg) (w : Stall) : Statement (.max d a b w) := by
  intro W hW hw
  replace hW := Option.some.inj hW
  simp only [Enc.sr] at hW
  have hm : W / 2 ^ 25 = 1 := by omega
  have hm2 : W / 33554432 = 1 := by omega
  have f0 : Dec.fA W = a := Fin.ext (show W / 2 ^ 15 % 32 = a.val by omega)
  have f1 : Dec.fB W = b := Fin.ext (show W / 2 ^ 10 % 32 = b.val by omega)
  have f2 : Dec.fD W = d := Fin.ext (show W / 2 ^ 20 % 32 = d.val by omega)
  have f3 : Dec.fW W = w := Fin.ext (show W / 2 ^ 0 % 4 = w.val by omega)
  have f4 : Dec.fld W 2 256 = 9 := by unfold Dec.fld; omega
  refine ⟨by omega, ?_⟩
  rw [decode_scalar hm (by decide)]
  simp [Dec.scalar, Dec.alu, hm2, f0, f1, f2, f3, f4]

theorem minU (d : SReg) (a : SReg) (b : SReg) (w : Stall) : Statement (.minU d a b w) := by
  intro W hW hw
  replace hW := Option.some.inj hW
  simp only [Enc.sr] at hW
  have hm : W / 2 ^ 25 = 1 := by omega
  have hm2 : W / 33554432 = 1 := by omega
  have f0 : Dec.fA W = a := Fin.ext (show W / 2 ^ 15 % 32 = a.val by omega)
  have f1 : Dec.fB W = b := Fin.ext (show W / 2 ^ 10 % 32 = b.val by omega)
  have f2 : Dec.fD W = d := Fin.ext (show W / 2 ^ 20 % 32 = d.val by omega)
  have f3 : Dec.fW W = w := Fin.ext (show W / 2 ^ 0 % 4 = w.val by omega)
  have f4 : Dec.fld W 2 256 = 10 := by unfold Dec.fld; omega
  refine ⟨by omega, ?_⟩
  rw [decode_scalar hm (by decide)]
  simp [Dec.scalar, Dec.alu, hm2, f0, f1, f2, f3, f4]

theorem maxU (d : SReg) (a : SReg) (b : SReg) (w : Stall) : Statement (.maxU d a b w) := by
  intro W hW hw
  replace hW := Option.some.inj hW
  simp only [Enc.sr] at hW
  have hm : W / 2 ^ 25 = 1 := by omega
  have hm2 : W / 33554432 = 1 := by omega
  have f0 : Dec.fA W = a := Fin.ext (show W / 2 ^ 15 % 32 = a.val by omega)
  have f1 : Dec.fB W = b := Fin.ext (show W / 2 ^ 10 % 32 = b.val by omega)
  have f2 : Dec.fD W = d := Fin.ext (show W / 2 ^ 20 % 32 = d.val by omega)
  have f3 : Dec.fW W = w := Fin.ext (show W / 2 ^ 0 % 4 = w.val by omega)
  have f4 : Dec.fld W 2 256 = 11 := by unfold Dec.fld; omega
  refine ⟨by omega, ?_⟩
  rw [decode_scalar hm (by decide)]
  simp [Dec.scalar, Dec.alu, hm2, f0, f1, f2, f3, f4]

theorem slt (d : SReg) (a : SReg) (b : SReg) (w : Stall) : Statement (.slt d a b w) := by
  intro W hW hw
  replace hW := Option.some.inj hW
  simp only [Enc.sr] at hW
  have hm : W / 2 ^ 25 = 1 := by omega
  have hm2 : W / 33554432 = 1 := by omega
  have f0 : Dec.fA W = a := Fin.ext (show W / 2 ^ 15 % 32 = a.val by omega)
  have f1 : Dec.fB W = b := Fin.ext (show W / 2 ^ 10 % 32 = b.val by omega)
  have f2 : Dec.fD W = d := Fin.ext (show W / 2 ^ 20 % 32 = d.val by omega)
  have f3 : Dec.fW W = w := Fin.ext (show W / 2 ^ 0 % 4 = w.val by omega)
  have f4 : Dec.fld W 2 256 = 12 := by unfold Dec.fld; omega
  refine ⟨by omega, ?_⟩
  rw [decode_scalar hm (by decide)]
  simp [Dec.scalar, Dec.alu, hm2, f0, f1, f2, f3, f4]

theorem sltu (d : SReg) (a : SReg) (b : SReg) (w : Stall) : Statement (.sltu d a b w) := by
  intro W hW hw
  replace hW := Option.some.inj hW
  simp only [Enc.sr] at hW
  have hm : W / 2 ^ 25 = 1 := by omega
  have hm2 : W / 33554432 = 1 := by omega
  have f0 : Dec.fA W = a := Fin.ext (show W / 2 ^ 15 % 32 = a.val by omega)
  have f1 : Dec.fB W = b := Fin.ext (show W / 2 ^ 10 % 32 = b.val by omega)
  have f2 : Dec.fD W = d := Fin.ext (show W / 2 ^ 20 % 32 = d.val by omega)
  have f3 : Dec.fW W = w := Fin.ext (show W / 2 ^ 0 % 4 = w.val by omega)
  have f4 : Dec.fld W 2 256 = 13 := by unfold Dec.fld; omega
  refine ⟨by omega, ?_⟩
  rw [decode_scalar hm (by decide)]
  simp [Dec.scalar, Dec.alu, hm2, f0, f1, f2, f3, f4]

theorem clz (d : SReg) (a : SReg) (w : Stall) : Statement (.clz d a w) := by
  intro W hW hw
  replace hW := Option.some.inj hW
  simp only [Enc.sr] at hW
  have hm : W / 2 ^ 25 = 1 := by omega
  have hm2 : W / 33554432 = 1 := by omega
  have f0 : Dec.fA W = a := Fin.ext (show W / 2 ^ 15 % 32 = a.val by omega)
  have f1 : Dec.fD W = d := Fin.ext (show W / 2 ^ 20 % 32 = d.val by omega)
  have f2 : Dec.fW W = w := Fin.ext (show W / 2 ^ 0 % 4 = w.val by omega)
  have f3 : Dec.fld W 10 32 = 0 := by unfold Dec.fld; omega
  have f4 : Dec.fld W 2 256 = 14 := by unfold Dec.fld; omega
  refine ⟨by omega, ?_⟩
  rw [decode_scalar hm (by decide)]
  simp [Dec.scalar, Dec.alu, hm2, f0, f1, f2, f3, f4, Dec.rsv]

theorem popc (d : SReg) (a : SReg) (w : Stall) : Statement (.popc d a w) := by
  intro W hW hw
  replace hW := Option.some.inj hW
  simp only [Enc.sr] at hW
  have hm : W / 2 ^ 25 = 1 := by omega
  have hm2 : W / 33554432 = 1 := by omega
  have f0 : Dec.fA W = a := Fin.ext (show W / 2 ^ 15 % 32 = a.val by omega)
  have f1 : Dec.fD W = d := Fin.ext (show W / 2 ^ 20 % 32 = d.val by omega)
  have f2 : Dec.fW W = w := Fin.ext (show W / 2 ^ 0 % 4 = w.val by omega)
  have f3 : Dec.fld W 10 32 = 0 := by unfold Dec.fld; omega
  have f4 : Dec.fld W 2 256 = 15 := by unfold Dec.fld; omega
  refine ⟨by omega, ?_⟩
  rw [decode_scalar hm (by decide)]
  simp [Dec.scalar, Dec.alu, hm2, f0, f1, f2, f3, f4, Dec.rsv]

theorem mul (d : SReg) (a : SReg) (b : SReg) (w : Stall) : Statement (.mul d a b w) := by
  intro W hW hw
  replace hW := Option.some.inj hW
  simp only [Enc.sr] at hW
  have hm : W / 2 ^ 25 = 2 := by omega
  have hm2 : W / 33554432 = 2 := by omega
  have f0 : Dec.fA W = a := Fin.ext (show W / 2 ^ 15 % 32 = a.val by omega)
  have f1 : Dec.fB W = b := Fin.ext (show W / 2 ^ 10 % 32 = b.val by omega)
  have f2 : Dec.fD W = d := Fin.ext (show W / 2 ^ 20 % 32 = d.val by omega)
  have f3 : Dec.fW W = w := Fin.ext (show W / 2 ^ 0 % 4 = w.val by omega)
  have f4 : Dec.fld W 2 256 = 0 := by unfold Dec.fld; omega
  refine ⟨by omega, ?_⟩
  rw [decode_scalar hm (by decide)]
  simp [Dec.scalar, Dec.mulDiv, hm2, f0, f1, f2, f3, f4]

theorem mulh (d : SReg) (a : SReg) (b : SReg) (w : Stall) : Statement (.mulh d a b w) := by
  intro W hW hw
  replace hW := Option.some.inj hW
  simp only [Enc.sr] at hW
  have hm : W / 2 ^ 25 = 2 := by omega
  have hm2 : W / 33554432 = 2 := by omega
  have f0 : Dec.fA W = a := Fin.ext (show W / 2 ^ 15 % 32 = a.val by omega)
  have f1 : Dec.fB W = b := Fin.ext (show W / 2 ^ 10 % 32 = b.val by omega)
  have f2 : Dec.fD W = d := Fin.ext (show W / 2 ^ 20 % 32 = d.val by omega)
  have f3 : Dec.fW W = w := Fin.ext (show W / 2 ^ 0 % 4 = w.val by omega)
  have f4 : Dec.fld W 2 256 = 1 := by unfold Dec.fld; omega
  refine ⟨by omega, ?_⟩
  rw [decode_scalar hm (by decide)]
  simp [Dec.scalar, Dec.mulDiv, hm2, f0, f1, f2, f3, f4]

theorem mulhU (d : SReg) (a : SReg) (b : SReg) (w : Stall) : Statement (.mulhU d a b w) := by
  intro W hW hw
  replace hW := Option.some.inj hW
  simp only [Enc.sr] at hW
  have hm : W / 2 ^ 25 = 2 := by omega
  have hm2 : W / 33554432 = 2 := by omega
  have f0 : Dec.fA W = a := Fin.ext (show W / 2 ^ 15 % 32 = a.val by omega)
  have f1 : Dec.fB W = b := Fin.ext (show W / 2 ^ 10 % 32 = b.val by omega)
  have f2 : Dec.fD W = d := Fin.ext (show W / 2 ^ 20 % 32 = d.val by omega)
  have f3 : Dec.fW W = w := Fin.ext (show W / 2 ^ 0 % 4 = w.val by omega)
  have f4 : Dec.fld W 2 256 = 2 := by unfold Dec.fld; omega
  refine ⟨by omega, ?_⟩
  rw [decode_scalar hm (by decide)]
  simp [Dec.scalar, Dec.mulDiv, hm2, f0, f1, f2, f3, f4]

theorem div (d : SReg) (a : SReg) (b : SReg) (w : Stall) : Statement (.div d a b w) := by
  intro W hW hw
  replace hW := Option.some.inj hW
  simp only [Enc.sr] at hW
  have hm : W / 2 ^ 25 = 2 := by omega
  have hm2 : W / 33554432 = 2 := by omega
  have f0 : Dec.fA W = a := Fin.ext (show W / 2 ^ 15 % 32 = a.val by omega)
  have f1 : Dec.fB W = b := Fin.ext (show W / 2 ^ 10 % 32 = b.val by omega)
  have f2 : Dec.fD W = d := Fin.ext (show W / 2 ^ 20 % 32 = d.val by omega)
  have f3 : Dec.fW W = w := Fin.ext (show W / 2 ^ 0 % 4 = w.val by omega)
  have f4 : Dec.fld W 2 256 = 3 := by unfold Dec.fld; omega
  refine ⟨by omega, ?_⟩
  rw [decode_scalar hm (by decide)]
  simp [Dec.scalar, Dec.mulDiv, hm2, f0, f1, f2, f3, f4]

theorem divU (d : SReg) (a : SReg) (b : SReg) (w : Stall) : Statement (.divU d a b w) := by
  intro W hW hw
  replace hW := Option.some.inj hW
  simp only [Enc.sr] at hW
  have hm : W / 2 ^ 25 = 2 := by omega
  have hm2 : W / 33554432 = 2 := by omega
  have f0 : Dec.fA W = a := Fin.ext (show W / 2 ^ 15 % 32 = a.val by omega)
  have f1 : Dec.fB W = b := Fin.ext (show W / 2 ^ 10 % 32 = b.val by omega)
  have f2 : Dec.fD W = d := Fin.ext (show W / 2 ^ 20 % 32 = d.val by omega)
  have f3 : Dec.fW W = w := Fin.ext (show W / 2 ^ 0 % 4 = w.val by omega)
  have f4 : Dec.fld W 2 256 = 4 := by unfold Dec.fld; omega
  refine ⟨by omega, ?_⟩
  rw [decode_scalar hm (by decide)]
  simp [Dec.scalar, Dec.mulDiv, hm2, f0, f1, f2, f3, f4]

theorem rem (d : SReg) (a : SReg) (b : SReg) (w : Stall) : Statement (.rem d a b w) := by
  intro W hW hw
  replace hW := Option.some.inj hW
  simp only [Enc.sr] at hW
  have hm : W / 2 ^ 25 = 2 := by omega
  have hm2 : W / 33554432 = 2 := by omega
  have f0 : Dec.fA W = a := Fin.ext (show W / 2 ^ 15 % 32 = a.val by omega)
  have f1 : Dec.fB W = b := Fin.ext (show W / 2 ^ 10 % 32 = b.val by omega)
  have f2 : Dec.fD W = d := Fin.ext (show W / 2 ^ 20 % 32 = d.val by omega)
  have f3 : Dec.fW W = w := Fin.ext (show W / 2 ^ 0 % 4 = w.val by omega)
  have f4 : Dec.fld W 2 256 = 5 := by unfold Dec.fld; omega
  refine ⟨by omega, ?_⟩
  rw [decode_scalar hm (by decide)]
  simp [Dec.scalar, Dec.mulDiv, hm2, f0, f1, f2, f3, f4]

theorem remU (d : SReg) (a : SReg) (b : SReg) (w : Stall) : Statement (.remU d a b w) := by
  intro W hW hw
  replace hW := Option.some.inj hW
  simp only [Enc.sr] at hW
  have hm : W / 2 ^ 25 = 2 := by omega
  have hm2 : W / 33554432 = 2 := by omega
  have f0 : Dec.fA W = a := Fin.ext (show W / 2 ^ 15 % 32 = a.val by omega)
  have f1 : Dec.fB W = b := Fin.ext (show W / 2 ^ 10 % 32 = b.val by omega)
  have f2 : Dec.fD W = d := Fin.ext (show W / 2 ^ 20 % 32 = d.val by omega)
  have f3 : Dec.fW W = w := Fin.ext (show W / 2 ^ 0 % 4 = w.val by omega)
  have f4 : Dec.fld W 2 256 = 6 := by unfold Dec.fld; omega
  refine ⟨by omega, ?_⟩
  rw [decode_scalar hm (by decide)]
  simp [Dec.scalar, Dec.mulDiv, hm2, f0, f1, f2, f3, f4]

theorem fadd (d : SReg) (a : SReg) (b : SReg) (m : Rm) (w : Stall) : Statement (.fadd d a b m w) := by
  intro W hW hw
  replace hW := Option.some.inj hW
  have b_m := rm_lt m
  simp only [Enc.sr] at hW
  have hm : W / 2 ^ 25 = 3 := by omega
  have hm2 : W / 33554432 = 3 := by omega
  have f0 : Dec.fA W = a := Fin.ext (show W / 2 ^ 15 % 32 = a.val by omega)
  have f1 : Dec.fB W = b := Fin.ext (show W / 2 ^ 10 % 32 = b.val by omega)
  have f2 : Dec.fD W = d := Fin.ext (show W / 2 ^ 20 % 32 = d.val by omega)
  have f3 : Dec.fW W = w := Fin.ext (show W / 2 ^ 0 % 4 = w.val by omega)
  have f4 : Dec.fld W 2 8 = Enc.rm m := by unfold Dec.fld; omega
  have f5 : Dec.fld W 5 32 = 0 := by unfold Dec.fld; omega
  refine ⟨by omega, ?_⟩
  rw [decode_scalar hm (by decide)]
  simp [Dec.scalar, Dec.sfloat, hm2, f0, f1, f2, f3, f4, f5, rm_dec, Dec.opt]

theorem fsub (d : SReg) (a : SReg) (b : SReg) (m : Rm) (w : Stall) : Statement (.fsub d a b m w) := by
  intro W hW hw
  replace hW := Option.some.inj hW
  have b_m := rm_lt m
  simp only [Enc.sr] at hW
  have hm : W / 2 ^ 25 = 3 := by omega
  have hm2 : W / 33554432 = 3 := by omega
  have f0 : Dec.fA W = a := Fin.ext (show W / 2 ^ 15 % 32 = a.val by omega)
  have f1 : Dec.fB W = b := Fin.ext (show W / 2 ^ 10 % 32 = b.val by omega)
  have f2 : Dec.fD W = d := Fin.ext (show W / 2 ^ 20 % 32 = d.val by omega)
  have f3 : Dec.fW W = w := Fin.ext (show W / 2 ^ 0 % 4 = w.val by omega)
  have f4 : Dec.fld W 2 8 = Enc.rm m := by unfold Dec.fld; omega
  have f5 : Dec.fld W 5 32 = 1 := by unfold Dec.fld; omega
  refine ⟨by omega, ?_⟩
  rw [decode_scalar hm (by decide)]
  simp [Dec.scalar, Dec.sfloat, hm2, f0, f1, f2, f3, f4, f5, rm_dec, Dec.opt]

theorem fmul (d : SReg) (a : SReg) (b : SReg) (m : Rm) (w : Stall) : Statement (.fmul d a b m w) := by
  intro W hW hw
  replace hW := Option.some.inj hW
  have b_m := rm_lt m
  simp only [Enc.sr] at hW
  have hm : W / 2 ^ 25 = 3 := by omega
  have hm2 : W / 33554432 = 3 := by omega
  have f0 : Dec.fA W = a := Fin.ext (show W / 2 ^ 15 % 32 = a.val by omega)
  have f1 : Dec.fB W = b := Fin.ext (show W / 2 ^ 10 % 32 = b.val by omega)
  have f2 : Dec.fD W = d := Fin.ext (show W / 2 ^ 20 % 32 = d.val by omega)
  have f3 : Dec.fW W = w := Fin.ext (show W / 2 ^ 0 % 4 = w.val by omega)
  have f4 : Dec.fld W 2 8 = Enc.rm m := by unfold Dec.fld; omega
  have f5 : Dec.fld W 5 32 = 2 := by unfold Dec.fld; omega
  refine ⟨by omega, ?_⟩
  rw [decode_scalar hm (by decide)]
  simp [Dec.scalar, Dec.sfloat, hm2, f0, f1, f2, f3, f4, f5, rm_dec, Dec.opt]

theorem ffma (d : SReg) (a : SReg) (b : SReg) (m : Rm) (w : Stall) : Statement (.ffma d a b m w) := by
  intro W hW hw
  replace hW := Option.some.inj hW
  have b_m := rm_lt m
  simp only [Enc.sr] at hW
  have hm : W / 2 ^ 25 = 3 := by omega
  have hm2 : W / 33554432 = 3 := by omega
  have f0 : Dec.fA W = a := Fin.ext (show W / 2 ^ 15 % 32 = a.val by omega)
  have f1 : Dec.fB W = b := Fin.ext (show W / 2 ^ 10 % 32 = b.val by omega)
  have f2 : Dec.fD W = d := Fin.ext (show W / 2 ^ 20 % 32 = d.val by omega)
  have f3 : Dec.fW W = w := Fin.ext (show W / 2 ^ 0 % 4 = w.val by omega)
  have f4 : Dec.fld W 2 8 = Enc.rm m := by unfold Dec.fld; omega
  have f5 : Dec.fld W 5 32 = 3 := by unfold Dec.fld; omega
  refine ⟨by omega, ?_⟩
  rw [decode_scalar hm (by decide)]
  simp [Dec.scalar, Dec.sfloat, hm2, f0, f1, f2, f3, f4, f5, rm_dec, Dec.opt]

theorem fdiv (d : SReg) (a : SReg) (b : SReg) (m : Rm) (w : Stall) : Statement (.fdiv d a b m w) := by
  intro W hW hw
  replace hW := Option.some.inj hW
  have b_m := rm_lt m
  simp only [Enc.sr] at hW
  have hm : W / 2 ^ 25 = 3 := by omega
  have hm2 : W / 33554432 = 3 := by omega
  have f0 : Dec.fA W = a := Fin.ext (show W / 2 ^ 15 % 32 = a.val by omega)
  have f1 : Dec.fB W = b := Fin.ext (show W / 2 ^ 10 % 32 = b.val by omega)
  have f2 : Dec.fD W = d := Fin.ext (show W / 2 ^ 20 % 32 = d.val by omega)
  have f3 : Dec.fW W = w := Fin.ext (show W / 2 ^ 0 % 4 = w.val by omega)
  have f4 : Dec.fld W 2 8 = Enc.rm m := by unfold Dec.fld; omega
  have f5 : Dec.fld W 5 32 = 4 := by unfold Dec.fld; omega
  refine ⟨by omega, ?_⟩
  rw [decode_scalar hm (by decide)]
  simp [Dec.scalar, Dec.sfloat, hm2, f0, f1, f2, f3, f4, f5, rm_dec, Dec.opt]

theorem fsqrt (d : SReg) (a : SReg) (m : Rm) (w : Stall) : Statement (.fsqrt d a m w) := by
  intro W hW hw
  replace hW := Option.some.inj hW
  have b_m := rm_lt m
  simp only [Enc.sr] at hW
  have hm : W / 2 ^ 25 = 3 := by omega
  have hm2 : W / 33554432 = 3 := by omega
  have f0 : Dec.fA W = a := Fin.ext (show W / 2 ^ 15 % 32 = a.val by omega)
  have f1 : Dec.fD W = d := Fin.ext (show W / 2 ^ 20 % 32 = d.val by omega)
  have f2 : Dec.fW W = w := Fin.ext (show W / 2 ^ 0 % 4 = w.val by omega)
  have f3 : Dec.fld W 10 32 = 0 := by unfold Dec.fld; omega
  have f4 : Dec.fld W 2 8 = Enc.rm m := by unfold Dec.fld; omega
  have f5 : Dec.fld W 5 32 = 5 := by unfold Dec.fld; omega
  refine ⟨by omega, ?_⟩
  rw [decode_scalar hm (by decide)]
  simp [Dec.scalar, Dec.sfloat, hm2, f0, f1, f2, f3, f4, f5, rm_dec, Dec.rsv, Dec.opt]

theorem fmin (d : SReg) (a : SReg) (b : SReg) (w : Stall) : Statement (.fmin d a b w) := by
  intro W hW hw
  replace hW := Option.some.inj hW
  simp only [Enc.sr] at hW
  have hm : W / 2 ^ 25 = 3 := by omega
  have hm2 : W / 33554432 = 3 := by omega
  have f0 : Dec.fA W = a := Fin.ext (show W / 2 ^ 15 % 32 = a.val by omega)
  have f1 : Dec.fB W = b := Fin.ext (show W / 2 ^ 10 % 32 = b.val by omega)
  have f2 : Dec.fD W = d := Fin.ext (show W / 2 ^ 20 % 32 = d.val by omega)
  have f3 : Dec.fW W = w := Fin.ext (show W / 2 ^ 0 % 4 = w.val by omega)
  have f4 : Dec.fld W 2 8 = 0 := by unfold Dec.fld; omega
  have f5 : Dec.fld W 5 32 = 6 := by unfold Dec.fld; omega
  refine ⟨by omega, ?_⟩
  rw [decode_scalar hm (by decide)]
  simp [Dec.scalar, Dec.sfloat, hm2, f0, f1, f2, f3, f4, f5, Dec.rsv]

theorem fmax (d : SReg) (a : SReg) (b : SReg) (w : Stall) : Statement (.fmax d a b w) := by
  intro W hW hw
  replace hW := Option.some.inj hW
  simp only [Enc.sr] at hW
  have hm : W / 2 ^ 25 = 3 := by omega
  have hm2 : W / 33554432 = 3 := by omega
  have f0 : Dec.fA W = a := Fin.ext (show W / 2 ^ 15 % 32 = a.val by omega)
  have f1 : Dec.fB W = b := Fin.ext (show W / 2 ^ 10 % 32 = b.val by omega)
  have f2 : Dec.fD W = d := Fin.ext (show W / 2 ^ 20 % 32 = d.val by omega)
  have f3 : Dec.fW W = w := Fin.ext (show W / 2 ^ 0 % 4 = w.val by omega)
  have f4 : Dec.fld W 2 8 = 0 := by unfold Dec.fld; omega
  have f5 : Dec.fld W 5 32 = 7 := by unfold Dec.fld; omega
  refine ⟨by omega, ?_⟩
  rw [decode_scalar hm (by decide)]
  simp [Dec.scalar, Dec.sfloat, hm2, f0, f1, f2, f3, f4, f5, Dec.rsv]

theorem fcmp (d : SReg) (a : SReg) (b : SReg) (c : FCond) (w : Stall) : Statement (.fcmp d a b c w) := by
  intro W hW hw
  replace hW := Option.some.inj hW
  have b_c := fcond_lt c
  simp only [Enc.sr] at hW
  have hm : W / 2 ^ 25 = 3 := by omega
  have hm2 : W / 33554432 = 3 := by omega
  have f0 : Dec.fA W = a := Fin.ext (show W / 2 ^ 15 % 32 = a.val by omega)
  have f1 : Dec.fB W = b := Fin.ext (show W / 2 ^ 10 % 32 = b.val by omega)
  have f2 : Dec.fD W = d := Fin.ext (show W / 2 ^ 20 % 32 = d.val by omega)
  have f3 : Dec.fW W = w := Fin.ext (show W / 2 ^ 0 % 4 = w.val by omega)
  have f4 : Dec.fld W 2 8 = Enc.fcond c := by unfold Dec.fld; omega
  have f5 : Dec.fld W 5 32 = 8 := by unfold Dec.fld; omega
  refine ⟨by omega, ?_⟩
  rw [decode_scalar hm (by decide)]
  simp [Dec.scalar, Dec.sfloat, hm2, f0, f1, f2, f3, f4, f5, fcond_dec, Dec.opt]

theorem fcvt (d : SReg) (a : SReg) (k : FConv) (m : Rm) (w : Stall) : Statement (.fcvt d a k m w) := by
  intro W hW hw
  replace hW := Option.some.inj hW
  have b_k := fconv_lt k
  have b_m := rm_lt m
  simp only [Enc.sr] at hW
  have hm : W / 2 ^ 25 = 3 := by omega
  have hm2 : W / 33554432 = 3 := by omega
  have f0 : Dec.fA W = a := Fin.ext (show W / 2 ^ 15 % 32 = a.val by omega)
  have f1 : Dec.fD W = d := Fin.ext (show W / 2 ^ 20 % 32 = d.val by omega)
  have f2 : Dec.fW W = w := Fin.ext (show W / 2 ^ 0 % 4 = w.val by omega)
  have f3 : Dec.fld W 10 32 = Enc.fconv k := by unfold Dec.fld; omega
  have f4 : Dec.fld W 2 8 = Enc.rm m := by unfold Dec.fld; omega
  have f5 : Dec.fld W 5 32 = 9 := by unfold Dec.fld; omega
  refine ⟨by omega, ?_⟩
  rw [decode_scalar hm (by decide)]
  simp [Dec.scalar, Dec.sfloat, hm2, f0, f1, f2, f3, f4, f5, fconv_dec, rm_dec, Dec.opt]

theorem addi (d : SReg) (a : SReg) (i : BitVec 13) (w : Stall) : Statement (.addi d a i w) := by
  intro W hW hw
  replace hW := Option.some.inj hW
  simp only [Enc.si] at hW
  have hm : W / 2 ^ 25 = 4 := by omega
  have hm2 : W / 33554432 = 4 := by omega
  have f0 : Dec.bv 13 W 2 = i := bv_eq (by omega)
  have f1 : Dec.fA W = a := Fin.ext (show W / 2 ^ 15 % 32 = a.val by omega)
  have f2 : Dec.fD W = d := Fin.ext (show W / 2 ^ 20 % 32 = d.val by omega)
  have f3 : Dec.fW W = w := Fin.ext (show W / 2 ^ 0 % 4 = w.val by omega)
  refine ⟨by omega, ?_⟩
  rw [decode_scalar hm (by decide)]
  simp [Dec.scalar, hm2, f0, f1, f2, f3]

theorem andi (d : SReg) (a : SReg) (i : BitVec 13) (w : Stall) : Statement (.andi d a i w) := by
  intro W hW hw
  replace hW := Option.some.inj hW
  simp only [Enc.si] at hW
  have hm : W / 2 ^ 25 = 5 := by omega
  have hm2 : W / 33554432 = 5 := by omega
  have f0 : Dec.bv 13 W 2 = i := bv_eq (by omega)
  have f1 : Dec.fA W = a := Fin.ext (show W / 2 ^ 15 % 32 = a.val by omega)
  have f2 : Dec.fD W = d := Fin.ext (show W / 2 ^ 20 % 32 = d.val by omega)
  have f3 : Dec.fW W = w := Fin.ext (show W / 2 ^ 0 % 4 = w.val by omega)
  refine ⟨by omega, ?_⟩
  rw [decode_scalar hm (by decide)]
  simp [Dec.scalar, hm2, f0, f1, f2, f3]

theorem ori (d : SReg) (a : SReg) (i : BitVec 13) (w : Stall) : Statement (.ori d a i w) := by
  intro W hW hw
  replace hW := Option.some.inj hW
  simp only [Enc.si] at hW
  have hm : W / 2 ^ 25 = 6 := by omega
  have hm2 : W / 33554432 = 6 := by omega
  have f0 : Dec.bv 13 W 2 = i := bv_eq (by omega)
  have f1 : Dec.fA W = a := Fin.ext (show W / 2 ^ 15 % 32 = a.val by omega)
  have f2 : Dec.fD W = d := Fin.ext (show W / 2 ^ 20 % 32 = d.val by omega)
  have f3 : Dec.fW W = w := Fin.ext (show W / 2 ^ 0 % 4 = w.val by omega)
  refine ⟨by omega, ?_⟩
  rw [decode_scalar hm (by decide)]
  simp [Dec.scalar, hm2, f0, f1, f2, f3]

theorem xori (d : SReg) (a : SReg) (i : BitVec 13) (w : Stall) : Statement (.xori d a i w) := by
  intro W hW hw
  replace hW := Option.some.inj hW
  simp only [Enc.si] at hW
  have hm : W / 2 ^ 25 = 7 := by omega
  have hm2 : W / 33554432 = 7 := by omega
  have f0 : Dec.bv 13 W 2 = i := bv_eq (by omega)
  have f1 : Dec.fA W = a := Fin.ext (show W / 2 ^ 15 % 32 = a.val by omega)
  have f2 : Dec.fD W = d := Fin.ext (show W / 2 ^ 20 % 32 = d.val by omega)
  have f3 : Dec.fW W = w := Fin.ext (show W / 2 ^ 0 % 4 = w.val by omega)
  refine ⟨by omega, ?_⟩
  rw [decode_scalar hm (by decide)]
  simp [Dec.scalar, hm2, f0, f1, f2, f3]

theorem slti (d : SReg) (a : SReg) (i : BitVec 13) (w : Stall) : Statement (.slti d a i w) := by
  intro W hW hw
  replace hW := Option.some.inj hW
  simp only [Enc.si] at hW
  have hm : W / 2 ^ 25 = 8 := by omega
  have hm2 : W / 33554432 = 8 := by omega
  have f0 : Dec.bv 13 W 2 = i := bv_eq (by omega)
  have f1 : Dec.fA W = a := Fin.ext (show W / 2 ^ 15 % 32 = a.val by omega)
  have f2 : Dec.fD W = d := Fin.ext (show W / 2 ^ 20 % 32 = d.val by omega)
  have f3 : Dec.fW W = w := Fin.ext (show W / 2 ^ 0 % 4 = w.val by omega)
  refine ⟨by omega, ?_⟩
  rw [decode_scalar hm (by decide)]
  simp [Dec.scalar, hm2, f0, f1, f2, f3]

theorem slli (d : SReg) (a : SReg) (n : Fin 64) (w : Stall) : Statement (.slli d a n w) := by
  intro W hW hw
  replace hW := Option.some.inj hW
  simp only [Enc.si] at hW
  have hm : W / 2 ^ 25 = 9 := by omega
  have hm2 : W / 33554432 = 9 := by omega
  have f0 : Dec.fA W = a := Fin.ext (show W / 2 ^ 15 % 32 = a.val by omega)
  have f1 : Dec.fD W = d := Fin.ext (show W / 2 ^ 20 % 32 = d.val by omega)
  have f2 : Dec.fW W = w := Fin.ext (show W / 2 ^ 0 % 4 = w.val by omega)
  have f3 : Dec.fld W 10 32 = 0 := by unfold Dec.fld; omega
  have f4 : Dec.fld W 8 4 = 0 := by unfold Dec.fld; omega
  have g_n : (⟨W / 4 % 64, Nat.mod_lt _ (by decide)⟩ : Fin 64) = n := Fin.ext (show W / 4 % 64 = n.val by omega)
  refine ⟨by omega, ?_⟩
  rw [decode_scalar hm (by decide)]
  simp [Dec.scalar, Dec.shiftImm, hm2, f0, f1, f2, f3, f4, g_n, Dec.rsv]

theorem srli (d : SReg) (a : SReg) (n : Fin 64) (w : Stall) : Statement (.srli d a n w) := by
  intro W hW hw
  replace hW := Option.some.inj hW
  simp only [Enc.si] at hW
  have hm : W / 2 ^ 25 = 9 := by omega
  have hm2 : W / 33554432 = 9 := by omega
  have f0 : Dec.fA W = a := Fin.ext (show W / 2 ^ 15 % 32 = a.val by omega)
  have f1 : Dec.fD W = d := Fin.ext (show W / 2 ^ 20 % 32 = d.val by omega)
  have f2 : Dec.fW W = w := Fin.ext (show W / 2 ^ 0 % 4 = w.val by omega)
  have f3 : Dec.fld W 10 32 = 0 := by unfold Dec.fld; omega
  have f4 : Dec.fld W 8 4 = 1 := by unfold Dec.fld; omega
  have g_n : (⟨W / 4 % 64, Nat.mod_lt _ (by decide)⟩ : Fin 64) = n := Fin.ext (show W / 4 % 64 = n.val by omega)
  refine ⟨by omega, ?_⟩
  rw [decode_scalar hm (by decide)]
  simp [Dec.scalar, Dec.shiftImm, hm2, f0, f1, f2, f3, f4, g_n, Dec.rsv]

theorem srai (d : SReg) (a : SReg) (n : Fin 64) (w : Stall) : Statement (.srai d a n w) := by
  intro W hW hw
  replace hW := Option.some.inj hW
  simp only [Enc.si] at hW
  have hm : W / 2 ^ 25 = 9 := by omega
  have hm2 : W / 33554432 = 9 := by omega
  have f0 : Dec.fA W = a := Fin.ext (show W / 2 ^ 15 % 32 = a.val by omega)
  have f1 : Dec.fD W = d := Fin.ext (show W / 2 ^ 20 % 32 = d.val by omega)
  have f2 : Dec.fW W = w := Fin.ext (show W / 2 ^ 0 % 4 = w.val by omega)
  have f3 : Dec.fld W 10 32 = 0 := by unfold Dec.fld; omega
  have f4 : Dec.fld W 8 4 = 2 := by unfold Dec.fld; omega
  have g_n : (⟨W / 4 % 64, Nat.mod_lt _ (by decide)⟩ : Fin 64) = n := Fin.ext (show W / 4 % 64 = n.val by omega)
  refine ⟨by omega, ?_⟩
  rw [decode_scalar hm (by decide)]
  simp [Dec.scalar, Dec.shiftImm, hm2, f0, f1, f2, f3, f4, g_n, Dec.rsv]

theorem lui (d : SReg) (i : BitVec 20) : Statement (.lui d i) := by
  intro W hW hw
  replace hW := Option.some.inj hW
  simp only [Enc.li] at hW
  have hm : W / 2 ^ 25 = 10 := by omega
  have hm2 : W / 33554432 = 10 := by omega
  have f0 : Dec.bv 20 W 0 = i := bv_eq (by omega)
  have f1 : Dec.fD W = d := Fin.ext (show W / 2 ^ 20 % 32 = d.val by omega)
  refine ⟨by omega, ?_⟩
  rw [decode_scalar hm (by decide)]
  simp [Dec.scalar, hm2, f0, f1]

theorem ldB (d : SReg) (a : SReg) (i : BitVec 13) (w : Stall) : Statement (.ldB d a i w) := by
  intro W hW hw
  replace hW := Option.some.inj hW
  simp only [Enc.si] at hW
  have hm : W / 2 ^ 25 = 11 := by omega
  have hm2 : W / 33554432 = 11 := by omega
  have f0 : Dec.bv 13 W 2 = i := bv_eq (by omega)
  have f1 : Dec.fA W = a := Fin.ext (show W / 2 ^ 15 % 32 = a.val by omega)
  have f2 : Dec.fD W = d := Fin.ext (show W / 2 ^ 20 % 32 = d.val by omega)
  have f3 : Dec.fW W = w := Fin.ext (show W / 2 ^ 0 % 4 = w.val by omega)
  refine ⟨by omega, ?_⟩
  rw [decode_scalar hm (by decide)]
  simp [Dec.scalar, hm2, f0, f1, f2, f3]

theorem ldBu (d : SReg) (a : SReg) (i : BitVec 13) (w : Stall) : Statement (.ldBu d a i w) := by
  intro W hW hw
  replace hW := Option.some.inj hW
  simp only [Enc.si] at hW
  have hm : W / 2 ^ 25 = 12 := by omega
  have hm2 : W / 33554432 = 12 := by omega
  have f0 : Dec.bv 13 W 2 = i := bv_eq (by omega)
  have f1 : Dec.fA W = a := Fin.ext (show W / 2 ^ 15 % 32 = a.val by omega)
  have f2 : Dec.fD W = d := Fin.ext (show W / 2 ^ 20 % 32 = d.val by omega)
  have f3 : Dec.fW W = w := Fin.ext (show W / 2 ^ 0 % 4 = w.val by omega)
  refine ⟨by omega, ?_⟩
  rw [decode_scalar hm (by decide)]
  simp [Dec.scalar, hm2, f0, f1, f2, f3]

theorem ldH (d : SReg) (a : SReg) (i : BitVec 13) (w : Stall) : Statement (.ldH d a i w) := by
  intro W hW hw
  replace hW := Option.some.inj hW
  simp only [Enc.si] at hW
  have hm : W / 2 ^ 25 = 13 := by omega
  have hm2 : W / 33554432 = 13 := by omega
  have f0 : Dec.bv 13 W 2 = i := bv_eq (by omega)
  have f1 : Dec.fA W = a := Fin.ext (show W / 2 ^ 15 % 32 = a.val by omega)
  have f2 : Dec.fD W = d := Fin.ext (show W / 2 ^ 20 % 32 = d.val by omega)
  have f3 : Dec.fW W = w := Fin.ext (show W / 2 ^ 0 % 4 = w.val by omega)
  refine ⟨by omega, ?_⟩
  rw [decode_scalar hm (by decide)]
  simp [Dec.scalar, hm2, f0, f1, f2, f3]

theorem ldHu (d : SReg) (a : SReg) (i : BitVec 13) (w : Stall) : Statement (.ldHu d a i w) := by
  intro W hW hw
  replace hW := Option.some.inj hW
  simp only [Enc.si] at hW
  have hm : W / 2 ^ 25 = 14 := by omega
  have hm2 : W / 33554432 = 14 := by omega
  have f0 : Dec.bv 13 W 2 = i := bv_eq (by omega)
  have f1 : Dec.fA W = a := Fin.ext (show W / 2 ^ 15 % 32 = a.val by omega)
  have f2 : Dec.fD W = d := Fin.ext (show W / 2 ^ 20 % 32 = d.val by omega)
  have f3 : Dec.fW W = w := Fin.ext (show W / 2 ^ 0 % 4 = w.val by omega)
  refine ⟨by omega, ?_⟩
  rw [decode_scalar hm (by decide)]
  simp [Dec.scalar, hm2, f0, f1, f2, f3]

theorem ldW (d : SReg) (a : SReg) (i : BitVec 13) (w : Stall) : Statement (.ldW d a i w) := by
  intro W hW hw
  replace hW := Option.some.inj hW
  simp only [Enc.si] at hW
  have hm : W / 2 ^ 25 = 15 := by omega
  have hm2 : W / 33554432 = 15 := by omega
  have f0 : Dec.bv 13 W 2 = i := bv_eq (by omega)
  have f1 : Dec.fA W = a := Fin.ext (show W / 2 ^ 15 % 32 = a.val by omega)
  have f2 : Dec.fD W = d := Fin.ext (show W / 2 ^ 20 % 32 = d.val by omega)
  have f3 : Dec.fW W = w := Fin.ext (show W / 2 ^ 0 % 4 = w.val by omega)
  refine ⟨by omega, ?_⟩
  rw [decode_scalar hm (by decide)]
  simp [Dec.scalar, hm2, f0, f1, f2, f3]

theorem ldWu (d : SReg) (a : SReg) (i : BitVec 13) (w : Stall) : Statement (.ldWu d a i w) := by
  intro W hW hw
  replace hW := Option.some.inj hW
  simp only [Enc.si] at hW
  have hm : W / 2 ^ 25 = 16 := by omega
  have hm2 : W / 33554432 = 16 := by omega
  have f0 : Dec.bv 13 W 2 = i := bv_eq (by omega)
  have f1 : Dec.fA W = a := Fin.ext (show W / 2 ^ 15 % 32 = a.val by omega)
  have f2 : Dec.fD W = d := Fin.ext (show W / 2 ^ 20 % 32 = d.val by omega)
  have f3 : Dec.fW W = w := Fin.ext (show W / 2 ^ 0 % 4 = w.val by omega)
  refine ⟨by omega, ?_⟩
  rw [decode_scalar hm (by decide)]
  simp [Dec.scalar, hm2, f0, f1, f2, f3]

theorem ldD (d : SReg) (a : SReg) (i : BitVec 13) (w : Stall) : Statement (.ldD d a i w) := by
  intro W hW hw
  replace hW := Option.some.inj hW
  simp only [Enc.si] at hW
  have hm : W / 2 ^ 25 = 17 := by omega
  have hm2 : W / 33554432 = 17 := by omega
  have f0 : Dec.bv 13 W 2 = i := bv_eq (by omega)
  have f1 : Dec.fA W = a := Fin.ext (show W / 2 ^ 15 % 32 = a.val by omega)
  have f2 : Dec.fD W = d := Fin.ext (show W / 2 ^ 20 % 32 = d.val by omega)
  have f3 : Dec.fW W = w := Fin.ext (show W / 2 ^ 0 % 4 = w.val by omega)
  refine ⟨by omega, ?_⟩
  rw [decode_scalar hm (by decide)]
  simp [Dec.scalar, hm2, f0, f1, f2, f3]

theorem stB (d : SReg) (a : SReg) (i : BitVec 13) (w : Stall) : Statement (.stB d a i w) := by
  intro W hW hw
  replace hW := Option.some.inj hW
  simp only [Enc.si] at hW
  have hm : W / 2 ^ 25 = 18 := by omega
  have hm2 : W / 33554432 = 18 := by omega
  have f0 : Dec.bv 13 W 2 = i := bv_eq (by omega)
  have f1 : Dec.fA W = a := Fin.ext (show W / 2 ^ 15 % 32 = a.val by omega)
  have f2 : Dec.fD W = d := Fin.ext (show W / 2 ^ 20 % 32 = d.val by omega)
  have f3 : Dec.fW W = w := Fin.ext (show W / 2 ^ 0 % 4 = w.val by omega)
  refine ⟨by omega, ?_⟩
  rw [decode_scalar hm (by decide)]
  simp [Dec.scalar, hm2, f0, f1, f2, f3]

theorem stH (d : SReg) (a : SReg) (i : BitVec 13) (w : Stall) : Statement (.stH d a i w) := by
  intro W hW hw
  replace hW := Option.some.inj hW
  simp only [Enc.si] at hW
  have hm : W / 2 ^ 25 = 19 := by omega
  have hm2 : W / 33554432 = 19 := by omega
  have f0 : Dec.bv 13 W 2 = i := bv_eq (by omega)
  have f1 : Dec.fA W = a := Fin.ext (show W / 2 ^ 15 % 32 = a.val by omega)
  have f2 : Dec.fD W = d := Fin.ext (show W / 2 ^ 20 % 32 = d.val by omega)
  have f3 : Dec.fW W = w := Fin.ext (show W / 2 ^ 0 % 4 = w.val by omega)
  refine ⟨by omega, ?_⟩
  rw [decode_scalar hm (by decide)]
  simp [Dec.scalar, hm2, f0, f1, f2, f3]

theorem stW (d : SReg) (a : SReg) (i : BitVec 13) (w : Stall) : Statement (.stW d a i w) := by
  intro W hW hw
  replace hW := Option.some.inj hW
  simp only [Enc.si] at hW
  have hm : W / 2 ^ 25 = 20 := by omega
  have hm2 : W / 33554432 = 20 := by omega
  have f0 : Dec.bv 13 W 2 = i := bv_eq (by omega)
  have f1 : Dec.fA W = a := Fin.ext (show W / 2 ^ 15 % 32 = a.val by omega)
  have f2 : Dec.fD W = d := Fin.ext (show W / 2 ^ 20 % 32 = d.val by omega)
  have f3 : Dec.fW W = w := Fin.ext (show W / 2 ^ 0 % 4 = w.val by omega)
  refine ⟨by omega, ?_⟩
  rw [decode_scalar hm (by decide)]
  simp [Dec.scalar, hm2, f0, f1, f2, f3]

theorem stD (d : SReg) (a : SReg) (i : BitVec 13) (w : Stall) : Statement (.stD d a i w) := by
  intro W hW hw
  replace hW := Option.some.inj hW
  simp only [Enc.si] at hW
  have hm : W / 2 ^ 25 = 21 := by omega
  have hm2 : W / 33554432 = 21 := by omega
  have f0 : Dec.bv 13 W 2 = i := bv_eq (by omega)
  have f1 : Dec.fA W = a := Fin.ext (show W / 2 ^ 15 % 32 = a.val by omega)
  have f2 : Dec.fD W = d := Fin.ext (show W / 2 ^ 20 % 32 = d.val by omega)
  have f3 : Dec.fW W = w := Fin.ext (show W / 2 ^ 0 % 4 = w.val by omega)
  refine ⟨by omega, ?_⟩
  rw [decode_scalar hm (by decide)]
  simp [Dec.scalar, hm2, f0, f1, f2, f3]

theorem beq (a : SReg) (b : SReg) (o : BitVec 15) : Statement (.beq a b o) := by
  intro W hW hw
  replace hW := Option.some.inj hW
  simp only [Enc.br] at hW
  have hm : W / 2 ^ 25 = 22 := by omega
  have hm2 : W / 33554432 = 22 := by omega
  have f0 : Dec.bv 15 W 0 = o := bv_eq (by omega)
  have f1 : Dec.fA W = b := Fin.ext (show W / 2 ^ 15 % 32 = b.val by omega)
  have f2 : Dec.fD W = a := Fin.ext (show W / 2 ^ 20 % 32 = a.val by omega)
  refine ⟨by omega, ?_⟩
  rw [decode_scalar hm (by decide)]
  simp [Dec.scalar, hm2, f0, f1, f2]

theorem bne (a : SReg) (b : SReg) (o : BitVec 15) : Statement (.bne a b o) := by
  intro W hW hw
  replace hW := Option.some.inj hW
  simp only [Enc.br] at hW
  have hm : W / 2 ^ 25 = 23 := by omega
  have hm2 : W / 33554432 = 23 := by omega
  have f0 : Dec.bv 15 W 0 = o := bv_eq (by omega)
  have f1 : Dec.fA W = b := Fin.ext (show W / 2 ^ 15 % 32 = b.val by omega)
  have f2 : Dec.fD W = a := Fin.ext (show W / 2 ^ 20 % 32 = a.val by omega)
  refine ⟨by omega, ?_⟩
  rw [decode_scalar hm (by decide)]
  simp [Dec.scalar, hm2, f0, f1, f2]

theorem blt (a : SReg) (b : SReg) (o : BitVec 15) : Statement (.blt a b o) := by
  intro W hW hw
  replace hW := Option.some.inj hW
  simp only [Enc.br] at hW
  have hm : W / 2 ^ 25 = 24 := by omega
  have hm2 : W / 33554432 = 24 := by omega
  have f0 : Dec.bv 15 W 0 = o := bv_eq (by omega)
  have f1 : Dec.fA W = b := Fin.ext (show W / 2 ^ 15 % 32 = b.val by omega)
  have f2 : Dec.fD W = a := Fin.ext (show W / 2 ^ 20 % 32 = a.val by omega)
  refine ⟨by omega, ?_⟩
  rw [decode_scalar hm (by decide)]
  simp [Dec.scalar, hm2, f0, f1, f2]

theorem bge (a : SReg) (b : SReg) (o : BitVec 15) : Statement (.bge a b o) := by
  intro W hW hw
  replace hW := Option.some.inj hW
  simp only [Enc.br] at hW
  have hm : W / 2 ^ 25 = 25 := by omega
  have hm2 : W / 33554432 = 25 := by omega
  have f0 : Dec.bv 15 W 0 = o := bv_eq (by omega)
  have f1 : Dec.fA W = b := Fin.ext (show W / 2 ^ 15 % 32 = b.val by omega)
  have f2 : Dec.fD W = a := Fin.ext (show W / 2 ^ 20 % 32 = a.val by omega)
  refine ⟨by omega, ?_⟩
  rw [decode_scalar hm (by decide)]
  simp [Dec.scalar, hm2, f0, f1, f2]

theorem bltu (a : SReg) (b : SReg) (o : BitVec 15) : Statement (.bltu a b o) := by
  intro W hW hw
  replace hW := Option.some.inj hW
  simp only [Enc.br] at hW
  have hm : W / 2 ^ 25 = 26 := by omega
  have hm2 : W / 33554432 = 26 := by omega
  have f0 : Dec.bv 15 W 0 = o := bv_eq (by omega)
  have f1 : Dec.fA W = b := Fin.ext (show W / 2 ^ 15 % 32 = b.val by omega)
  have f2 : Dec.fD W = a := Fin.ext (show W / 2 ^ 20 % 32 = a.val by omega)
  refine ⟨by omega, ?_⟩
  rw [decode_scalar hm (by decide)]
  simp [Dec.scalar, hm2, f0, f1, f2]

theorem bgeu (a : SReg) (b : SReg) (o : BitVec 15) : Statement (.bgeu a b o) := by
  intro W hW hw
  replace hW := Option.some.inj hW
  simp only [Enc.br] at hW
  have hm : W / 2 ^ 25 = 27 := by omega
  have hm2 : W / 33554432 = 27 := by omega
  have f0 : Dec.bv 15 W 0 = o := bv_eq (by omega)
  have f1 : Dec.fA W = b := Fin.ext (show W / 2 ^ 15 % 32 = b.val by omega)
  have f2 : Dec.fD W = a := Fin.ext (show W / 2 ^ 20 % 32 = a.val by omega)
  refine ⟨by omega, ?_⟩
  rw [decode_scalar hm (by decide)]
  simp [Dec.scalar, hm2, f0, f1, f2]

theorem jal (d : SReg) (o : BitVec 20) : Statement (.jal d o) := by
  intro W hW hw
  replace hW := Option.some.inj hW
  simp only [Enc.li] at hW
  have hm : W / 2 ^ 25 = 28 := by omega
  have hm2 : W / 33554432 = 28 := by omega
  have f0 : Dec.bv 20 W 0 = o := bv_eq (by omega)
  have f1 : Dec.fD W = d := Fin.ext (show W / 2 ^ 20 % 32 = d.val by omega)
  refine ⟨by omega, ?_⟩
  rw [decode_scalar hm (by decide)]
  simp [Dec.scalar, hm2, f0, f1]

theorem jalr (d : SReg) (a : SReg) (i : BitVec 13) (w : Stall) : Statement (.jalr d a i w) := by
  intro W hW hw
  replace hW := Option.some.inj hW
  simp only [Enc.si] at hW
  have hm : W / 2 ^ 25 = 29 := by omega
  have hm2 : W / 33554432 = 29 := by omega
  have f0 : Dec.bv 13 W 2 = i := bv_eq (by omega)
  have f1 : Dec.fA W = a := Fin.ext (show W / 2 ^ 15 % 32 = a.val by omega)
  have f2 : Dec.fD W = d := Fin.ext (show W / 2 ^ 20 % 32 = d.val by omega)
  have f3 : Dec.fW W = w := Fin.ext (show W / 2 ^ 0 % 4 = w.val by omega)
  refine ⟨by omega, ?_⟩
  rw [decode_scalar hm (by decide)]
  simp [Dec.scalar, hm2, f0, f1, f2, f3]

theorem loop (a : SReg) (o : BitVec 15) : Statement (.loop a o) := by
  intro W hW hw
  replace hW := Option.some.inj hW
  simp [Instr.wellFormed] at hw
  simp only [Enc.br] at hW
  have hm : W / 2 ^ 25 = 30 := by omega
  have hm2 : W / 33554432 = 30 := by omega
  have f0 : Dec.bv 15 W 0 = o := bv_eq (by omega)
  have f1 : Dec.fD W = a := Fin.ext (show W / 2 ^ 20 % 32 = a.val by omega)
  have f2 : Dec.fld W 0 32768 = o.toNat := by unfold Dec.fld; omega
  have f3 : Dec.fld W 15 32 = 0 := by unfold Dec.fld; omega
  refine ⟨by omega, ?_⟩
  rw [decode_scalar hm (by decide)]
  simp [Dec.scalar, Dec.loops, hm2, f0, f1, f2, f3, hw, Dec.acc]

theorem loopv (a : SReg) (o : BitVec 15) : Statement (.loopv a o) := by
  intro W hW hw
  replace hW := Option.some.inj hW
  simp [Instr.wellFormed] at hw
  simp only [Enc.br] at hW
  have hm : W / 2 ^ 25 = 30 := by omega
  have hm2 : W / 33554432 = 30 := by omega
  have f0 : Dec.bv 15 W 0 = o := bv_eq (by omega)
  have f1 : Dec.fD W = a := Fin.ext (show W / 2 ^ 20 % 32 = a.val by omega)
  have f2 : Dec.fld W 0 32768 = o.toNat := by unfold Dec.fld; omega
  have f3 : Dec.fld W 15 32 = 1 := by unfold Dec.fld; omega
  refine ⟨by omega, ?_⟩
  rw [decode_scalar hm (by decide)]
  simp [Dec.scalar, Dec.loops, hm2, f0, f1, f2, f3, hw, Dec.acc]

theorem bkany (k : KReg) (o : BitVec 15) : Statement (.bkany k o) := by
  intro W hW hw
  replace hW := Option.some.inj hW
  simp only [Enc.br] at hW
  have hm : W / 2 ^ 25 = 30 := by omega
  have hm2 : W / 33554432 = 30 := by omega
  have f0 : Dec.bv 15 W 0 = o := bv_eq (by omega)
  have f1 : Dec.fld W 15 32 = 2 := by unfold Dec.fld; omega
  have f2 : Dec.fld W 23 4 = 0 := by unfold Dec.fld; omega
  have f3 : Dec.r3 W 20 = k := Fin.ext (show W / 2 ^ 20 % 8 = k.val by omega)
  refine ⟨by omega, ?_⟩
  rw [decode_scalar hm (by decide)]
  simp [Dec.scalar, Dec.loops, hm2, f0, f1, f2, f3, Dec.rsv]

theorem bknone (k : KReg) (o : BitVec 15) : Statement (.bknone k o) := by
  intro W hW hw
  replace hW := Option.some.inj hW
  simp only [Enc.br] at hW
  have hm : W / 2 ^ 25 = 30 := by omega
  have hm2 : W / 33554432 = 30 := by omega
  have f0 : Dec.bv 15 W 0 = o := bv_eq (by omega)
  have f1 : Dec.fld W 15 32 = 3 := by unfold Dec.fld; omega
  have f2 : Dec.fld W 23 4 = 0 := by unfold Dec.fld; omega
  have f3 : Dec.r3 W 20 = k := Fin.ext (show W / 2 ^ 20 % 8 = k.val by omega)
  refine ⟨by omega, ?_⟩
  rw [decode_scalar hm (by decide)]
  simp [Dec.scalar, Dec.loops, hm2, f0, f1, f2, f3, Dec.rsv]

theorem bkall (k : KReg) (o : BitVec 15) : Statement (.bkall k o) := by
  intro W hW hw
  replace hW := Option.some.inj hW
  simp only [Enc.br] at hW
  have hm : W / 2 ^ 25 = 30 := by omega
  have hm2 : W / 33554432 = 30 := by omega
  have f0 : Dec.bv 15 W 0 = o := bv_eq (by omega)
  have f1 : Dec.fld W 15 32 = 4 := by unfold Dec.fld; omega
  have f2 : Dec.fld W 23 4 = 0 := by unfold Dec.fld; omega
  have f3 : Dec.r3 W 20 = k := Fin.ext (show W / 2 ^ 20 % 8 = k.val by omega)
  refine ⟨by omega, ?_⟩
  rw [decode_scalar hm (by decide)]
  simp [Dec.scalar, Dec.loops, hm2, f0, f1, f2, f3, Dec.rsv]

theorem setvl (d : SReg) (a : SReg) (w : Stall) : Statement (.setvl d a w) := by
  intro W hW hw
  replace hW := Option.some.inj hW
  simp only [Enc.sr] at hW
  have hm : W / 2 ^ 25 = 31 := by omega
  have hm2 : W / 33554432 = 31 := by omega
  have f0 : Dec.fA W = a := Fin.ext (show W / 2 ^ 15 % 32 = a.val by omega)
  have f1 : Dec.fD W = d := Fin.ext (show W / 2 ^ 20 % 32 = d.val by omega)
  have f2 : Dec.fW W = w := Fin.ext (show W / 2 ^ 0 % 4 = w.val by omega)
  have f3 : Dec.fld W 10 32 = 0 := by unfold Dec.fld; omega
  have f4 : Dec.fld W 2 256 = 0 := by unfold Dec.fld; omega
  refine ⟨by omega, ?_⟩
  rw [decode_scalar hm (by decide)]
  simp [Dec.scalar, hm2, f0, f1, f2, f3, f4, Dec.rsv]

theorem vadd (d : VReg) (a : VReg) (b : VSrc) : Statement (.vadd d a b) := by
  intro W hW hw
  replace hW := Option.some.inj hW
  have b_b := srcB_lt b
  have c_b := srcSB_lt b
  simp only [Enc.vr] at hW
  have hm : W / 2 ^ 25 = 32 := by omega
  have hm2 : W / 33554432 = 32 := by omega
  have f0 : Dec.fA W = a := Fin.ext (show W / 2 ^ 15 % 32 = a.val by omega)
  have f1 : Dec.fD W = d := Fin.ext (show W / 2 ^ 20 % 32 = d.val by omega)
  have f2 : Dec.fld W 0 8 = 0 := by unfold Dec.fld; omega
  have f3 : Dec.fld W 4 64 = 0 := by unfold Dec.fld; omega
  refine ⟨by omega, ?_⟩
  rw [decode_varith hm (by decide)]
  have hv : Dec.vsrc W = b := vsrc_eq (by omega) (by omega)
  simp [Dec.varith, f0, f1, f2, f3, hv, Dec.rsv]

theorem vsub (d : VReg) (a : VReg) (b : VSrc) : Statement (.vsub d a b) := by
  intro W hW hw
  replace hW := Option.some.inj hW
  have b_b := srcB_lt b
  have c_b := srcSB_lt b
  simp only [Enc.vr] at hW
  have hm : W / 2 ^ 25 = 32 := by omega
  have hm2 : W / 33554432 = 32 := by omega
  have f0 : Dec.fA W = a := Fin.ext (show W / 2 ^ 15 % 32 = a.val by omega)
  have f1 : Dec.fD W = d := Fin.ext (show W / 2 ^ 20 % 32 = d.val by omega)
  have f2 : Dec.fld W 0 8 = 0 := by unfold Dec.fld; omega
  have f3 : Dec.fld W 4 64 = 1 := by unfold Dec.fld; omega
  refine ⟨by omega, ?_⟩
  rw [decode_varith hm (by decide)]
  have hv : Dec.vsrc W = b := vsrc_eq (by omega) (by omega)
  simp [Dec.varith, f0, f1, f2, f3, hv, Dec.rsv]

theorem vmul (d : VReg) (a : VReg) (b : VSrc) : Statement (.vmul d a b) := by
  intro W hW hw
  replace hW := Option.some.inj hW
  have b_b := srcB_lt b
  have c_b := srcSB_lt b
  simp only [Enc.vr] at hW
  have hm : W / 2 ^ 25 = 32 := by omega
  have hm2 : W / 33554432 = 32 := by omega
  have f0 : Dec.fA W = a := Fin.ext (show W / 2 ^ 15 % 32 = a.val by omega)
  have f1 : Dec.fD W = d := Fin.ext (show W / 2 ^ 20 % 32 = d.val by omega)
  have f2 : Dec.fld W 0 8 = 0 := by unfold Dec.fld; omega
  have f3 : Dec.fld W 4 64 = 2 := by unfold Dec.fld; omega
  refine ⟨by omega, ?_⟩
  rw [decode_varith hm (by decide)]
  have hv : Dec.vsrc W = b := vsrc_eq (by omega) (by omega)
  simp [Dec.varith, f0, f1, f2, f3, hv, Dec.rsv]

theorem vmin (d : VReg) (a : VReg) (b : VSrc) : Statement (.vmin d a b) := by
  intro W hW hw
  replace hW := Option.some.inj hW
  have b_b := srcB_lt b
  have c_b := srcSB_lt b
  simp only [Enc.vr] at hW
  have hm : W / 2 ^ 25 = 32 := by omega
  have hm2 : W / 33554432 = 32 := by omega
  have f0 : Dec.fA W = a := Fin.ext (show W / 2 ^ 15 % 32 = a.val by omega)
  have f1 : Dec.fD W = d := Fin.ext (show W / 2 ^ 20 % 32 = d.val by omega)
  have f2 : Dec.fld W 0 8 = 0 := by unfold Dec.fld; omega
  have f3 : Dec.fld W 4 64 = 3 := by unfold Dec.fld; omega
  refine ⟨by omega, ?_⟩
  rw [decode_varith hm (by decide)]
  have hv : Dec.vsrc W = b := vsrc_eq (by omega) (by omega)
  simp [Dec.varith, f0, f1, f2, f3, hv, Dec.rsv]

theorem vmax (d : VReg) (a : VReg) (b : VSrc) : Statement (.vmax d a b) := by
  intro W hW hw
  replace hW := Option.some.inj hW
  have b_b := srcB_lt b
  have c_b := srcSB_lt b
  simp only [Enc.vr] at hW
  have hm : W / 2 ^ 25 = 32 := by omega
  have hm2 : W / 33554432 = 32 := by omega
  have f0 : Dec.fA W = a := Fin.ext (show W / 2 ^ 15 % 32 = a.val by omega)
  have f1 : Dec.fD W = d := Fin.ext (show W / 2 ^ 20 % 32 = d.val by omega)
  have f2 : Dec.fld W 0 8 = 0 := by unfold Dec.fld; omega
  have f3 : Dec.fld W 4 64 = 4 := by unfold Dec.fld; omega
  refine ⟨by omega, ?_⟩
  rw [decode_varith hm (by decide)]
  have hv : Dec.vsrc W = b := vsrc_eq (by omega) (by omega)
  simp [Dec.varith, f0, f1, f2, f3, hv, Dec.rsv]

theorem vdiv (d : VReg) (a : VReg) (b : VSrc) : Statement (.vdiv d a b) := by
  intro W hW hw
  replace hW := Option.some.inj hW
  have b_b := srcB_lt b
  have c_b := srcSB_lt b
  simp only [Enc.vr] at hW
  have hm : W / 2 ^ 25 = 32 := by omega
  have hm2 : W / 33554432 = 32 := by omega
  have f0 : Dec.fA W = a := Fin.ext (show W / 2 ^ 15 % 32 = a.val by omega)
  have f1 : Dec.fD W = d := Fin.ext (show W / 2 ^ 20 % 32 = d.val by omega)
  have f2 : Dec.fld W 0 8 = 0 := by unfold Dec.fld; omega
  have f3 : Dec.fld W 4 64 = 5 := by unfold Dec.fld; omega
  refine ⟨by omega, ?_⟩
  rw [decode_varith hm (by decide)]
  have hv : Dec.vsrc W = b := vsrc_eq (by omega) (by omega)
  simp [Dec.varith, f0, f1, f2, f3, hv, Dec.rsv]

theorem vfma (d : VReg) (a : VReg) (b : VSrc) : Statement (.vfma d a b) := by
  intro W hW hw
  replace hW := Option.some.inj hW
  have b_b := srcB_lt b
  have c_b := srcSB_lt b
  simp only [Enc.vr] at hW
  have hm : W / 2 ^ 25 = 32 := by omega
  have hm2 : W / 33554432 = 32 := by omega
  have f0 : Dec.fA W = a := Fin.ext (show W / 2 ^ 15 % 32 = a.val by omega)
  have f1 : Dec.fD W = d := Fin.ext (show W / 2 ^ 20 % 32 = d.val by omega)
  have f2 : Dec.fld W 0 8 = 0 := by unfold Dec.fld; omega
  have f3 : Dec.fld W 4 64 = 6 := by unfold Dec.fld; omega
  refine ⟨by omega, ?_⟩
  rw [decode_varith hm (by decide)]
  have hv : Dec.vsrc W = b := vsrc_eq (by omega) (by omega)
  simp [Dec.varith, f0, f1, f2, f3, hv, Dec.rsv]

theorem vfms (d : VReg) (a : VReg) (b : VSrc) : Statement (.vfms d a b) := by
  intro W hW hw
  replace hW := Option.some.inj hW
  have b_b := srcB_lt b
  have c_b := srcSB_lt b
  simp only [Enc.vr] at hW
  have hm : W / 2 ^ 25 = 32 := by omega
  have hm2 : W / 33554432 = 32 := by omega
  have f0 : Dec.fA W = a := Fin.ext (show W / 2 ^ 15 % 32 = a.val by omega)
  have f1 : Dec.fD W = d := Fin.ext (show W / 2 ^ 20 % 32 = d.val by omega)
  have f2 : Dec.fld W 0 8 = 0 := by unfold Dec.fld; omega
  have f3 : Dec.fld W 4 64 = 7 := by unfold Dec.fld; omega
  refine ⟨by omega, ?_⟩
  rw [decode_varith hm (by decide)]
  have hv : Dec.vsrc W = b := vsrc_eq (by omega) (by omega)
  simp [Dec.varith, f0, f1, f2, f3, hv, Dec.rsv]

theorem vabs (d : VReg) (a : VReg) : Statement (.vabs d a) := by
  intro W hW hw
  replace hW := Option.some.inj hW
  simp only [Enc.vr] at hW
  have hm : W / 2 ^ 25 = 32 := by omega
  have hm2 : W / 33554432 = 32 := by omega
  have f0 : Dec.bit W 3 = false := bit_eq (by simp only [Bool.toNat_false]; omega)
  have f1 : Dec.fA W = a := Fin.ext (show W / 2 ^ 15 % 32 = a.val by omega)
  have f2 : Dec.fD W = d := Fin.ext (show W / 2 ^ 20 % 32 = d.val by omega)
  have f3 : Dec.fld W 0 8 = 0 := by unfold Dec.fld; omega
  have f4 : Dec.fld W 10 32 = 0 := by unfold Dec.fld; omega
  have f5 : Dec.fld W 4 64 = 8 := by unfold Dec.fld; omega
  refine ⟨by omega, ?_⟩
  rw [decode_varith hm (by decide)]
  simp [Dec.varith, f0, f1, f2, f3, f4, f5, Dec.rsv, Dec.acc]

theorem vneg (d : VReg) (a : VReg) : Statement (.vneg d a) := by
  intro W hW hw
  replace hW := Option.some.inj hW
  simp only [Enc.vr] at hW
  have hm : W / 2 ^ 25 = 32 := by omega
  have hm2 : W / 33554432 = 32 := by omega
  have f0 : Dec.bit W 3 = false := bit_eq (by simp only [Bool.toNat_false]; omega)
  have f1 : Dec.fA W = a := Fin.ext (show W / 2 ^ 15 % 32 = a.val by omega)
  have f2 : Dec.fD W = d := Fin.ext (show W / 2 ^ 20 % 32 = d.val by omega)
  have f3 : Dec.fld W 0 8 = 0 := by unfold Dec.fld; omega
  have f4 : Dec.fld W 10 32 = 0 := by unfold Dec.fld; omega
  have f5 : Dec.fld W 4 64 = 9 := by unfold Dec.fld; omega
  refine ⟨by omega, ?_⟩
  rw [decode_varith hm (by decide)]
  simp [Dec.varith, f0, f1, f2, f3, f4, f5, Dec.rsv, Dec.acc]

theorem vsqrt (d : VReg) (a : VReg) : Statement (.vsqrt d a) := by
  intro W hW hw
  replace hW := Option.some.inj hW
  simp only [Enc.vr] at hW
  have hm : W / 2 ^ 25 = 33 := by omega
  have hm2 : W / 33554432 = 33 := by omega
  have f0 : Dec.bit W 3 = false := bit_eq (by simp only [Bool.toNat_false]; omega)
  have f1 : Dec.fA W = a := Fin.ext (show W / 2 ^ 15 % 32 = a.val by omega)
  have f2 : Dec.fD W = d := Fin.ext (show W / 2 ^ 20 % 32 = d.val by omega)
  have f3 : Dec.fld W 0 8 = 0 := by unfold Dec.fld; omega
  have f4 : Dec.fld W 10 32 = 0 := by unfold Dec.fld; omega
  have f5 : Dec.fld W 4 64 = 0 := by unfold Dec.fld; omega
  refine ⟨by omega, ?_⟩
  rw [decode_vunary hm (by decide)]
  simp [Dec.vunary, f0, f1, f2, f3, f4, f5, Dec.rsv, Dec.acc]

theorem vrcp (d : VReg) (a : VReg) : Statement (.vrcp d a) := by
  intro W hW hw
  replace hW := Option.some.inj hW
  simp only [Enc.vr] at hW
  have hm : W / 2 ^ 25 = 33 := by omega
  have hm2 : W / 33554432 = 33 := by omega
  have f0 : Dec.bit W 3 = false := bit_eq (by simp only [Bool.toNat_false]; omega)
  have f1 : Dec.fA W = a := Fin.ext (show W / 2 ^ 15 % 32 = a.val by omega)
  have f2 : Dec.fD W = d := Fin.ext (show W / 2 ^ 20 % 32 = d.val by omega)
  have f3 : Dec.fld W 0 8 = 0 := by unfold Dec.fld; omega
  have f4 : Dec.fld W 10 32 = 0 := by unfold Dec.fld; omega
  have f5 : Dec.fld W 4 64 = 1 := by unfold Dec.fld; omega
  refine ⟨by omega, ?_⟩
  rw [decode_vunary hm (by decide)]
  simp [Dec.vunary, f0, f1, f2, f3, f4, f5, Dec.rsv, Dec.acc]

theorem vrsqrt (d : VReg) (a : VReg) : Statement (.vrsqrt d a) := by
  intro W hW hw
  replace hW := Option.some.inj hW
  simp only [Enc.vr] at hW
  have hm : W / 2 ^ 25 = 33 := by omega
  have hm2 : W / 33554432 = 33 := by omega
  have f0 : Dec.bit W 3 = false := bit_eq (by simp only [Bool.toNat_false]; omega)
  have f1 : Dec.fA W = a := Fin.ext (show W / 2 ^ 15 % 32 = a.val by omega)
  have f2 : Dec.fD W = d := Fin.ext (show W / 2 ^ 20 % 32 = d.val by omega)
  have f3 : Dec.fld W 0 8 = 0 := by unfold Dec.fld; omega
  have f4 : Dec.fld W 10 32 = 0 := by unfold Dec.fld; omega
  have f5 : Dec.fld W 4 64 = 2 := by unfold Dec.fld; omega
  refine ⟨by omega, ?_⟩
  rw [decode_vunary hm (by decide)]
  simp [Dec.vunary, f0, f1, f2, f3, f4, f5, Dec.rsv, Dec.acc]

theorem vexp2 (d : VReg) (a : VReg) : Statement (.vexp2 d a) := by
  intro W hW hw
  replace hW := Option.some.inj hW
  simp only [Enc.vr] at hW
  have hm : W / 2 ^ 25 = 33 := by omega
  have hm2 : W / 33554432 = 33 := by omega
  have f0 : Dec.bit W 3 = false := bit_eq (by simp only [Bool.toNat_false]; omega)
  have f1 : Dec.fA W = a := Fin.ext (show W / 2 ^ 15 % 32 = a.val by omega)
  have f2 : Dec.fD W = d := Fin.ext (show W / 2 ^ 20 % 32 = d.val by omega)
  have f3 : Dec.fld W 0 8 = 0 := by unfold Dec.fld; omega
  have f4 : Dec.fld W 10 32 = 0 := by unfold Dec.fld; omega
  have f5 : Dec.fld W 4 64 = 3 := by unfold Dec.fld; omega
  refine ⟨by omega, ?_⟩
  rw [decode_vunary hm (by decide)]
  simp [Dec.vunary, f0, f1, f2, f3, f4, f5, Dec.rsv, Dec.acc]

theorem vexp (d : VReg) (a : VReg) : Statement (.vexp d a) := by
  intro W hW hw
  replace hW := Option.some.inj hW
  simp only [Enc.vr] at hW
  have hm : W / 2 ^ 25 = 33 := by omega
  have hm2 : W / 33554432 = 33 := by omega
  have f0 : Dec.bit W 3 = false := bit_eq (by simp only [Bool.toNat_false]; omega)
  have f1 : Dec.fA W = a := Fin.ext (show W / 2 ^ 15 % 32 = a.val by omega)
  have f2 : Dec.fD W = d := Fin.ext (show W / 2 ^ 20 % 32 = d.val by omega)
  have f3 : Dec.fld W 0 8 = 0 := by unfold Dec.fld; omega
  have f4 : Dec.fld W 10 32 = 0 := by unfold Dec.fld; omega
  have f5 : Dec.fld W 4 64 = 4 := by unfold Dec.fld; omega
  refine ⟨by omega, ?_⟩
  rw [decode_vunary hm (by decide)]
  simp [Dec.vunary, f0, f1, f2, f3, f4, f5, Dec.rsv, Dec.acc]

theorem vln2 (d : VReg) (a : VReg) : Statement (.vln2 d a) := by
  intro W hW hw
  replace hW := Option.some.inj hW
  simp only [Enc.vr] at hW
  have hm : W / 2 ^ 25 = 33 := by omega
  have hm2 : W / 33554432 = 33 := by omega
  have f0 : Dec.bit W 3 = false := bit_eq (by simp only [Bool.toNat_false]; omega)
  have f1 : Dec.fA W = a := Fin.ext (show W / 2 ^ 15 % 32 = a.val by omega)
  have f2 : Dec.fD W = d := Fin.ext (show W / 2 ^ 20 % 32 = d.val by omega)
  have f3 : Dec.fld W 0 8 = 0 := by unfold Dec.fld; omega
  have f4 : Dec.fld W 10 32 = 0 := by unfold Dec.fld; omega
  have f5 : Dec.fld W 4 64 = 5 := by unfold Dec.fld; omega
  refine ⟨by omega, ?_⟩
  rw [decode_vunary hm (by decide)]
  simp [Dec.vunary, f0, f1, f2, f3, f4, f5, Dec.rsv, Dec.acc]

theorem vand (d : VReg) (a : VReg) (b : VSrc) : Statement (.vand d a b) := by
  intro W hW hw
  replace hW := Option.some.inj hW
  have b_b := srcB_lt b
  have c_b := srcSB_lt b
  simp only [Enc.vr] at hW
  have hm : W / 2 ^ 25 = 34 := by omega
  have hm2 : W / 33554432 = 34 := by omega
  have f0 : Dec.fA W = a := Fin.ext (show W / 2 ^ 15 % 32 = a.val by omega)
  have f1 : Dec.fD W = d := Fin.ext (show W / 2 ^ 20 % 32 = d.val by omega)
  have f2 : Dec.fld W 0 8 = 0 := by unfold Dec.fld; omega
  have f3 : Dec.fld W 4 64 = 0 := by unfold Dec.fld; omega
  refine ⟨by omega, ?_⟩
  rw [decode_vlogic hm (by decide)]
  have hv : Dec.vsrc W = b := vsrc_eq (by omega) (by omega)
  simp [Dec.vlogic, f0, f1, f2, f3, hv, Dec.rsv]

theorem vor (d : VReg) (a : VReg) (b : VSrc) : Statement (.vor d a b) := by
  intro W hW hw
  replace hW := Option.some.inj hW
  have b_b := srcB_lt b
  have c_b := srcSB_lt b
  simp only [Enc.vr] at hW
  have hm : W / 2 ^ 25 = 34 := by omega
  have hm2 : W / 33554432 = 34 := by omega
  have f0 : Dec.fA W = a := Fin.ext (show W / 2 ^ 15 % 32 = a.val by omega)
  have f1 : Dec.fD W = d := Fin.ext (show W / 2 ^ 20 % 32 = d.val by omega)
  have f2 : Dec.fld W 0 8 = 0 := by unfold Dec.fld; omega
  have f3 : Dec.fld W 4 64 = 1 := by unfold Dec.fld; omega
  refine ⟨by omega, ?_⟩
  rw [decode_vlogic hm (by decide)]
  have hv : Dec.vsrc W = b := vsrc_eq (by omega) (by omega)
  simp [Dec.vlogic, f0, f1, f2, f3, hv, Dec.rsv]

theorem vxor (d : VReg) (a : VReg) (b : VSrc) : Statement (.vxor d a b) := by
  intro W hW hw
  replace hW := Option.some.inj hW
  have b_b := srcB_lt b
  have c_b := srcSB_lt b
  simp only [Enc.vr] at hW
  have hm : W / 2 ^ 25 = 34 := by omega
  have hm2 : W / 33554432 = 34 := by omega
  have f0 : Dec.fA W = a := Fin.ext (show W / 2 ^ 15 % 32 = a.val by omega)
  have f1 : Dec.fD W = d := Fin.ext (show W / 2 ^ 20 % 32 = d.val by omega)
  have f2 : Dec.fld W 0 8 = 0 := by unfold Dec.fld; omega
  have f3 : Dec.fld W 4 64 = 2 := by unfold Dec.fld; omega
  refine ⟨by omega, ?_⟩
  rw [decode_vlogic hm (by decide)]
  have hv : Dec.vsrc W = b := vsrc_eq (by omega) (by omega)
  simp [Dec.vlogic, f0, f1, f2, f3, hv, Dec.rsv]

theorem vsll (d : VReg) (a : VReg) (b : VSrc) : Statement (.vsll d a b) := by
  intro W hW hw
  replace hW := Option.some.inj hW
  have b_b := srcB_lt b
  have c_b := srcSB_lt b
  simp only [Enc.vr] at hW
  have hm : W / 2 ^ 25 = 34 := by omega
  have hm2 : W / 33554432 = 34 := by omega
  have f0 : Dec.fA W = a := Fin.ext (show W / 2 ^ 15 % 32 = a.val by omega)
  have f1 : Dec.fD W = d := Fin.ext (show W / 2 ^ 20 % 32 = d.val by omega)
  have f2 : Dec.fld W 0 8 = 0 := by unfold Dec.fld; omega
  have f3 : Dec.fld W 4 64 = 3 := by unfold Dec.fld; omega
  refine ⟨by omega, ?_⟩
  rw [decode_vlogic hm (by decide)]
  have hv : Dec.vsrc W = b := vsrc_eq (by omega) (by omega)
  simp [Dec.vlogic, f0, f1, f2, f3, hv, Dec.rsv]

theorem vsrl (d : VReg) (a : VReg) (b : VSrc) : Statement (.vsrl d a b) := by
  intro W hW hw
  replace hW := Option.some.inj hW
  have b_b := srcB_lt b
  have c_b := srcSB_lt b
  simp only [Enc.vr] at hW
  have hm : W / 2 ^ 25 = 34 := by omega
  have hm2 : W / 33554432 = 34 := by omega
  have f0 : Dec.fA W = a := Fin.ext (show W / 2 ^ 15 % 32 = a.val by omega)
  have f1 : Dec.fD W = d := Fin.ext (show W / 2 ^ 20 % 32 = d.val by omega)
  have f2 : Dec.fld W 0 8 = 0 := by unfold Dec.fld; omega
  have f3 : Dec.fld W 4 64 = 4 := by unfold Dec.fld; omega
  refine ⟨by omega, ?_⟩
  rw [decode_vlogic hm (by decide)]
  have hv : Dec.vsrc W = b := vsrc_eq (by omega) (by omega)
  simp [Dec.vlogic, f0, f1, f2, f3, hv, Dec.rsv]

theorem vsra (d : VReg) (a : VReg) (b : VSrc) : Statement (.vsra d a b) := by
  intro W hW hw
  replace hW := Option.some.inj hW
  have b_b := srcB_lt b
  have c_b := srcSB_lt b
  simp only [Enc.vr] at hW
  have hm : W / 2 ^ 25 = 34 := by omega
  have hm2 : W / 33554432 = 34 := by omega
  have f0 : Dec.fA W = a := Fin.ext (show W / 2 ^ 15 % 32 = a.val by omega)
  have f1 : Dec.fD W = d := Fin.ext (show W / 2 ^ 20 % 32 = d.val by omega)
  have f2 : Dec.fld W 0 8 = 0 := by unfold Dec.fld; omega
  have f3 : Dec.fld W 4 64 = 5 := by unfold Dec.fld; omega
  refine ⟨by omega, ?_⟩
  rw [decode_vlogic hm (by decide)]
  have hv : Dec.vsrc W = b := vsrc_eq (by omega) (by omega)
  simp [Dec.vlogic, f0, f1, f2, f3, hv, Dec.rsv]

theorem vcmp (d : KReg) (a : VReg) (b : VSrc) (c : VCond) : Statement (.vcmp d a b c) := by
  intro W hW hw
  replace hW := Option.some.inj hW
  have b_b := srcB_lt b
  have c_b := srcSB_lt b
  have b_c := vcond_lt c
  simp only [Enc.vr] at hW
  have hm : W / 2 ^ 25 = 35 := by omega
  have hm2 : W / 33554432 = 35 := by omega
  have f0 : Dec.fA W = a := Fin.ext (show W / 2 ^ 15 % 32 = a.val by omega)
  have f1 : Dec.fld W 0 8 = Enc.vcond c := by unfold Dec.fld; omega
  have f2 : Dec.fld W 23 4 = 0 := by unfold Dec.fld; omega
  have f3 : Dec.fld W 4 64 = 0 := by unfold Dec.fld; omega
  have f4 : Dec.r3 W 20 = d := Fin.ext (show W / 2 ^ 20 % 8 = d.val by omega)
  refine ⟨by omega, ?_⟩
  rw [decode_vcmp hm (by decide)]
  have hv : Dec.vsrc W = b := vsrc_eq (by omega) (by omega)
  simp [Dec.vcmp, f0, f1, f2, f3, f4, hv, vcond_dec, Dec.rsv]

theorem kand (d : KReg) (a : KReg) (b : KReg) : Statement (.kand d a b) := by
  intro W hW hw
  replace hW := Option.some.inj hW
  simp only [Enc.vr] at hW
  have hm : W / 2 ^ 25 = 36 := by omega
  have hm2 : W / 33554432 = 36 := by omega
  have f0 : Dec.bit W 3 = false := bit_eq (by simp only [Bool.toNat_false]; omega)
  have f1 : Dec.fld W 0 8 = 0 := by unfold Dec.fld; omega
  have f2 : Dec.fld W 10 32 = b.val := by unfold Dec.fld; omega
  have f3 : Dec.fld W 13 4 = 0 := by unfold Dec.fld; omega
  have f4 : Dec.fld W 18 4 = 0 := by unfold Dec.fld; omega
  have f5 : Dec.fld W 23 4 = 0 := by unfold Dec.fld; omega
  have f6 : Dec.fld W 4 64 = 0 := by unfold Dec.fld; omega
  have f7 : Dec.r3 W 10 = b := Fin.ext (show W / 2 ^ 10 % 8 = b.val by omega)
  have f8 : Dec.r3 W 15 = a := Fin.ext (show W / 2 ^ 15 % 8 = a.val by omega)
  have f9 : Dec.r3 W 20 = d := Fin.ext (show W / 2 ^ 20 % 8 = d.val by omega)
  refine ⟨by omega, ?_⟩
  rw [decode_kops hm (by decide)]
  simp [Dec.kops, f0, f1, f3, f4, f5, f6, f7, f8, f9, Dec.rsv, Dec.acc]

theorem kor (d : KReg) (a : KReg) (b : KReg) : Statement (.kor d a b) := by
  intro W hW hw
  replace hW := Option.some.inj hW
  simp only [Enc.vr] at hW
  have hm : W / 2 ^ 25 = 36 := by omega
  have hm2 : W / 33554432 = 36 := by omega
  have f0 : Dec.bit W 3 = false := bit_eq (by simp only [Bool.toNat_false]; omega)
  have f1 : Dec.fld W 0 8 = 0 := by unfold Dec.fld; omega
  have f2 : Dec.fld W 10 32 = b.val := by unfold Dec.fld; omega
  have f3 : Dec.fld W 13 4 = 0 := by unfold Dec.fld; omega
  have f4 : Dec.fld W 18 4 = 0 := by unfold Dec.fld; omega
  have f5 : Dec.fld W 23 4 = 0 := by unfold Dec.fld; omega
  have f6 : Dec.fld W 4 64 = 1 := by unfold Dec.fld; omega
  have f7 : Dec.r3 W 10 = b := Fin.ext (show W / 2 ^ 10 % 8 = b.val by omega)
  have f8 : Dec.r3 W 15 = a := Fin.ext (show W / 2 ^ 15 % 8 = a.val by omega)
  have f9 : Dec.r3 W 20 = d := Fin.ext (show W / 2 ^ 20 % 8 = d.val by omega)
  refine ⟨by omega, ?_⟩
  rw [decode_kops hm (by decide)]
  simp [Dec.kops, f0, f1, f3, f4, f5, f6, f7, f8, f9, Dec.rsv, Dec.acc]

theorem kxor (d : KReg) (a : KReg) (b : KReg) : Statement (.kxor d a b) := by
  intro W hW hw
  replace hW := Option.some.inj hW
  simp only [Enc.vr] at hW
  have hm : W / 2 ^ 25 = 36 := by omega
  have hm2 : W / 33554432 = 36 := by omega
  have f0 : Dec.bit W 3 = false := bit_eq (by simp only [Bool.toNat_false]; omega)
  have f1 : Dec.fld W 0 8 = 0 := by unfold Dec.fld; omega
  have f2 : Dec.fld W 10 32 = b.val := by unfold Dec.fld; omega
  have f3 : Dec.fld W 13 4 = 0 := by unfold Dec.fld; omega
  have f4 : Dec.fld W 18 4 = 0 := by unfold Dec.fld; omega
  have f5 : Dec.fld W 23 4 = 0 := by unfold Dec.fld; omega
  have f6 : Dec.fld W 4 64 = 2 := by unfold Dec.fld; omega
  have f7 : Dec.r3 W 10 = b := Fin.ext (show W / 2 ^ 10 % 8 = b.val by omega)
  have f8 : Dec.r3 W 15 = a := Fin.ext (show W / 2 ^ 15 % 8 = a.val by omega)
  have f9 : Dec.r3 W 20 = d := Fin.ext (show W / 2 ^ 20 % 8 = d.val by omega)
  refine ⟨by omega, ?_⟩
  rw [decode_kops hm (by decide)]
  simp [Dec.kops, f0, f1, f3, f4, f5, f6, f7, f8, f9, Dec.rsv, Dec.acc]

theorem knot (d : KReg) (a : KReg) : Statement (.knot d a) := by
  intro W hW hw
  replace hW := Option.some.inj hW
  simp only [Enc.vr] at hW
  have hm : W / 2 ^ 25 = 36 := by omega
  have hm2 : W / 33554432 = 36 := by omega
  have f0 : Dec.bit W 3 = false := bit_eq (by simp only [Bool.toNat_false]; omega)
  have f1 : Dec.fld W 0 8 = 0 := by unfold Dec.fld; omega
  have f2 : Dec.fld W 10 32 = 0 := by unfold Dec.fld; omega
  have f3 : Dec.fld W 13 4 = 0 := by unfold Dec.fld; omega
  have f4 : Dec.fld W 18 4 = 0 := by unfold Dec.fld; omega
  have f5 : Dec.fld W 23 4 = 0 := by unfold Dec.fld; omega
  have f6 : Dec.fld W 4 64 = 3 := by unfold Dec.fld; omega
  have f7 : Dec.r3 W 15 = a := Fin.ext (show W / 2 ^ 15 % 8 = a.val by omega)
  have f8 : Dec.r3 W 20 = d := Fin.ext (show W / 2 ^ 20 % 8 = d.val by omega)
  refine ⟨by omega, ?_⟩
  rw [decode_kops hm (by decide)]
  simp [Dec.kops, f0, f1, f2, f4, f5, f6, f7, f8, Dec.rsv, Dec.acc]

theorem kpop (d : SReg) (a : KReg) : Statement (.kpop d a) := by
  intro W hW hw
  replace hW := Option.some.inj hW
  simp only [Enc.vr] at hW
  have hm : W / 2 ^ 25 = 36 := by omega
  have hm2 : W / 33554432 = 36 := by omega
  have f0 : Dec.bit W 3 = false := bit_eq (by simp only [Bool.toNat_false]; omega)
  have f1 : Dec.fD W = d := Fin.ext (show W / 2 ^ 20 % 32 = d.val by omega)
  have f2 : Dec.fld W 0 8 = 0 := by unfold Dec.fld; omega
  have f3 : Dec.fld W 10 32 = 0 := by unfold Dec.fld; omega
  have f4 : Dec.fld W 13 4 = 0 := by unfold Dec.fld; omega
  have f5 : Dec.fld W 18 4 = 0 := by unfold Dec.fld; omega
  have f6 : Dec.fld W 4 64 = 4 := by unfold Dec.fld; omega
  have f7 : Dec.r3 W 15 = a := Fin.ext (show W / 2 ^ 15 % 8 = a.val by omega)
  refine ⟨by omega, ?_⟩
  rw [decode_kops hm (by decide)]
  simp [Dec.kops, f0, f1, f2, f3, f5, f6, f7, Dec.rsv, Dec.acc]

theorem kfirst (d : SReg) (a : KReg) : Statement (.kfirst d a) := by
  intro W hW hw
  replace hW := Option.some.inj hW
  simp only [Enc.vr] at hW
  have hm : W / 2 ^ 25 = 36 := by omega
  have hm2 : W / 33554432 = 36 := by omega
  have f0 : Dec.bit W 3 = false := bit_eq (by simp only [Bool.toNat_false]; omega)
  have f1 : Dec.fD W = d := Fin.ext (show W / 2 ^ 20 % 32 = d.val by omega)
  have f2 : Dec.fld W 0 8 = 0 := by unfold Dec.fld; omega
  have f3 : Dec.fld W 10 32 = 0 := by unfold Dec.fld; omega
  have f4 : Dec.fld W 13 4 = 0 := by unfold Dec.fld; omega
  have f5 : Dec.fld W 18 4 = 0 := by unfold Dec.fld; omega
  have f6 : Dec.fld W 4 64 = 5 := by unfold Dec.fld; omega
  have f7 : Dec.r3 W 15 = a := Fin.ext (show W / 2 ^ 15 % 8 = a.val by omega)
  refine ⟨by omega, ?_⟩
  rw [decode_kops hm (by decide)]
  simp [Dec.kops, f0, f1, f2, f3, f5, f6, f7, Dec.rsv, Dec.acc]

theorem vcompress (d : VReg) (a : VReg) (b : KReg) : Statement (.vcompress d a b) := by
  intro W hW hw
  replace hW := Option.some.inj hW
  simp only [Enc.vr] at hW
  have hm : W / 2 ^ 25 = 37 := by omega
  have hm2 : W / 33554432 = 37 := by omega
  have f0 : Dec.bit W 3 = false := bit_eq (by simp only [Bool.toNat_false]; omega)
  have f1 : Dec.fA W = a := Fin.ext (show W / 2 ^ 15 % 32 = a.val by omega)
  have f2 : Dec.fD W = d := Fin.ext (show W / 2 ^ 20 % 32 = d.val by omega)
  have f3 : Dec.fld W 0 8 = 0 := by unfold Dec.fld; omega
  have f4 : Dec.fld W 13 4 = 0 := by unfold Dec.fld; omega
  have f5 : Dec.fld W 4 64 = 0 := by unfold Dec.fld; omega
  have f6 : Dec.r3 W 10 = b := Fin.ext (show W / 2 ^ 10 % 8 = b.val by omega)
  refine ⟨by omega, ?_⟩
  rw [decode_vcompact hm (by decide)]
  simp [Dec.vcompact, f0, f1, f2, f3, f4, f5, f6, Dec.rsv, Dec.acc]

theorem vexpand (d : VReg) (a : VReg) (b : KReg) : Statement (.vexpand d a b) := by
  intro W hW hw
  replace hW := Option.some.inj hW
  simp only [Enc.vr] at hW
  have hm : W / 2 ^ 25 = 37 := by omega
  have hm2 : W / 33554432 = 37 := by omega
  have f0 : Dec.bit W 3 = false := bit_eq (by simp only [Bool.toNat_false]; omega)
  have f1 : Dec.fA W = a := Fin.ext (show W / 2 ^ 15 % 32 = a.val by omega)
  have f2 : Dec.fD W = d := Fin.ext (show W / 2 ^ 20 % 32 = d.val by omega)
  have f3 : Dec.fld W 0 8 = 0 := by unfold Dec.fld; omega
  have f4 : Dec.fld W 13 4 = 0 := by unfold Dec.fld; omega
  have f5 : Dec.fld W 4 64 = 1 := by unfold Dec.fld; omega
  have f6 : Dec.r3 W 10 = b := Fin.ext (show W / 2 ^ 10 % 8 = b.val by omega)
  refine ⟨by omega, ?_⟩
  rw [decode_vcompact hm (by decide)]
  simp [Dec.vcompact, f0, f1, f2, f3, f4, f5, f6, Dec.rsv, Dec.acc]

theorem viota (d : VReg) (a : KReg) : Statement (.viota d a) := by
  intro W hW hw
  replace hW := Option.some.inj hW
  simp only [Enc.vr] at hW
  have hm : W / 2 ^ 25 = 37 := by omega
  have hm2 : W / 33554432 = 37 := by omega
  have f0 : Dec.bit W 3 = false := bit_eq (by simp only [Bool.toNat_false]; omega)
  have f1 : Dec.fD W = d := Fin.ext (show W / 2 ^ 20 % 32 = d.val by omega)
  have f2 : Dec.fld W 0 8 = 0 := by unfold Dec.fld; omega
  have f3 : Dec.fld W 10 32 = 0 := by unfold Dec.fld; omega
  have f4 : Dec.fld W 18 4 = 0 := by unfold Dec.fld; omega
  have f5 : Dec.fld W 4 64 = 2 := by unfold Dec.fld; omega
  have f6 : Dec.r3 W 15 = a := Fin.ext (show W / 2 ^ 15 % 8 = a.val by omega)
  refine ⟨by omega, ?_⟩
  rw [decode_vcompact hm (by decide)]
  simp [Dec.vcompact, f0, f1, f2, f3, f4, f5, f6, Dec.rsv, Dec.acc]

theorem vid (d : VReg) : Statement (.vid d) := by
  intro W hW hw
  replace hW := Option.some.inj hW
  simp only [Enc.vr] at hW
  have hm : W / 2 ^ 25 = 37 := by omega
  have hm2 : W / 33554432 = 37 := by omega
  have f0 : Dec.bit W 3 = false := bit_eq (by simp only [Bool.toNat_false]; omega)
  have f1 : Dec.fD W = d := Fin.ext (show W / 2 ^ 20 % 32 = d.val by omega)
  have f2 : Dec.fld W 0 8 = 0 := by unfold Dec.fld; omega
  have f3 : Dec.fld W 10 1024 = 0 := by unfold Dec.fld; omega
  have f4 : Dec.fld W 4 64 = 3 := by unfold Dec.fld; omega
  refine ⟨by omega, ?_⟩
  rw [decode_vcompact hm (by decide)]
  simp [Dec.vcompact, f0, f1, f2, f3, f4, Dec.rsv, Dec.acc]

theorem vscan (d : VReg) (a : VReg) (u : RedOp) : Statement (.vscan d a u) := by
  intro W hW hw
  replace hW := Option.some.inj hW
  have b_u := redop_lt u
  simp only [Enc.vr] at hW
  have hm : W / 2 ^ 25 = 37 := by omega
  have hm2 : W / 33554432 = 37 := by omega
  have f0 : Dec.bit W 3 = false := bit_eq (by simp only [Bool.toNat_false]; omega)
  have f1 : Dec.fA W = a := Fin.ext (show W / 2 ^ 15 % 32 = a.val by omega)
  have f2 : Dec.fD W = d := Fin.ext (show W / 2 ^ 20 % 32 = d.val by omega)
  have f3 : Dec.fld W 0 8 = Enc.redop u := by unfold Dec.fld; omega
  have f4 : Dec.fld W 10 32 = 0 := by unfold Dec.fld; omega
  have f5 : Dec.fld W 4 64 = 4 := by unfold Dec.fld; omega
  refine ⟨by omega, ?_⟩
  rw [decode_vcompact hm (by decide)]
  simp [Dec.vcompact, f0, f1, f2, f3, f4, f5, redop_dec, Dec.rsv, Dec.acc, Dec.opt]

theorem vslideup (d : VReg) (a : VReg) (b : SReg) : Statement (.vslideup d a b) := by
  intro W hW hw
  replace hW := Option.some.inj hW
  simp only [Enc.vr] at hW
  have hm : W / 2 ^ 25 = 38 := by omega
  have hm2 : W / 33554432 = 38 := by omega
  have f0 : Dec.bit W 3 = false := bit_eq (by simp only [Bool.toNat_false]; omega)
  have f1 : Dec.fA W = a := Fin.ext (show W / 2 ^ 15 % 32 = a.val by omega)
  have f2 : Dec.fB W = b := Fin.ext (show W / 2 ^ 10 % 32 = b.val by omega)
  have f3 : Dec.fD W = d := Fin.ext (show W / 2 ^ 20 % 32 = d.val by omega)
  have f4 : Dec.fld W 0 8 = 0 := by unfold Dec.fld; omega
  have f5 : Dec.fld W 4 64 = 0 := by unfold Dec.fld; omega
  refine ⟨by omega, ?_⟩
  rw [decode_vmoves hm (by decide)]
  simp [Dec.vmoves, f0, f1, f2, f3, f4, f5, Dec.rsv, Dec.acc]

theorem vslidedn (d : VReg) (a : VReg) (b : SReg) : Statement (.vslidedn d a b) := by
  intro W hW hw
  replace hW := Option.some.inj hW
  simp only [Enc.vr] at hW
  have hm : W / 2 ^ 25 = 38 := by omega
  have hm2 : W / 33554432 = 38 := by omega
  have f0 : Dec.bit W 3 = false := bit_eq (by simp only [Bool.toNat_false]; omega)
  have f1 : Dec.fA W = a := Fin.ext (show W / 2 ^ 15 % 32 = a.val by omega)
  have f2 : Dec.fB W = b := Fin.ext (show W / 2 ^ 10 % 32 = b.val by omega)
  have f3 : Dec.fD W = d := Fin.ext (show W / 2 ^ 20 % 32 = d.val by omega)
  have f4 : Dec.fld W 0 8 = 0 := by unfold Dec.fld; omega
  have f5 : Dec.fld W 4 64 = 1 := by unfold Dec.fld; omega
  refine ⟨by omega, ?_⟩
  rw [decode_vmoves hm (by decide)]
  simp [Dec.vmoves, f0, f1, f2, f3, f4, f5, Dec.rsv, Dec.acc]

theorem vperm (d : VReg) (a : VReg) (b : VReg) : Statement (.vperm d a b) := by
  intro W hW hw
  replace hW := Option.some.inj hW
  simp only [Enc.vr] at hW
  have hm : W / 2 ^ 25 = 38 := by omega
  have hm2 : W / 33554432 = 38 := by omega
  have f0 : Dec.bit W 3 = false := bit_eq (by simp only [Bool.toNat_false]; omega)
  have f1 : Dec.fA W = a := Fin.ext (show W / 2 ^ 15 % 32 = a.val by omega)
  have f2 : Dec.fB W = b := Fin.ext (show W / 2 ^ 10 % 32 = b.val by omega)
  have f3 : Dec.fD W = d := Fin.ext (show W / 2 ^ 20 % 32 = d.val by omega)
  have f4 : Dec.fld W 0 8 = 0 := by unfold Dec.fld; omega
  have f5 : Dec.fld W 4 64 = 2 := by unfold Dec.fld; omega
  refine ⟨by omega, ?_⟩
  rw [decode_vmoves hm (by decide)]
  simp [Dec.vmoves, f0, f1, f2, f3, f4, f5, Dec.rsv, Dec.acc]

theorem vbcast (d : VReg) (a : SReg) : Statement (.vbcast d a) := by
  intro W hW hw
  replace hW := Option.some.inj hW
  simp only [Enc.vr] at hW
  have hm : W / 2 ^ 25 = 38 := by omega
  have hm2 : W / 33554432 = 38 := by omega
  have f0 : Dec.bit W 3 = false := bit_eq (by simp only [Bool.toNat_false]; omega)
  have f1 : Dec.fA W = a := Fin.ext (show W / 2 ^ 15 % 32 = a.val by omega)
  have f2 : Dec.fD W = d := Fin.ext (show W / 2 ^ 20 % 32 = d.val by omega)
  have f3 : Dec.fld W 0 8 = 0 := by unfold Dec.fld; omega
  have f4 : Dec.fld W 10 32 = 0 := by unfold Dec.fld; omega
  have f5 : Dec.fld W 4 64 = 3 := by unfold Dec.fld; omega
  refine ⟨by omega, ?_⟩
  rw [decode_vmoves hm (by decide)]
  simp [Dec.vmoves, f0, f1, f2, f3, f4, f5, Dec.rsv, Dec.acc]

theorem vmvsToScalar (d : SReg) (a : VReg) : Statement (.vmvsToScalar d a) := by
  intro W hW hw
  replace hW := Option.some.inj hW
  simp only [Enc.vr] at hW
  have hm : W / 2 ^ 25 = 38 := by omega
  have hm2 : W / 33554432 = 38 := by omega
  have f0 : Dec.bit W 3 = false := bit_eq (by simp only [Bool.toNat_false]; omega)
  have f1 : Dec.fA W = a := Fin.ext (show W / 2 ^ 15 % 32 = a.val by omega)
  have f2 : Dec.fD W = d := Fin.ext (show W / 2 ^ 20 % 32 = d.val by omega)
  have f3 : Dec.fld W 0 8 = 0 := by unfold Dec.fld; omega
  have f4 : Dec.fld W 10 32 = 0 := by unfold Dec.fld; omega
  have f5 : Dec.fld W 4 64 = 4 := by unfold Dec.fld; omega
  refine ⟨by omega, ?_⟩
  rw [decode_vmoves hm (by decide)]
  simp [Dec.vmoves, f0, f1, f2, f3, f4, f5, Dec.rsv, Dec.acc]

theorem vmvsToVector (d : VReg) (a : SReg) : Statement (.vmvsToVector d a) := by
  intro W hW hw
  replace hW := Option.some.inj hW
  simp only [Enc.vr] at hW
  have hm : W / 2 ^ 25 = 38 := by omega
  have hm2 : W / 33554432 = 38 := by omega
  have f0 : Dec.bit W 3 = false := bit_eq (by simp only [Bool.toNat_false]; omega)
  have f1 : Dec.fA W = a := Fin.ext (show W / 2 ^ 15 % 32 = a.val by omega)
  have f2 : Dec.fD W = d := Fin.ext (show W / 2 ^ 20 % 32 = d.val by omega)
  have f3 : Dec.fld W 0 8 = 1 := by unfold Dec.fld; omega
  have f4 : Dec.fld W 10 32 = 0 := by unfold Dec.fld; omega
  have f5 : Dec.fld W 4 64 = 4 := by unfold Dec.fld; omega
  refine ⟨by omega, ?_⟩
  rw [decode_vmoves hm (by decide)]
  simp [Dec.vmoves, f0, f1, f2, f3, f4, f5, Dec.rsv, Dec.acc]

theorem vmerge (d : VReg) (a : VReg) (b : VReg) : Statement (.vmerge d a b) := by
  intro W hW hw
  replace hW := Option.some.inj hW
  simp only [Enc.vr] at hW
  have hm : W / 2 ^ 25 = 38 := by omega
  have hm2 : W / 33554432 = 38 := by omega
  have f0 : Dec.bit W 3 = false := bit_eq (by simp only [Bool.toNat_false]; omega)
  have f1 : Dec.fA W = a := Fin.ext (show W / 2 ^ 15 % 32 = a.val by omega)
  have f2 : Dec.fB W = b := Fin.ext (show W / 2 ^ 10 % 32 = b.val by omega)
  have f3 : Dec.fD W = d := Fin.ext (show W / 2 ^ 20 % 32 = d.val by omega)
  have f4 : Dec.fld W 0 8 = 0 := by unfold Dec.fld; omega
  have f5 : Dec.fld W 4 64 = 5 := by unfold Dec.fld; omega
  refine ⟨by omega, ?_⟩
  rw [decode_vmoves hm (by decide)]
  simp [Dec.vmoves, f0, f1, f2, f3, f4, f5, Dec.rsv, Dec.acc]

theorem vredsum (d : SReg) (a : VReg) (b : SReg) : Statement (.vredsum d a b) := by
  intro W hW hw
  replace hW := Option.some.inj hW
  simp only [Enc.vr] at hW
  have hm : W / 2 ^ 25 = 39 := by omega
  have hm2 : W / 33554432 = 39 := by omega
  have f0 : Dec.bit W 3 = false := bit_eq (by simp only [Bool.toNat_false]; omega)
  have f1 : Dec.fA W = a := Fin.ext (show W / 2 ^ 15 % 32 = a.val by omega)
  have f2 : Dec.fB W = b := Fin.ext (show W / 2 ^ 10 % 32 = b.val by omega)
  have f3 : Dec.fD W = d := Fin.ext (show W / 2 ^ 20 % 32 = d.val by omega)
  have f4 : Dec.fld W 0 8 = 0 := by unfold Dec.fld; omega
  have f5 : Dec.fld W 4 64 = 0 := by unfold Dec.fld; omega
  refine ⟨by omega, ?_⟩
  rw [decode_vreduce hm (by decide)]
  simp [Dec.vreduce, f0, f1, f2, f3, f4, f5, Dec.rsv, Dec.acc]

theorem vredmax (d : SReg) (a : VReg) (b : SReg) : Statement (.vredmax d a b) := by
  intro W hW hw
  replace hW := Option.some.inj hW
  simp only [Enc.vr] at hW
  have hm : W / 2 ^ 25 = 39 := by omega
  have hm2 : W / 33554432 = 39 := by omega
  have f0 : Dec.bit W 3 = false := bit_eq (by simp only [Bool.toNat_false]; omega)
  have f1 : Dec.fA W = a := Fin.ext (show W / 2 ^ 15 % 32 = a.val by omega)
  have f2 : Dec.fB W = b := Fin.ext (show W / 2 ^ 10 % 32 = b.val by omega)
  have f3 : Dec.fD W = d := Fin.ext (show W / 2 ^ 20 % 32 = d.val by omega)
  have f4 : Dec.fld W 0 8 = 0 := by unfold Dec.fld; omega
  have f5 : Dec.fld W 4 64 = 1 := by unfold Dec.fld; omega
  refine ⟨by omega, ?_⟩
  rw [decode_vreduce hm (by decide)]
  simp [Dec.vreduce, f0, f1, f2, f3, f4, f5, Dec.rsv, Dec.acc]

theorem vredmin (d : SReg) (a : VReg) (b : SReg) : Statement (.vredmin d a b) := by
  intro W hW hw
  replace hW := Option.some.inj hW
  simp only [Enc.vr] at hW
  have hm : W / 2 ^ 25 = 39 := by omega
  have hm2 : W / 33554432 = 39 := by omega
  have f0 : Dec.bit W 3 = false := bit_eq (by simp only [Bool.toNat_false]; omega)
  have f1 : Dec.fA W = a := Fin.ext (show W / 2 ^ 15 % 32 = a.val by omega)
  have f2 : Dec.fB W = b := Fin.ext (show W / 2 ^ 10 % 32 = b.val by omega)
  have f3 : Dec.fD W = d := Fin.ext (show W / 2 ^ 20 % 32 = d.val by omega)
  have f4 : Dec.fld W 0 8 = 0 := by unfold Dec.fld; omega
  have f5 : Dec.fld W 4 64 = 2 := by unfold Dec.fld; omega
  refine ⟨by omega, ?_⟩
  rw [decode_vreduce hm (by decide)]
  simp [Dec.vreduce, f0, f1, f2, f3, f4, f5, Dec.rsv, Dec.acc]

theorem vsegred (d : VReg) (a : VReg) (u : RedOp) : Statement (.vsegred d a u) := by
  intro W hW hw
  replace hW := Option.some.inj hW
  have b_u := redop_lt u
  simp only [Enc.vr] at hW
  have hm : W / 2 ^ 25 = 39 := by omega
  have hm2 : W / 33554432 = 39 := by omega
  have f0 : Dec.bit W 3 = false := bit_eq (by simp only [Bool.toNat_false]; omega)
  have f1 : Dec.fA W = a := Fin.ext (show W / 2 ^ 15 % 32 = a.val by omega)
  have f2 : Dec.fD W = d := Fin.ext (show W / 2 ^ 20 % 32 = d.val by omega)
  have f3 : Dec.fld W 0 8 = Enc.redop u := by unfold Dec.fld; omega
  have f4 : Dec.fld W 10 32 = 0 := by unfold Dec.fld; omega
  have f5 : Dec.fld W 4 64 = 3 := by unfold Dec.fld; omega
  refine ⟨by omega, ?_⟩
  rw [decode_vreduce hm (by decide)]
  simp [Dec.vreduce, f0, f1, f2, f3, f4, f5, redop_dec, Dec.rsv, Dec.acc, Dec.opt]

theorem vcvt (d : VReg) (a : VReg) (c : VConv) : Statement (.vcvt d a c) := by
  intro W hW hw
  replace hW := Option.some.inj hW
  simp [Instr.wellFormed] at hw
  have b_c := vconv_lt c
  simp only [Enc.vr] at hW
  have hm : W / 2 ^ 25 = 40 := by omega
  have hm2 : W / 33554432 = 40 := by omega
  have f0 : Dec.bit W 3 = false := bit_eq (by simp only [Bool.toNat_false]; omega)
  have f1 : Dec.fA W = a := Fin.ext (show W / 2 ^ 15 % 32 = a.val by omega)
  have f2 : Dec.fD W = d := Fin.ext (show W / 2 ^ 20 % 32 = d.val by omega)
  have f3 : Dec.fld W 0 8 = 0 := by unfold Dec.fld; omega
  have f4 : Dec.fld W 10 32 = 0 := by unfold Dec.fld; omega
  have f5 : Dec.fld W 4 64 = Enc.vconv c := by unfold Dec.fld; omega
  refine ⟨by omega, ?_⟩
  rw [decode_vconvert hm (by decide)]
  simp [Dec.vconvert, f0, f1, f2, f3, f4, f5, hw, vconv_dec, Dec.rsv, Dec.acc, Dec.opt]

theorem vld (v : VReg) (s : SReg) (f : Fmt) (m : VMode) (h : Hint) (x : BitVec 6) : Statement (.vld v s f m h x) := by
  intro W hW hw
  replace hW := Option.some.inj hW
  simp [Instr.wellFormed] at hw
  have b_f := code_lt f
  have b_m := vmode_lt m
  simp only [Enc.vm] at hW
  have hm : W / 2 ^ 25 = 64 := by omega
  have hm2 : W / 33554432 = 64 := by omega
  have f0 : Dec.bv 6 W 0 = x := bv_eq (by omega)
  have f1 : Dec.fld W 11 16 = f.code := by unfold Dec.fld; omega
  have f2 : Dec.fld W 6 4 = h.val := by unfold Dec.fld; omega
  have f3 : Dec.fld W 8 8 = Enc.vmode m := by unfold Dec.fld; omega
  have f4 : Dec.r2 W 6 = h := Fin.ext (show W / 2 ^ 6 % 4 = h.val by omega)
  have f5 : Dec.r5 W 15 = s := Fin.ext (show W / 2 ^ 15 % 32 = s.val by omega)
  have f6 : Dec.r5 W 20 = v := Fin.ext (show W / 2 ^ 20 % 32 = v.val by omega)
  refine ⟨by omega, ?_⟩
  rw [decode_memory hm (by decide)]
  simp [Dec.memory, Dec.vmem, hm2, f0, f1, f2, f3, f4, f5, f6, hw, code_dec, vmode_dec, Dec.acc, Dec.opt]

theorem vst (v : VReg) (s : SReg) (f : Fmt) (m : VMode) (h : Hint) (x : BitVec 6) : Statement (.vst v s f m h x) := by
  intro W hW hw
  replace hW := Option.some.inj hW
  simp [Instr.wellFormed] at hw
  have b_f := code_lt f
  have b_m := vmode_lt m
  simp only [Enc.vm] at hW
  have hm : W / 2 ^ 25 = 65 := by omega
  have hm2 : W / 33554432 = 65 := by omega
  have f0 : Dec.bv 6 W 0 = x := bv_eq (by omega)
  have f1 : Dec.fld W 11 16 = f.code := by unfold Dec.fld; omega
  have f2 : Dec.fld W 6 4 = h.val := by unfold Dec.fld; omega
  have f3 : Dec.fld W 8 8 = Enc.vmode m := by unfold Dec.fld; omega
  have f4 : Dec.r2 W 6 = h := Fin.ext (show W / 2 ^ 6 % 4 = h.val by omega)
  have f5 : Dec.r5 W 15 = s := Fin.ext (show W / 2 ^ 15 % 32 = s.val by omega)
  have f6 : Dec.r5 W 20 = v := Fin.ext (show W / 2 ^ 20 % 32 = v.val by omega)
  refine ⟨by omega, ?_⟩
  rw [decode_memory hm (by decide)]
  simp [Dec.memory, Dec.vmem, hm2, f0, f1, f2, f3, f4, f5, f6, hw, code_dec, vmode_dec, Dec.acc, Dec.opt]

theorem vldx (v : VReg) (s : SReg) (f : Fmt) (h : Hint) (i : VReg) : Statement (.vldx v s f h i) := by
  intro W hW hw
  replace hW := Option.some.inj hW
  have b_f := code_lt f
  simp only [Enc.vm] at hW
  have hm : W / 2 ^ 25 = 66 := by omega
  have hm2 : W / 33554432 = 66 := by omega
  have f0 : Dec.fld W 0 2 = 0 := by unfold Dec.fld; omega
  have f1 : Dec.fld W 11 16 = f.code := by unfold Dec.fld; omega
  have f2 : Dec.fld W 6 4 = h.val := by unfold Dec.fld; omega
  have f3 : Dec.fld W 8 8 = 0 := by unfold Dec.fld; omega
  have f4 : Dec.r2 W 6 = h := Fin.ext (show W / 2 ^ 6 % 4 = h.val by omega)
  have f5 : Dec.r5 W 1 = i := Fin.ext (show W / 2 ^ 1 % 32 = i.val by omega)
  have f6 : Dec.r5 W 15 = s := Fin.ext (show W / 2 ^ 15 % 32 = s.val by omega)
  have f7 : Dec.r5 W 20 = v := Fin.ext (show W / 2 ^ 20 % 32 = v.val by omega)
  refine ⟨by omega, ?_⟩
  rw [decode_memory hm (by decide)]
  simp [Dec.memory, Dec.vidx, hm2, f0, f1, f2, f3, f4, f5, f6, f7, code_dec, Dec.rsv, Dec.acc, Dec.opt]

theorem vstx (v : VReg) (s : SReg) (f : Fmt) (h : Hint) (i : VReg) : Statement (.vstx v s f h i) := by
  intro W hW hw
  replace hW := Option.some.inj hW
  simp [Instr.wellFormed] at hw
  have b_f := code_lt f
  simp only [Enc.vm] at hW
  have hm : W / 2 ^ 25 = 67 := by omega
  have hm2 : W / 33554432 = 67 := by omega
  have f0 : Dec.fld W 0 2 = 0 := by unfold Dec.fld; omega
  have f1 : Dec.fld W 11 16 = f.code := by unfold Dec.fld; omega
  have f2 : Dec.fld W 6 4 = h.val := by unfold Dec.fld; omega
  have f3 : Dec.fld W 8 8 = 0 := by unfold Dec.fld; omega
  have f4 : Dec.r2 W 6 = h := Fin.ext (show W / 2 ^ 6 % 4 = h.val by omega)
  have f5 : Dec.r5 W 1 = i := Fin.ext (show W / 2 ^ 1 % 32 = i.val by omega)
  have f6 : Dec.r5 W 15 = s := Fin.ext (show W / 2 ^ 15 % 32 = s.val by omega)
  have f7 : Dec.r5 W 20 = v := Fin.ext (show W / 2 ^ 20 % 32 = v.val by omega)
  refine ⟨by omega, ?_⟩
  rw [decode_memory hm (by decide)]
  simp [Dec.memory, Dec.vidx, hm2, f0, f1, f2, f3, f4, f5, f6, f7, hw, code_dec, Dec.rsv, Dec.acc, Dec.opt]

theorem vldsc (s : SReg) (h : Hint) (x : SReg) : Statement (.vldsc s h x) := by
  intro W hW hw
  replace hW := Option.some.inj hW
  simp only [Enc.vm] at hW
  have hm : W / 2 ^ 25 = 68 := by omega
  have hm2 : W / 33554432 = 68 := by omega
  have f0 : Dec.fld W 0 2 = 0 := by unfold Dec.fld; omega
  have f1 : Dec.fld W 11 16 = 0 := by unfold Dec.fld; omega
  have f2 : Dec.fld W 20 32 = 0 := by unfold Dec.fld; omega
  have f3 : Dec.fld W 8 8 = 0 := by unfold Dec.fld; omega
  have f4 : Dec.r2 W 6 = h := Fin.ext (show W / 2 ^ 6 % 4 = h.val by omega)
  have f5 : Dec.r5 W 1 = x := Fin.ext (show W / 2 ^ 1 % 32 = x.val by omega)
  have f6 : Dec.r5 W 15 = s := Fin.ext (show W / 2 ^ 15 % 32 = s.val by omega)
  refine ⟨by omega, ?_⟩
  rw [decode_memory hm (by decide)]
  simp [Dec.memory, hm2, f0, f1, f2, f3, f4, f5, f6, Dec.rsv, Dec.acc]

theorem vpref (s : SReg) (f : Fmt) (m : VMode) (h : Hint) (x : BitVec 6) : Statement (.vpref s f m h x) := by
  intro W hW hw
  replace hW := Option.some.inj hW
  simp [Instr.wellFormed] at hw
  have b_f := code_lt f
  have b_m := vmode_lt m
  simp only [Enc.vm] at hW
  have hm : W / 2 ^ 25 = 69 := by omega
  have hm2 : W / 33554432 = 69 := by omega
  have f0 : Dec.bv 6 W 0 = x := bv_eq (by omega)
  have f1 : Dec.fld W 11 16 = f.code := by unfold Dec.fld; omega
  have f2 : Dec.fld W 20 32 = 0 := by unfold Dec.fld; omega
  have f3 : Dec.fld W 6 4 = h.val := by unfold Dec.fld; omega
  have f4 : Dec.fld W 8 8 = Enc.vmode m := by unfold Dec.fld; omega
  have f5 : Dec.r2 W 6 = h := Fin.ext (show W / 2 ^ 6 % 4 = h.val by omega)
  have f6 : Dec.r5 W 15 = s := Fin.ext (show W / 2 ^ 15 % 32 = s.val by omega)
  refine ⟨by omega, ?_⟩
  rw [decode_memory hm (by decide)]
  simp [Dec.memory, Dec.vmem, hm2, f0, f1, f2, f3, f4, f5, f6, hw, code_dec, vmode_dec, Dec.rsv, Dec.acc, Dec.opt]

theorem vldk (k : KReg) (s : SReg) (h : Hint) (x : BitVec 6) : Statement (.vldk k s h x) := by
  intro W hW hw
  replace hW := Option.some.inj hW
  simp only [Enc.vm] at hW
  have hm : W / 2 ^ 25 = 70 := by omega
  have hm2 : W / 33554432 = 70 := by omega
  have f0 : Dec.bv 6 W 0 = x := bv_eq (by omega)
  have f1 : Dec.fld W 11 16 = 0 := by unfold Dec.fld; omega
  have f2 : Dec.fld W 23 4 = 0 := by unfold Dec.fld; omega
  have f3 : Dec.fld W 8 8 = 0 := by unfold Dec.fld; omega
  have f4 : Dec.r2 W 6 = h := Fin.ext (show W / 2 ^ 6 % 4 = h.val by omega)
  have f5 : Dec.r3 W 20 = k := Fin.ext (show W / 2 ^ 20 % 8 = k.val by omega)
  have f6 : Dec.r5 W 15 = s := Fin.ext (show W / 2 ^ 15 % 32 = s.val by omega)
  refine ⟨by omega, ?_⟩
  rw [decode_memory hm (by decide)]
  simp [Dec.memory, hm2, f0, f1, f2, f3, f4, f5, f6, Dec.rsv, Dec.acc]

theorem vstk (k : KReg) (s : SReg) (h : Hint) (x : BitVec 6) : Statement (.vstk k s h x) := by
  intro W hW hw
  replace hW := Option.some.inj hW
  simp [Instr.wellFormed] at hw
  simp only [Enc.vm] at hW
  have hm : W / 2 ^ 25 = 71 := by omega
  have hm2 : W / 33554432 = 71 := by omega
  have f0 : Dec.bv 6 W 0 = x := bv_eq (by omega)
  have f1 : Dec.fld W 11 16 = 0 := by unfold Dec.fld; omega
  have f2 : Dec.fld W 23 4 = 0 := by unfold Dec.fld; omega
  have f3 : Dec.fld W 6 4 = h.val := by unfold Dec.fld; omega
  have f4 : Dec.fld W 8 8 = 0 := by unfold Dec.fld; omega
  have f5 : Dec.r2 W 6 = h := Fin.ext (show W / 2 ^ 6 % 4 = h.val by omega)
  have f6 : Dec.r3 W 20 = k := Fin.ext (show W / 2 ^ 20 % 8 = k.val by omega)
  have f7 : Dec.r5 W 15 = s := Fin.ext (show W / 2 ^ 15 % 32 = s.val by omega)
  refine ⟨by omega, ?_⟩
  rw [decode_memory hm (by decide)]
  simp [Dec.memory, hm2, f0, f1, f2, f3, f4, f5, f6, f7, hw, Dec.rsv, Dec.acc]

theorem amoaddW (d : SReg) (a : SReg) (b : SReg) (aq : Bool) (rl : Bool) (c : Scope) (w : Stall) :
    Statement (.amoaddW d a b aq rl c w) := by
  intro W hW hw
  replace hW := Option.some.inj hW
  have b_aq : aq.toNat < 2 := aq.toNat_lt
  have b_rl : rl.toNat < 2 := rl.toNat_lt
  have b_c := scope_lt c
  simp only [Enc.amo, Enc.sr] at hW
  have hm : W / 2 ^ 25 = 72 := by omega
  have hm2 : W / 33554432 = 72 := by omega
  have f0 : Dec.bit W 5 = rl := bit_eq (by omega)
  have f1 : Dec.bit W 6 = aq := bit_eq (by omega)
  have f2 : Dec.fA W = a := Fin.ext (show W / 2 ^ 15 % 32 = a.val by omega)
  have f3 : Dec.fB W = b := Fin.ext (show W / 2 ^ 10 % 32 = b.val by omega)
  have f4 : Dec.fD W = d := Fin.ext (show W / 2 ^ 20 % 32 = d.val by omega)
  have f5 : Dec.fW W = w := Fin.ext (show W / 2 ^ 0 % 4 = w.val by omega)
  have f6 : Dec.fld W 2 8 = Enc.scope c := by unfold Dec.fld; omega
  have f7 : Dec.fld W 7 8 = 0 := by unfold Dec.fld; omega
  refine ⟨by omega, ?_⟩
  rw [decode_memory hm (by decide)]
  simp [Dec.memory, Dec.amoW, Dec.amo, hm2, f0, f1, f2, f3, f4, f5, f6, f7, scope_dec, Dec.opt]

theorem amominW (d : SReg) (a : SReg) (b : SReg) (aq : Bool) (rl : Bool) (c : Scope) (w : Stall) :
    Statement (.amominW d a b aq rl c w) := by
  intro W hW hw
  replace hW := Option.some.inj hW
  have b_aq : aq.toNat < 2 := aq.toNat_lt
  have b_rl : rl.toNat < 2 := rl.toNat_lt
  have b_c := scope_lt c
  simp only [Enc.amo, Enc.sr] at hW
  have hm : W / 2 ^ 25 = 72 := by omega
  have hm2 : W / 33554432 = 72 := by omega
  have f0 : Dec.bit W 5 = rl := bit_eq (by omega)
  have f1 : Dec.bit W 6 = aq := bit_eq (by omega)
  have f2 : Dec.fA W = a := Fin.ext (show W / 2 ^ 15 % 32 = a.val by omega)
  have f3 : Dec.fB W = b := Fin.ext (show W / 2 ^ 10 % 32 = b.val by omega)
  have f4 : Dec.fD W = d := Fin.ext (show W / 2 ^ 20 % 32 = d.val by omega)
  have f5 : Dec.fW W = w := Fin.ext (show W / 2 ^ 0 % 4 = w.val by omega)
  have f6 : Dec.fld W 2 8 = Enc.scope c := by unfold Dec.fld; omega
  have f7 : Dec.fld W 7 8 = 1 := by unfold Dec.fld; omega
  refine ⟨by omega, ?_⟩
  rw [decode_memory hm (by decide)]
  simp [Dec.memory, Dec.amoW, Dec.amo, hm2, f0, f1, f2, f3, f4, f5, f6, f7, scope_dec, Dec.opt]

theorem amomaxW (d : SReg) (a : SReg) (b : SReg) (aq : Bool) (rl : Bool) (c : Scope) (w : Stall) :
    Statement (.amomaxW d a b aq rl c w) := by
  intro W hW hw
  replace hW := Option.some.inj hW
  have b_aq : aq.toNat < 2 := aq.toNat_lt
  have b_rl : rl.toNat < 2 := rl.toNat_lt
  have b_c := scope_lt c
  simp only [Enc.amo, Enc.sr] at hW
  have hm : W / 2 ^ 25 = 72 := by omega
  have hm2 : W / 33554432 = 72 := by omega
  have f0 : Dec.bit W 5 = rl := bit_eq (by omega)
  have f1 : Dec.bit W 6 = aq := bit_eq (by omega)
  have f2 : Dec.fA W = a := Fin.ext (show W / 2 ^ 15 % 32 = a.val by omega)
  have f3 : Dec.fB W = b := Fin.ext (show W / 2 ^ 10 % 32 = b.val by omega)
  have f4 : Dec.fD W = d := Fin.ext (show W / 2 ^ 20 % 32 = d.val by omega)
  have f5 : Dec.fW W = w := Fin.ext (show W / 2 ^ 0 % 4 = w.val by omega)
  have f6 : Dec.fld W 2 8 = Enc.scope c := by unfold Dec.fld; omega
  have f7 : Dec.fld W 7 8 = 2 := by unfold Dec.fld; omega
  refine ⟨by omega, ?_⟩
  rw [decode_memory hm (by decide)]
  simp [Dec.memory, Dec.amoW, Dec.amo, hm2, f0, f1, f2, f3, f4, f5, f6, f7, scope_dec, Dec.opt]

theorem amoandW (d : SReg) (a : SReg) (b : SReg) (aq : Bool) (rl : Bool) (c : Scope) (w : Stall) :
    Statement (.amoandW d a b aq rl c w) := by
  intro W hW hw
  replace hW := Option.some.inj hW
  have b_aq : aq.toNat < 2 := aq.toNat_lt
  have b_rl : rl.toNat < 2 := rl.toNat_lt
  have b_c := scope_lt c
  simp only [Enc.amo, Enc.sr] at hW
  have hm : W / 2 ^ 25 = 72 := by omega
  have hm2 : W / 33554432 = 72 := by omega
  have f0 : Dec.bit W 5 = rl := bit_eq (by omega)
  have f1 : Dec.bit W 6 = aq := bit_eq (by omega)
  have f2 : Dec.fA W = a := Fin.ext (show W / 2 ^ 15 % 32 = a.val by omega)
  have f3 : Dec.fB W = b := Fin.ext (show W / 2 ^ 10 % 32 = b.val by omega)
  have f4 : Dec.fD W = d := Fin.ext (show W / 2 ^ 20 % 32 = d.val by omega)
  have f5 : Dec.fW W = w := Fin.ext (show W / 2 ^ 0 % 4 = w.val by omega)
  have f6 : Dec.fld W 2 8 = Enc.scope c := by unfold Dec.fld; omega
  have f7 : Dec.fld W 7 8 = 3 := by unfold Dec.fld; omega
  refine ⟨by omega, ?_⟩
  rw [decode_memory hm (by decide)]
  simp [Dec.memory, Dec.amoW, Dec.amo, hm2, f0, f1, f2, f3, f4, f5, f6, f7, scope_dec, Dec.opt]

theorem amoorW (d : SReg) (a : SReg) (b : SReg) (aq : Bool) (rl : Bool) (c : Scope) (w : Stall) :
    Statement (.amoorW d a b aq rl c w) := by
  intro W hW hw
  replace hW := Option.some.inj hW
  have b_aq : aq.toNat < 2 := aq.toNat_lt
  have b_rl : rl.toNat < 2 := rl.toNat_lt
  have b_c := scope_lt c
  simp only [Enc.amo, Enc.sr] at hW
  have hm : W / 2 ^ 25 = 72 := by omega
  have hm2 : W / 33554432 = 72 := by omega
  have f0 : Dec.bit W 5 = rl := bit_eq (by omega)
  have f1 : Dec.bit W 6 = aq := bit_eq (by omega)
  have f2 : Dec.fA W = a := Fin.ext (show W / 2 ^ 15 % 32 = a.val by omega)
  have f3 : Dec.fB W = b := Fin.ext (show W / 2 ^ 10 % 32 = b.val by omega)
  have f4 : Dec.fD W = d := Fin.ext (show W / 2 ^ 20 % 32 = d.val by omega)
  have f5 : Dec.fW W = w := Fin.ext (show W / 2 ^ 0 % 4 = w.val by omega)
  have f6 : Dec.fld W 2 8 = Enc.scope c := by unfold Dec.fld; omega
  have f7 : Dec.fld W 7 8 = 4 := by unfold Dec.fld; omega
  refine ⟨by omega, ?_⟩
  rw [decode_memory hm (by decide)]
  simp [Dec.memory, Dec.amoW, Dec.amo, hm2, f0, f1, f2, f3, f4, f5, f6, f7, scope_dec, Dec.opt]

theorem amoswpW (d : SReg) (a : SReg) (b : SReg) (aq : Bool) (rl : Bool) (c : Scope) (w : Stall) :
    Statement (.amoswpW d a b aq rl c w) := by
  intro W hW hw
  replace hW := Option.some.inj hW
  have b_aq : aq.toNat < 2 := aq.toNat_lt
  have b_rl : rl.toNat < 2 := rl.toNat_lt
  have b_c := scope_lt c
  simp only [Enc.amo, Enc.sr] at hW
  have hm : W / 2 ^ 25 = 72 := by omega
  have hm2 : W / 33554432 = 72 := by omega
  have f0 : Dec.bit W 5 = rl := bit_eq (by omega)
  have f1 : Dec.bit W 6 = aq := bit_eq (by omega)
  have f2 : Dec.fA W = a := Fin.ext (show W / 2 ^ 15 % 32 = a.val by omega)
  have f3 : Dec.fB W = b := Fin.ext (show W / 2 ^ 10 % 32 = b.val by omega)
  have f4 : Dec.fD W = d := Fin.ext (show W / 2 ^ 20 % 32 = d.val by omega)
  have f5 : Dec.fW W = w := Fin.ext (show W / 2 ^ 0 % 4 = w.val by omega)
  have f6 : Dec.fld W 2 8 = Enc.scope c := by unfold Dec.fld; omega
  have f7 : Dec.fld W 7 8 = 5 := by unfold Dec.fld; omega
  refine ⟨by omega, ?_⟩
  rw [decode_memory hm (by decide)]
  simp [Dec.memory, Dec.amoW, Dec.amo, hm2, f0, f1, f2, f3, f4, f5, f6, f7, scope_dec, Dec.opt]

theorem amocasW (d : SReg) (a : SReg) (b : SReg) (aq : Bool) (rl : Bool) (c : Scope) (w : Stall) :
    Statement (.amocasW d a b aq rl c w) := by
  intro W hW hw
  replace hW := Option.some.inj hW
  have b_aq : aq.toNat < 2 := aq.toNat_lt
  have b_rl : rl.toNat < 2 := rl.toNat_lt
  have b_c := scope_lt c
  simp only [Enc.amo, Enc.sr] at hW
  have hm : W / 2 ^ 25 = 72 := by omega
  have hm2 : W / 33554432 = 72 := by omega
  have f0 : Dec.bit W 5 = rl := bit_eq (by omega)
  have f1 : Dec.bit W 6 = aq := bit_eq (by omega)
  have f2 : Dec.fA W = a := Fin.ext (show W / 2 ^ 15 % 32 = a.val by omega)
  have f3 : Dec.fB W = b := Fin.ext (show W / 2 ^ 10 % 32 = b.val by omega)
  have f4 : Dec.fD W = d := Fin.ext (show W / 2 ^ 20 % 32 = d.val by omega)
  have f5 : Dec.fW W = w := Fin.ext (show W / 2 ^ 0 % 4 = w.val by omega)
  have f6 : Dec.fld W 2 8 = Enc.scope c := by unfold Dec.fld; omega
  have f7 : Dec.fld W 7 8 = 6 := by unfold Dec.fld; omega
  refine ⟨by omega, ?_⟩
  rw [decode_memory hm (by decide)]
  simp [Dec.memory, Dec.amoW, Dec.amo, hm2, f0, f1, f2, f3, f4, f5, f6, f7, scope_dec, Dec.opt]

theorem amoaddD (d : SReg) (a : SReg) (b : SReg) (aq : Bool) (rl : Bool) (c : Scope) (w : Stall) :
    Statement (.amoaddD d a b aq rl c w) := by
  intro W hW hw
  replace hW := Option.some.inj hW
  have b_aq : aq.toNat < 2 := aq.toNat_lt
  have b_rl : rl.toNat < 2 := rl.toNat_lt
  have b_c := scope_lt c
  simp only [Enc.amo, Enc.sr] at hW
  have hm : W / 2 ^ 25 = 73 := by omega
  have hm2 : W / 33554432 = 73 := by omega
  have f0 : Dec.bit W 5 = rl := bit_eq (by omega)
  have f1 : Dec.bit W 6 = aq := bit_eq (by omega)
  have f2 : Dec.fA W = a := Fin.ext (show W / 2 ^ 15 % 32 = a.val by omega)
  have f3 : Dec.fB W = b := Fin.ext (show W / 2 ^ 10 % 32 = b.val by omega)
  have f4 : Dec.fD W = d := Fin.ext (show W / 2 ^ 20 % 32 = d.val by omega)
  have f5 : Dec.fW W = w := Fin.ext (show W / 2 ^ 0 % 4 = w.val by omega)
  have f6 : Dec.fld W 2 8 = Enc.scope c := by unfold Dec.fld; omega
  have f7 : Dec.fld W 7 8 = 0 := by unfold Dec.fld; omega
  refine ⟨by omega, ?_⟩
  rw [decode_memory hm (by decide)]
  simp [Dec.memory, Dec.amoD, Dec.amo, hm2, f0, f1, f2, f3, f4, f5, f6, f7, scope_dec, Dec.opt]

theorem amominD (d : SReg) (a : SReg) (b : SReg) (aq : Bool) (rl : Bool) (c : Scope) (w : Stall) :
    Statement (.amominD d a b aq rl c w) := by
  intro W hW hw
  replace hW := Option.some.inj hW
  have b_aq : aq.toNat < 2 := aq.toNat_lt
  have b_rl : rl.toNat < 2 := rl.toNat_lt
  have b_c := scope_lt c
  simp only [Enc.amo, Enc.sr] at hW
  have hm : W / 2 ^ 25 = 73 := by omega
  have hm2 : W / 33554432 = 73 := by omega
  have f0 : Dec.bit W 5 = rl := bit_eq (by omega)
  have f1 : Dec.bit W 6 = aq := bit_eq (by omega)
  have f2 : Dec.fA W = a := Fin.ext (show W / 2 ^ 15 % 32 = a.val by omega)
  have f3 : Dec.fB W = b := Fin.ext (show W / 2 ^ 10 % 32 = b.val by omega)
  have f4 : Dec.fD W = d := Fin.ext (show W / 2 ^ 20 % 32 = d.val by omega)
  have f5 : Dec.fW W = w := Fin.ext (show W / 2 ^ 0 % 4 = w.val by omega)
  have f6 : Dec.fld W 2 8 = Enc.scope c := by unfold Dec.fld; omega
  have f7 : Dec.fld W 7 8 = 1 := by unfold Dec.fld; omega
  refine ⟨by omega, ?_⟩
  rw [decode_memory hm (by decide)]
  simp [Dec.memory, Dec.amoD, Dec.amo, hm2, f0, f1, f2, f3, f4, f5, f6, f7, scope_dec, Dec.opt]

theorem amomaxD (d : SReg) (a : SReg) (b : SReg) (aq : Bool) (rl : Bool) (c : Scope) (w : Stall) :
    Statement (.amomaxD d a b aq rl c w) := by
  intro W hW hw
  replace hW := Option.some.inj hW
  have b_aq : aq.toNat < 2 := aq.toNat_lt
  have b_rl : rl.toNat < 2 := rl.toNat_lt
  have b_c := scope_lt c
  simp only [Enc.amo, Enc.sr] at hW
  have hm : W / 2 ^ 25 = 73 := by omega
  have hm2 : W / 33554432 = 73 := by omega
  have f0 : Dec.bit W 5 = rl := bit_eq (by omega)
  have f1 : Dec.bit W 6 = aq := bit_eq (by omega)
  have f2 : Dec.fA W = a := Fin.ext (show W / 2 ^ 15 % 32 = a.val by omega)
  have f3 : Dec.fB W = b := Fin.ext (show W / 2 ^ 10 % 32 = b.val by omega)
  have f4 : Dec.fD W = d := Fin.ext (show W / 2 ^ 20 % 32 = d.val by omega)
  have f5 : Dec.fW W = w := Fin.ext (show W / 2 ^ 0 % 4 = w.val by omega)
  have f6 : Dec.fld W 2 8 = Enc.scope c := by unfold Dec.fld; omega
  have f7 : Dec.fld W 7 8 = 2 := by unfold Dec.fld; omega
  refine ⟨by omega, ?_⟩
  rw [decode_memory hm (by decide)]
  simp [Dec.memory, Dec.amoD, Dec.amo, hm2, f0, f1, f2, f3, f4, f5, f6, f7, scope_dec, Dec.opt]

theorem amoandD (d : SReg) (a : SReg) (b : SReg) (aq : Bool) (rl : Bool) (c : Scope) (w : Stall) :
    Statement (.amoandD d a b aq rl c w) := by
  intro W hW hw
  replace hW := Option.some.inj hW
  have b_aq : aq.toNat < 2 := aq.toNat_lt
  have b_rl : rl.toNat < 2 := rl.toNat_lt
  have b_c := scope_lt c
  simp only [Enc.amo, Enc.sr] at hW
  have hm : W / 2 ^ 25 = 73 := by omega
  have hm2 : W / 33554432 = 73 := by omega
  have f0 : Dec.bit W 5 = rl := bit_eq (by omega)
  have f1 : Dec.bit W 6 = aq := bit_eq (by omega)
  have f2 : Dec.fA W = a := Fin.ext (show W / 2 ^ 15 % 32 = a.val by omega)
  have f3 : Dec.fB W = b := Fin.ext (show W / 2 ^ 10 % 32 = b.val by omega)
  have f4 : Dec.fD W = d := Fin.ext (show W / 2 ^ 20 % 32 = d.val by omega)
  have f5 : Dec.fW W = w := Fin.ext (show W / 2 ^ 0 % 4 = w.val by omega)
  have f6 : Dec.fld W 2 8 = Enc.scope c := by unfold Dec.fld; omega
  have f7 : Dec.fld W 7 8 = 3 := by unfold Dec.fld; omega
  refine ⟨by omega, ?_⟩
  rw [decode_memory hm (by decide)]
  simp [Dec.memory, Dec.amoD, Dec.amo, hm2, f0, f1, f2, f3, f4, f5, f6, f7, scope_dec, Dec.opt]

theorem amoorD (d : SReg) (a : SReg) (b : SReg) (aq : Bool) (rl : Bool) (c : Scope) (w : Stall) :
    Statement (.amoorD d a b aq rl c w) := by
  intro W hW hw
  replace hW := Option.some.inj hW
  have b_aq : aq.toNat < 2 := aq.toNat_lt
  have b_rl : rl.toNat < 2 := rl.toNat_lt
  have b_c := scope_lt c
  simp only [Enc.amo, Enc.sr] at hW
  have hm : W / 2 ^ 25 = 73 := by omega
  have hm2 : W / 33554432 = 73 := by omega
  have f0 : Dec.bit W 5 = rl := bit_eq (by omega)
  have f1 : Dec.bit W 6 = aq := bit_eq (by omega)
  have f2 : Dec.fA W = a := Fin.ext (show W / 2 ^ 15 % 32 = a.val by omega)
  have f3 : Dec.fB W = b := Fin.ext (show W / 2 ^ 10 % 32 = b.val by omega)
  have f4 : Dec.fD W = d := Fin.ext (show W / 2 ^ 20 % 32 = d.val by omega)
  have f5 : Dec.fW W = w := Fin.ext (show W / 2 ^ 0 % 4 = w.val by omega)
  have f6 : Dec.fld W 2 8 = Enc.scope c := by unfold Dec.fld; omega
  have f7 : Dec.fld W 7 8 = 4 := by unfold Dec.fld; omega
  refine ⟨by omega, ?_⟩
  rw [decode_memory hm (by decide)]
  simp [Dec.memory, Dec.amoD, Dec.amo, hm2, f0, f1, f2, f3, f4, f5, f6, f7, scope_dec, Dec.opt]

theorem amoswpD (d : SReg) (a : SReg) (b : SReg) (aq : Bool) (rl : Bool) (c : Scope) (w : Stall) :
    Statement (.amoswpD d a b aq rl c w) := by
  intro W hW hw
  replace hW := Option.some.inj hW
  have b_aq : aq.toNat < 2 := aq.toNat_lt
  have b_rl : rl.toNat < 2 := rl.toNat_lt
  have b_c := scope_lt c
  simp only [Enc.amo, Enc.sr] at hW
  have hm : W / 2 ^ 25 = 73 := by omega
  have hm2 : W / 33554432 = 73 := by omega
  have f0 : Dec.bit W 5 = rl := bit_eq (by omega)
  have f1 : Dec.bit W 6 = aq := bit_eq (by omega)
  have f2 : Dec.fA W = a := Fin.ext (show W / 2 ^ 15 % 32 = a.val by omega)
  have f3 : Dec.fB W = b := Fin.ext (show W / 2 ^ 10 % 32 = b.val by omega)
  have f4 : Dec.fD W = d := Fin.ext (show W / 2 ^ 20 % 32 = d.val by omega)
  have f5 : Dec.fW W = w := Fin.ext (show W / 2 ^ 0 % 4 = w.val by omega)
  have f6 : Dec.fld W 2 8 = Enc.scope c := by unfold Dec.fld; omega
  have f7 : Dec.fld W 7 8 = 5 := by unfold Dec.fld; omega
  refine ⟨by omega, ?_⟩
  rw [decode_memory hm (by decide)]
  simp [Dec.memory, Dec.amoD, Dec.amo, hm2, f0, f1, f2, f3, f4, f5, f6, f7, scope_dec, Dec.opt]

theorem amocasD (d : SReg) (a : SReg) (b : SReg) (aq : Bool) (rl : Bool) (c : Scope) (w : Stall) :
    Statement (.amocasD d a b aq rl c w) := by
  intro W hW hw
  replace hW := Option.some.inj hW
  have b_aq : aq.toNat < 2 := aq.toNat_lt
  have b_rl : rl.toNat < 2 := rl.toNat_lt
  have b_c := scope_lt c
  simp only [Enc.amo, Enc.sr] at hW
  have hm : W / 2 ^ 25 = 73 := by omega
  have hm2 : W / 33554432 = 73 := by omega
  have f0 : Dec.bit W 5 = rl := bit_eq (by omega)
  have f1 : Dec.bit W 6 = aq := bit_eq (by omega)
  have f2 : Dec.fA W = a := Fin.ext (show W / 2 ^ 15 % 32 = a.val by omega)
  have f3 : Dec.fB W = b := Fin.ext (show W / 2 ^ 10 % 32 = b.val by omega)
  have f4 : Dec.fD W = d := Fin.ext (show W / 2 ^ 20 % 32 = d.val by omega)
  have f5 : Dec.fW W = w := Fin.ext (show W / 2 ^ 0 % 4 = w.val by omega)
  have f6 : Dec.fld W 2 8 = Enc.scope c := by unfold Dec.fld; omega
  have f7 : Dec.fld W 7 8 = 6 := by unfold Dec.fld; omega
  refine ⟨by omega, ?_⟩
  rw [decode_memory hm (by decide)]
  simp [Dec.memory, Dec.amoD, Dec.amo, hm2, f0, f1, f2, f3, f4, f5, f6, f7, scope_dec, Dec.opt]

theorem amonib (d : SReg) (a : SReg) (b : SReg) (p : NibOp) (aq : Bool) (rl : Bool) (c : Scope) (w : Stall) :
    Statement (.amonib d a b p aq rl c w) := by
  intro W hW hw
  replace hW := Option.some.inj hW
  have b_p := nibop_lt p
  have b_aq : aq.toNat < 2 := aq.toNat_lt
  have b_rl : rl.toNat < 2 := rl.toNat_lt
  have b_c := scope_lt c
  simp only [Enc.amo, Enc.sr] at hW
  have hm : W / 2 ^ 25 = 74 := by omega
  have hm2 : W / 33554432 = 74 := by omega
  have f0 : Dec.bit W 5 = rl := bit_eq (by omega)
  have f1 : Dec.bit W 6 = aq := bit_eq (by omega)
  have f2 : Dec.fB W = b := Fin.ext (show W / 2 ^ 10 % 32 = b.val by omega)
  have f3 : Dec.fW W = w := Fin.ext (show W / 2 ^ 0 % 4 = w.val by omega)
  have f4 : Dec.fld W 2 8 = Enc.scope c := by unfold Dec.fld; omega
  have f5 : Dec.fld W 7 8 = Enc.nibop p := by unfold Dec.fld; omega
  have f6 : Dec.r5 W 15 = a := Fin.ext (show W / 2 ^ 15 % 32 = a.val by omega)
  have f7 : Dec.r5 W 20 = d := Fin.ext (show W / 2 ^ 20 % 32 = d.val by omega)
  refine ⟨by omega, ?_⟩
  rw [decode_memory hm (by decide)]
  cases p
  all_goals simp [Dec.memory, hm2, f0, f1, f2, f3, f4, f5, f6, f7, scope_dec, Enc.nibop, Dec.nibop, Dec.opt]

theorem vamoadd (v : VReg) (s : SReg) (f : Fmt) (c : Scope) (aq : Bool) (rl : Bool) (i : VReg) :
    Statement (.vamoadd v s f c aq rl i) := by
  intro W hW hw
  replace hW := Option.some.inj hW
  simp [Instr.wellFormed] at hw
  have b_f := code_lt f
  have b_c := scope_lt c
  have b_aq : aq.toNat < 2 := aq.toNat_lt
  have b_rl : rl.toNat < 2 := rl.toNat_lt
  simp only [Enc.vm] at hW
  have hm : W / 2 ^ 25 = 75 := by omega
  have hm2 : W / 33554432 = 75 := by omega
  have f0 : Dec.bit W 6 = rl := bit_eq (by omega)
  have f1 : Dec.bit W 7 = aq := bit_eq (by omega)
  have f2 : Dec.fld W 0 2 = 0 := by unfold Dec.fld; omega
  have f3 : Dec.fld W 11 16 = f.code := by unfold Dec.fld; omega
  have f4 : Dec.fld W 8 8 = Enc.scope c := by unfold Dec.fld; omega
  have f5 : Dec.r5 W 1 = i := Fin.ext (show W / 2 ^ 1 % 32 = i.val by omega)
  have f6 : Dec.r5 W 15 = s := Fin.ext (show W / 2 ^ 15 % 32 = s.val by omega)
  have f7 : Dec.r5 W 20 = v := Fin.ext (show W / 2 ^ 20 % 32 = v.val by omega)
  refine ⟨by omega, ?_⟩
  rw [decode_memory hm (by decide)]
  simp [Dec.memory, hm2, f0, f1, f2, f3, f4, f5, f6, f7, hw, code_dec, scope_dec, Dec.rsv, Dec.acc, Dec.opt]

theorem phase (c : Scope) : Statement (.phase c) := by
  intro W hW hw
  replace hW := Option.some.inj hW
  have b_c := scope_lt c
  simp only [Enc.sy] at hW
  have hm : W / 2 ^ 25 = 76 := by omega
  have hm2 : W / 33554432 = 76 := by omega
  have f0 : Dec.fld W 0 8 = 0 := by unfold Dec.fld; omega
  have f1 : Dec.fld W 3 8 = Enc.scope c := by unfold Dec.fld; omega
  have f2 : Dec.fld W 6 524288 = 0 := by unfold Dec.fld; omega
  refine ⟨by omega, ?_⟩
  rw [decode_memory hm (by decide)]
  simp [Dec.memory, Dec.sync, hm2, f0, f1, f2, scope_dec, Dec.rsv, Dec.opt]

theorem fence (c : Scope) : Statement (.fence c) := by
  intro W hW hw
  replace hW := Option.some.inj hW
  have b_c := scope_lt c
  simp only [Enc.sy] at hW
  have hm : W / 2 ^ 25 = 76 := by omega
  have hm2 : W / 33554432 = 76 := by omega
  have f0 : Dec.fld W 0 8 = 1 := by unfold Dec.fld; omega
  have f1 : Dec.fld W 3 8 = Enc.scope c := by unfold Dec.fld; omega
  have f2 : Dec.fld W 6 524288 = 0 := by unfold Dec.fld; omega
  refine ⟨by omega, ?_⟩
  rw [decode_memory hm (by decide)]
  simp [Dec.memory, Dec.sync, hm2, f0, f1, f2, scope_dec, Dec.rsv, Dec.opt]

theorem mopaB (m : MReg) (a : VReg) (b : VReg) : Statement (.mopaB m a b) := by
  intro W hW hw
  replace hW := Option.some.inj hW
  simp only [Enc.mx] at hW
  have hm : W / 2 ^ 25 = 88 := by omega
  have hm2 : W / 33554432 = 88 := by omega
  have f0 : Dec.fld W 0 64 = 0 := by unfold Dec.fld; omega
  have f1 : Dec.r5 W 11 = a := Fin.ext (show W / 2 ^ 11 % 32 = a.val by omega)
  have f2 : Dec.r5 W 6 = b := Fin.ext (show W / 2 ^ 6 % 32 = b.val by omega)
  have f3 : Dec.r9 W 16 = m := Fin.ext (show W / 2 ^ 16 % 512 = m.val by omega)
  refine ⟨by omega, ?_⟩
  rw [decode_matrix hm (by decide)]
  simp [Dec.matrix, hm2, f0, f1, f2, f3]

theorem mopaF (m : MReg) (a : VReg) (b : VReg) : Statement (.mopaF m a b) := by
  intro W hW hw
  replace hW := Option.some.inj hW
  simp only [Enc.mx] at hW
  have hm : W / 2 ^ 25 = 88 := by omega
  have hm2 : W / 33554432 = 88 := by omega
  have f0 : Dec.fld W 0 64 = 1 := by unfold Dec.fld; omega
  have f1 : Dec.r5 W 11 = a := Fin.ext (show W / 2 ^ 11 % 32 = a.val by omega)
  have f2 : Dec.r5 W 6 = b := Fin.ext (show W / 2 ^ 6 % 32 = b.val by omega)
  have f3 : Dec.r9 W 16 = m := Fin.ext (show W / 2 ^ 16 % 512 = m.val by omega)
  refine ⟨by omega, ?_⟩
  rw [decode_matrix hm (by decide)]
  simp [Dec.matrix, hm2, f0, f1, f2, f3]

theorem mopsB (m : MReg) (a : VReg) (b : VReg) : Statement (.mopsB m a b) := by
  intro W hW hw
  replace hW := Option.some.inj hW
  simp only [Enc.mx] at hW
  have hm : W / 2 ^ 25 = 89 := by omega
  have hm2 : W / 33554432 = 89 := by omega
  have f0 : Dec.fld W 0 64 = 0 := by unfold Dec.fld; omega
  have f1 : Dec.r5 W 11 = a := Fin.ext (show W / 2 ^ 11 % 32 = a.val by omega)
  have f2 : Dec.r5 W 6 = b := Fin.ext (show W / 2 ^ 6 % 32 = b.val by omega)
  have f3 : Dec.r9 W 16 = m := Fin.ext (show W / 2 ^ 16 % 512 = m.val by omega)
  refine ⟨by omega, ?_⟩
  rw [decode_matrix hm (by decide)]
  simp [Dec.matrix, hm2, f0, f1, f2, f3]

theorem mopsF (m : MReg) (a : VReg) (b : VReg) : Statement (.mopsF m a b) := by
  intro W hW hw
  replace hW := Option.some.inj hW
  simp only [Enc.mx] at hW
  have hm : W / 2 ^ 25 = 89 := by omega
  have hm2 : W / 33554432 = 89 := by omega
  have f0 : Dec.fld W 0 64 = 1 := by unfold Dec.fld; omega
  have f1 : Dec.r5 W 11 = a := Fin.ext (show W / 2 ^ 11 % 32 = a.val by omega)
  have f2 : Dec.r5 W 6 = b := Fin.ext (show W / 2 ^ 6 % 32 = b.val by omega)
  have f3 : Dec.r9 W 16 = m := Fin.ext (show W / 2 ^ 16 % 512 = m.val by omega)
  refine ⟨by omega, ?_⟩
  rw [decode_matrix hm (by decide)]
  simp [Dec.matrix, hm2, f0, f1, f2, f3]

theorem mmas (m : MReg) (a : SReg) (b : SReg) : Statement (.mmas m a b) := by
  intro W hW hw
  replace hW := Option.some.inj hW
  simp only [Enc.mx] at hW
  have hm : W / 2 ^ 25 = 90 := by omega
  have hm2 : W / 33554432 = 90 := by omega
  have f0 : Dec.fld W 0 64 = 0 := by unfold Dec.fld; omega
  have f1 : Dec.r5 W 11 = a := Fin.ext (show W / 2 ^ 11 % 32 = a.val by omega)
  have f2 : Dec.r5 W 6 = b := Fin.ext (show W / 2 ^ 6 % 32 = b.val by omega)
  have f3 : Dec.r9 W 16 = m := Fin.ext (show W / 2 ^ 16 % 512 = m.val by omega)
  refine ⟨by omega, ?_⟩
  rw [decode_matrix hm (by decide)]
  simp [Dec.matrix, hm2, f0, f1, f2, f3]

theorem mzero (m : MReg) : Statement (.mzero m) := by
  intro W hW hw
  replace hW := Option.some.inj hW
  simp only [Enc.mt] at hW
  have hm : W / 2 ^ 25 = 91 := by omega
  have hm2 : W / 33554432 = 91 := by omega
  have f0 : Dec.fld W 0 64 = 0 := by unfold Dec.fld; omega
  have f1 : Dec.fld W 6 1024 = 0 := by unfold Dec.fld; omega
  have f2 : Dec.r9 W 16 = m := Fin.ext (show W / 2 ^ 16 % 512 = m.val by omega)
  refine ⟨by omega, ?_⟩
  rw [decode_matrix hm (by decide)]
  simp [Dec.matrix, hm2, f0, f1, f2, Dec.rsv]

theorem mmov (m : MReg) (n : MReg) (l : Bool) : Statement (.mmov m n l) := by
  intro W hW hw
  replace hW := Option.some.inj hW
  simp [Instr.wellFormed] at hw
  have b_l : l.toNat < 2 := l.toNat_lt
  simp only [Enc.mt] at hW
  have hm : W / 2 ^ 25 = 91 := by omega
  have hm2 : W / 33554432 = 91 := by omega
  have f0 : Dec.bit W 6 = l := bit_eq (by omega)
  have f1 : Dec.fld W 0 64 = 1 := by unfold Dec.fld; omega
  have f2 : Dec.r9 W 16 = m := Fin.ext (show W / 2 ^ 16 % 512 = m.val by omega)
  have f3 : Dec.r9 W 7 = n := Fin.ext (show W / 2 ^ 7 % 512 = n.val by omega)
  refine ⟨by omega, ?_⟩
  rw [decode_matrix hm (by decide)]
  simp [Dec.matrix, hm2, f0, f1, f2, f3, hw, Dec.acc]

theorem mdead (m : MReg) : Statement (.mdead m) := by
  intro W hW hw
  replace hW := Option.some.inj hW
  simp only [Enc.mt] at hW
  have hm : W / 2 ^ 25 = 91 := by omega
  have hm2 : W / 33554432 = 91 := by omega
  have f0 : Dec.fld W 0 64 = 2 := by unfold Dec.fld; omega
  have f1 : Dec.fld W 6 1024 = 0 := by unfold Dec.fld; omega
  have f2 : Dec.r9 W 16 = m := Fin.ext (show W / 2 ^ 16 % 512 = m.val by omega)
  refine ⟨by omega, ?_⟩
  rw [decode_matrix hm (by decide)]
  simp [Dec.matrix, hm2, f0, f1, f2, Dec.rsv]

theorem mpref (m : MReg) : Statement (.mpref m) := by
  intro W hW hw
  replace hW := Option.some.inj hW
  simp only [Enc.mt] at hW
  have hm : W / 2 ^ 25 = 91 := by omega
  have hm2 : W / 33554432 = 91 := by omega
  have f0 : Dec.fld W 0 64 = 3 := by unfold Dec.fld; omega
  have f1 : Dec.fld W 6 1024 = 0 := by unfold Dec.fld; omega
  have f2 : Dec.r9 W 16 = m := Fin.ext (show W / 2 ^ 16 % 512 = m.val by omega)
  refine ⟨by omega, ?_⟩
  rw [decode_matrix hm (by decide)]
  simp [Dec.matrix, hm2, f0, f1, f2, Dec.rsv]

theorem mflush (m : MReg) : Statement (.mflush m) := by
  intro W hW hw
  replace hW := Option.some.inj hW
  simp only [Enc.mt] at hW
  have hm : W / 2 ^ 25 = 91 := by omega
  have hm2 : W / 33554432 = 91 := by omega
  have f0 : Dec.fld W 0 64 = 4 := by unfold Dec.fld; omega
  have f1 : Dec.fld W 6 1024 = 0 := by unfold Dec.fld; omega
  have f2 : Dec.r9 W 16 = m := Fin.ext (show W / 2 ^ 16 % 512 = m.val by omega)
  refine ⟨by omega, ?_⟩
  rw [decode_matrix hm (by decide)]
  simp [Dec.matrix, hm2, f0, f1, f2, Dec.rsv]

theorem mflushall : Statement .mflushall := by
  intro W hW hw
  replace hW := Option.some.inj hW
  simp only [Enc.mt] at hW
  have hm : W / 2 ^ 25 = 91 := by omega
  have hm2 : W / 33554432 = 91 := by omega
  have f0 : Dec.fld W 0 64 = 5 := by unfold Dec.fld; omega
  have f1 : Dec.fld W 6 524288 = 0 := by unfold Dec.fld; omega
  refine ⟨by omega, ?_⟩
  rw [decode_matrix hm (by decide)]
  simp [Dec.matrix, hm2, f0, f1, Dec.rsv]

theorem mld (m : MReg) (s : SReg) (x : SReg) (h : Hint) (f : MFmt) : Statement (.mld m s x h f) := by
  intro W hW hw
  cases f with
  | fp32 =>
    replace hW := Option.some.inj hW
    simp only [Enc.mm, Enc.mfmt] at hW
    have hm : W / 2 ^ 25 = 92 := by omega
    have hm2 : W / 33554432 = 92 := by omega
    have f0 : Dec.bit W 5 = false := bit_eq (by simp only [Bool.toNat_false]; omega)
    have f1 : Dec.fld W 0 8 = 0 := by unfold Dec.fld; omega
    have f2 : Dec.r2 W 3 = h := Fin.ext (show W / 2 ^ 3 % 4 = h.val by omega)
    have f3 : Dec.r5 W 11 = s := Fin.ext (show W / 2 ^ 11 % 32 = s.val by omega)
    have f4 : Dec.r5 W 6 = x := Fin.ext (show W / 2 ^ 6 % 32 = x.val by omega)
    have f5 : Dec.r9 W 16 = m := Fin.ext (show W / 2 ^ 16 % 512 = m.val by omega)
    refine ⟨by omega, ?_⟩
    rw [decode_matrix hm (by decide)]
    simp [Dec.matrix, hm2, f0, f1, f2, f3, f4, f5, Dec.rsv]
  | bf16 =>
    replace hW := Option.some.inj hW
    simp only [Enc.mm, Enc.mfmt] at hW
    have hm : W / 2 ^ 25 = 92 := by omega
    have hm2 : W / 33554432 = 92 := by omega
    have f0 : Dec.bit W 5 = false := bit_eq (by simp only [Bool.toNat_false]; omega)
    have f1 : Dec.fld W 0 8 = 1 := by unfold Dec.fld; omega
    have f2 : Dec.r2 W 3 = h := Fin.ext (show W / 2 ^ 3 % 4 = h.val by omega)
    have f3 : Dec.r5 W 11 = s := Fin.ext (show W / 2 ^ 11 % 32 = s.val by omega)
    have f4 : Dec.r5 W 6 = x := Fin.ext (show W / 2 ^ 6 % 32 = x.val by omega)
    have f5 : Dec.r9 W 16 = m := Fin.ext (show W / 2 ^ 16 % 512 = m.val by omega)
    refine ⟨by omega, ?_⟩
    rw [decode_matrix hm (by decide)]
    simp [Dec.matrix, hm2, f0, f1, f2, f3, f4, f5, Dec.rsv]

theorem mst (m : MReg) (s : SReg) (x : SReg) (l : Bool) (h : Hint) (f : MFmt) : Statement (.mst m s x l h f) := by
  intro W hW hw
  cases f with
  | fp32 =>
    replace hW := Option.some.inj hW
    simp [Instr.wellFormed] at hw
    have b_l : l.toNat < 2 := l.toNat_lt
    simp only [Enc.mm, Enc.mfmt] at hW
    have hm : W / 2 ^ 25 = 93 := by omega
    have hm2 : W / 33554432 = 93 := by omega
    have f0 : Dec.bit W 5 = l := bit_eq (by omega)
    have f1 : Dec.fld W 0 8 = 0 := by unfold Dec.fld; omega
    have f2 : Dec.fld W 3 4 = h.val := by unfold Dec.fld; omega
    have f3 : Dec.r2 W 3 = h := Fin.ext (show W / 2 ^ 3 % 4 = h.val by omega)
    have f4 : Dec.r5 W 11 = s := Fin.ext (show W / 2 ^ 11 % 32 = s.val by omega)
    have f5 : Dec.r5 W 6 = x := Fin.ext (show W / 2 ^ 6 % 32 = x.val by omega)
    have f6 : Dec.r9 W 16 = m := Fin.ext (show W / 2 ^ 16 % 512 = m.val by omega)
    refine ⟨by omega, ?_⟩
    rw [decode_matrix hm (by decide)]
    simp [Dec.matrix, hm2, f0, f1, f2, f3, f4, f5, f6, hw, Dec.acc]
  | bf16 =>
    replace hW := Option.some.inj hW
    simp [Instr.wellFormed] at hw
    have b_l : l.toNat < 2 := l.toNat_lt
    simp only [Enc.mm, Enc.mfmt] at hW
    have hm : W / 2 ^ 25 = 93 := by omega
    have hm2 : W / 33554432 = 93 := by omega
    have f0 : Dec.bit W 5 = l := bit_eq (by omega)
    have f1 : Dec.fld W 0 8 = 1 := by unfold Dec.fld; omega
    have f2 : Dec.fld W 3 4 = h.val := by unfold Dec.fld; omega
    have f3 : Dec.r2 W 3 = h := Fin.ext (show W / 2 ^ 3 % 4 = h.val by omega)
    have f4 : Dec.r5 W 11 = s := Fin.ext (show W / 2 ^ 11 % 32 = s.val by omega)
    have f5 : Dec.r5 W 6 = x := Fin.ext (show W / 2 ^ 6 % 32 = x.val by omega)
    have f6 : Dec.r9 W 16 = m := Fin.ext (show W / 2 ^ 16 % 512 = m.val by omega)
    refine ⟨by omega, ?_⟩
    rw [decode_matrix hm (by decide)]
    simp [Dec.matrix, hm2, f0, f1, f2, f3, f4, f5, f6, hw, Dec.acc]

theorem mrow (m : MReg) (v : VReg) (x : SReg) (l : Bool) : Statement (.mrow m v x l) := by
  intro W hW hw
  replace hW := Option.some.inj hW
  have b_l : l.toNat < 2 := l.toNat_lt
  simp only [Enc.mm] at hW
  have hm : W / 2 ^ 25 = 94 := by omega
  have hm2 : W / 33554432 = 94 := by omega
  have f0 : Dec.bit W 5 = l := bit_eq (by omega)
  have f1 : Dec.fld W 0 8 = 0 := by unfold Dec.fld; omega
  have f2 : Dec.fld W 3 4 = 0 := by unfold Dec.fld; omega
  have f3 : Dec.r5 W 11 = v := Fin.ext (show W / 2 ^ 11 % 32 = v.val by omega)
  have f4 : Dec.r5 W 6 = x := Fin.ext (show W / 2 ^ 6 % 32 = x.val by omega)
  have f5 : Dec.r9 W 16 = m := Fin.ext (show W / 2 ^ 16 % 512 = m.val by omega)
  refine ⟨by omega, ?_⟩
  rw [decode_matrix hm (by decide)]
  simp [Dec.matrix, hm2, f0, f1, f2, f3, f4, f5, Dec.rsv]

theorem mcol4 (m : MReg) (v : VReg) (x : SReg) (l : Bool) : Statement (.mcol4 m v x l) := by
  intro W hW hw
  replace hW := Option.some.inj hW
  have b_l : l.toNat < 2 := l.toNat_lt
  simp only [Enc.mm] at hW
  have hm : W / 2 ^ 25 = 94 := by omega
  have hm2 : W / 33554432 = 94 := by omega
  have f0 : Dec.bit W 5 = l := bit_eq (by omega)
  have f1 : Dec.fld W 0 8 = 1 := by unfold Dec.fld; omega
  have f2 : Dec.fld W 3 4 = 0 := by unfold Dec.fld; omega
  have f3 : Dec.r5 W 11 = v := Fin.ext (show W / 2 ^ 11 % 32 = v.val by omega)
  have f4 : Dec.r5 W 6 = x := Fin.ext (show W / 2 ^ 6 % 32 = x.val by omega)
  have f5 : Dec.r9 W 16 = m := Fin.ext (show W / 2 ^ 16 % 512 = m.val by omega)
  refine ⟨by omega, ?_⟩
  rw [decode_matrix hm (by decide)]
  simp [Dec.matrix, hm2, f0, f1, f2, f3, f4, f5, Dec.rsv]

theorem mwrow (m : MReg) (v : VReg) (x : SReg) : Statement (.mwrow m v x) := by
  intro W hW hw
  replace hW := Option.some.inj hW
  simp only [Enc.mm] at hW
  have hm : W / 2 ^ 25 = 94 := by omega
  have hm2 : W / 33554432 = 94 := by omega
  have f0 : Dec.fld W 0 8 = 2 := by unfold Dec.fld; omega
  have f1 : Dec.fld W 3 8 = 0 := by unfold Dec.fld; omega
  have f2 : Dec.r5 W 11 = v := Fin.ext (show W / 2 ^ 11 % 32 = v.val by omega)
  have f3 : Dec.r5 W 6 = x := Fin.ext (show W / 2 ^ 6 % 32 = x.val by omega)
  have f4 : Dec.r9 W 16 = m := Fin.ext (show W / 2 ^ 16 % 512 = m.val by omega)
  refine ⟨by omega, ?_⟩
  rw [decode_matrix hm (by decide)]
  simp [Dec.matrix, hm2, f0, f1, f2, f3, f4, Dec.rsv]

theorem mstat (m : MReg) (d : SReg) : Statement (.mstat m d) := by
  intro W hW hw
  replace hW := Option.some.inj hW
  simp only [Enc.mm] at hW
  have hm : W / 2 ^ 25 = 95 := by omega
  have hm2 : W / 33554432 = 95 := by omega
  have f0 : Dec.fld W 0 8 = 0 := by unfold Dec.fld; omega
  have f1 : Dec.fld W 3 256 = 0 := by unfold Dec.fld; omega
  have f2 : Dec.r5 W 11 = d := Fin.ext (show W / 2 ^ 11 % 32 = d.val by omega)
  have f3 : Dec.r9 W 16 = m := Fin.ext (show W / 2 ^ 16 % 512 = m.val by omega)
  refine ⟨by omega, ?_⟩
  rw [decode_matrix hm (by decide)]
  simp [Dec.matrix, hm2, f0, f1, f2, f3, Dec.rsv]

theorem setvlr (d : SReg) (a : SReg) (b : SReg) (h : HReg) (w : Stall) : Statement (.setvlr d a b h w) := by
  intro W hW hw
  replace hW := Option.some.inj hW
  simp only [Enc.sr] at hW
  have hm : W / 2 ^ 25 = 104 := by omega
  have hm2 : W / 33554432 = 104 := by omega
  have f0 : Dec.fA W = a := Fin.ext (show W / 2 ^ 15 % 32 = a.val by omega)
  have f1 : Dec.fB W = b := Fin.ext (show W / 2 ^ 10 % 32 = b.val by omega)
  have f2 : Dec.fD W = d := Fin.ext (show W / 2 ^ 20 % 32 = d.val by omega)
  have f3 : Dec.fW W = w := Fin.ext (show W / 2 ^ 0 % 4 = w.val by omega)
  have f4 : Dec.fld W 6 16 = 0 := by unfold Dec.fld; omega
  have f5 : Dec.r4 W 2 = h := Fin.ext (show W / 2 ^ 2 % 16 = h.val by omega)
  refine ⟨by omega, ?_⟩
  rw [decode_attention hm (by decide)]
  simp [Dec.attention, hm2, f0, f1, f2, f3, f4, f5, Dec.rsv]

theorem atsc (m : MReg) (a : VReg) (b : SReg) : Statement (.atsc m a b) := by
  intro W hW hw
  replace hW := Option.some.inj hW
  simp only [Enc.mx] at hW
  have hm : W / 2 ^ 25 = 105 := by omega
  have hm2 : W / 33554432 = 105 := by omega
  have f0 : Dec.bit W 0 = false := bit_eq (by simp only [Bool.toNat_false]; omega)
  have f1 : Dec.fld W 1 32 = 0 := by unfold Dec.fld; omega
  have f2 : Dec.r5 W 11 = a := Fin.ext (show W / 2 ^ 11 % 32 = a.val by omega)
  have f3 : Dec.r5 W 6 = b := Fin.ext (show W / 2 ^ 6 % 32 = b.val by omega)
  have f4 : Dec.r9 W 16 = m := Fin.ext (show W / 2 ^ 16 % 512 = m.val by omega)
  refine ⟨by omega, ?_⟩
  rw [decode_attention hm (by decide)]
  simp [Dec.attention, hm2, f0, f1, f2, f3, f4, Dec.rsv]

theorem atscBias (m : MReg) (a : VReg) (b : SReg) (z : VReg) : Statement (.atscBias m a b z) := by
  intro W hW hw
  replace hW := Option.some.inj hW
  simp only [Enc.mx] at hW
  have hm : W / 2 ^ 25 = 105 := by omega
  have hm2 : W / 33554432 = 105 := by omega
  have f0 : Dec.bit W 0 = true := bit_eq (by simp only [Bool.toNat_true]; omega)
  have f1 : Dec.fld W 1 32 = z.val := by unfold Dec.fld; omega
  have f2 : Dec.r5 W 1 = z := Fin.ext (show W / 2 ^ 1 % 32 = z.val by omega)
  have f3 : Dec.r5 W 11 = a := Fin.ext (show W / 2 ^ 11 % 32 = a.val by omega)
  have f4 : Dec.r5 W 6 = b := Fin.ext (show W / 2 ^ 6 % 32 = b.val by omega)
  have f5 : Dec.r9 W 16 = m := Fin.ext (show W / 2 ^ 16 % 512 = m.val by omega)
  refine ⟨by omega, ?_⟩
  rw [decode_attention hm (by decide)]
  simp [Dec.attention, hm2, f0, f2, f3, f4, f5]

theorem atex (o : OReg) : Statement (.atex o) := by
  intro W hW hw
  replace hW := Option.some.inj hW
  simp only [Enc.mx] at hW
  have hm : W / 2 ^ 25 = 106 := by omega
  have hm2 : W / 33554432 = 106 := by omega
  have f0 : Dec.fld W 0 2048 = 0 := by unfold Dec.fld; omega
  have f1 : Dec.fld W 14 2048 = 0 := by unfold Dec.fld; omega
  have f2 : Dec.r3 W 11 = o := Fin.ext (show W / 2 ^ 11 % 8 = o.val by omega)
  refine ⟨by omega, ?_⟩
  rw [decode_attention hm (by decide)]
  simp [Dec.attention, hm2, f0, f1, f2, Dec.rsv]

theorem atac (m : MReg) (n : MReg) (l : Bool) (o : OReg) : Statement (.atac m n l o) := by
  intro W hW hw
  replace hW := Option.some.inj hW
  simp [Instr.wellFormed] at hw
  have b_l : l.toNat < 2 := l.toNat_lt
  simp only [Enc.mt] at hW
  have hm : W / 2 ^ 25 = 107 := by omega
  have hm2 : W / 33554432 = 107 := by omega
  have f0 : Dec.bit W 6 = l := bit_eq (by omega)
  have f1 : Dec.fld W 3 8 = 0 := by unfold Dec.fld; omega
  have f2 : Dec.r3 W 0 = o := Fin.ext (show W / 2 ^ 0 % 8 = o.val by omega)
  have f3 : Dec.r9 W 16 = m := Fin.ext (show W / 2 ^ 16 % 512 = m.val by omega)
  have f4 : Dec.r9 W 7 = n := Fin.ext (show W / 2 ^ 7 % 512 = n.val by omega)
  refine ⟨by omega, ?_⟩
  rw [decode_attention hm (by decide)]
  simp [Dec.attention, hm2, f0, f1, f2, f3, f4, hw, Dec.rsv, Dec.acc]

theorem osget (d : SReg) (o : OReg) (w : Stall) : Statement (.osget d o w) := by
  intro W hW hw
  replace hW := Option.some.inj hW
  simp only [Enc.sr] at hW
  have hm : W / 2 ^ 25 = 108 := by omega
  have hm2 : W / 33554432 = 108 := by omega
  have f0 : Dec.bit W 5 = false := bit_eq (by simp only [Bool.toNat_false]; omega)
  have f1 : Dec.fD W = d := Fin.ext (show W / 2 ^ 20 % 32 = d.val by omega)
  have f2 : Dec.fW W = w := Fin.ext (show W / 2 ^ 0 % 4 = w.val by omega)
  have f3 : Dec.fld W 10 1024 = 0 := by unfold Dec.fld; omega
  have f4 : Dec.fld W 6 16 = 0 := by unfold Dec.fld; omega
  have f5 : Dec.r3 W 2 = o := Fin.ext (show W / 2 ^ 2 % 8 = o.val by omega)
  refine ⟨by omega, ?_⟩
  rw [decode_attention hm (by decide)]
  simp [Dec.attention, hm2, f0, f1, f2, f3, f4, f5, Dec.rsv]

theorem osput (a : SReg) (o : OReg) (w : Stall) : Statement (.osput a o w) := by
  intro W hW hw
  replace hW := Option.some.inj hW
  simp only [Enc.sr] at hW
  have hm : W / 2 ^ 25 = 108 := by omega
  have hm2 : W / 33554432 = 108 := by omega
  have f0 : Dec.bit W 5 = false := bit_eq (by simp only [Bool.toNat_false]; omega)
  have f1 : Dec.fA W = a := Fin.ext (show W / 2 ^ 15 % 32 = a.val by omega)
  have f2 : Dec.fW W = w := Fin.ext (show W / 2 ^ 0 % 4 = w.val by omega)
  have f3 : Dec.fld W 10 32 = 0 := by unfold Dec.fld; omega
  have f4 : Dec.fld W 20 32 = 0 := by unfold Dec.fld; omega
  have f5 : Dec.fld W 6 16 = 1 := by unfold Dec.fld; omega
  have f6 : Dec.r3 W 2 = o := Fin.ext (show W / 2 ^ 2 % 8 = o.val by omega)
  refine ⟨by omega, ?_⟩
  rw [decode_attention hm (by decide)]
  simp [Dec.attention, hm2, f0, f1, f2, f3, f4, f5, f6, Dec.rsv]

theorem oszero (o : OReg) (w : Stall) : Statement (.oszero o w) := by
  intro W hW hw
  replace hW := Option.some.inj hW
  simp only [Enc.sr] at hW
  have hm : W / 2 ^ 25 = 108 := by omega
  have hm2 : W / 33554432 = 108 := by omega
  have f0 : Dec.bit W 5 = false := bit_eq (by simp only [Bool.toNat_false]; omega)
  have f1 : Dec.fW W = w := Fin.ext (show W / 2 ^ 0 % 4 = w.val by omega)
  have f2 : Dec.fld W 10 32768 = 0 := by unfold Dec.fld; omega
  have f3 : Dec.fld W 6 16 = 2 := by unfold Dec.fld; omega
  have f4 : Dec.r3 W 2 = o := Fin.ext (show W / 2 ^ 2 % 8 = o.val by omega)
  refine ⟨by omega, ?_⟩
  rw [decode_attention hm (by decide)]
  simp [Dec.attention, hm2, f0, f1, f2, f3, f4, Dec.rsv]

theorem vtopk (d : VReg) (a : VReg) (b : SReg) : Statement (.vtopk d a b) := by
  intro W hW hw
  replace hW := Option.some.inj hW
  simp only [Enc.vr] at hW
  have hm : W / 2 ^ 25 = 109 := by omega
  have hm2 : W / 33554432 = 109 := by omega
  have f0 : Dec.fA W = a := Fin.ext (show W / 2 ^ 15 % 32 = a.val by omega)
  have f1 : Dec.fB W = b := Fin.ext (show W / 2 ^ 10 % 32 = b.val by omega)
  have f2 : Dec.fD W = d := Fin.ext (show W / 2 ^ 20 % 32 = d.val by omega)
  have f3 : Dec.fld W 0 1024 = 0 := by unfold Dec.fld; omega
  have f4 : Dec.fld W 6 16 = 0 := by unfold Dec.fld; omega
  refine ⟨by omega, ?_⟩
  rw [decode_attention hm (by decide)]
  simp [Dec.attention, hm2, f0, f1, f2, f3, Dec.rsv]

theorem tmatch (m : MReg) (a : SReg) (h : HReg) : Statement (.tmatch m a h) := by
  intro W hW hw
  replace hW := Option.some.inj hW
  simp only [Enc.mx] at hW
  have hm : W / 2 ^ 25 = 110 := by omega
  have hm2 : W / 33554432 = 110 := by omega
  have f0 : Dec.bit W 10 = false := bit_eq (by simp only [Bool.toNat_false]; omega)
  have f1 : Dec.fld W 0 64 = 0 := by unfold Dec.fld; omega
  have f2 : Dec.fld W 6 16 = h.val := by unfold Dec.fld; omega
  have f3 : Dec.r4 W 6 = h := Fin.ext (show W / 2 ^ 6 % 16 = h.val by omega)
  have f4 : Dec.r5 W 11 = a := Fin.ext (show W / 2 ^ 11 % 32 = a.val by omega)
  have f5 : Dec.r9 W 16 = m := Fin.ext (show W / 2 ^ 16 % 512 = m.val by omega)
  refine ⟨by omega, ?_⟩
  rw [decode_attention hm (by decide)]
  simp [Dec.attention, hm2, f0, f1, f3, f4, f5, Dec.rsv]

theorem tmerge (m : MReg) (n : MReg) (l : Bool) (h : HReg) : Statement (.tmerge m n l h) := by
  intro W hW hw
  replace hW := Option.some.inj hW
  simp [Instr.wellFormed] at hw
  have b_l : l.toNat < 2 := l.toNat_lt
  simp only [Enc.mt] at hW
  have hm : W / 2 ^ 25 = 111 := by omega
  have hm2 : W / 33554432 = 111 := by omega
  have f0 : Dec.bit W 6 = l := bit_eq (by omega)
  have f1 : Dec.fld W 4 4 = 0 := by unfold Dec.fld; omega
  have f2 : Dec.r4 W 0 = h := Fin.ext (show W / 2 ^ 0 % 16 = h.val by omega)
  have f3 : Dec.r9 W 16 = m := Fin.ext (show W / 2 ^ 16 % 512 = m.val by omega)
  have f4 : Dec.r9 W 7 = n := Fin.ext (show W / 2 ^ 7 % 512 = n.val by omega)
  refine ⟨by omega, ?_⟩
  rw [decode_attention hm (by decide)]
  simp [Dec.attention, hm2, f0, f1, f2, f3, f4, hw, Dec.acc]

theorem tunmrg (m : MReg) (n : MReg) (l : Bool) (h : HReg) : Statement (.tunmrg m n l h) := by
  intro W hW hw
  replace hW := Option.some.inj hW
  simp [Instr.wellFormed] at hw
  have b_l : l.toNat < 2 := l.toNat_lt
  simp only [Enc.mt] at hW
  have hm : W / 2 ^ 25 = 111 := by omega
  have hm2 : W / 33554432 = 111 := by omega
  have f0 : Dec.bit W 6 = l := bit_eq (by omega)
  have f1 : Dec.fld W 4 4 = 1 := by unfold Dec.fld; omega
  have f2 : Dec.r4 W 0 = h := Fin.ext (show W / 2 ^ 0 % 16 = h.val by omega)
  have f3 : Dec.r9 W 16 = m := Fin.ext (show W / 2 ^ 16 % 512 = m.val by omega)
  have f4 : Dec.r9 W 7 = n := Fin.ext (show W / 2 ^ 7 % 512 = n.val by omega)
  refine ⟨by omega, ?_⟩
  rw [decode_attention hm (by decide)]
  simp [Dec.attention, hm2, f0, f1, f2, f3, f4, hw, Dec.acc]

theorem hld (d : SReg) (h : HReg) (o : BitVec 13) (n : LdWidth) : Statement (.hld d h o n) := by
  intro W hW hw
  replace hW := Option.some.inj hW
  have b_n := ldwidth_lt n
  simp only [Enc.hr] at hW
  have hm : W / 2 ^ 25 = 112 := by omega
  have hm2 : W / 33554432 = 112 := by omega
  have f0 : Dec.bv 13 W 3 = o := bv_eq (by omega)
  have f1 : Dec.fD W = d := Fin.ext (show W / 2 ^ 20 % 32 = d.val by omega)
  have f2 : Dec.fld W 0 8 = Enc.ldwidth n := by unfold Dec.fld; omega
  have f3 : Dec.r4 W 16 = h := Fin.ext (show W / 2 ^ 16 % 16 = h.val by omega)
  refine ⟨by omega, ?_⟩
  rw [decode_heap hm (by decide)]
  simp [Dec.heap, hm2, f0, f1, f2, f3, ldwidth_dec, Dec.opt]

theorem hst (d : SReg) (h : HReg) (o : BitVec 13) (n : StWidth) : Statement (.hst d h o n) := by
  intro W hW hw
  replace hW := Option.some.inj hW
  have b_n := stwidth_lt n
  simp only [Enc.hr] at hW
  have hm : W / 2 ^ 25 = 113 := by omega
  have hm2 : W / 33554432 = 113 := by omega
  have f0 : Dec.bv 13 W 3 = o := bv_eq (by omega)
  have f1 : Dec.fD W = d := Fin.ext (show W / 2 ^ 20 % 32 = d.val by omega)
  have f2 : Dec.fld W 0 8 = Enc.stwidth n := by unfold Dec.fld; omega
  have f3 : Dec.r4 W 16 = h := Fin.ext (show W / 2 ^ 16 % 16 = h.val by omega)
  refine ⟨by omega, ?_⟩
  rw [decode_heap hm (by decide)]
  simp [Dec.heap, hm2, f0, f1, f2, f3, stwidth_dec, Dec.opt]

theorem ldh (d : HReg) (h : HReg) (o : BitVec 13) : Statement (.ldh d h o) := by
  intro W hW hw
  replace hW := Option.some.inj hW
  simp only [Enc.hr] at hW
  have hm : W / 2 ^ 25 = 114 := by omega
  have hm2 : W / 33554432 = 114 := by omega
  have f0 : Dec.bit W 24 = false := bit_eq (by simp only [Bool.toNat_false]; omega)
  have f1 : Dec.bv 13 W 3 = o := bv_eq (by omega)
  have f2 : Dec.fld W 0 8 = 0 := by unfold Dec.fld; omega
  have f3 : Dec.r4 W 16 = h := Fin.ext (show W / 2 ^ 16 % 16 = h.val by omega)
  have f4 : Dec.r4 W 20 = d := Fin.ext (show W / 2 ^ 20 % 16 = d.val by omega)
  refine ⟨by omega, ?_⟩
  rw [decode_heap hm (by decide)]
  simp [Dec.heap, hm2, f0, f1, f2, f3, f4, Dec.rsv]

theorem sth (d : HReg) (h : HReg) (o : BitVec 13) : Statement (.sth d h o) := by
  intro W hW hw
  replace hW := Option.some.inj hW
  simp only [Enc.hr] at hW
  have hm : W / 2 ^ 25 = 114 := by omega
  have hm2 : W / 33554432 = 114 := by omega
  have f0 : Dec.bit W 24 = false := bit_eq (by simp only [Bool.toNat_false]; omega)
  have f1 : Dec.bv 13 W 3 = o := bv_eq (by omega)
  have f2 : Dec.fld W 0 8 = 1 := by unfold Dec.fld; omega
  have f3 : Dec.r4 W 16 = h := Fin.ext (show W / 2 ^ 16 % 16 = h.val by omega)
  have f4 : Dec.r4 W 20 = d := Fin.ext (show W / 2 ^ 20 % 16 = d.val by omega)
  refine ⟨by omega, ?_⟩
  rw [decode_heap hm (by decide)]
  simp [Dec.heap, hm2, f0, f1, f2, f3, f4, Dec.rsv]

theorem hcas (d : HReg) (h : HReg) (o : BitVec 13) : Statement (.hcas d h o) := by
  intro W hW hw
  replace hW := Option.some.inj hW
  simp [Instr.wellFormed] at hw
  simp only [Enc.hr] at hW
  have hm : W / 2 ^ 25 = 114 := by omega
  have hm2 : W / 33554432 = 114 := by omega
  have f0 : Dec.bit W 24 = false := bit_eq (by simp only [Bool.toNat_false]; omega)
  have f1 : Dec.bv 13 W 3 = o := bv_eq (by omega)
  have f2 : Dec.fld W 0 8 = 2 := by unfold Dec.fld; omega
  have f3 : Dec.r4 W 16 = h := Fin.ext (show W / 2 ^ 16 % 16 = h.val by omega)
  have f4 : Dec.r4 W 20 = d := Fin.ext (show W / 2 ^ 20 % 16 = d.val by omega)
  refine ⟨by omega, ?_⟩
  rw [decode_heap hm (by decide)]
  have fe : Dec.fld W 20 2 = 0 := by unfold Dec.fld; omega
  simp [Dec.heap, hm2, f0, f1, f2, f3, f4, fe, Dec.rsv, Dec.acc]

theorem vldh (d : VReg) (h : HReg) (o : BitVec 13) (f : Fmt) : Statement (.vldh d h o f) := by
  intro W hW hw
  replace hW := Option.some.inj hW
  simp [Instr.wellFormed] at hw
  have b_f := code_lt f
  simp only [Enc.hr] at hW
  have hm : W / 2 ^ 25 = 115 := by omega
  have hm2 : W / 33554432 = 115 := by omega
  have f0 : Dec.bv 13 W 3 = o := bv_eq (by omega)
  have f1 : Dec.fD W = d := Fin.ext (show W / 2 ^ 20 % 32 = d.val by omega)
  have f2 : Dec.fld W 0 8 = f.code := by unfold Dec.fld; omega
  have f3 : Dec.r4 W 16 = h := Fin.ext (show W / 2 ^ 16 % 16 = h.val by omega)
  refine ⟨by omega, ?_⟩
  rw [decode_heap hm (by decide)]
  simp [Dec.heap, hm2, f0, f1, f2, f3, code_dec, Dec.opt]

theorem vsth (d : VReg) (h : HReg) (o : BitVec 13) (f : Fmt) : Statement (.vsth d h o f) := by
  intro W hW hw
  replace hW := Option.some.inj hW
  simp [Instr.wellFormed] at hw
  have b_f := code_lt f
  simp only [Enc.hr] at hW
  have hm : W / 2 ^ 25 = 116 := by omega
  have hm2 : W / 33554432 = 116 := by omega
  have f0 : Dec.bv 13 W 3 = o := bv_eq (by omega)
  have f1 : Dec.fD W = d := Fin.ext (show W / 2 ^ 20 % 32 = d.val by omega)
  have f2 : Dec.fld W 0 8 = f.code := by unfold Dec.fld; omega
  have f3 : Dec.r4 W 16 = h := Fin.ext (show W / 2 ^ 16 % 16 = h.val by omega)
  refine ⟨by omega, ?_⟩
  rw [decode_heap hm (by decide)]
  simp [Dec.heap, hm2, f0, f1, f2, f3, code_dec, Dec.opt]

theorem hpin (d : SReg) (h : HReg) : Statement (.hpin d h) := by
  intro W hW hw
  replace hW := Option.some.inj hW
  simp only [Enc.hr] at hW
  have hm : W / 2 ^ 25 = 117 := by omega
  have hm2 : W / 33554432 = 117 := by omega
  have f0 : Dec.fD W = d := Fin.ext (show W / 2 ^ 20 % 32 = d.val by omega)
  have f1 : Dec.fld W 0 8 = 0 := by unfold Dec.fld; omega
  have f2 : Dec.fld W 3 8192 = 0 := by unfold Dec.fld; omega
  have f3 : Dec.r4 W 16 = h := Fin.ext (show W / 2 ^ 16 % 16 = h.val by omega)
  refine ⟨by omega, ?_⟩
  rw [decode_heap hm (by decide)]
  simp [Dec.heap, hm2, f0, f1, f2, f3, Dec.rsv]

theorem hunpin (h : HReg) : Statement (.hunpin h) := by
  intro W hW hw
  replace hW := Option.some.inj hW
  simp only [Enc.hr] at hW
  have hm : W / 2 ^ 25 = 117 := by omega
  have hm2 : W / 33554432 = 117 := by omega
  have f0 : Dec.fld W 0 8 = 1 := by unfold Dec.fld; omega
  have f1 : Dec.fld W 20 32 = 0 := by unfold Dec.fld; omega
  have f2 : Dec.fld W 3 8192 = 0 := by unfold Dec.fld; omega
  have f3 : Dec.r4 W 16 = h := Fin.ext (show W / 2 ^ 16 % 16 = h.val by omega)
  refine ⟨by omega, ?_⟩
  rw [decode_heap hm (by decide)]
  simp [Dec.heap, hm2, f0, f1, f2, f3, Dec.rsv]

theorem hheal (h : HReg) : Statement (.hheal h) := by
  intro W hW hw
  replace hW := Option.some.inj hW
  simp only [Enc.hr] at hW
  have hm : W / 2 ^ 25 = 117 := by omega
  have hm2 : W / 33554432 = 117 := by omega
  have f0 : Dec.fld W 0 8 = 2 := by unfold Dec.fld; omega
  have f1 : Dec.fld W 20 32 = 0 := by unfold Dec.fld; omega
  have f2 : Dec.fld W 3 8192 = 0 := by unfold Dec.fld; omega
  have f3 : Dec.r4 W 16 = h := Fin.ext (show W / 2 ^ 16 % 16 = h.val by omega)
  refine ⟨by omega, ?_⟩
  rw [decode_heap hm (by decide)]
  simp [Dec.heap, hm2, f0, f1, f2, f3, Dec.rsv]

theorem hcmp (d : SReg) (h : HReg) (g : HReg) : Statement (.hcmp d h g) := by
  intro W hW hw
  replace hW := Option.some.inj hW
  simp only [Enc.hr] at hW
  have hm : W / 2 ^ 25 = 117 := by omega
  have hm2 : W / 33554432 = 117 := by omega
  have f0 : Dec.fD W = d := Fin.ext (show W / 2 ^ 20 % 32 = d.val by omega)
  have f1 : Dec.fld W 0 8 = 3 := by unfold Dec.fld; omega
  have f2 : Dec.fld W 7 512 = 0 := by unfold Dec.fld; omega
  have f3 : Dec.r4 W 16 = h := Fin.ext (show W / 2 ^ 16 % 16 = h.val by omega)
  have f4 : Dec.r4 W 3 = g := Fin.ext (show W / 2 ^ 3 % 16 = g.val by omega)
  refine ⟨by omega, ?_⟩
  rw [decode_heap hm (by decide)]
  simp [Dec.heap, hm2, f0, f1, f2, f3, f4, Dec.rsv]

theorem hallocImmediate (d : HReg) (n : BitVec 13) : Statement (.hallocImmediate d n) := by
  intro W hW hw
  replace hW := Option.some.inj hW
  simp [Instr.wellFormed] at hw
  simp only [Enc.hr] at hW
  have hm : W / 2 ^ 25 = 118 := by omega
  have hm2 : W / 33554432 = 118 := by omega
  have f0 : Dec.bit W 24 = false := bit_eq (by simp only [Bool.toNat_false]; omega)
  have f1 : Dec.bv 13 W 3 = n := bv_eq (by omega)
  have f2 : Dec.fld W 0 8 = 0 := by unfold Dec.fld; omega
  have f3 : Dec.fld W 16 16 = 0 := by unfold Dec.fld; omega
  have f4 : Dec.fld W 3 8192 = n.toNat := by unfold Dec.fld; omega
  have f5 : Dec.r4 W 20 = d := Fin.ext (show W / 2 ^ 20 % 16 = d.val by omega)
  refine ⟨by omega, ?_⟩
  rw [decode_heap hm (by decide)]
  simp [Dec.heap, hm2, f0, f1, f2, f3, f4, f5, hw, Dec.rsv, Dec.acc]

theorem hallocRegister (d : HReg) (s : SReg) : Statement (.hallocRegister d s) := by
  intro W hW hw
  replace hW := Option.some.inj hW
  simp only [Enc.hr] at hW
  have hm : W / 2 ^ 25 = 118 := by omega
  have hm2 : W / 33554432 = 118 := by omega
  have f0 : Dec.bit W 24 = false := bit_eq (by simp only [Bool.toNat_false]; omega)
  have f1 : Dec.fld W 0 8 = 1 := by unfold Dec.fld; omega
  have f2 : Dec.fld W 16 16 = 0 := by unfold Dec.fld; omega
  have f3 : Dec.fld W 8 256 = 0 := by unfold Dec.fld; omega
  have f4 : Dec.r4 W 20 = d := Fin.ext (show W / 2 ^ 20 % 16 = d.val by omega)
  have f5 : Dec.r5 W 3 = s := Fin.ext (show W / 2 ^ 3 % 32 = s.val by omega)
  refine ⟨by omega, ?_⟩
  rw [decode_heap hm (by decide)]
  simp [Dec.heap, hm2, f0, f1, f2, f3, f4, f5, Dec.rsv]

theorem hnul (h : HReg) (o : BitVec 13) : Statement (.hnul h o) := by
  intro W hW hw
  replace hW := Option.some.inj hW
  simp only [Enc.hr] at hW
  have hm : W / 2 ^ 25 = 119 := by omega
  have hm2 : W / 33554432 = 119 := by omega
  have f0 : Dec.bv 13 W 3 = o := bv_eq (by omega)
  have f1 : Dec.fld W 0 8 = 0 := by unfold Dec.fld; omega
  have f2 : Dec.fld W 20 32 = 0 := by unfold Dec.fld; omega
  have f3 : Dec.r4 W 16 = h := Fin.ext (show W / 2 ^ 16 % 16 = h.val by omega)
  refine ⟨by omega, ?_⟩
  rw [decode_heap hm (by decide)]
  simp [Dec.heap, hm2, f0, f1, f2, f3, Dec.rsv]

theorem hnulN (h : HReg) (o : BitVec 13) : Statement (.hnulN h o) := by
  intro W hW hw
  replace hW := Option.some.inj hW
  simp only [Enc.hr] at hW
  have hm : W / 2 ^ 25 = 119 := by omega
  have hm2 : W / 33554432 = 119 := by omega
  have f0 : Dec.bv 13 W 3 = o := bv_eq (by omega)
  have f1 : Dec.fld W 0 8 = 1 := by unfold Dec.fld; omega
  have f2 : Dec.fld W 20 32 = 0 := by unfold Dec.fld; omega
  have f3 : Dec.r4 W 16 = h := Fin.ext (show W / 2 ^ 16 % 16 = h.val by omega)
  refine ⟨by omega, ?_⟩
  rw [decode_heap hm (by decide)]
  simp [Dec.heap, hm2, f0, f1, f2, f3, Dec.rsv]

theorem heapStoreResume : Statement .heapStoreResume := fun _ h => nomatch h

theorem cpy (d : SReg) (a : CmdBase) : Statement (.cpy d a) := by
  intro W hW hw
  replace hW := Option.some.inj hW
  have b_a := cmdbase_lt a
  simp only [Enc.sy] at hW
  have hm : W / 2 ^ 25 = 120 := by omega
  have hm2 : W / 33554432 = 120 := by omega
  have f0 : Dec.fD W = d := Fin.ext (show W / 2 ^ 20 % 32 = d.val by omega)
  have f1 : Dec.fld W 0 8 = 0 := by unfold Dec.fld; omega
  have f2 : Dec.fld W 15 32 = Enc.cmdbase a := by unfold Dec.fld; omega
  have f3 : Dec.fld W 3 4096 = 0 := by unfold Dec.fld; omega
  refine ⟨by omega, ?_⟩
  rw [decode_system hm (by decide)]
  simp [Dec.system, hm2, f0, f1, f2, f3, cmdbase_dec, Dec.rsv, Dec.opt]

theorem cpym (d : SReg) (a : CmdBase) : Statement (.cpym d a) := by
  intro W hW hw
  replace hW := Option.some.inj hW
  have b_a := cmdbase_lt a
  simp only [Enc.sy] at hW
  have hm : W / 2 ^ 25 = 120 := by omega
  have hm2 : W / 33554432 = 120 := by omega
  have f0 : Dec.fD W = d := Fin.ext (show W / 2 ^ 20 % 32 = d.val by omega)
  have f1 : Dec.fld W 0 8 = 1 := by unfold Dec.fld; omega
  have f2 : Dec.fld W 15 32 = Enc.cmdbase a := by unfold Dec.fld; omega
  have f3 : Dec.fld W 3 4096 = 0 := by unfold Dec.fld; omega
  refine ⟨by omega, ?_⟩
  rw [decode_system hm (by decide)]
  simp [Dec.system, hm2, f0, f1, f2, f3, cmdbase_dec, Dec.rsv, Dec.opt]

theorem cgath (d : SReg) (a : CmdBase) : Statement (.cgath d a) := by
  intro W hW hw
  replace hW := Option.some.inj hW
  have b_a := cmdbase_lt a
  simp only [Enc.sy] at hW
  have hm : W / 2 ^ 25 = 120 := by omega
  have hm2 : W / 33554432 = 120 := by omega
  have f0 : Dec.fD W = d := Fin.ext (show W / 2 ^ 20 % 32 = d.val by omega)
  have f1 : Dec.fld W 0 8 = 2 := by unfold Dec.fld; omega
  have f2 : Dec.fld W 15 32 = Enc.cmdbase a := by unfold Dec.fld; omega
  have f3 : Dec.fld W 3 4096 = 0 := by unfold Dec.fld; omega
  refine ⟨by omega, ?_⟩
  rw [decode_system hm (by decide)]
  simp [Dec.system, hm2, f0, f1, f2, f3, cmdbase_dec, Dec.rsv, Dec.opt]

theorem reloc (d : SReg) (a : CmdBase) : Statement (.reloc d a) := by
  intro W hW hw
  replace hW := Option.some.inj hW
  have b_a := cmdbase_lt a
  simp only [Enc.sy] at hW
  have hm : W / 2 ^ 25 = 120 := by omega
  have hm2 : W / 33554432 = 120 := by omega
  have f0 : Dec.fD W = d := Fin.ext (show W / 2 ^ 20 % 32 = d.val by omega)
  have f1 : Dec.fld W 0 8 = 3 := by unfold Dec.fld; omega
  have f2 : Dec.fld W 15 32 = Enc.cmdbase a := by unfold Dec.fld; omega
  have f3 : Dec.fld W 3 4096 = 0 := by unfold Dec.fld; omega
  refine ⟨by omega, ?_⟩
  rw [decode_system hm (by decide)]
  simp [Dec.system, hm2, f0, f1, f2, f3, cmdbase_dec, Dec.rsv, Dec.opt]

theorem sarm (a : SReg) : Statement (.sarm a) := by
  intro W hW hw
  replace hW := Option.some.inj hW
  simp only [Enc.sy] at hW
  have hm : W / 2 ^ 25 = 121 := by omega
  have hm2 : W / 33554432 = 121 := by omega
  have f0 : Dec.fA W = a := Fin.ext (show W / 2 ^ 15 % 32 = a.val by omega)
  have f1 : Dec.fld W 0 8 = 0 := by unfold Dec.fld; omega
  have f2 : Dec.fld W 20 32 = 0 := by unfold Dec.fld; omega
  have f3 : Dec.fld W 3 4096 = 0 := by unfold Dec.fld; omega
  refine ⟨by omega, ?_⟩
  rw [decode_system hm (by decide)]
  simp [Dec.system, hm2, f0, f1, f2, f3, Dec.rsv]

theorem swait (d : SReg) (a : SReg) : Statement (.swait d a) := by
  intro W hW hw
  replace hW := Option.some.inj hW
  simp only [Enc.sy] at hW
  have hm : W / 2 ^ 25 = 121 := by omega
  have hm2 : W / 33554432 = 121 := by omega
  have f0 : Dec.fA W = a := Fin.ext (show W / 2 ^ 15 % 32 = a.val by omega)
  have f1 : Dec.fD W = d := Fin.ext (show W / 2 ^ 20 % 32 = d.val by omega)
  have f2 : Dec.fld W 0 8 = 1 := by unfold Dec.fld; omega
  have f3 : Dec.fld W 3 4096 = 0 := by unfold Dec.fld; omega
  refine ⟨by omega, ?_⟩
  rw [decode_system hm (by decide)]
  simp [Dec.system, hm2, f0, f1, f2, f3, Dec.rsv]

theorem swaitReturn : Statement .swaitReturn := fun _ h => nomatch h

theorem bar : Statement .bar := by
  intro W hW hw
  replace hW := Option.some.inj hW
  simp only [Enc.sy] at hW
  have hm : W / 2 ^ 25 = 121 := by omega
  have hm2 : W / 33554432 = 121 := by omega
  have f0 : Dec.fld W 0 8 = 2 := by unfold Dec.fld; omega
  have f1 : Dec.fld W 3 4096 = 0 := by unfold Dec.fld; omega
  have f2 : Dec.fld W 3 4194304 = 0 := by unfold Dec.fld; omega
  refine ⟨by omega, ?_⟩
  rw [decode_system hm (by decide)]
  simp [Dec.system, hm2, f0, f2, Dec.rsv]

theorem barDeparture : Statement .barDeparture := fun _ h => nomatch h

theorem spawn (a : SReg) (q : Fin 1024) : Statement (.spawn a q) := by
  intro W hW hw
  replace hW := Option.some.inj hW
  simp only [Enc.sy] at hW
  have hm : W / 2 ^ 25 = 122 := by omega
  have hm2 : W / 33554432 = 122 := by omega
  have f0 : Dec.fA W = a := Fin.ext (show W / 2 ^ 15 % 32 = a.val by omega)
  have f1 : Dec.fld W 0 8 = 0 := by unfold Dec.fld; omega
  have f2 : Dec.fld W 13 4 = 0 := by unfold Dec.fld; omega
  have f3 : Dec.fld W 20 32 = 0 := by unfold Dec.fld; omega
  have f4 : Dec.fld W 3 4096 = q.val := by unfold Dec.fld; omega
  have g_q : (⟨W / 8 % 1024, Nat.mod_lt _ (by decide)⟩ : Fin 1024) = q := Fin.ext (show W / 8 % 1024 = q.val by omega)
  refine ⟨by omega, ?_⟩
  rw [decode_system hm (by decide)]
  simp [Dec.system, hm2, f0, f1, f2, f3, g_q, Dec.rsv]

theorem spawnAppend : Statement .spawnAppend := fun _ h => nomatch h

theorem endThread : Statement .endThread := by
  intro W hW hw
  replace hW := Option.some.inj hW
  simp only [Enc.sy] at hW
  have hm : W / 2 ^ 25 = 122 := by omega
  have hm2 : W / 33554432 = 122 := by omega
  have f0 : Dec.fld W 0 8 = 1 := by unfold Dec.fld; omega
  have f1 : Dec.fld W 3 4096 = 0 := by unfold Dec.fld; omega
  have f2 : Dec.fld W 3 4194304 = 0 := by unfold Dec.fld; omega
  refine ⟨by omega, ?_⟩
  rw [decode_system hm (by decide)]
  simp [Dec.system, hm2, f0, f2, Dec.rsv]

theorem endRelease : Statement .endRelease := fun _ h => nomatch h

theorem msend (m : MReg) (s : SReg) (x : SReg) (l : Bool) : Statement (.msend m s x l) := by
  intro W hW hw
  replace hW := Option.some.inj hW
  have b_l : l.toNat < 2 := l.toNat_lt
  simp only [Enc.mm] at hW
  have hm : W / 2 ^ 25 = 123 := by omega
  have hm2 : W / 33554432 = 123 := by omega
  have f0 : Dec.bit W 5 = l := bit_eq (by omega)
  have f1 : Dec.fld W 0 8 = 0 := by unfold Dec.fld; omega
  have f2 : Dec.fld W 3 4 = 0 := by unfold Dec.fld; omega
  have f3 : Dec.r5 W 11 = s := Fin.ext (show W / 2 ^ 11 % 32 = s.val by omega)
  have f4 : Dec.r5 W 6 = x := Fin.ext (show W / 2 ^ 6 % 32 = x.val by omega)
  have f5 : Dec.r9 W 16 = m := Fin.ext (show W / 2 ^ 16 % 512 = m.val by omega)
  refine ⟨by omega, ?_⟩
  rw [decode_system hm (by decide)]
  simp [Dec.system, hm2, f0, f1, f2, f3, f4, f5, Dec.rsv]

theorem msendm (m : MReg) (s : SReg) (x : SReg) (l : Bool) : Statement (.msendm m s x l) := by
  intro W hW hw
  replace hW := Option.some.inj hW
  have b_l : l.toNat < 2 := l.toNat_lt
  simp only [Enc.mm] at hW
  have hm : W / 2 ^ 25 = 123 := by omega
  have hm2 : W / 33554432 = 123 := by omega
  have f0 : Dec.bit W 5 = l := bit_eq (by omega)
  have f1 : Dec.fld W 0 8 = 1 := by unfold Dec.fld; omega
  have f2 : Dec.fld W 3 4 = 0 := by unfold Dec.fld; omega
  have f3 : Dec.r5 W 11 = s := Fin.ext (show W / 2 ^ 11 % 32 = s.val by omega)
  have f4 : Dec.r5 W 6 = x := Fin.ext (show W / 2 ^ 6 % 32 = x.val by omega)
  have f5 : Dec.r9 W 16 = m := Fin.ext (show W / 2 ^ 16 % 512 = m.val by omega)
  refine ⟨by omega, ?_⟩
  rw [decode_system hm (by decide)]
  simp [Dec.system, hm2, f0, f1, f2, f3, f4, f5, Dec.rsv]

theorem mrecv (m : MReg) (s : SReg) : Statement (.mrecv m s) := by
  intro W hW hw
  replace hW := Option.some.inj hW
  simp only [Enc.mm] at hW
  have hm : W / 2 ^ 25 = 123 := by omega
  have hm2 : W / 33554432 = 123 := by omega
  have f0 : Dec.fld W 0 8 = 2 := by unfold Dec.fld; omega
  have f1 : Dec.fld W 3 256 = 0 := by unfold Dec.fld; omega
  have f2 : Dec.r5 W 11 = s := Fin.ext (show W / 2 ^ 11 % 32 = s.val by omega)
  have f3 : Dec.r9 W 16 = m := Fin.ext (show W / 2 ^ 16 % 512 = m.val by omega)
  refine ⟨by omega, ?_⟩
  rw [decode_system hm (by decide)]
  simp [Dec.system, hm2, f0, f1, f2, f3, Dec.rsv]

theorem mrecvBind : Statement .mrecvBind := fun _ h => nomatch h

theorem getc (d : SReg) (c : BitVec 12) : Statement (.getc d c) := by
  intro W hW hw
  replace hW := Option.some.inj hW
  simp only [Enc.sy] at hW
  have hm : W / 2 ^ 25 = 124 := by omega
  have hm2 : W / 33554432 = 124 := by omega
  have f0 : Dec.bv 12 W 3 = c := bv_eq (by omega)
  have f1 : Dec.fD W = d := Fin.ext (show W / 2 ^ 20 % 32 = d.val by omega)
  have f2 : Dec.fld W 0 8 = 0 := by unfold Dec.fld; omega
  have f3 : Dec.fld W 15 32 = 0 := by unfold Dec.fld; omega
  have f4 : Dec.fld W 3 4096 = c.toNat := by unfold Dec.fld; omega
  refine ⟨by omega, ?_⟩
  rw [decode_system hm (by decide)]
  simp [Dec.system, hm2, f0, f1, f2, f3, Dec.rsv]

theorem putc (a : SReg) (c : BitVec 12) : Statement (.putc a c) := by
  intro W hW hw
  replace hW := Option.some.inj hW
  simp only [Enc.sy] at hW
  have hm : W / 2 ^ 25 = 124 := by omega
  have hm2 : W / 33554432 = 124 := by omega
  have f0 : Dec.bv 12 W 3 = c := bv_eq (by omega)
  have f1 : Dec.fA W = a := Fin.ext (show W / 2 ^ 15 % 32 = a.val by omega)
  have f2 : Dec.fld W 0 8 = 1 := by unfold Dec.fld; omega
  have f3 : Dec.fld W 20 32 = 0 := by unfold Dec.fld; omega
  have f4 : Dec.fld W 3 4096 = c.toNat := by unfold Dec.fld; omega
  refine ⟨by omega, ?_⟩
  rw [decode_system hm (by decide)]
  simp [Dec.system, hm2, f0, f1, f2, f3, Dec.rsv]

theorem eret : Statement .eret := by
  intro W hW hw
  replace hW := Option.some.inj hW
  simp only [Enc.sy] at hW
  have hm : W / 2 ^ 25 = 125 := by omega
  have hm2 : W / 33554432 = 125 := by omega
  have f0 : Dec.fld W 0 8 = 0 := by unfold Dec.fld; omega
  have f1 : Dec.fld W 3 4096 = 0 := by unfold Dec.fld; omega
  have f2 : Dec.fld W 3 4194304 = 0 := by unfold Dec.fld; omega
  refine ⟨by omega, ?_⟩
  rw [decode_system hm (by decide)]
  simp [Dec.system, hm2, f0, f2, Dec.rsv]

theorem wait : Statement .wait := by
  intro W hW hw
  replace hW := Option.some.inj hW
  simp only [Enc.sy] at hW
  have hm : W / 2 ^ 25 = 125 := by omega
  have hm2 : W / 33554432 = 125 := by omega
  have f0 : Dec.fld W 0 8 = 1 := by unfold Dec.fld; omega
  have f1 : Dec.fld W 3 4096 = 0 := by unfold Dec.fld; omega
  have f2 : Dec.fld W 3 4194304 = 0 := by unfold Dec.fld; omega
  refine ⟨by omega, ?_⟩
  rw [decode_system hm (by decide)]
  simp [Dec.system, hm2, f0, f2, Dec.rsv]

theorem trap (c : BitVec 12) : Statement (.trap c) := by
  intro W hW hw
  replace hW := Option.some.inj hW
  simp only [Enc.sy] at hW
  have hm : W / 2 ^ 25 = 125 := by omega
  have hm2 : W / 33554432 = 125 := by omega
  have f0 : Dec.bv 12 W 3 = c := bv_eq (by omega)
  have f1 : Dec.fld W 0 8 = 2 := by unfold Dec.fld; omega
  have f2 : Dec.fld W 15 1024 = 0 := by unfold Dec.fld; omega
  have f3 : Dec.fld W 3 4096 = c.toNat := by unfold Dec.fld; omega
  refine ⟨by omega, ?_⟩
  rw [decode_system hm (by decide)]
  simp [Dec.system, hm2, f0, f1, f2, Dec.rsv]

theorem fencei : Statement .fencei := by
  intro W hW hw
  replace hW := Option.some.inj hW
  simp only [Enc.sy] at hW
  have hm : W / 2 ^ 25 = 125 := by omega
  have hm2 : W / 33554432 = 125 := by omega
  have f0 : Dec.fld W 0 8 = 3 := by unfold Dec.fld; omega
  have f1 : Dec.fld W 3 4096 = 0 := by unfold Dec.fld; omega
  have f2 : Dec.fld W 3 4194304 = 0 := by unfold Dec.fld; omega
  refine ⟨by omega, ?_⟩
  rw [decode_system hm (by decide)]
  simp [Dec.system, hm2, f0, f2, Dec.rsv]

theorem idle : Statement .idle := by
  intro W hW hw
  replace hW := Option.some.inj hW
  simp only [Enc.sy] at hW
  have hm : W / 2 ^ 25 = 125 := by omega
  have hm2 : W / 33554432 = 125 := by omega
  have f0 : Dec.fld W 0 8 = 4 := by unfold Dec.fld; omega
  have f1 : Dec.fld W 3 4096 = 0 := by unfold Dec.fld; omega
  have f2 : Dec.fld W 3 4194304 = 0 := by unfold Dec.fld; omega
  refine ⟨by omega, ?_⟩
  rw [decode_system hm (by decide)]
  simp [Dec.system, hm2, f0, f2, Dec.rsv]

theorem brk : Statement .brk := by
  intro W hW _
  obtain rfl := Option.some.inj hW
  exact ⟨by decide, by decide⟩

theorem msplitWrite (v : Word) : Statement (.msplitWrite v) := fun _ h => nomatch h

theorem mapbaseWrite (v : Word) : Statement (.mapbaseWrite v) := fun _ h => nomatch h

theorem lanepartWrite (v : Word) : Statement (.lanepartWrite v) := fun _ h => nomatch h

theorem lcntWrite (n : Fin 6) (v : Word) : Statement (.lcntWrite n v) := fun _ h => nomatch h

theorem lbegLendWrite (isEnd : Bool) (n : Fin 6) (v : Word) :
    Statement (.lbegLendWrite isEnd n v) := fun _ h => nomatch h

theorem ldepthWrite (v : Word) : Statement (.ldepthWrite v) := fun _ h => nomatch h

theorem doorbell (q : Fin 1024) (tail : BitVec 32) : Statement (.doorbell q tail) := fun _ h => nomatch h

theorem queueEnable (q : Fin 1024) : Statement (.queueEnable q) := fun _ h => nomatch h

theorem queueClose (q : Fin 1024) : Statement (.queueClose q) := fun _ h => nomatch h

theorem dispatchDecision (pref : List Nat) : Statement (.dispatchDecision pref) := fun _ h => nomatch h

theorem laneReclaimTimeout (tid : Nat) : Statement (.laneReclaimTimeout tid) := fun _ h => nomatch h

theorem replyAbandonment (tid : Nat) (g : Nat) : Statement (.replyAbandonment tid g) := fun _ h => nomatch h

theorem remoteAccess (op : RemoteOp) : Statement (.remoteAccess op) := fun _ h => nomatch h

theorem linkFailure (e : LinkEnd) : Statement (.linkFailure e) := fun _ h => nomatch h

theorem laneFailure (port : Fin 12) : Statement (.laneFailure port) := fun _ h => nomatch h

theorem faultQueuePost : Statement .faultQueuePost := fun _ h => nomatch h

theorem singleStepTrap : Statement .singleStepTrap := fun _ h => nomatch h

theorem halt (tid : Nat) : Statement (.halt tid) := fun _ h => nomatch h

theorem debugTableReread (cid : Nat) : Statement (.debugTableReread cid) := fun _ h => nomatch h

theorem hostCxlMemRead (x : Nat) (n : Nat) : Statement (.hostCxlMemRead x n) := fun _ h => nomatch h

theorem hostCxlMemWrite (x : Nat) (bytes : List Byte) : Statement (.hostCxlMemWrite x bytes) := fun _ h => nomatch h

theorem identify : Statement .identify := fun _ h => nomatch h

theorem getEventRecords (log : Fin 4) : Statement (.getEventRecords log) := fun _ h => nomatch h

theorem clearEventRecords (log : Fin 4) : Statement (.clearEventRecords log) := fun _ h => nomatch h

theorem getTimestamp : Statement .getTimestamp := fun _ h => nomatch h

theorem setTimestamp (v : Word) : Statement (.setTimestamp v) := fun _ h => nomatch h

theorem transferFw (image : List Byte) : Statement (.transferFw image) := fun _ h => nomatch h

theorem activateFw : Statement .activateFw := fun _ h => nomatch h

theorem getLog : Statement .getLog := fun _ h => nomatch h

theorem setAstbase (b : Word) : Statement (.setAstbase b) := fun _ h => nomatch h

theorem setQtbase (b : Word) : Statement (.setQtbase b) := fun _ h => nomatch h

theorem setFqbase (b : Word) : Statement (.setFqbase b) := fun _ h => nomatch h

theorem setFrames (b : Word) (n : Nat) : Statement (.setFrames b n) := fun _ h => nomatch h

theorem setMbtbase (b : Word) : Statement (.setMbtbase b) := fun _ h => nomatch h

theorem setDthr (v : BitVec 16) : Statement (.setDthr v) := fun _ h => nomatch h

theorem shootdown (asid : Nat) (va : Word) (pages : Nat) :
    Statement (.shootdown asid va pages) := fun _ h => nomatch h

theorem pageExpand (pa : Nat) : Statement (.pageExpand pa) := fun _ h => nomatch h

theorem backgroundCommandComplete : Statement .backgroundCommandComplete := fun _ h => nomatch h

theorem packResume (frame : Nat) : Statement (.packResume frame) := fun _ h => nomatch h

theorem packAbort (frame : Nat) : Statement (.packAbort frame) := fun _ h => nomatch h

theorem packAdopt (r : Rec) (frames : List Nat) : Statement (.packAdopt r frames) := fun _ h => nomatch h

theorem cmdResume (sett : Nat) (cmd : Nat) : Statement (.cmdResume sett cmd) := fun _ h => nomatch h

theorem cmdAbort (sett : Nat) (cmd : Nat) : Statement (.cmdAbort sett cmd) := fun _ h => nomatch h

theorem setPstate (step : Nat) : Statement (.setPstate step) := fun _ h => nomatch h

theorem clockChange : Statement .clockChange := fun _ h => nomatch h

theorem corePark (sett : Fin 4) (mask : BitVec 32) : Statement (.corePark sett mask) := fun _ h => nomatch h

theorem coreUnpark (sett : Fin 4) (mask : BitVec 32) : Statement (.coreUnpark sett mask) := fun _ h => nomatch h

theorem hbmSrEnter (stack : Fin 8) : Statement (.hbmSrEnter stack) := fun _ h => nomatch h

theorem hbmSrExit (stack : Fin 8) : Statement (.hbmSrExit stack) := fun _ h => nomatch h

theorem hbmWake (stack : Fin 8) : Statement (.hbmWake stack) := fun _ h => nomatch h

theorem setDbgbase (b : Word) : Statement (.setDbgbase b) := fun _ h => nomatch h

theorem warmReset (flash : List (Option (BitVec 32))) : Statement (.warmReset flash) := fun _ h => nomatch h

theorem coldReset : Statement .coldReset := fun _ h => nomatch h

theorem functionLevelReset : Statement .functionLevelReset := fun _ h => nomatch h

theorem getCertificate : Statement .getCertificate := fun _ h => nomatch h

theorem challenge (nonce : Word) : Statement (.challenge nonce) := fun _ h => nomatch h

theorem getMeasurements : Statement .getMeasurements := fun _ h => nomatch h

theorem tallowUpdate (heads : List Nat) : Statement (.tallowUpdate heads) := fun _ h => nomatch h

theorem thermalStepDown (sett : Fin 4) : Statement (.thermalStepDown sett) := fun _ h => nomatch h

theorem thermalRepeatStep (sett : Fin 4) : Statement (.thermalRepeatStep sett) := fun _ h => nomatch h

theorem thermalStepUp : Statement .thermalStepUp := fun _ h => nomatch h

theorem thermalTrip (sett : Fin 4) : Statement (.thermalTrip sett) := fun _ h => nomatch h

theorem refreshRateChange (stack : Fin 8) (tenths : BitVec 12) :
    Statement (.refreshRateChange stack tenths) := fun _ h => nomatch h

theorem coreRetirement (cid : Nat) (mapCrc : BitVec 32) :
    Statement (.coreRetirement cid mapCrc) := fun _ h => nomatch h

theorem bondLaneRepair (sett : Fin 4) (mapCrc : BitVec 32) :
    Statement (.bondLaneRepair sett mapCrc) := fun _ h => nomatch h

theorem memoryReply (tid : Nat) : Statement (.memoryReply tid) := fun _ h => nomatch h

theorem cacheEviction (pa : Nat) : Statement (.cacheEviction pa) := fun _ h => nomatch h

theorem uncorrectableError (e : ErrorAt) : Statement (.uncorrectableError e) := fun _ h => nomatch h

theorem migration (src : Nat) (dst : Nat) : Statement (.migration src dst) := fun _ h => nomatch h

theorem portFence (pkg : Nat) : Statement (.portFence pkg) := fun _ h => nomatch h

theorem ideKeyProgramming (key : Word) : Statement (.ideKeyProgramming key) := fun _ h => nomatch h

end Sys2Proof.Laws.RoundTrip
end

