-- ==== Sys2Proof/Laws/Scalar.lean ====
section
/-! SUPPORT. The shared scalar operations in a calm thread, once each. -/

namespace Sys2Proof.Machine

open Sys2Proof.Safety

theorem alu2_calm (f : Word → Word → Word) (d a b : SReg) (w : Stall) (s : State) (h : Calm s) :
    alu2 f d a b w s = retired (put d (f (reg s a) (reg s b))) s := by
  obtain ⟨h1, h2⟩ := h
  simp only [alu2, guardS_quiet _ h1, rs_quiet _ h1, sreg_eq_reg]
  rw [finish_calm _ _ _ h1 (noEdge_setS _ _ _ h2)]
  simp [retired, setS_quiet _ _ _ h1]

theorem alu1_calm (f : Word → Word) (d a : SReg) (w : Stall) (s : State) (h : Calm s) :
    alu1 f d a w s = retired (put d (f (reg s a))) s := by
  obtain ⟨h1, h2⟩ := h
  simp only [alu1, guardS_quiet _ h1, rs_quiet _ h1, sreg_eq_reg]
  rw [finish_calm _ _ _ h1 (noEdge_setS _ _ _ h2)]
  simp [retired, setS_quiet _ _ _ h1]

theorem mul2_calm (f : Word → Word → Word) (d a b : SReg) (w : Stall) (s : State) (h : Calm s) :
    mul2 f d a b w s = retired (put4 d w (f (reg s a) (reg s b))) s := by
  obtain ⟨h1, h2⟩ := h
  simp only [mul2, guardS_quiet _ h1, rs_quiet _ h1, sreg_eq_reg]
  rw [finish_calm _ _ _ h1 (noEdge_setS4 _ _ _ _ h2)]
  simp [retired, setS4_quiet _ _ _ h1, put4]

/-- A completed instruction that writes one scalar register, whatever else its effect `g` does to the thread. -/
theorem finish_setS (w : Nat) (d : SReg) (x : Word) (s : State) (h : Calm s) : finish w (setS d x) s = retired (put d x) s := by
  rw [finish_calm _ _ _ h.1 (noEdge_setS _ _ _ h.2)]
  simp [retired, setS_quiet _ _ _ h.1]

theorem noEdge_orFlags (g : Flags) (t : Thread) (h : NoEdge t) : NoEdge (orFlags g t) := noEdge_of t _ h rfl rfl rfl rfl

/-- A completed instruction of latency 4 that raises flags. -/
theorem finish_float4 (w : Stall) (d : SReg) (x : Word) (g : Flags) (s : State) (h : Calm s) :
    finish w (fun t => orFlags g (setS4 w d x t)) s = retired (fun t => orFlags g (put4 d w x t)) s := by
  rw [finish_calm _ (fun t => orFlags g (setS4 w d x t)) _ h.1 (noEdge_orFlags _ _ (noEdge_setS4 _ _ _ _ h.2))]
  simp [retired, setS4_quiet _ _ _ h.1, put4]

theorem finish_float1 (w : Nat) (d : SReg) (x : Word) (g : Flags) (s : State) (h : Calm s) :
    finish w (fun t => orFlags g (setS d x t)) s = retired (fun t => orFlags g (put d x t)) s := by
  rw [finish_calm _ (fun t => orFlags g (setS d x t)) _ h.1 (noEdge_orFlags _ _ (noEdge_setS _ _ _ h.2))]
  simp [retired, setS_quiet _ _ _ h.1]

/-- Where the bytes of a scalar load are. -/
theorem loadBytes_eq (s : State) (a : Word) (n : Nat) (k : Acc) (ls : List Loc) (c : Nat) (h1 : canonical a = true)
    (h2 : a.toNat % n = 0) (h3 : xlatN s s.cur a n k = .ok (ls, c)) (h4 : ∀ l ∈ ls, locFenced s l = false)
    (h5 : ∀ l ∈ ls, poisoned s l = false) : loadBytes s a n k = .ok (readBytes s ls) := by
  have e1 : ls.any (locFenced s) = false := by simpa using h4
  have e2 : ls.any (poisoned s) = false := by simpa using h5
  simp only [loadBytes, placesOf, h1, h2, h3]
  simp [e1, e2]

theorem storePlaces_eq (s : State) (a : Word) (n : Nat) (k : Acc) (ls : List Loc) (c : Nat) (h1 : canonical a = true)
    (h2 : a.toNat % n = 0) (h3 : xlatN s s.cur a n k = .ok (ls, c)) (h4 : ∀ l ∈ ls, locFenced s l = false) :
    storePlaces s a n k = .ok ls := by
  have e1 : ls.any (locFenced s) = false := by simpa using h4
  simp only [storePlaces, placesOf, h1, h2, h3]
  simp [e1]

theorem scalarLoad_ok (n : Nat) (f : Nat → Word) (d a : SReg) (i : BitVec 13) (w : Stall) (s : State) (bs : List Byte) (h : Calm s)
    (hb : loadBytes s (reg s a + i.signExtend 64) n .scalarLoad = .ok bs) :
    scalarLoad n f d a i w s = retired (put d (f (ofBytes bs))) s := by
  simp only [scalarLoad, eaOf, guardS_quiet _ h.1, rs_quiet _ h.1, sreg_eq_reg, hb]
  exact finish_setS _ _ _ _ h

theorem scalarLoad_trap (n : Nat) (f : Nat → Word) (d a : SReg) (i : BitVec 13) (w : Stall) (s : State) (e : TrapInfo) (h : Calm s)
    (hb : loadBytes s (reg s a + i.signExtend 64) n .scalarLoad = .error e) : scalarLoad n f d a i w s = trap e s := by
  simp only [scalarLoad, eaOf, guardS_quiet _ h.1, rs_quiet _ h.1, sreg_eq_reg, hb]

theorem scalarStore_trap (n : Nat) (d a : SReg) (i : BitVec 13) (w : Stall) (s : State) (e : TrapInfo) (h : Calm s)
    (hb : storePlaces s (reg s a + i.signExtend 64) n .scalarStore = .error e) : scalarStore n d a i w s = trap e s := by
  simp only [scalarStore, eaOf, guardS_quiet _ h.1, rs_quiet _ h.1, sreg_eq_reg, hb]

theorem scalarStore_ok (n : Nat) (d a : SReg) (i : BitVec 13) (w : Stall) (s : State) (ls : List Loc) (h : Calm s)
    (hb : storePlaces s (reg s a + i.signExtend 64) n .scalarStore = .ok ls) :
    scalarStore n d a i w s = retired id (writeAll (wrBytes ls (leBytes n (reg s d).toNat)) s) := by
  simp only [scalarStore, eaOf, guardS_quiet _ h.1, rs_quiet _ h.1, sreg_eq_reg, hb]
  rw [finish_calm _ _ _ (by simp [h.1]) (by simpa using h.2)]

end Sys2Proof.Machine
end

