-- ==== Sys2Proof/Laws/Vector.lean ====
section
/-! SUPPORT. Elements of vector registers and bits of mask registers after a write, and the shared shapes of vector
instructions in a calm thread. -/

namespace Sys2Proof.Machine

open Sys2Proof.Safety

theorem testBit_eltAt (x : VBits) (w i b : Nat) : (eltAt x w i).testBit b = (decide (b < w) && x.getLsbD (w * i + b)) := by
  simp [eltAt, Nat.testBit_mod_two_pow, BitVec.getLsbD]

theorem getLsbD_mask (w p : Nat) (hw : w ≤ 8192) : (BitVec.ofNat 8192 (2 ^ w - 1)).getLsbD p = decide (p < w) := by
  rw [BitVec.getLsbD_ofNat, Nat.testBit_two_pow_sub_one]
  by_cases h : p < w
  · simp [h]; omega
  · simp [h]

theorem getLsbD_val (w n p : Nat) (hw : w ≤ 8192) : (BitVec.ofNat 8192 (n % 2 ^ w)).getLsbD p = (decide (p < w) && n.testBit p) := by
  rw [BitVec.getLsbD_ofNat, Nat.testBit_mod_two_pow]
  by_cases h : p < w
  · have : p < 8192 := by omega
    simp [h, this]
  · simp [h]

/-- An element read after one element is written. -/
theorem eltAt_putElt (x : VBits) (w i j n : Nat) (hi : w * i + w ≤ 8192) (hj : w * j + w ≤ 8192) :
    eltAt (putElt w x i n) w j = if j = i then n % 2 ^ w else eltAt x w j := by
  have hw : w ≤ 8192 := by omega
  apply Nat.eq_of_testBit_eq
  intro b
  rw [testBit_eltAt]
  by_cases hb : b < w
  · have hp : w * j + b < 8192 := by omega
    simp only [putElt, BitVec.getLsbD_or, BitVec.getLsbD_and, BitVec.getLsbD_not, BitVec.getLsbD_shiftLeft, getLsbD_mask w _ hw,
      getLsbD_val w _ _ hw, hp, decide_true, Bool.true_and, hb]
    by_cases h : j = i
    · subst h
      have e : w * j + b - w * j = b := by omega
      have e2 : ¬ w * j + b < w * j := by omega
      simp [e, e2, hb, Nat.testBit_mod_two_pow]
    · simp only [h, if_false]
      rw [testBit_eltAt]
      rcases Nat.lt_or_gt_of_ne h with h | h
      · have : w * j + w ≤ w * i := by rw [← Nat.mul_succ]; exact Nat.mul_le_mul_left w h
        have e2 : w * j + b < w * i := by omega
        simp [e2, hb]
      · have : w * i + w ≤ w * j := by rw [← Nat.mul_succ]; exact Nat.mul_le_mul_left w h
        have e2 : ¬ w * j + b < w * i := by omega
        have e3 : ¬ w * j + b - w * i < w := by omega
        simp [e2, e3, hb]
  · simp only [hb, decide_false, Bool.false_and]
    split
    · simp [Nat.testBit_mod_two_pow, hb]
    · rw [testBit_eltAt]; simp [hb]

theorem eltAt_foldl (f : Nat → Nat) (w j : Nat) (l : List Nat) (x : VBits) (hl : ∀ i ∈ l, w * i + w ≤ 8192) (hj : w * j + w ≤ 8192) :
    eltAt ((l.map fun i => (i, f i)).foldl (fun x (i, n) => putElt w x i n) x) w j =
      if j ∈ l then f j % 2 ^ w else eltAt x w j := by
  induction l generalizing x with
  | nil => simp
  | cons a t ih =>
    simp only [List.map_cons, List.foldl_cons]
    rw [ih _ (fun i hi => hl i (List.mem_cons_of_mem _ hi)), eltAt_putElt _ _ _ _ _ (hl a List.mem_cons_self) hj]
    by_cases h1 : j ∈ t
    · simp [h1]
    · by_cases h2 : j = a
      · subst h2; simp [h1]
      · simp [h1, h2]

/-- Elements after a list of them is written with the values of a function. -/
theorem elt_writeElts (d : VReg) (w : Nat) (f : Nat → Nat) (l : List Nat) (t : Thread) (hl : ∀ i ∈ l, w * i + w ≤ 8192) (j : Nat)
    (hj : w * j + w ≤ 8192) :
    elt (writeElts d w (l.map fun i => (i, f i)) t) d w j = if j ∈ l then f j % 2 ^ w else elt t d w j := by
  have : vreg (writeElts d w (l.map fun i => (i, f i)) t) d =
      (l.map fun i => (i, f i)).foldl (fun x (i, n) => putElt w x i n) (vreg t d) := by
    simp [writeElts, vreg, setV]
  unfold elt
  rw [this]
  exact eltAt_foldl f w j l _ hl hj

theorem vreg_writeElts_other (d r : VReg) (w : Nat) (l : List (Nat × Nat)) (t : Thread) (h : r ≠ d) :
    vreg (writeElts d w l t) r = vreg t r := by
  have : d.val ≠ r.val := fun e => h (Fin.ext e.symm)
  simp [writeElts, vreg, setV, Vector.getElem_set_ne _ _ this]

theorem mem_actives (t : Thread) (lo hi i : Nat) : i ∈ actives t lo hi ↔ lo ≤ i ∧ i < hi ∧ governed t i = true := by
  simp [actives]; tauto

theorem getLsbD_putBit (x : KBits) (i j : Nat) (b : Bool) (hi : i < 512) (hj : j < 512) :
    (putBit x i b).getLsbD j = if j = i then b else x.getLsbD j := by
  have h1 : ((1 : KBits) <<< i).getLsbD j = decide (j = i) := by
    have e : (1 : KBits) = BitVec.twoPow 512 0 := by simp [BitVec.twoPow]
    rw [e, BitVec.getLsbD_shiftLeft, BitVec.getLsbD_twoPow]
    by_cases h : j = i
    · subst h; simp [hj]
    · by_cases h2 : j < i
      · simp [h, h2]
      · have : 0 ≠ j - i := by omega
        simp [h, this]
  unfold putBit
  split
  · next hb =>
    rw [BitVec.getLsbD_or, h1]
    by_cases h : j = i <;> simp [h, hb]
  · next hb =>
    rw [BitVec.getLsbD_and, BitVec.getLsbD_not, h1]
    by_cases h : j = i
    · subst h; simp [hb]
    · simp [h, hj]

/-! ## Vector instructions that meet no stop -/

theorem firstDmg_none (t : Thread) (h1 : t.vbad = []) (h2 : t.kbad = []) (a b lo hi) : firstDmg t a b lo hi = none := by
  simp [firstDmg, h1, h2]

theorem finishV_calm (f : Thread → Thread) (s : State) (hp : s.cur.pend = []) (hn : NoEdge (f s.cur)) (hc : (f s.cur).chain = 0) :
    finishV f s = retired (fun t => setVstart 0 (f t)) s := by
  unfold finishV
  rw [finish_calm _ _ _ hp]
  · simp only [retired, hc]; simp
  · simp only [hc]; simp; exact noEdge_of _ _ hn rfl rfl rfl rfl

theorem runE_ready (n : Nat) (f : Nat → Thread → Thread) (s : State) (w : Nat) (h : VecReady s w)
  (hn : NoEdge (f n s.cur)) (hc : (f n s.cur).chain = 0) : runE n none f s = retired (fun t => setVstart 0 (f n t)) s := by
  obtain ⟨h1,h2,h3,h4,h5,h6,h7⟩ := h
  simp only [runE, stopAt, h4]
  exact finishV_calm _ _ h1.1 hn hc

theorem guardV_ready (i regs ok w) (s k : State) (h : VecReady s w) (hok : ok = true) : guardV i regs ok w s k = k := by
  obtain ⟨h1,h2,h3,h4,h5,h6,h7⟩ := h
  simp [guardV, guardS_quiet _ h1.1, hok, overVlx, h6]

theorem actives_body (s : State) : actives s.cur (vstartOf s.cur) (vlOf s.cur) = (List.range (vlOf s.cur)).filter (body s) := by
  unfold actives body; apply List.filter_congr; intro i hi; simp at hi; simp [hi]

theorem eltwise_wrote (s : State) (d : VReg) (w : Nat) (f : Nat → Nat × Flags) (ww : Nat) (h : VecReady s ww) (hw : w ≤ ww) :
   VecWrote s (retired (fun t => setVstart 0 (eltwise d w f (vlOf s.cur) t)) s) d w (body s) (fun i => (f i).1) (bodyFlags s fun i => (f i).2) := by
  obtain ⟨h1,h2,h3,h4,h5,h6,h7⟩ := h
  have hle : ∀ i ∈ actives s.cur (vstartOf s.cur) (vlOf s.cur), w * i + w ≤ 8192 := by
    intro i hi; rw [mem_actives] at hi
    have : w * i + w = w * (i+1) := by ring
    rw [this]; refine le_trans (Nat.mul_le_mul hw hi.2.1) h7
  refine ⟨?_,?_,?_⟩
  · intro j hj
    have e := elt_writeElts d w (fun i => (f i).1) (actives s.cur (vstartOf s.cur) (vlOf s.cur)) s.cur hle j hj
    simp only [mem_actives] at e
    have : ∀ b, (if body s j = true then (f j).1 % 2 ^ w else b) = if vstartOf s.cur ≤ j ∧ j < vlOf s.cur ∧ governed s.cur j = true then (f j).1 % 2 ^ w else b := by
      intro b; simp [body, and_assoc]
    rw [this, ← e]
    simp [retired, after, eltwise, elt, vreg, List.map_map, Function.comp_def]
  · intro r hr
    have := vreg_writeElts_other d r w ((actives s.cur (vstartOf s.cur) (vlOf s.cur)).map fun i => (i, (f i).1)) s.cur hr
    rw [← this]
    simp [retired, after, eltwise, vreg, List.map_map, Function.comp_def]
  · simp only [retired, after, eltwise, actives_body, bodyFlags, List.foldl_map, orFlags, setVstart, modC, writeElts, setV, h2, vreg]
    simp

/-- A stop is at the damage the instruction met, or where the thread was asked to stop and its rule admits it; an abandoned reply is one
of a governed element (R193). -/
theorem stopAt_spec {t : Thread} {r : StopRule} {lo hi g : Nat} {why : Stop} {dmg : Option (Nat × TrapInfo)}
    (h : stopAt t r lo hi dmg = some (g, why)) :
    (∃ x, dmg = some (g, x) ∧ why = .trap x) ∨ (t.elim = some (g, why) ∧ admits r lo hi g why = true ∧ (why = .abandon → governed t g = true)) := by
  have dmgCase : dmg.map (fun (i, x) => (i, Stop.trap x)) = some (g, why) → ∃ x, dmg = some (g, x) ∧ why = .trap x := by
    rcases dmg with _ | ⟨i, x⟩ <;> simp
    rintro rfl rfl; simp
  simp only [stopAt] at h
  rcases he : t.elim with _ | ⟨g', why'⟩ <;> rw [he] at h <;> simp only at h
  · exact .inl (dmgCase h)
  · split at h
    · exact .inl (dmgCase h)
    · rename_i ha
      split at h
      · rename_i hd
        split at h
        · exact .inl (dmgCase (hd.trans h))
        · cases h; exact .inr ⟨rfl, by simpa using ha⟩
      · cases h; exact .inr ⟨rfl, by simpa using ha⟩

/-- A stop request takes effect above the first element alone, at a boundary of the rule (R147, R193, R211). -/
theorem stopAt_request {t : Thread} {r : StopRule} {lo hi g : Nat} {dmg : Option (Nat × TrapInfo)}
    (h : stopAt t r lo hi dmg = some (g, .request)) : lo < g ∧ g < hi ∧ g % r.every = 0 := by
  obtain ⟨x, _, hx⟩ | ⟨_, ha, _⟩ := stopAt_spec h
  · cases hx
  · simp [admits] at ha; exact ⟨ha.2.1, ha.1, ha.2.2⟩

end Sys2Proof.Machine
end

