-- ==== Sys2Proof/Tests/Slice0.lean ====
section
/-! SUPPORT. Tests: words written out from the encodings, ill-formed terms for each operand check, single steps on small states,
and for the hypotheses of every claim a state and operands that meet them. Expected values come from the manual's tables. -/

namespace Sys2Proof.Tests

set_option Elab.async false

open Sys2Proof Sys2Proof.Machine Sys2Proof.Safety

/-! ## Words by their fields (R84-R97): MAJ, then the fields of the format -/

theorem test_word_add : decode 0b0000001_00101_00110_00111_00000000_10 = .ok (.add 5 6 7 2) := by decide
theorem test_word_srai : decode 0b0001001_00101_00110_00000_10_111111_00 = .ok (.srai 5 6 63 0) := by decide
theorem test_word_ldD : decode 0b0010001_01010_01011_1111111111000_01 = .ok (.ldD 10 11 8184 1) := by decide
theorem test_word_stW : decode 0b0010100_01010_01011_0000000000100_00 = .ok (.stW 10 11 4 0) := by decide
theorem test_word_fadd : decode 0b0000011_00001_00010_00011_00000_011_00 = .ok (.fadd 1 2 3 .rdn 0) := by decide
theorem test_word_bltu : decode 0b0011010_00001_00010_111111111111110 = .ok (.bltu 1 2 32766) := by decide
theorem test_word_jal : decode 0b0011100_00001_11111111111111111111 = .ok (.jal 1 0xFFFFF) := by decide
theorem test_word_loop : decode 0b0011110_00001_00000_000000000000010 = .ok (.loop 1 2) := by decide
theorem test_word_bkall : decode 0b0011110_00111_00100_000000000000010 = .ok (.bkall 7 2) := by decide
theorem test_word_setvl : decode 0b0011111_00001_00010_00000_00000000_11 = .ok (.setvl 1 2 3) := by decide
theorem test_word_vfma_scalar : decode 0b0100000_00001_00010_00011_000110_1_000 = .ok (.vfma 1 2 (.scl 3)) := by decide
theorem test_word_vexp : decode 0b0100001_00001_00010_00000_000100_0_000 = .ok (.vexp 1 2) := by decide
theorem test_word_vsra : decode 0b0100010_00001_00010_00011_000101_0_000 = .ok (.vsra 1 2 (.vec 3)) := by decide
theorem test_word_vcmp : decode 0b0100011_00111_00010_00011_000000_0_111 = .ok (.vcmp 7 2 (.vec 3) .geu) := by decide
theorem test_word_kpop : decode 0b0100100_00001_00010_00000_000100_0_000 = .ok (.kpop 1 2) := by decide
theorem test_word_vscan : decode 0b0100101_00001_00010_00000_000100_0_010 = .ok (.vscan 1 2 .min) := by decide
theorem test_word_vmvs : decode 0b0100110_00001_00010_00000_000100_0_001 = .ok (.vmvsToVector 1 2) := by decide
theorem test_word_vredmax : decode 0b0100111_00001_00010_00011_000001_0_000 = .ok (.vredmax 1 2 3) := by decide
theorem test_word_vcvt : decode 0b0101000_00001_00010_00000_000011_0_000 = .ok (.vcvt 1 2 .fp32int32) := by decide
theorem test_word_vst : decode 0b1000001_00011_10100_0001_001_10_111111 = .ok (.vst 3 20 .bf16 .strided 2 63) := by decide
theorem test_word_vldx : decode 0b1000010_00011_10100_0000_000_00_00101_0 = .ok (.vldx 3 20 .fp32 0 5) := by decide
theorem test_word_amocas : decode 0b1001001_00001_00010_00011_110_1_0_011_00 = .ok (.amocasD 1 2 3 true false .package 0) := by decide
theorem test_word_vamoadd : decode 0b1001011_00001_00010_1001_010_01_00011_0 = .ok (.vamoadd 1 2 .int32 .sett false true 3) := by decide
theorem test_word_fence : decode 0b1001100_00000_00000_000000000100_001 = .ok (.fence .pod) := by decide
theorem test_word_mopa : decode 0b1011000_000001100_00100_00101_000001 = .ok (.mopaF 12 4 5) := by decide
theorem test_word_mst : decode 0b1011101_111111111_00100_00101_1_10_001 = .ok (.mst 511 4 5 true 2 .bf16) := by decide
theorem test_word_mmov : decode 0b1011011_000000001_000000010_1_000001 = .ok (.mmov 1 2 true) := by decide
theorem test_word_atsc : decode 0b1101001_000000001_00010_00011_00100_1 = .ok (.atscBias 1 2 3 4) := by decide
theorem test_word_atac : decode 0b1101011_000000001_000000010_0_000_101 = .ok (.atac 1 2 false 5) := by decide
theorem test_word_osput : decode 0b1101100_00000_00001_00000_0001_0_111_10 = .ok (.osput 1 7 2) := by decide
theorem test_word_tunmrg : decode 0b1101111_000000001_000000010_1_01_1111 = .ok (.tunmrg 1 2 true 15) := by decide
theorem test_word_hld : decode 0b1110000_00001_0010_1111111111111_110 = .ok (.hld 1 2 8191 .d) := by decide
theorem test_word_hcas : decode 0b1110010_0_0010_0011_0000000001000_010 = .ok (.hcas 2 3 8) := by decide
theorem test_word_vsth : decode 0b1110100_00001_0010_0000000001000_111 = .ok (.vsth 1 2 8 .uint8) := by decide
theorem test_word_halloc : decode 0b1110110_0_0001_0000_0000000000001_000 = .ok (.hallocImmediate 1 1) := by decide
theorem test_word_hnul : decode 0b1110111_00000_0010_1111111111110_001 = .ok (.hnulN 2 8190) := by decide
theorem test_word_cpym : decode 0b1111000_00001_10000_000000000000_001 = .ok (.cpym 1 .s16) := by decide
theorem test_word_spawn : decode 0b1111010_00000_00001_001111111111_000 = .ok (.spawn 1 1023) := by decide
theorem test_word_msend : decode 0b1111011_000000001_00010_00011_1_00_000 = .ok (.msend 1 2 3 true) := by decide
theorem test_word_getc : decode 0b1111100_00001_00000_000000011011_000 = .ok (.getc 1 0x01B) := by decide
theorem test_word_trap : decode 0b1111101_00000_00000_111111111111_010 = .ok (.trap 0xFFF) := by decide

/-! ## The order of R90 -/

theorem test_refuse_zero : decode 0 = .error .zero := by decide
theorem test_refuse_major : decode 0b0000000_00001_00000_00000_00000000_00 = .error .ill := by decide
theorem test_refuse_function : decode 0b0000001_00101_00110_00111_00010000_10 = .error .ill := by decide
theorem test_refuse_reserved : decode 0b0000001_00101_00110_00001_00001110_00 = .error .rsv := by decide
theorem test_refuse_rounding : decode 0b0000011_00001_00010_00011_00000_100_00 = .error .ill := by decide
theorem test_refuse_reserved_first : decode 0b0000011_00001_00010_00001_00101_100_00 = .error .rsv := by decide

/-! ## A term that each check of wellFormed refuses -/

theorem test_wf_loop : (Instr.loop 1 1).wellFormed = false ∧ (Instr.loopv 1 16384).wellFormed = false := by decide
theorem test_wf_vcvt : (Instr.vcvt 1 1 .fp32bf16).wellFormed = false ∧ (Instr.vcvt 1 1 .fp32int32).wellFormed = true := by decide
theorem test_wf_strided : (Instr.vld 1 2 .fp4 .strided 0 0).wellFormed = false ∧ (Instr.vst 1 2 .q4n .strided 0 0).wellFormed = false ∧
    (Instr.vpref 2 .fp4 .strided 0 0).wellFormed = false := by decide
theorem test_wf_hint : (Instr.vst 1 2 .fp32 .unit 3 0).wellFormed = false ∧ (Instr.vstx 1 2 .fp32 3 0).wellFormed = false ∧
    (Instr.vstk 1 2 3 0).wellFormed = false ∧ (Instr.vpref 2 .fp32 .unit 3 0).wellFormed = false ∧
    (Instr.mst 1 2 3 false 3 .fp32).wellFormed = false := by decide
theorem test_wf_vamoadd : (Instr.vamoadd 1 2 .bf16 .core false false 3).wellFormed = false := by decide
theorem test_wf_mmov : (Instr.mmov 3 3 true).wellFormed = false ∧ (Instr.mmov 3 3 false).wellFormed = true := by decide
theorem test_wf_merge : (Instr.tmerge 3 3 false 0).wellFormed = false ∧ (Instr.tunmrg 3 3 true 0).wellFormed = false := by decide
theorem test_wf_hcas : (Instr.hcas 3 1 0).wellFormed = false := by decide
theorem test_wf_heap_vector : (Instr.vldh 1 2 0 .int16).wellFormed = false ∧ (Instr.vsth 1 2 0 .half).wellFormed = false := by decide
theorem test_wf_halloc : (Instr.hallocImmediate 1 0).wellFormed = false := by decide

/-! ## Small states -/

/-- The machine after reset with one thread in focus, changed by `f`. -/
def one (f : Thread → Thread) : State := { State.reset with cur := f { live := true } }

/-- A thread with its control registers changed. -/
def ct (f : Ctl → Ctl) (t : Thread) : Thread := { t with ctl := f t.ctl }

/-- A scalar register of a thread set. -/
def sr (r : SReg) (x : Word) (t : Thread) : Thread := { t with s := t.s.set r x }

/-- The machine after reset with one thread whose page at address 0 is mapped, readable, writable and executable. -/
def mm (f : Thread → Thread) : State :=
  { State.reset.withFetchWord 32 0 with cur := f (State.reset.withFetchWord 32 0).cur }

theorem calm_intro (s : State) (h1 : s.cur.pend = []) (h2 : depthOf s.cur = 0) : Calm s := ⟨h1, .inr (.inl h2)⟩

/-! ## Hypotheses of the claims about scalar instructions -/

/-- s1 = −2^63, s2 = −1. -/
def edge : State := one (fun t => sr 2 (BitVec.allOnes 64) (sr 1 0x8000000000000000 t))

theorem edge_calm : Calm edge := calm_intro _ rfl (by decide)

theorem witness_IntegerArithmetic : Calm edge ∧ reg edge 1 = 0x8000000000000000 ∧ reg edge 2 = BitVec.allOnes 64 :=
  ⟨edge_calm, by decide, by decide⟩

theorem witness_ImmediatesAndBitCounts : Calm edge ∧ (reg edge 1).getLsbD 63 = true := ⟨edge_calm, by decide⟩

theorem witness_ScalarFloatResults : Calm edge := edge_calm

theorem witness_FcmpConditions :
    (3 * 2 ^ 25 + 8 * 2 ^ 5 + 5 * 4) / 2 ^ 25 = 3 ∧ (3 * 2 ^ 25 + 8 * 2 ^ 5 + 5 * 4) / 32 % 32 = 8 ∧
    5 ≤ (3 * 2 ^ 25 + 8 * 2 ^ 5 + 5 * 4) / 4 % 8 ∧ Calm edge := ⟨by decide, by decide, by decide, edge_calm⟩

theorem witness_NansAndConversions : unordered 0x7FC00000 0x3F800000 = true ∧ isNan (num32 0x7FC00000) = true ∧
    isNan (num32 0xFFFFFFFF) = true ∧ isNan (num32 0x7F800000) = false ∧ Calm edge :=
  ⟨by decide, by decide, by decide, by decide, edge_calm⟩

/-- s1 = 4,088, the last doubleword of the mapped page; nothing lies in the page after it. -/
def inPage : State := mm (sr 1 4088)

theorem inPage_calm : Calm inPage := calm_intro _ (by decide +kernel) (by decide +kernel)

theorem reached_of (s : State) (a : Word) (n c : Nat) (k : Acc) (ls : List Loc) (h1 : canonical a = true) (h2 : a.toNat % n = 0)
    (h3 : xlatN s s.cur a n k = .ok (ls, c)) (h4 : ls.all (fun l => !locFenced s l) = true) : Reached s a n k ls :=
  ⟨h1, h2, ⟨c, h3⟩, by simpa using h4⟩

theorem reached_load : Reached inPage (effective inPage 1 7) 1 .scalarLoad (physLocs 0x15FFF 1) ∧
    Reached inPage (effective inPage 1 6) 2 .scalarLoad (physLocs 0x15FFE 2) ∧
    Reached inPage (effective inPage 1 4) 4 .scalarLoad (physLocs 0x15FFC 4) ∧
    Reached inPage (effective inPage 1 0) 8 .scalarLoad (physLocs 0x15FF8 8) := by
  refine ⟨?_, ?_, ?_, ?_⟩ <;>
    exact reached_of _ _ _ 0 _ _ (by decide +kernel) (by decide +kernel) (by decide +kernel) (by decide +kernel)

theorem reached_store : Reached inPage (effective inPage 1 7) 1 .scalarStore (physLocs 0x15FFF 1) ∧
    Reached inPage (effective inPage 1 6) 2 .scalarStore (physLocs 0x15FFE 2) ∧
    Reached inPage (effective inPage 1 4) 4 .scalarStore (physLocs 0x15FFC 4) ∧
    Reached inPage (effective inPage 1 0) 8 .scalarStore (physLocs 0x15FF8 8) := by
  refine ⟨?_, ?_, ?_, ?_⟩ <;>
    exact reached_of _ _ _ 0 _ _ (by decide +kernel) (by decide +kernel) (by decide +kernel) (by decide +kernel)

theorem witness_LoadsAndStores : Calm inPage ∧ (∀ l ∈ physLocs 0x15FF8 8, poisoned inPage l = false) ∧
    Reached inPage (effective inPage 1 0) 8 .scalarLoad (physLocs 0x15FF8 8) ∧
    Reached inPage (effective inPage 1 0) 8 .scalarStore (physLocs 0x15FF8 8) :=
  ⟨inPage_calm, by decide +kernel, reached_load.2.2.2, reached_store.2.2.2⟩

/-- The same with a poisoned sector at the end of the page. -/
def inPoison : State := { inPage with poison := [0x15FE0 / 32] }
/-- The same where the page lies behind a fenced port: the page belongs to package 1. -/
def inFence : State :=
  let s := wrWord 0x14000 (BitVec.ofNat 64 (2 ^ 39 + 15)) inPage
  { s with past := [], pkg := { s.pkg with peers := [1], fenced := [1] } }
/-- The same with the entry of the first page table poisoned. -/
def inBadTable : State := { inPage with poison := [0x10000 / 32] }

theorem witness_ScalarAccessTraps : Calm inPage ∧
    canonical (effective (one (sr 1 (2 ^ 60))) 1 0) = false ∧ (effective inPage 1 1).toNat % 2 ≠ 0 ∧
    xlatN inPage inPage.cur (effective inPage 1 8) 1 .scalarLoad = .error (.miss, 4096) ∧
    xlatN inPage inPage.cur (effective inPage 1 8) 1 .scalarStore = .error (.miss, 4096) ∧
    (∃ s : State, s = mm (sr 1 0x00FF000000000000) ∧ xlatN s s.cur (effective s 1 0) 8 .scalarLoad = .error (.addr, 0x00FF000000000000) ∧
      xlatN s s.cur (effective s 1 0) 8 .scalarStore = .error (.addr, 0x00FF000000000000)) ∧
    xlatN inBadTable inBadTable.cur (effective inBadTable 1 0) 8 .scalarLoad = .error (.ecc, 4088) ∧
    xlatN inBadTable inBadTable.cur (effective inBadTable 1 0) 8 .scalarStore = .error (.ecc, 4088) ∧
    (∃ ls, xlatN inFence inFence.cur (effective inFence 1 0) 8 .scalarLoad = .ok (ls, 0) ∧
      xlatN inFence inFence.cur (effective inFence 1 0) 8 .scalarStore = .ok (ls, 0) ∧ ∃ l ∈ ls, locFenced inFence l = true) ∧
    (xlatN inPoison inPoison.cur (effective inPoison 1 0) 8 .scalarLoad = .ok (physLocs 0x15FF8 8, 0) ∧
      ∃ l ∈ physLocs 0x15FF8 8, poisoned inPoison l = true) := by
  refine ⟨inPage_calm, ?_, ?_, ?_, ?_, ⟨_, rfl, ?_⟩, ?_, ?_, ⟨physLocs (2 ^ 39 + 4088) 8, ?_⟩, ?_⟩ <;> and_intros <;> decide +kernel

/-! ### Control transfers and loops -/

/-- At address 4 inside one level, whose body is at addresses 0 to 8, with VL = 2; s1 = 8, k1 holds a one and a zero, h2 is not null. -/
def inLoop : State :=
  one (fun t => sr 1 8 { ct (fun c => { c with ldepth := 1, lcnt := vput c.lcnt 0 2, lend := vput c.lend 0 8, vl := 2, lanes := 8 }) t with
    pc := 4, k := (t.k.set 1 1).set 2 3, h := t.h.set 2 1 })

theorem inLoop_calm : Calm inLoop := ⟨rfl, .inr (.inr (by decide))⟩

/-- The same outside any level. -/
def flat : State := one (fun t => { ct (fun c => { c with vl := 2, lanes := 8 }) t with pc := 4, k := (t.k.set 1 1).set 2 3 })

theorem flat_calm : Calm flat := calm_intro _ rfl (by decide)

theorem witness_BranchesAndJumps : Flat flat ∧ (∃ i, i < vlOf flat.cur ∧ i < 512 ∧ (flat.cur.k[1]).getLsbD i = true) ∧
    (∃ i, i < vlOf flat.cur ∧ (flat.cur.k[1]).getLsbD i = false) ∧ vlOf flat.cur ≤ 512 ∧
    (∀ i, i < vlOf flat.cur → (flat.cur.k[3]).getLsbD i = false) ∧ (∀ i, i < vlOf flat.cur → (flat.cur.k[2]).getLsbD i = true) ∧
    (reg flat 0 + BitVec.ofInt 64 ((4 : BitVec 13).toInt)).toNat % 4 = 0 ∧ (reg flat 0 + BitVec.ofInt 64 ((2 : BitVec 13).toInt)).toNat % 4 ≠ 0 := by
  refine ⟨⟨rfl, .inr (by decide)⟩, ⟨0, ?_⟩, ⟨1, ?_⟩, ?_⟩ <;> and_intros <;> decide +kernel

/-- Inside a body, not at its end: branches that are not taken, and JALR to a misaligned target. -/
theorem witness_BranchesAndJumps_body : Calm inLoop ∧ depthOf inLoop.cur = 1 ∧ reg inLoop 0 ≠ reg inLoop 1 ∧ ¬ (reg inLoop 1).toInt < (reg inLoop 0).toInt ∧
    ¬ (reg inLoop 1).toNat ≤ (reg inLoop 0).toNat ∧ (∃ i, i < vlOf inLoop.cur ∧ (inLoop.cur.k[1]).getLsbD i = true) ∧
    (∃ i, i < vlOf inLoop.cur ∧ (inLoop.cur.k[1]).getLsbD i = false) ∧ (reg inLoop 1 + BitVec.ofInt 64 ((2 : BitVec 13).toInt)).toNat % 4 ≠ 0 := by
  refine ⟨inLoop_calm, ?_, ?_, ?_, ?_, ⟨0, ?_⟩, ⟨1, ?_⟩, ?_⟩ <;> decide +kernel

theorem witness_TransfersLeaveLevels : Calm inLoop ∧ inSup inLoop.cur = false ∧ reg inLoop 0 = reg inLoop 2 ∧ reg inLoop 0 ≠ reg inLoop 1 ∧
    (reg inLoop 0).toInt < (reg inLoop 1).toInt ∧ (reg inLoop 0).toInt ≤ (reg inLoop 2).toInt ∧
    (reg inLoop 0).toNat < (reg inLoop 1).toNat ∧ (reg inLoop 0).toNat ≤ (reg inLoop 2).toNat ∧
    (inLoop.cur.k[1]).getLsbD 0 = true ∧ vlOf inLoop.cur = 2 ∧ (∀ n, n < 2 → (inLoop.cur.k[3]).getLsbD n = false) ∧
    (∀ n, n < 2 → (inLoop.cur.k[2]).getLsbD n = true) ∧ inLoop.cur.h[1] = 0 ∧ inLoop.cur.h[2] ≠ 0 ∧
    (reg inLoop 1 + BitVec.ofInt 64 ((4 : BitVec 13).toInt)).toNat % 4 = 0 ∧
    leaves inLoop.cur 0 inLoop.cur.pc (target inLoop 100) ∧ (1 : SReg) ≠ 0 := by
  refine ⟨inLoop_calm, ?_⟩; and_intros <;> decide +kernel

/-- A supervisor-mode thread. -/
def sup (f : Thread → Thread) : State := one (fun t => f (ct (fun c => { c with estat := 1 }) t))

/-- Six levels that end far away. -/
def deep : State := one (fun t => sr 1 5 (ct (fun c => { c with ldepth := 6, lend := Vector.replicate 6 4000, lanes := 8, vlcap := 9 }) t))

theorem deep_calm : Calm deep := ⟨rfl, .inr (.inr (by decide))⟩

/-- One level whose body has its last instruction at address 4. -/
def shallow : State := one (fun t => sr 1 5 (ct (fun c => { c with ldepth := 1, lend := vput c.lend 0 4, lanes := 8, vlcap := 9 }) t))

theorem shallow_calm : Calm shallow := ⟨rfl, .inr (.inr (by decide))⟩

theorem witness_LoopsBegin : Calm shallow ∧ inSup shallow.cur = false ∧ reg shallow 2 = 0 ∧ reg shallow 1 ≠ 0 ∧ depthOf shallow.cur < 6 ∧
    (target shallow 2 - 4).toNat ≤ (lendOf shallow.cur 0).toNat ∧ 0 < vlmax shallow.cur (sewOf shallow.cur) ∧
    Calm flat ∧ depthOf flat.cur = 0 := by
  refine ⟨shallow_calm, ?_, ?_, ?_, ?_, ?_, ?_, flat_calm, ?_⟩ <;> decide +kernel

theorem witness_LoopsTrap : (Calm (sup id) ∧ inSup (sup id).cur = true) ∧ (Calm deep ∧ inSup deep.cur = false ∧ reg deep 1 ≠ 0 ∧ 6 ≤ depthOf deep.cur) ∧
    (0 < depthOf shallow.cur ∧ depthOf shallow.cur < 6 ∧ (lendOf shallow.cur 0).toNat < (target shallow 3 - 4).toNat) ∧
    (∃ s : State, s = one (sr 1 5) ∧ Calm s ∧ reg s 1 ≠ 0 ∧ depthOf s.cur = 0 ∧ vlmax s.cur (sewOf s.cur) = 0) ∧
    (∃ s : State, s = one (fun _ => { shallow.cur with pc := 4 }) ∧ s.cur.pend = [] ∧ inSup s.cur = false ∧ depthOf s.cur = 0 + 1 ∧
      lendOf s.cur 0 = s.cur.pc ∧ Instr.trap 1 ∈ endless 0 0 0 0 0 0 0 0 1 2 ∧ Instr.hnulN 2 0 ∈ endless 0 0 0 0 0 0 0 0 1 2) := by
  refine ⟨⟨calm_intro _ rfl ?_, ?_⟩, ⟨deep_calm, ?_⟩, ?_, ⟨_, rfl, calm_intro _ rfl ?_, ?_⟩,
    ⟨_, rfl, rfl, ?_⟩⟩ <;> and_intros <;> decide +kernel

/-- At the end of one level, with passes left, of the kind LOOP or LOOPV, and with VL = 2. -/
def atEnd (isV : Bool) (left : Word) : State :=
  one (fun t => { ct (fun c => { c with ldepth := 1, lcnt := vput c.lcnt 0 left, lend := vput c.lend 0 8, vl := 2, lanes := 8, vlcap := 9 }) t with
    pc := 8, lkind := vput t.lkind 0 isV })

theorem atEnd_ready (b : Bool) (n : Word) : (atEnd b n).cur.pend = [] ∧ inSup (atEnd b n).cur = false ∧ depthOf (atEnd b n).cur = 0 + 1 ∧
    lendOf (atEnd b n).cur 0 = (atEnd b n).cur.pc ∧ vnth (atEnd b n).cur.lkind false 0 = b ∧ vlOf (atEnd b n).cur = 2 ∧
    lvl (atEnd b n).cur.ctl.lcnt 0 = n := ⟨rfl, show wbit 0 0 = false by decide, show fld 1 0 3 = 0 + 1 by decide, show vaOf 8 = 8 by decide, rfl,
      show fld 2 0 10 = 2 by decide, rfl⟩

theorem witness_BackEdges : (lvl (atEnd false 1).cur.ctl.lcnt 0).toNat ≤ 1 ∧ 1 < (lvl (atEnd false 2).cur.ctl.lcnt 0).toNat ∧
    (0 < vlOf (atEnd true 2).cur ∧ (lvl (atEnd true 2).cur.ctl.lcnt 0).toNat ≤ vlOf (atEnd true 2).cur) ∧
    vlOf (atEnd true 3).cur < (lvl (atEnd true 3).cur.ctl.lcnt 0).toNat := by
  simp only [atEnd_ready]; decide

theorem witness_BackEdges_outer : ∀ m, m < 0 → lendOf (atEnd true 3).cur m ≠ (atEnd true 3).cur.pc := by decide

/-- Context 0 of a core whose LANEPART gives it all eight octets, which it has already. -/
def granted : State :=
  { one (ct (fun c => { c with lanes := 8, vlcap := 9 })) with cores := [(0, { lanepart := 8 })] }
/-- The same with four octets so far. -/
def regranted : State := { granted with cur := ct (fun c => { c with lanes := 4 }) granted.cur }

theorem witness_VectorLengths : Calm granted ∧ lanesWord (newGrant granted granted.cur) = granted.cur.ctl.lanes ∧
    Calm regranted ∧ lanesWord (newGrant regranted regranted.cur) ≠ regranted.cur.ctl.lanes := by
  refine ⟨calm_intro _ rfl ?_, ?_, calm_intro _ rfl ?_, ?_⟩ <;> decide +kernel

/-! ### Traps and control registers -/

/-- A thread at address 4 whose handler is at address 8 of the mapped page. -/
def handled : State := mm (fun t => { ct (fun c => { c with evec := 8 }) t with pc := 4 })

theorem witness_TrapEntry : Calm handled ∧ evecOk { handled with tick := handled.tick + 1 } = true := by
  refine ⟨calm_intro _ ?_ ?_, ?_⟩ <;> decide +kernel

theorem witness_TrapsAndStops : evecOk { edge with tick := edge.tick + 1 } = false ∧ Calm edge ∧
    decode ((0 : BitVec 32).toNat) = .error .zero ∧ decode ((0x4A012030 : BitVec 32).toNat) = .error .rsv ∧
    decode ((1 : BitVec 32).toNat) = .error .ill ∧ fetchAt inPage inPage.cur 4096 = .error ⟨0x10, 4096, 0⟩ := by
  refine ⟨?_, edge_calm, ?_⟩ <;> and_intros <;> decide +kernel

theorem witness_ReturnAndIdle : (sup id).cur.pend = [] ∧ inSup (sup id).cur = true ∧ edge.cur.pend = [] ∧ inSup edge.cur = false := by
  decide +kernel

/-- A thread with a follow-on outstanding. -/
def busy : State := one (fun t => { t with fols := [⟨0, 0, 0, 0, 0, 0, 0, false, false, false, false⟩] })

theorem witness_WaitsAndFences : (Calm edge ∧ edge.cur.folBad = [] ∧ Drained edge) ∧ (Calm busy ∧ busy.cur.folBad = [] ∧ ¬ Drained busy) := by
  refine ⟨⟨edge_calm, rfl, rfl, rfl, ?_⟩, calm_intro _ rfl (by decide), rfl, fun h => ?_⟩
  · decide +kernel
  · exact absurd h.1 (by decide)

theorem witness_ControlRegisterAccess : Calm edge ∧ (ctlMask 0x000).isSome = true ∧ (ctlMask 0x804).isSome = true ∧ inSup edge.cur = false ∧
    (ctlMask 0xFFF).isNone = true ∧ (Writable edge 0x005 (reg edge 1) ∧ 0x005 ∉ special) ∧
    ((0x100 : Nat) ≤ 0x100 ∧ (ctlMask 0x100).isSome = true) ∧ (ctlReadOnly edge.cur 0x018 = true ∧ (ctlMask 0x018).isSome = true) ∧
    (ctlReadOnly edge.cur 0x001 = false ∧ ctlValid 0x001 (reg edge 2) = false) ∧
    (ctlReadOnly inLoop.cur 0x048 = false ∧ ctlValid 0x048 (reg inLoop 1) = true ∧ activeBound inLoop.cur 0x048) := by
  refine ⟨edge_calm, ?_, ?_, ?_, ?_, ⟨⟨?_, .inl ?_, ?_, ?_, fun h => ?_⟩, ?_⟩, ⟨?_, ?_⟩, ⟨?_, ?_⟩, ⟨?_, ?_⟩, ⟨?_, ?_, .inl ?_⟩⟩
  any_goals decide +kernel
  rcases h with h | h <;> omega

theorem witness_ControlRegistersAreSeparate : (0x000 : Nat) ∈ savedCtl ∧ 0x806 ∈ savedCtl := by decide

theorem witness_SpecialRegisterWrites : Calm (sup id) ∧ inSup (sup id).cur = true ∧ heldSlots (sup id).cur.map = [] ∧
    ctlValid 0x803 8 = true ∧ ctlValid 0x801 0 = true ∧ (0 : Word) &&& (ctlMask 0x801).getD 0 = (coreOf (sup id) (cidOf (sup id).cur)).msplit ∧
    ctlValid 0x801 256 = true ∧ coreHolds (sup id) (cidOf (sup id).cur) = false ∧ coreReserved (sup id) [] (cidOf (sup id).cur) = false ∧ (coreOf (sup id) (cidOf (sup id).cur)).tags = [] ∧
    depthOf (sup id).cur ≤ (0 : Fin 6).val ∧ ctlValid 0x058 6 = true := by
  refine ⟨calm_intro _ rfl ?_, ?_⟩ <;> and_intros <;> decide +kernel

/-- A result of s1 in flight, under the stall rule or not. -/
def early (en : Word) : State := one (fun t => { ct (fun c => { c with schk := en }) t with pend := [⟨1, 7, 2⟩] })

theorem witness_EarlyReads (en : Word) : NoEdge (early en).cur ∧ (early en).cur.pend = [⟨1, 7, 2⟩] ∧ (2 : Nat) < 3 ∧ (1 : SReg) ≠ 0 ∧
    (2 : SReg) ≠ 1 ∧ (early en).cur.ctl.schk = en := ⟨.inr (.inl (show fld 0 0 3 = 0 by decide)), rfl, by decide, by decide, by decide, rfl⟩

theorem witness_EarlyReads_enable : fld 1 0 1 = 1 ∧ fld 0 0 1 = 0 := by decide

/-! ## Hypotheses of the claims about vector instructions -/

/-- Two FP32 elements, all eight octets; s1 names the last 8 bytes of the mapped page, s2 its first; v2 holds 0 and 1. -/
def vec (f : Thread → Thread) : State :=
  mm (fun t => f (sr 1 4088 { ct (fun c => { c with vl := 2, lanes := 8, vlcap := 9, vstride := 4 }) t with v := t.v.set 2 (1 <<< 32) }))

/-- The same with integer elements. -/
def vecInt : State := vec (ct (fun c => { c with vtype := 0x605 }))

theorem vec_ready (f : Thread → Thread) (w : Nat) (h : (vec f).cur.pend = [] ∧ depthOf (vec f).cur = 0 ∧ (vec f).cur.vbad = [] ∧
    (vec f).cur.kbad = [] ∧ (vec f).cur.elim = none ∧ (vec f).cur.chain = 0 ∧ vlOf (vec f).cur ≤ grantMax (vec f).cur w ∧
    w * vlOf (vec f).cur ≤ 8192) : VecReady (vec f) w := ⟨calm_intro _ h.1 h.2.1, h.2.2⟩

theorem vec_id_ready : VecReady (vec id) (sewOf (vec id).cur) ∧ VecReady (vec id) 16 :=
  ⟨vec_ready _ _ (by decide +kernel), vec_ready _ _ (by decide +kernel)⟩

theorem vecInt_ready : VecReady vecInt (sewOf vecInt.cur) := vec_ready _ _ (by decide +kernel)

theorem vec_vl : vlOf (vec id).cur = 2 ∧ vstartOf (vec id).cur = 0 ∧ body (vec id) 0 = true ∧ body (vec id) 1 = true := by
  and_intros <;> decide +kernel

theorem witness_VectorArithmetic : VecReady (vec id) (sewOf (vec id).cur) ∧ kindOf (vec id).cur = some .fp32 ∧ body (vec id) 1 = true ∧
    isFloat .i16 = false ∧ 0x8000 < 2 ^ Kind.i16.width ∧ intK .i16 0x8000 = -(2 ^ (Kind.i16.width - 1)) ∧ intK .i16 0xFFFF = -1 ∧
    isInt (vec id).cur = false ∧ sewOf (vec id).cur ≠ 64 := by
  refine ⟨vec_id_ready.1, ?_, vec_vl.2.2.2, ?_⟩ <;> and_intros <;> decide +kernel

theorem witness_VectorLogicAndMasks : VecReady (vec id) 16 ∧ VecReady vecInt (sewOf vecInt.cur) ∧ vlOf vecInt.cur ≤ 512 ∧
    kindOf vecInt.cur = some .i32 ∧ isInt vecInt.cur = true := by
  refine ⟨vec_id_ready.2, vecInt_ready, ?_⟩; and_intros <;> decide +kernel

theorem witness_VectorMovementOfElements : VecReady (vec id) (sewOf (vec id).cur) ∧ vstartOf (vec id).cur = 0 ∧
    kselOf (vec (ct (fun c => { c with ksel := 1 }))).cur ≠ 0 := by
  refine ⟨vec_id_ready.1, vec_vl.2.1, ?_⟩; decide +kernel

theorem witness_VectorReductions : VecReady (vec id) (sewOf (vec id).cur) ∧ vstartOf (vec id).cur = 0 ∧ 0 < vlOf (vec id).cur ∧
    kindOf (vec id).cur = some .fp32 := by
  refine ⟨vec_id_ready.1, vec_vl.2.1, ?_⟩; and_intros <;> decide +kernel

theorem witness_VectorMovesAndConversions : (Calm (vec id) ∧ (vec id).cur.vbad = [] ∧ (vec id).cur.chain = 0 ∧ lanesOf (vec id).cur ≠ 0) ∧
    (Calm edge ∧ edge.cur.vbad = [] ∧ edge.cur.chain = 0 ∧ lanesOf edge.cur = 0) ∧
    VecReady (vec id) (max (convKinds .bf16fp32).1.width (convKinds .bf16fp32).2.width) ∧ (Instr.vcvt 1 2 .bf16fp32).wellFormed = true := by
  refine ⟨⟨vec_id_ready.1.1, ?_⟩, ⟨edge_calm, ?_⟩, vec_ready _ _ ?_, ?_⟩ <;> and_intros <;> decide +kernel

/-- VTYPE with SEW 64 and KIND float, and other settings that instructions refuse. -/
theorem witness_VectorRefusals : kindOf (vec (ct (fun c => { c with vtype := 0x602 }))).cur = none ∧ isInt vecInt.cur = true ∧
    kselOf (vec id).cur = 0 ∧ (∃ s : State, s = vec (ct (fun c => { c with vl := 257 })) ∧ s.cur.pend = [] ∧ grantMax s.cur (sewOf s.cur) < vlOf s.cur) ∧
    (∃ s : State, s = vec (ct (fun c => { c with vstart := 1 })) ∧ s.cur.pend = [] ∧ vlOf s.cur ≤ grantMax s.cur (sewOf s.cur) ∧
      0 < vstartOf s.cur ∧ vstartOf s.cur < vlOf s.cur) := by
  refine ⟨?_, ?_, ?_, ⟨_, rfl, ?_⟩, ⟨_, rfl, ?_⟩⟩ <;> and_intros <;> decide +kernel

theorem witness_VectorDamage : ∃ s : State, s = vec (fun t => { t with vbad := [(3, 5)] }) ∧ Calm s ∧ s.cur.kbad = [] ∧ s.cur.elim = none ∧
    s.cur.vbad = [((3 : VReg).val, 5)] ∧ vlOf s.cur ≤ grantMax s.cur (sewOf s.cur) ∧ sewOf s.cur * vlOf s.cur ≤ 8192 ∧
    1 = 8 * 5 / sewOf s.cur ∧ body s 1 = true := by
  refine ⟨_, rfl, calm_intro _ ?_ ?_, ?_⟩ <;> and_intros <;> decide +kernel

/-! ### Vector memory -/

/-- Elements of the body, and of an access, lie below VL and below the count. -/
theorem body_lt (s : State) (e : Nat) (h : body s e = true) : e < vlOf s.cur := by
  simp [body] at h; exact h.1.2
theorem inAccess_lt (s : State) (m : VMode) (e : Nat) (h : inAccess s m e = true) : e < countOf s.cur m := by
  simp [inAccess] at h; exact h.1.2

theorem accessed_of (s : State) (f : Fmt) (k : Acc) (it : Item) (ls : List Loc) (c : Nat) (h1 : it.addr.toNat % ebytes f = 0)
    (h2 : xlatN s s.cur it.addr (ebytes f) k = .ok (ls, c)) (h3 : ls.all (fun l => !locFenced s l) = true) : Accessed s f k it ls :=
  ⟨h1, ⟨c, h2⟩, by simpa using h3⟩

theorem clean_of (s : State) (ls : List Loc) (h : ls.all (fun l => !poisoned s l) = true) : Clean s ls := by simpa [Clean] using h

/-- The places of the two elements. -/
def two (e : Nat) : List Loc := physLocs (0x15FF8 + 4 * e) 4

theorem memReady_of (f : Thread → Thread) (m : VMode) (h : VecReady (vec f) (sewOf (vec f).cur)) (h1 : countOf (vec f).cur m = vlOf (vec f).cur) :
    MemReady (vec f) m := by
  obtain ⟨a, b, c, d, e, f', g⟩ := h
  exact ⟨a, b, c, d, e, by rw [h1]; exact f', by rw [h1]; exact g⟩

theorem vec_counts : countOf (vec id).cur .unit = 2 ∧ countOf (vec id).cur .strided = 2 ∧ countOf (vec id).cur .tile = 2 := by
  and_intros <;> decide +kernel

theorem vec_mem_ready (m : VMode) : MemReady (vec id) m :=
  memReady_of _ _ vec_id_ready.1 (by rw [vec_vl.1]; cases m <;> simp [vec_counts])

theorem vec_accessed (m : VMode) (k : Acc) (hk : k = .load ∨ k = .store) (e : Nat) (h : e < 2) :
    Accessed (vec id) .fp32 k (vmItem (vec id) 1 .fp32 m 0 e) (two e) := by
  rcases (show e = 0 ∨ e = 1 by omega) with rfl | rfl <;> rcases hk with rfl | rfl <;> cases m <;>
    exact accessed_of _ _ _ _ _ 0 (by decide +kernel) (by decide +kernel) (by decide +kernel)

theorem vec_indexed (k : Acc) (hk : k = .load ∨ k = .store) (e : Nat) (h : e < 2) :
    Accessed (vec id) .fp32 k (idxItem (vec id) 1 .fp32 2 e) (two e) := by
  rcases (show e = 0 ∨ e = 1 by omega) with rfl | rfl <;> rcases hk with rfl | rfl <;>
    exact accessed_of _ _ _ _ _ 0 (by decide +kernel) (by decide +kernel) (by decide +kernel)

theorem vec_clean (e : Nat) (h : e < 2) : Clean (vec id) (two e) := by
  rcases (show e = 0 ∨ e = 1 by omega) with rfl | rfl <;> exact clean_of _ _ (by decide +kernel)

theorem witness_VectorLoads (m : VMode) : kindOf (vec id).cur = some .fp32 ∧ pairOk .fp32 (some .fp32) = true ∧ MemReady (vec id) m ∧
    VecReady (vec id) (sewOf (vec id).cur) ∧
    (∀ e, inAccess (vec id) m e = true → Accessed (vec id) .fp32 .load (vmItem (vec id) 1 .fp32 m 0 e) (two e) ∧ Clean (vec id) (two e)) ∧
    (∀ e, body (vec id) e = true → Accessed (vec id) .fp32 .load (idxItem (vec id) 1 .fp32 2 e) (two e) ∧ Clean (vec id) (two e)) := by
  refine ⟨by decide +kernel, by decide, vec_mem_ready m, vec_id_ready.1, fun e h => ?_, fun e h => ?_⟩
  · have hl : e < 2 := by
      have := inAccess_lt _ _ _ h
      cases m <;> simpa [vec_counts] using this
    exact ⟨vec_accessed m .load (.inl rfl) e hl, vec_clean e hl⟩
  · have hl : e < 2 := by simpa [vec_vl] using body_lt _ _ h
    exact ⟨vec_indexed .load (.inl rfl) e hl, vec_clean e hl⟩

theorem witness_VectorStores (m : VMode) : MemReady (vec id) m ∧ VecReady (vec id) (sewOf (vec id).cur) ∧
    (∀ e, inAccess (vec id) m e = true → Accessed (vec id) .fp32 .store (vmItem (vec id) 1 .fp32 m 0 e) (two e)) ∧
    (∀ e, body (vec id) e = true → Accessed (vec id) .fp32 .store (idxItem (vec id) 1 .fp32 2 e) (two e)) := by
  refine ⟨vec_mem_ready m, vec_id_ready.1, fun e h => ?_, fun e h => ?_⟩
  · have hl : e < 2 := by
      have := inAccess_lt _ _ _ h
      cases m <;> simpa [vec_counts] using this
    exact vec_accessed m .store (.inr rfl) e hl
  · exact vec_indexed .store (.inr rfl) e (by simpa [vec_vl] using body_lt _ _ h)

/-- Element 0 is the last word of the mapped page, element 1 lies beyond it; and both lie beyond it. -/
def cut : State := vec (sr 1 4092)
def out : State := vec (sr 1 4096)

theorem cut_ready : VecReady cut (sewOf cut.cur) ∧ VecReady out (sewOf out.cur) :=
  ⟨vec_ready _ _ (by decide +kernel), vec_ready _ _ (by decide +kernel)⟩

theorem cut_vl : vlOf cut.cur = 2 ∧ vlOf out.cur = 2 ∧ body cut 0 = true ∧ body cut 1 = true ∧ body out 0 = true := by
  and_intros <;> decide +kernel

theorem witness_VectorAccessFaults : kindOf cut.cur = some .fp32 ∧ VecReady cut (sewOf cut.cur) ∧ body cut 1 = true ∧
    (∀ e, body cut e = true → (vmItem cut 1 .fp32 .unit 0 e).addr.toNat % ebytes .fp32 = 0) ∧
    (∀ k ∈ [Acc.load, .store], xlatN cut cut.cur (vmItem cut 1 .fp32 .unit 0 1).addr (ebytes .fp32) k = .error (.miss, 4096)) ∧
    (∀ e, body cut e = true → e < 1 → Accessed cut .fp32 .load (vmItem cut 1 .fp32 .unit 0 e) (physLocs 0x15FFC 4) ∧ Clean cut (physLocs 0x15FFC 4)) ∧
    (∀ e, body cut e = true → e < 1 → Accessed cut .fp32 .store (vmItem cut 1 .fp32 .unit 0 e) (physLocs 0x15FFC 4)) ∧
    (∀ e, body cut e = true → ¬ 1 < e) ∧ (∃ e, body cut e = true ∧ e < 1) := by
  have hb : ∀ e, body cut e = true → e < 2 := fun e h => by simpa [cut_vl] using body_lt _ _ h
  refine ⟨by decide +kernel, cut_ready.1, cut_vl.2.2.2.1, fun e h => ?_, by decide +kernel, fun e _ h => ?_, fun e _ h => ?_, fun e h => ?_, ⟨0, cut_vl.2.2.1, by decide⟩⟩
  · rcases (show e = 0 ∨ e = 1 by have := hb e h; omega) with rfl | rfl <;> decide +kernel
  · obtain rfl : e = 0 := by omega
    exact ⟨accessed_of _ _ _ _ _ 0 (by decide +kernel) (by decide +kernel) (by decide +kernel), clean_of _ _ (by decide +kernel)⟩
  · obtain rfl : e = 0 := by omega
    exact accessed_of _ _ _ _ _ 0 (by decide +kernel) (by decide +kernel) (by decide +kernel)
  · have := hb e h; omega

theorem witness_VectorAccessFaults_first : VecReady out (sewOf out.cur) ∧ body out 0 = true ∧ (∀ e, e < 0 → body out e = false) ∧
    (∀ e, body out e = true → (vmItem out 1 .fp32 .unit 0 e).addr.toNat % ebytes .fp32 = 0) ∧
    xlatN out out.cur (vmItem out 1 .fp32 .unit 0 0).addr (ebytes .fp32) .load = .error (.miss, 4096) ∧
    (∀ e, body out e = true → xlatN out out.cur (vmItem out 1 .fp32 .unit 0 e).addr (ebytes .fp32) .load =
      .error (.miss, 4096 + BitVec.ofNat 64 (4 * e))) := by
  have hb : ∀ e, body out e = true → e < 2 := fun e h => by simpa [cut_vl] using body_lt _ _ h
  refine ⟨cut_ready.2, cut_vl.2.2.2.2, by simp, fun e h => ?_, by decide +kernel, fun e h => ?_⟩
  · rcases (show e = 0 ∨ e = 1 by have := hb e h; omega) with rfl | rfl <;> decide +kernel
  · rcases (show e = 0 ∨ e = 1 by have := hb e h; omega) with rfl | rfl <;> decide +kernel

theorem witness_VectorAccessFaults_indexed : (∀ e, body cut e = true → (idxItem cut 1 .fp32 2 e).addr.toNat % ebytes .fp32 = 0) ∧
    (∀ e, body cut e = true → ∀ k ∈ [Acc.load, .store], xlatN cut cut.cur (idxItem cut 1 .fp32 2 e).addr (ebytes .fp32) k =
      if e = 0 then .ok (physLocs 0x15FFC 4, 0) else .error (.miss, 4096)) := by
  have hb : ∀ e, body cut e = true → e < 2 := fun e h => by simpa [cut_vl] using body_lt _ _ h
  constructor <;> intro e h <;> rcases (show e = 0 ∨ e = 1 by have := hb e h; omega) with rfl | rfl <;> decide +kernel

theorem spans_of (s : State) (a : Word) (n : Nat) (k : Acc) (p : Nat → Loc)
    (h : (List.range n).all (fun j => (xlat s s.cur (spanAt a j) k).toOption.map (·.loc) == some (p j) && !locFenced s (p j)) = true) : Spans s a n k p := by
  intro j hj
  have := List.all_eq_true.mp h j (List.mem_range.mpr hj)
  simp only [Bool.and_eq_true, beq_iff_eq, Bool.not_eq_true'] at this
  refine ⟨?_, this.2⟩
  cases e : xlat s s.cur (spanAt a j) k with
  | error x => simp [e, Except.toOption] at this
  | ok x =>
    obtain ⟨l, c, r⟩ := x
    simp [e, Except.toOption] at this
    exact ⟨c, r, by rw [this.1]⟩

/-- A span of 64 bytes, in four parts. -/
theorem spans64_of (s : State) (a : Word) (k : Acc) (p : Nat → Loc)
    (h : ∀ q < 4, (List.range 16).all (fun j => (xlat s s.cur (spanAt a (16 * q + j)) k).toOption.map (·.loc) == some (p (16 * q + j)) &&
      !locFenced s (p (16 * q + j))) = true) : Spans s a 64 k p := by
  refine spans_of s a 64 k p (List.all_eq_true.mpr fun j hj => ?_)
  have := List.all_eq_true.mp (h (j / 16) (by have := List.mem_range.mp hj; omega)) (j % 16) (List.mem_range.mpr (Nat.mod_lt _ (by omega)))
  rwa [Nat.div_add_mod] at this

theorem witness_SpanAccesses : VecReady (vec id) 16 ∧ (reg (vec id) 1).toNat % 4 = 0 ∧
    Spans (vec id) (reg (vec id) 0) 64 .load (fun j => .phys (0x15000 + j)) ∧
    (∀ j, j < 64 → poisoned (vec id) (.phys (0x15000 + j)) = false) ∧ vlOf (vec id).cur ≤ 512 ∧
    Spans (vec id) (reg (vec id) 1 + 64 * (0 : BitVec 6).signExtend 64) ((vlOf (vec id).cur + 7) / 8) .load (fun j => .phys (0x15FF8 + j)) ∧
    Spans (vec id) (reg (vec id) 1 + 64 * (0 : BitVec 6).signExtend 64) ((vlOf (vec id).cur + 7) / 8) .store (fun j => .phys (0x15FF8 + j)) ∧
    poisoned (vec id) (.phys 0x15FF8) = false ∧ (∀ i j : Nat, i < j → Loc.phys (0x15FF8 + i) ≠ Loc.phys (0x15FF8 + j)) := by
  refine ⟨vec_id_ready.2, by decide +kernel, spans64_of _ _ _ _ fun q hq => ?_, by decide +kernel, by decide +kernel,
    spans_of _ _ _ _ _ (by decide +kernel), spans_of _ _ _ _ _ (by decide +kernel), by decide +kernel, fun i j h e => ?_⟩
  · rcases (show q = 0 ∨ q = 1 ∨ q = 2 ∨ q = 3 by omega) with rfl | rfl | rfl | rfl <;> decide +kernel
  · injection e with e; omega

theorem atomic_of (s : State) (a : Word) (n c : Nat) (ls : List Loc) (h1 : canonical a = true) (h2 : a.toNat % n = 0) (h3 : c ≠ 3)
    (h4 : xlatN s s.cur a n .store = .ok (ls, c)) (h5 : ls.all (fun l => !oneLost s l && !poisoned s l) = true) : AtomicAt s a n ls := by
  simp only [List.all_eq_true, Bool.and_eq_true, Bool.not_eq_true'] at h5
  exact ⟨h1, h2, ⟨c, h3, h4⟩, fun l h => (h5 l h).1, fun l h => (h5 l h).2⟩

theorem witness_Atomics_scalar : Calm inPage ∧ AtomicAt inPage (reg inPage 1) 4 (physLocs 0x15FF8 4) ∧
    AtomicAt inPage (reg inPage 1) 8 (physLocs 0x15FF8 8) ∧
    (∃ s : State, s = mm (sr 1 8191) ∧ Calm s ∧ AtomicAt s (reg s 1 >>> 1) 1 (physLocs 0x15FFF 1)) := by
  refine ⟨inPage_calm, atomic_of _ _ _ 0 _ ?_ ?_ ?_ ?_ ?_, atomic_of _ _ _ 0 _ ?_ ?_ ?_ ?_ ?_, ⟨_, rfl, calm_intro _ ?_ ?_, atomic_of _ _ _ 0 _ ?_ ?_ ?_ ?_ ?_⟩⟩ <;>
    decide +kernel

/-- Two integers, both at the last word of the page by their indices, or at the two last words. -/
theorem witness_Atomics_vector : VecReady vecInt (sewOf vecInt.cur) ∧ kindOf vecInt.cur = some .i32 ∧
    (∀ e, body vecInt e = true → (idxItem vecInt 1 .int32 2 e).addr.toNat % ebytes .int32 = 0 ∧
      (∃ q, q ≠ 3 ∧ xlatN vecInt vecInt.cur (idxItem vecInt 1 .int32 2 e).addr (ebytes .int32) .store = .ok (two e, q)) ∧
      (∀ l ∈ two e, locFenced vecInt l = false) ∧ Clean vecInt (two e)) ∧
    (∀ e e', e < 2 → e' < 2 → e ≠ e' → ∀ l ∈ two e, l ∉ two e') := by
  have hv : vlOf vecInt.cur = 2 := by decide +kernel
  refine ⟨vecInt_ready, by decide +kernel, fun e h => ?_, ?_⟩
  · have hl : e < 2 := by simpa [hv] using body_lt _ _ h
    rcases (show e = 0 ∨ e = 1 by omega) with rfl | rfl <;> refine ⟨?_, ⟨0, ?_⟩, ?_, clean_of _ _ ?_⟩ <;> and_intros <;> decide +kernel
  · intro e e' h h'
    rcases (show e = 0 ∨ e = 1 by omega) with rfl | rfl <;> rcases (show e' = 0 ∨ e' = 1 by omega) with rfl | rfl <;> decide

/-! ## Hypotheses of the claims about matrix instructions -/

/-- A thread with four matrix slots, 256 elements of a vector, and a map. -/
def mxT (m : NMap MapEntry) (f : Thread → Thread) (t : Thread) : Thread :=
  f { ct (fun c => { c with vl := 2, lanes := 8, vlcap := 9, vpitch := 256 }) t with map := m }
def mx (m : NMap MapEntry) (f : Thread → Thread) : State := { mm (mxT m f) with cores := [(0, { msplit := 4, lanepart := 8 })] }

/-- m1 holds slot 0, dirty; m2 is backed; every other register is zero. -/
def someMap : NMap MapEntry := [(1, { entry := .resident 0 true false }), (2, { entry := .backed })]

/-- The state a map step leaves. -/
def stepped (s : State) (ops : List (Nat × MAcc)) : State :=
  match planOf s ops with
  | some p => applyPlan p s
  | none => s

theorem folFree_of (s : State) (rs : List Nat) (h : s.cur.fols = []) : FolFree s rs := by simp [FolFree, h]
theorem folClear_of (s : State) (rs : List Nat) (h1 : s.cur.fols = []) (h2 : s.cur.folBad = []) : FolClear s rs := ⟨folFree_of s rs h1, by simp [h2]⟩

theorem mapped_of (s : State) (ops : List (Nat × MAcc)) (h1 : s.cur.fols = []) (h2 : s.cur.folBad = [])
    (h : ((planOf s ops).map fun p => (checkTiles s (ownTiles p.moves)).isNone) = some true) : Mapped s ops (stepped s ops) := by
  refine ⟨folClear_of _ _ h1 h2, ?_⟩
  cases e : planOf s ops with
  | none => simp [e] at h
  | some p => simp [e] at h; exact ⟨p, rfl, h, folFree_of _ _ h1, by simp [stepped, e]⟩

theorem span_of (s : State) (w n : Nat) (h1 : s.cur.pend = []) (h2 : depthOf s.cur = 0) (h3 : s.cur.vbad = []) (h4 : 0 < lanesOf s.cur)
    (h5 : n ≤ vlmax s.cur w) : SpanReady s w n := ⟨calm_intro _ h1 h2, h3, h4, h5⟩

theorem witness_OuterProducts : ∃ s : State, s = mx someMap id ∧ LegalShape s.cur ∧ (∀ m ∈ [(1 : MReg), 3], Mapped s [(m, .readWrite)] (stepped s [(m, .readWrite)]) ∧
      mBad (stepped s [(m, .readWrite)]) m (inShape s.cur) = none) ∧
    SpanReady s 16 (4 * max (rowsOf s.cur) (colsOf s.cur)) ∧ SpanReady s 32 (max (rowsOf s.cur) (colsOf s.cur)) := by
  refine ⟨_, rfl, ⟨?_, ?_, ?_, ?_⟩, fun m h => ⟨mapped_of _ _ ?_ ?_ ?_, ?_⟩, span_of _ _ _ ?_ ?_ ?_ ?_ ?_, span_of _ _ _ ?_ ?_ ?_ ?_ ?_⟩
  all_goals first | decide +kernel | (revert m; decide +kernel)

/-- A pack whose one thread runs on core 0 with 1 KiB of scratchpad. -/
def pack0 : Pack :=
  { id := 0, record := BitVec.ofNat 512 (3 + 2 ^ 16 + 2 ^ 24 + 2 ^ 48), asid := 0, src := ⟨0, 0, 0, 0, 0, false⟩, prio := 0, sett := 0
    members := [{ index := 0, frame := 0, pool := 0, core := 0, ctx := 0 }], state := .running, order := 0 }
def packed (s : State) : State := { s with packs := [pack0] }

/-- A core that no thread runs on beside a supervisor's, reserved for the scratchpad of a saved pack (R206, R333). -/
theorem witness_SpecialRegisterWrites_reserved : ∃ s : State, s = { sup (sr 1 256) with packs := [{ pack0 with state := .saved }] } ∧ Calm s ∧
    inSup s.cur = true ∧ ctlValid 0x801 (reg s 1) = true ∧ reg s 1 &&& (ctlMask 0x801).getD 0 ≠ (coreOf s (cidOf s.cur)).msplit ∧
    coreHolds s (cidOf s.cur) = false ∧ coreReserved s [] (cidOf s.cur) = true := by
  refine ⟨_, rfl, calm_intro _ ?_ ?_, ?_⟩ <;> and_intros <;> decide +kernel

theorem witness_Mmas : ∃ s : State, s = packed (mx someMap (ct (fun c => { c with mshape := 0x10101 }))) ∧ Calm s ∧ s.cur.elim = none ∧ LegalShape s.cur ∧
    mmasReserved (reg s 1) (reg s 2) = false ∧ mmasCheck s (mmasArgs s.cur.ctl.mshape (reg s 1) (reg s 2)) 0 1 = none ∧
    fld s.cur.ctl.mstart 0 7 = 0 ∧ max 0 (stepsOf s.cur) = 1 ∧
    Mapped s [(1, .readWrite)] (stepped s [(1, .readWrite)]) ∧ mBad (stepped s [(1, .readWrite)]) 1 (inShape s.cur) = none ∧
    mmasPoison (stepped s [(1, .readWrite)]) (cidOf s.cur) (mmasArgs s.cur.ctl.mshape (reg s 1) (reg s 2)) 0 = none := by
  refine ⟨_, rfl, calm_intro _ ?_ ?_, ?_, ?_, ?_, ?_, ?_, ?_, mapped_of _ _ ?_ ?_ ?_, ?_⟩ <;> and_intros <;> decide +kernel

/-- Four pages from address 0 mapped, for the backing tile of m0. -/
def backed (m : NMap MapEntry) (f : Thread → Thread) : State :=
  wrWord 0x14018 (BitVec.ofNat 64 (0x18000 + 15)) (wrWord 0x14010 (BitVec.ofNat 64 (0x17000 + 15)) (wrWord 0x14008 (BitVec.ofNat 64 (0x16000 + 15)) (mx m f)))

/-- A page of one arrangement, written to through `l`, stands in physical order. -/
theorem backPage_of (s : State) (b : Bool) (g a : Word) (pa x : Nat) (h : canonical a = true ∧ (windowOf {} a.toNat).isSome = false ∧
    walk s g a.toNat = .ok ⟨pa, true, true, 0, x⟩ ∧ mixed s ⟨pa, true, true, 0, x⟩ = false) : backPage s b g a = .ok (physLocs pa 4096) := by
  obtain ⟨h1, h2, h3, h4⟩ := h
  have e : arranged s ⟨pa, true, true, 0, x⟩ = fun i => .phys (pa + i) := by funext i; simp [arranged, h4]
  unfold backPage
  rw [h1, h2, h3]
  simp [leafLocs, e, physLocs]

theorem backed_places (m : NMap MapEntry) (b : Bool)
    (h : ∀ p < 4, backPage (backed m id) b (backed m id).cur.ctl.pgroot (backAddr (backed m id).cur 0 + BitVec.ofNat 64 (4096 * p)) =
      .ok (physLocs (0x15000 + 4096 * p) 4096)) :
    backPlaces (backed m id) b (backed m id).cur.ctl.pgroot (backAddr (backed m id).cur 0) =
      .ok (physLocs 0x15000 4096 ++ physLocs 0x16000 4096 ++ physLocs 0x17000 4096 ++ physLocs 0x18000 4096) := by
  simp only [backPlaces, show List.range 4 = [0, 1, 2, 3] from rfl, List.foldl_cons, List.foldl_nil, h 0 (by omega), h 1 (by omega), h 2 (by omega),
    h 3 (by omega), List.nil_append]

theorem physLocs_join (pa m n : Nat) : physLocs pa m ++ physLocs (pa + m) n = physLocs pa (m + n) := by
  simp only [physLocs, List.range_add, List.map_append, List.map_map]
  congr 1
  apply List.map_congr_left
  intro i _
  simp [Nat.add_assoc]

theorem physLocs_nodup (pa n : Nat) : (physLocs pa n).Nodup := by
  refine List.Nodup.map (fun i j h => ?_) (List.nodup_range)
  injection h with h; omega

/-- m0 holds slot 0, dirty. -/
def held0 : NMap MapEntry := [(0, { entry := .resident 0 true false })]

theorem held0_places : backPlaces (backed held0 id) true (backed held0 id).cur.ctl.pgroot (backAddr (backed held0 id).cur (0 : MReg).val) = .ok (physLocs 0x15000 16384) := by
  rw [show physLocs 0x15000 16384 = physLocs 0x15000 4096 ++ physLocs 0x16000 4096 ++ physLocs 0x17000 4096 ++ physLocs 0x18000 4096 by
    rw [physLocs_join 0x15000, physLocs_join 0x15000, physLocs_join 0x15000]]
  have h : ∀ p < 4, canonical (backAddr (backed held0 id).cur 0 + BitVec.ofNat 64 (4096 * p)) = true ∧
      (windowOf {} (backAddr (backed held0 id).cur 0 + BitVec.ofNat 64 (4096 * p)).toNat).isSome = false ∧
      walk (backed held0 id) (backed held0 id).cur.ctl.pgroot (backAddr (backed held0 id).cur 0 + BitVec.ofNat 64 (4096 * p)).toNat =
        .ok ⟨0x15000 + 4096 * p, true, true, 0, 0⟩ ∧
      mixed (backed held0 id) ⟨0x15000 + 4096 * p, true, true, 0, 0⟩ = false := by decide +kernel
  exact backed_places held0 true fun p hp => backPage_of _ _ _ _ _ 0 (h p hp)

theorem held0_unfenced : ∀ l ∈ physLocs 0x15000 16384, locFenced (backed held0 id) l = false := by
  intro l hl
  obtain ⟨i, hi, rfl⟩ := List.mem_map.mp hl
  have hp : (0x15000 + i) / 2 ^ 49 = 0 ∧ (0x15000 + i) / 2 ^ 39 = 0 := by have := List.mem_range.mp hi; omega
  have hi0 : (backed held0 id).pkg.index = 0 := by decide +kernel
  simp only [locFenced, paFenced, paPkg, hp.1, hp.2, if_true, hi0]; rfl

theorem witness_MapInstructions : ∃ s : State, s = backed held0 id ∧ Calm s ∧ FolClear s [(0 : MReg).val] ∧ rowsOf s.cur = 64 ∧ colsOf s.cur = 64 ∧
    entryOf s.cur.map (3 : MReg) = .zero ∧ slotOf s.cur.map (0 : MReg) = some (0, true, false) ∧
    Mapped s [(0, .read), (3, .full)] (stepped s [(0, .read), (3, .full)]) ∧ mBad (stepped s [(0, .read), (3, .full)]) (0 : MReg) (fun _ => true) = none ∧
    (heldSlots s.cur.map).filter (·.reg == (0 : MReg).val) = [⟨0, 0, true, false, 0, 0⟩] ∧
    (∀ h ∈ heldSlots s.cur.map, h.reg ≠ (3 : MReg).val) ∧
    (physLocs 0x15000 16384).Nodup ∧ (∀ l ∈ physLocs 0x15000 16384, locFenced s l = false) ∧ s.cur.fols = [] ∧ s.cur.folBad = [] := by
  refine ⟨_, rfl, calm_intro _ ?_ ?_, folClear_of _ _ ?_ ?_, ?_, ?_, ?_, ?_, mapped_of _ _ ?_ ?_ ?_, ?_, ?_, ?_, physLocs_nodup _ _, ?_, ?_, ?_⟩
  all_goals first | exact held0_unfenced | decide +kernel

/-- A smaller shape, and a register that is backed by mapped pages. -/
theorem witness_MapInstructions_backed : ∃ s : State, s = backed [(0, { entry := .backed })] (ct (fun c => { c with mshape := 0x10101 })) ∧ Calm s ∧
    (rowsOf s.cur ≠ 64 ∨ colsOf s.cur ≠ 64) ∧ Mapped s [(1, .partial')] (stepped s [(1, .partial')]) ∧
    entryOf s.cur.map (0 : MReg) = .backed ∧
    (planOf s [(0, .read)]).map (fun p => (checkTiles s (ownTiles p.moves)).isNone) = some true ∧
    (planOf s [(1, .fillFrom 0)]).map (fun p => (checkTiles s (ownTiles (dropPlan 0 p).moves)).isNone) = some true ∧
    (planOf (mx [(2, { entry := .backed })] id) [(2, .read)]).map (fun p =>
      (checkTiles (mx [(2, { entry := .backed })] id) (ownTiles p.moves)).isSome) = some true := by
  refine ⟨_, rfl, calm_intro _ ?_ ?_, .inl ?_, mapped_of _ _ ?_ ?_ ?_, ?_⟩ <;> and_intros <;> decide +kernel


/-! ## Hypotheses of the claims about attention, token merging and the heap -/

/-- The three words of an attention group at addresses 0, 4 and 8: key m0, value m1, accumulator m2, o3. -/
def words3 (z : Bool) (s : State) : State :=
  wrPhys 0x15008 4 ((encode (.atac 2 1 false 3)).getD 0) (wrPhys 0x15004 4 ((encode (.atex 3)).getD 0)
    (wrPhys 0x15000 4 ((encode (if z then .atscBias 0 4 5 6 else .atsc 0 4 5)).getD 0) s))
def grouped (z : Bool) (f : Thread → Thread) : State := words3 z (mx [(2, { entry := .resident 0 true false })] f)

theorem witness_Attention_start (z : Bool) : ∃ s : State, s = grouped z id ∧ Calm s ∧ LegalShape s.cur ∧ s.cur.elim = none ∧ s.cur.vbad = [] ∧ s.cur.kbad = [] ∧
    vstartOf s.cur < vlOf s.cur ∧ 0 < lanesOf s.cur ∧ vlOf s.cur ≤ 64 ∧ 2 ^ segOf s.cur = 1 ∧ 2 * colsOf s.cur ≤ vlmax s.cur 32 ∧ 3 + 2 ≤ 8 ∧
    Mapped s [(0, .read), (1, .read), (2, .readWrite)] (stepped s [(0, .read), (1, .read), (2, .readWrite)]) ∧
    (∀ m ∈ [0, 1, 2], mBad (stepped s [(0, .read), (1, .read), (2, .readWrite)]) m (fun _ => true) = none) ∧
    formGroup (own (if z then .atscBias 0 4 5 6 else .atsc 0 4 5)) 0 s =
      .ok ((encode (.atex 3)).getD 0, (encode (.atac 2 1 false 3)).getD 0, 3, 2, 1) := by
  cases z
  all_goals
    refine ⟨_, rfl, calm_intro _ ?_ ?_, ?_, ?_, ?_, ?_, ?_, ?_, ?_, ?_, ?_, ?_, mapped_of _ _ ?_ ?_ ?_, ?_⟩ <;> and_intros <;> decide +kernel

/-- A group of one head whose scores are there. -/
def group1 (last : Nat) : Group := ⟨0, 0, 0, 0, 0, last, 1, .request, [0x3F800000], [⟨0, true, false, [0x3F800000]⟩], 0⟩

theorem witness_Attention_rest : ∃ s : State, s = grouped false (fun t => { t with grp := some (group1 1), pc := 4 }) ∧ Calm s ∧ s.cur.grp = some (group1 1) ∧
    s.cur.pc = (group1 1).addr + 4 ∧ (group1 1).first ≤ (group1 1).last ∧ 3 + (group1 1).last ≤ 8 := by
  refine ⟨_, rfl, calm_intro _ ?_ ?_, ?_⟩ <;> and_intros <;> decide +kernel

theorem witness_Attention_end : ∃ s : State, s = grouped false (fun t => { t with grp := some (group1 1), pc := 8 }) ∧ Calm s ∧
    s.cur.pc = (group1 1).addr + 8 ∧ isResident s.cur.map (2 : MReg) = true ∧ (group1 1).first + (group1 1).heads.length ≤ 64 ∧
    (group1 1).total ≤ (group1 1).last ∧ (group1 0).last < (group1 0).total ∧ (group1 0).stop = .request := by
  refine ⟨_, rfl, calm_intro _ ?_ ?_, ?_⟩ <;> and_intros <;> decide +kernel

theorem witness_TopK : VecReady vecInt (sewOf vecInt.cur) ∧ vstartOf vecInt.cur = 0 ∧ 0 < vlOf vecInt.cur ∧ kindOf vecInt.cur = some .i32 := by
  refine ⟨vecInt_ready, ?_⟩; and_intros <;> decide +kernel

/-- A thread with a managed page of 1 GiB: the region of address WBASE has colour 1 and serves; h2 names its first granule. -/
def heapT (f : Thread → Thread) (t : Thread) : Thread :=
  f { ct (fun c => { c with hreg := 0x1B000, vl := 2, lanes := 8, vlcap := 9, mshape := 0x10202 }) t with h := t.h.set 2 0x10F8000000000000 }
def heap (f : Thread → Thread) : State :=
  let s := mm (heapT f)
  let s := wrWord 0x107C0 0x16001 s
  let s := wrWord 0x16000 0x17001 s
  let s := wrWord 0x17000 0x4000008B s
  let s := wrWord 0x1B000 0x1001000000000000 s
  { s with cores := [(0, { msplit := 4, lanepart := 8 })] }

def href : Word := 0x10F8000000000000

theorem heap_calm : Calm (heap id) := calm_intro _ (by decide +kernel) (by decide +kernel)
theorem heap_resolves : ∀ u ∈ [Use.load, .store, .heal], resolveT (heap id) href u = .ok href Config.wbase false := by decide +kernel

theorem witness_BarrierFastPath : href ≠ 0 ∧ fld href 57 3 = 0 ∧ fld href 0 4 = 0 ∧ inManaged (refAddr href) = true ∧
    badPhys (heap id) (regionPa (heap id).cur.ctl.hreg ((refAddr href - Config.wbase) / 2 ^ 30)) 16 = false ∧
    regionOf (heap id) (cidOf (heap id).cur) (heap id).cur.ctl.hreg 0 = some ⟨1, [], 1, 0⟩ ∧ fld href 60 4 = 1 ∧
    fld 0x20F8000000000000 60 4 ∉ ([] : List Nat) ∧
    regionOf (heap (ct (fun c => { c with hreg := 0x17000 }))) 0 0x17000 0 = none ∧ regionOf (heap id) 0 0x1C000 0 = some ⟨0, [], 0, 0⟩ := by
  and_intros <;> decide +kernel

/-- The last doubleword of the managed page. -/
def lastEa : Word := BitVec.ofNat 64 Config.wbase + BitVec.ofInt 64 (4088 : BitVec 13).toInt

theorem witness_HeapAccesses : Calm (heap id) ∧ hreg (heap id).cur 2 = href ∧
    heapRead (heap id) href lastEa (ldBytes .d) .load = .ok (physLocs 0x40000FF8 8) ∧ heapPlaces (heap id) href lastEa (stBytes .d) .store = .ok (physLocs 0x40000FF8 8) ∧
    heapRead (heap id) href lastEa 8 .store = .ok (physLocs 0x40000FF8 8) ∧ valueAt (heap id) (physLocs 0x40000FF8 8) = 0 ∧ healed (heap id) 0 = 0 ∧
    sameObject (heap id) 0 (hreg (heap id).cur 4) = some true ∧ sameObject (heap id) 0 (hreg (heap id).cur 2) = some false := by
  refine ⟨heap_calm, ?_⟩; and_intros <;> decide +kernel

/-- The region also serves colour 2, and the page holds a reference of that colour. -/
def oldHeap : State := wrWord 0x40000008 0x20F8000000000000 (wrWord 0x1B000 0x1205000000000000 (heap id))

theorem witness_HeapAccesses_heal : resolveT oldHeap href .load = .ok href Config.wbase false ∧
    heapRead oldHeap href (BitVec.ofNat 64 Config.wbase + BitVec.ofInt 64 (8 : BitVec 13).toInt) 8 .load = .ok (physLocs 0x40000008 8) ∧
    valueAt oldHeap (physLocs 0x40000008 8) = 0x20F8000000000000 ∧ healed oldHeap 0x20F8000000000000 = href ∧
    heapPlaces oldHeap href (BitVec.ofNat 64 Config.wbase + BitVec.ofInt 64 (8 : BitVec 13).toInt) 8 .store = .ok (physLocs 0x40000008 8) := by
  and_intros <;> decide +kernel

theorem heap_vec : VecReady (heap id) (sewOf (heap id).cur) := by
  refine ⟨heap_calm, ?_⟩; and_intros <;> decide +kernel

theorem witness_HeapAccesses_vector : VecReady (heap id) (sewOf (heap id).cur) ∧ kindOf (heap id).cur = some .fp32 ∧
    ∀ e, body (heap id) e = true → (∀ k ∈ [Acc.load, .store],
      HeapElement (heap id) .fp32 k (itemAt e (8 * ((Config.wbase : Int) + (4088 : BitVec 13).toInt) + e * esz .fp32)) (physLocs (0x40000FF8 + 4 * e) 4)) ∧
      Clean (heap id) (physLocs (0x40000FF8 + 4 * e) 4) := by
  refine ⟨heap_vec, by decide +kernel, fun e h => ?_⟩
  have hv : vlOf (heap id).cur = 2 := by decide +kernel
  have := body_lt _ _ h
  rw [hv] at this
  rcases (show e = 0 ∨ e = 1 by omega) with rfl | rfl <;> refine ⟨fun k hk => ⟨?_, ?_, ?_⟩, clean_of _ _ ?_⟩ <;>
    first | decide +kernel | (revert k; decide +kernel)

/-- The header of the object, and the same with all pins taken. -/
def pinned (n : Word) : State := wrWord 0x40000000 (n <<< 32) (heap id)

theorem witness_PinsHealsAndAllocation : Calm (heap id) ∧ resolveT (heap id) href .heal = .ok href Config.wbase false ∧
    heapRead (heap id) href (BitVec.ofNat 64 Config.wbase) 8 .store = .ok (physLocs 0x40000000 8) ∧
    fld (BitVec.ofNat 64 (valueAt (heap id) (physLocs 0x40000000 8))) 32 16 = 0 ∧
    (resolveT (pinned 65535) href .heal = .ok href Config.wbase false ∧
      heapRead (pinned 65535) href (BitVec.ofNat 64 Config.wbase) 8 .store = .ok (physLocs 0x40000000 8) ∧
      fld (BitVec.ofNat 64 (valueAt (pinned 65535) (physLocs 0x40000000 8))) 32 16 = 65535) ∧
    hreg (heap id).cur 0 = 0 ∧ hreg (heap id).cur 2 ≠ 0 ∧ Flat (heap id) ∧
    (∃ s : State, s = heap (fun t => { t with wait := some (.hheal 2) }) ∧ Calm s ∧ resolveT s href .heal = .ok href Config.wbase false ∧ s.cur.wait = some (.hheal 2)) ∧
    (∃ s : State, s = heap (fun t => { t with wait := some (.hpin 1 2) }) ∧ Calm s ∧ s.cur.wait = some (.hpin 1 2)) := by
  refine ⟨heap_calm, heap_resolves _ (by decide), ?_, ?_, ?_, ?_, ?_, ⟨?_, .inr ?_⟩, ⟨_, rfl, calm_intro _ ?_ ?_, ?_⟩, ⟨_, rfl, calm_intro _ ?_ ?_, ?_⟩⟩ <;> and_intros <;>
    decide +kernel

/-- Room for 256 granules and no more. -/
theorem witness_Room : ∃ s : State, s = heap (ct (fun c => { c with habuf := 0x00F8000000000000, halim := 0x00F8000000001000 })) ∧ Calm s ∧
    Room s 256 ⟨1, [], 1, 0⟩ (physLocs 0x40000000 16) := by
  refine ⟨_, rfl, calm_intro _ ?_ ?_, ?_⟩ <;> and_intros <;> decide +kernel

/-- A merge map of two tokens of which one merges, as the object h2 names. -/
def mapped2 : State := wrWord 0x40000010 (1 + 2 * 2 ^ 32 + 2 ^ 40) (wrWord 0x40000000 22 (heap id))
def theMap : MMap := mapOf (leBytes 16 22 ++ leBytes 8 (1 + 2 * 2 ^ 32 + 2 ^ 40) ++ List.replicate 328 0)
def matched : State := stepped mapped2 [(0, .read)]
/-- The places TMATCH stores to: bytes 16 to 23 and 32 to 351 of the map. -/
def places2 : List (List Loc) :=
  (List.range 44).map fun k => if k < 2 || k = 3 then [] else physLocs (0x40000000 + 8 * k) 8

theorem mapped2_reads : readMap mapped2 href = .ok (href, Config.wbase, theMap) := by decide +kernel
theorem mapped2_places : matchPlaces matched href Config.wbase = .ok places2 := by decide +kernel

theorem places2_nodup : places2.flatten.Nodup :=
  (physLocs_nodup 0x40000000 352).sublist (List.isSublist_iff_sublist.mp (by decide +kernel))

theorem witness_Matching : Calm mapped2 ∧ LegalShape mapped2.cur ∧ hreg mapped2.cur 2 = href ∧ rowsOf mapped2.cur ≤ 32 ∧ colsOf mapped2.cur = rowsOf mapped2.cur ∧
    (reg mapped2 1).toNat ≤ rowsOf mapped2.cur ∧ matchParent mapped2 href = .ok none ∧ resolveT mapped2 href .store = .ok href Config.wbase false ∧
    Mapped mapped2 [(0, .read)] matched ∧
    mBad matched (0 : MReg) (fun e => decide (e / 64 < 2) && decide (e % 64 < 2)) = none := by
  refine ⟨calm_intro _ ?_ ?_, ?_, ?_, ?_, ?_, ?_, ?_, ?_, mapped_of _ _ ?_ ?_ ?_, ?_⟩ <;> and_intros <;> decide +kernel

theorem witness_Merging : usable theMap = true ∧ parentOk none theMap.nin = true ∧
    Mapped mapped2 [(1, .read), (0, .full)] (stepped mapped2 [(1, .read), (0, .full)]) ∧
    mBad (stepped mapped2 [(1, .read), (0, .full)]) (1 : MReg) (fun e => decide (e / 64 < 2) && decide (e % 64 < 2)) = none ∧
    chainOf mapped2 64 theMap = .ok (some [theMap]) := by
  refine ⟨?_, ?_, mapped_of _ _ ?_ ?_ ?_, ?_⟩ <;> and_intros <;> decide +kernel

/-- A block table of one block at the object h2 names: 16 tokens to a block, 16 bytes each, from byte 16. -/
def tabled : State := wrWord 0x40000020 0x10F8000000000100 (wrWord 0x40000010 (1 + 16 * 2 ^ 32 + 16 * 2 ^ 48) (heap id))

theorem witness_Setvlr : Calm tabled ∧ resolveT tabled href .load = .ok href Config.wbase false ∧
    tableRead tabled href (Config.wbase + 16) = .ok (1 + 16 * 2 ^ 32 + 16 * 2 ^ 48) ∧ tableRead tabled href (Config.wbase + 24) = .ok 0 ∧
    tableShape (1 + 16 * 2 ^ 32 + 16 * 2 ^ 48) 0 = some (16, 16) ∧ 0 / 16 < fld (1 + 16 * 2 ^ 32 + 16 * 2 ^ 48) 0 32 ∧
    tableRead tabled href (Config.wbase + 32) = .ok 0x10F8000000000100 ∧
    resolveT tabled 0x10F8000000000100 .load = .ok 0x10F8000000000100 (Config.wbase + 256) false := by
  refine ⟨calm_intro _ ?_ ?_, ?_⟩ <;> and_intros <;> decide +kernel

/-- Two elements of a one-row matrix, at the end of the mapped page. -/
def tile2 : State := mx someMap (fun t => sr 2 4 (sr 1 4088 (ct (fun c => { c with mshape := 0x10201 }) t)))
def item2 (e : Nat) : Item := ⟨e, reg tile2 1 + BitVec.ofNat 64 (e / 2) * tile2.cur.ctl.vpitch + BitVec.ofNat 64 (e % 2) * reg tile2 2, 0⟩

theorem witness_Tiles : Calm tile2 ∧ tile2.cur.elim = none ∧ LegalShape tile2.cur ∧ eprogOf tile2.cur = 0 ∧ rowsOf tile2.cur * colsOf tile2.cur = 2 ∧
    (∀ e, e < 2 → (item2 e).addr.toNat % ebytes .fp32 = 0) ∧ Mapped tile2 [(1, .full)] (stepped tile2 [(1, .full)]) ∧
    Mapped tile2 [(1, .read)] (stepped tile2 [(1, .read)]) ∧
    (∀ e, e < 2 → Accessed (stepped tile2 [(1, .full)]) .fp32 .load (item2 e) (two e) ∧ Clean (stepped tile2 [(1, .full)]) (two e)) ∧
    (∀ e, e < 2 → Accessed (stepped tile2 [(1, .read)]) .fp32 .store (item2 e) (two e)) ∧
    (∀ e, e < 2 → mBad (stepped tile2 [(1, .read)]) (1 : MReg) (· == 64 * (e / 2) + e % 2) = none) := by
  refine ⟨calm_intro _ ?_ ?_, ?_, ⟨?_, ?_, ?_, ?_⟩, ?_, ?_, ?_, mapped_of _ _ ?_ ?_ ?_, mapped_of _ _ ?_ ?_ ?_, fun e h => ?_, fun e h => ?_, fun e h => ?_⟩
  any_goals decide +kernel
  · rcases (show e = 0 ∨ e = 1 by omega) with rfl | rfl <;>
      exact ⟨accessed_of _ _ _ _ _ 0 (by decide +kernel) (by decide +kernel) (by decide +kernel), clean_of _ _ (by decide +kernel)⟩
  · rcases (show e = 0 ∨ e = 1 by omega) with rfl | rfl <;>
      exact accessed_of _ _ _ _ _ 0 (by decide +kernel) (by decide +kernel) (by decide +kernel)
  · rcases (show e = 0 ∨ e = 1 by omega) with rfl | rfl <;> decide +kernel

theorem witness_Rows : Calm tile2 ∧ LegalShape tile2.cur ∧ tile2.cur.vbad = [] ∧ 0 < lanesOf tile2.cur ∧ (reg tile2 0).toNat < 16 ∧
    colsOf tile2.cur ≤ vlmax tile2.cur 32 ∧ 4 * rowsOf tile2.cur ≤ vlmax tile2.cur 16 ∧
    Mapped tile2 [(1, .partial')] (stepped tile2 [(1, .partial')]) ∧
    mBad (stepped tile2 [(1, .read)]) (1 : MReg) (fun e => e / 64 == 0 && decide (e % 64 < 2)) = none ∧
    mBad (stepped tile2 [(1, .read)]) (1 : MReg) (fun e => decide (e / 64 < 1) && e % 64 / 4 == 0) = none := by
  refine ⟨calm_intro _ ?_ ?_, ?_, ?_, ?_, ?_, ?_, ?_, mapped_of _ _ ?_ ?_ ?_, ?_⟩ <;> and_intros <;> decide +kernel

/-! ## Hypotheses of the claims about sync words, commands and relocation -/

/-- A thread of a pack that holds the scratchpad of core 0; its first byte is byte 65,536 of the matrix store. -/
def scr (f : Thread → Thread) : State := packed (mx someMap f)
/-- The sync word at the start of the scratchpad: TARGET, COUNT, GEN and FLAGS. -/
def synced (target count gen flags : Nat) (f : Thread → Thread) : State :=
  hdrWr 0 65536 16 (target + count * 2 ^ 32 + gen * 2 ^ 64 + flags * 2 ^ 96) (scr (fun t => f (sr 1 0x00FF000000000000 t)))

theorem synced_at (target count gen flags : Nat) (h : syncWord (synced target count gen flags id) (reg (synced target count gen flags id) 1) = .ok (0, 65536) ∧
      (synced target count gen flags id).cur.pend = [] ∧ depthOf (synced target count gen flags id).cur = 0) :
    Calm (synced target count gen flags id) ∧ syncWord (synced target count gen flags id) (reg (synced target count gen flags id) 1) = .ok (0, 65536) :=
  ⟨calm_intro _ h.2.1 h.2.2, h.1⟩

theorem witness_SyncWords_arm : syncWord (synced 0 0 0 0 id) (reg (synced 0 0 0 0 id) 1) = .ok (0, 65536) ∧ hdrRd (synced 0 0 0 0 id) 0 65536 4 = 0 ∧
    (syncWord (synced 8 1 0 1 id) (reg (synced 8 1 0 1 id) 1) = .ok (0, 65536) ∧ hdrRd (synced 8 1 0 1 id) 0 65536 4 ≠ 0 ∧
      wbit (flagsRd (synced 8 1 0 1 id) 0 65536) 0 = true ∧ hdrRd (synced 8 1 0 1 id) 0 (65536 + 4) 4 ≠ 0) ∧
    (hdrRd (synced 8 0 0 128 id) 0 65536 4 ≠ 0 ∧ wbit (flagsRd (synced 8 0 0 128 id) 0 65536) 0 = false ∧ fld (flagsRd (synced 8 0 0 128 id) 0 65536) 7 9 ≠ 0) ∧
    (hdrRd (synced 8 0 0 0 id) 0 65536 4 ≠ 0 ∧ fld (flagsRd (synced 8 0 0 0 id) 0 65536) 24 6 = 0 ∧ fld (flagsRd (synced 8 0 0 0 id) 0 65536) 7 9 = 0 ∧
      wbit (flagsRd (synced 8 0 0 0 id) 0 65536) 31 = false) := by
  and_intros <;> decide +kernel

theorem witness_SyncWords_wait : Ahead (hdrRd (synced 8 0 1 0 id) 0 (65536 + 8) 4) (reg (synced 8 0 1 0 id) 2) ∧
    wbit (flagsRd (synced 8 0 0 4 id) 0 65536) 2 = true ∧
    ¬ (Ahead (hdrRd (synced 8 0 0 0 id) 0 (65536 + 8) 4) (reg (synced 8 0 0 0 id) 2) ∨ wbit (flagsRd (synced 8 0 0 0 id) 0 65536) 2 = true) ∧
    (∃ s : State, s = synced 8 0 1 0 (fun t => { t with wait := some (.swait 2 1) }) ∧ Calm s ∧ syncWord s (reg s 1) = .ok (0, 65536) ∧
      s.cur.wait = some (.swait 2 1)) := by
  refine ⟨⟨?_, ?_⟩, ?_, fun h => ?_, ⟨_, rfl, calm_intro _ ?_ ?_, ?_, ?_⟩⟩
  case refine_4 =>
    rcases h with h | h
    · exact absurd h.1 (by decide +kernel)
    · exact absurd h (by decide +kernel)
  all_goals decide +kernel

/-- A pack of two threads of which one has arrived. -/
def pair (f : Thread → Thread) : State :=
  { one f with packs := [{ pack0 with members := pack0.members ++ [{ index := 1, frame := 1, pool := 0, core := 0, ctx := 1 }] }], others := [{ live := true, frame := 1, ctx := 1, barCount := 1 }] }

theorem witness_Barriers : (Calm (pair id) ∧ barPassed (onThread (fun t => { t with barCount := 1 }) (pair id)) 1 = true) ∧
    (∃ s : State, s = pair (fun t => { t with barCount := 1, barWait := true, wait := some .bar }) ∧ Calm s ∧ s.cur.wait = some .bar ∧ s.cur.barWait = true ∧
      barPassed s s.cur.barCount = true) ∧
    (∃ s : State, s = pair (fun t => { t with barCount := 1 }) ∧ Calm s ∧ barPassed (onThread (fun t => { t with barCount := 2 }) s) 2 = false) := by
  refine ⟨⟨calm_intro _ ?_ ?_, ?_⟩, ⟨_, rfl, calm_intro _ ?_ ?_, ?_⟩, ⟨_, rfl, calm_intro _ ?_ ?_, ?_⟩⟩ <;> and_intros <;> decide +kernel

/-- Queue 0 of 16 places at 0x1D000, open to the device or to the host, with a head and a tail. -/
def queued (word1 : Word) (head tail : Word) (en : List Nat) (f : Thread → Thread) : State :=
  let s := wrWord 0x1C018 tail (wrWord 0x1C010 head (wrWord 0x1C008 word1 (wrWord 0x1C000 0x1D000 (mm f))))
  { s with pkg := { s.pkg with qt := some 0x1C000, enabled := en } }

theorem witness_Spawn : ∃ s : State, s = queued 0x24 0 0 [0] id ∧ Calm s ∧ canonical (reg s 0) = true ∧ (reg s 0).toNat % 64 = 0 ∧
    xlatN s s.cur (reg s 0) 64 .load = .ok (physLocs 0x15000 64, 0) ∧ (∀ l ∈ physLocs 0x15000 64, locFenced s l = false) ∧ Clean s (physLocs 0x15000 64) ∧
    Open s (0 : Fin 1024).val s.cur.ctl.pgroot ∧
    appendOk (queued 0x64 0 0 [0] id) 0 0 = false ∧ appendOk (queued 0x24 0 16 [0] id) 0 0 = true ∧ appendWaits (queued 0x24 0 16 [0] id) 0 = true ∧
    (∃ u : State, u = queued 0x24 0 0 [0] (fun t => { t with wait := some (.spawn 0 0), spawned := some 0 }) ∧ Calm u ∧ u.cur.wait = some (.spawn 0 0) ∧
      u.cur.spawned = some 0 ∧ Open u (0 : Fin 1024).val u.cur.ctl.pgroot) := by
  refine ⟨_, rfl, calm_intro _ ?_ ?_, ?_, ?_, ?_, ?_, clean_of _ _ ?_, ?_, ?_, ?_, ?_, ⟨_, rfl, calm_intro _ ?_ ?_, ?_⟩⟩ <;> and_intros <;> decide +kernel

theorem witness_End : (∃ s : State, s = pair id ∧ Calm s ∧ Drained s ∧ s.cur.live = true ∧ ∃ p, packOf s s.cur.pack = some p) ∧
    (∃ s : State, s = pair (fun t => { t with wait := some .endThread }) ∧ Drained s ∧ s.cur.wait = some .endThread) ∧ (¬ Drained busy ∧ busy.cur.folBad = []) := by
  refine ⟨⟨_, rfl, calm_intro _ ?_ ?_, ?_, ?_, ⟨_, rfl⟩⟩, ⟨_, rfl, ?_⟩, ⟨fun h => absurd h.1 (by decide), ?_⟩⟩ <;> and_intros <;> decide +kernel

/-- s8 to s15: a command that copies 64 bytes from address 0 to address 2,048. -/
def copyRegs (t : Thread) : Thread := sr 11 64 (sr 10 2048 t)

theorem witness_CopyCommands : ∃ s : State, s = mm copyRegs ∧ Calm s ∧ s.cur.sett < 4 ∧ badCmd .cpy (cmdWords .s8 s) = false ∧ badAddr s .cpy (cmdWords .s8 s) = false ∧
    (settOf s s.cur.sett).cmds.length < 256 ∧ badCmd .cpy (cmdWords .s16 s) = true ∧
    (∃ u : State, u = mm (fun t => sr 9 (2 ^ 60) (copyRegs t)) ∧ badCmd .cpy (cmdWords .s8 u) = false ∧ badAddr u .cpy (cmdWords .s8 u) = true) ∧
    inSup s.cur = false := by
  refine ⟨_, rfl, calm_intro _ ?_ ?_, ?_, ?_, ?_, ?_, ?_, ⟨_, rfl, ?_⟩, ?_⟩ <;> and_intros <;> decide +kernel

/-- The same with the word of an MMAS of m1 as its follow-on. -/
def folRegs (t : Thread) : Thread := sr 15 (BitVec.ofNat 64 ((encode (.mmas 1 0 0)).getD 0)) (copyRegs (ct (fun c => { c with mshape := 0x10101 }) t))

theorem witness_FollowOns : ∃ s : State, s = scr folRegs ∧ Calm s ∧ badCmd .cpym (cmdWords .s8 s) = false ∧ badAddr s .cpym (cmdWords .s8 s) = false ∧
    folInstr s (fld (cmdWords .s8 s)[7] 0 32) = some (.mmas 1 0 0) ∧ s.cur.fols.length < 4 ∧ folCheck s (.mmas 1 0 0) = none ∧
    Mapped s (folOps (.mmas 1 0 0)) (stepped s (folOps (.mmas 1 0 0))) ∧ folInstr (mm copyRegs) (fld (cmdWords .s8 (mm copyRegs))[7] 0 32) = none := by
  refine ⟨_, rfl, calm_intro _ ?_ ?_, ?_, ?_, ?_, ?_, ?_, mapped_of _ _ ?_ ?_ ?_, ?_⟩ <;> decide +kernel

/-- A sett's command, in a sett of its own. -/
def cmdOf (op : CmdOp) (c : Vector Word 8) (f : Cmd → Cmd) : Cmd :=
  f { id := 7, word := 0, seq := 0, traced := false, sup := false, op := op, c := c, pgroot := 0x10000, hreg := 0x1B000, frame := 0, pack := 0, cid := 0, ctx := 0, slots := [] }
def withCmd (c : Cmd) (s : State) : State := { s with setts := s.setts.set 0 { cmds := [c] } }
def copyWords : Vector Word 8 := #v[0, 0, 2048, 64, 0, 0, 0, 0]

theorem witness_EngineProgress : ∃ s c, s = withCmd (cmdOf .cpym copyWords id) (mm id) ∧ c = cmdOf .cpym copyWords id ∧ findCmd s 0 7 = some c ∧ c.state = .running ∧
    c.fault = none ∧ c.op ≠ .reloc ∧ c.traced = false ∧ c.owes = false ∧ c.sync = none ∧ nextTodo c.done 0 = 0 ∧ nextDone c.done 0 (0 + 64) = 0 + 64 ∧
    0 + 64 ≤ cmdTotal c ∧ cmdChunk (ticked s) c 0 64 = .ok (physLocs 0x15000 64, physLocs 0x15800 64) ∧ (physLocs 0x15000 64).length = 64 ∧
    (physLocs 0x15800 64).Nodup := by
  refine ⟨_, _, rfl, rfl, ?_⟩
  and_intros
  all_goals first | exact physLocs_nodup _ _ | decide +kernel

theorem witness_EngineEnds : (∃ s c, c = cmdOf .cpym copyWords (fun c => { c with done := [(0, 64)] }) ∧ s = withCmd c (mm id) ∧ findCmd s 0 7 = some c ∧ c.state = .running ∧
      c.fault = none ∧ nextTodo c.done 0 = cmdTotal c ∧ s.cur.live = true ∧ s.cur.frame = c.frame) ∧
    (∃ s c, c = cmdOf .cpym copyWords (fun c => { c with fault := some (0x5000, true) }) ∧ s = withCmd c (mm id) ∧ findCmd s 0 7 = some c ∧ c.fault = some (0x5000, true)) := by
  refine ⟨⟨_, _, rfl, rfl, ?_⟩, ⟨_, _, rfl, rfl, ?_⟩⟩ <;> and_intros <;> decide +kernel

theorem witness_EngineEnds_suspended : (∃ s c, c = cmdOf .cpym copyWords (fun c => { c with state := .suspended 0x5000 true }) ∧ s = withCmd c (mm id) ∧ findCmd s 0 7 = some c ∧ isSuspended c = true ∧
      s.pkg.tripped = false ∧ s.pkg.fwfail = false ∧ s.pkg.mbox.background = none) := by
  refine ⟨_, _, rfl, rfl, ?_⟩; and_intros <;> decide +kernel

/-- A follow-on that is ready, of a resident register. -/
def folReadyOne : FollowOn := ⟨BitVec.ofNat 32 ((encode (.mmas 1 0 0)).getD 0), 7, 0x10101, 0, 0, 0, 0, true, false, false, false⟩

theorem witness_FollowOnRuns : ∃ s : State, s = scr (fun t => { t with fols := [folReadyOne] }) ∧ focus 0 s = some s ∧ folNext [] s.cur.fols = some folReadyOne ∧
    decode folReadyOne.word.toNat = .ok (.mmas 1 0 0) ∧ isResident s.cur.map (folReg folReadyOne) = true := by
  refine ⟨_, rfl, ?_, ?_, ?_, ?_⟩
  · rfl
  all_goals decide +kernel

/-- An MLD of one BF16 element at the start of the own scratch window. -/
def folLoadOne : FollowOn := ⟨BitVec.ofNat 32 ((encode (.mld 1 2 3 0 .bf16)).getD 0), 7, 0x10101, 0, 0x00FF000000000000, 0, 0, true, false, false, false⟩

/-- What the two read is clean, with a store kept from their CPYM or without one. -/
theorem witness_FollowOnResults (kept : Bool) : ∃ s : State, s = (if kept then modCore 0 (fun c => { c with kept := [⟨0, 7, [(4, 1)], []⟩] }) (scr id) else scr id) ∧
    (∀ f ∈ [folReadyOne, folLoadOne], fld f.mshape 0 7 = 1 ∧ fld f.mshape 8 7 = 1 ∧ fld f.mshape 16 7 = 1 ∧
      byteAt (seenBy f (ticked s)) (scratchLoc s 0 0) = (if kept then 1 else 0)) ∧
    mBad (ticked s) (1 : MReg) (fun e => decide (e / 64 < 1) && decide (e % 64 < 1)) = none ∧
    mmasPoison (seenBy folReadyOne (ticked s)) 0 (mmasArgs 0x10101 0 0) 0 = none ∧ decode folLoadOne.word.toNat = .ok (.mld 1 2 3 0 .bf16) ∧
    ∀ n < 2, poisoned (seenBy folLoadOne (ticked s)) (scratchLoc (seenBy folLoadOne (ticked s)) 0 n) = false := by
  cases kept <;> refine ⟨_, rfl, ?_⟩ <;> and_intros <;> decide +kernel

/-- FLIP of region 0 to colour 3, with page 0 listed at address 0 and the report at 2,048. -/
def flipCmd : Cmd := cmdOf .reloc #v[0x3000000, 0, 2048, 1, 0, 0, 0, 0] id

theorem witness_Relocation_flip : ∃ s : State, s = withCmd flipCmd (heap id) ∧ findCmd s 0 7 = some flipCmd ∧ flipCmd.state = .running ∧ flipCmd.fault = none ∧
    flipCmd.op = .reloc ∧ flipCmd.traced = false ∧ flipCmd.owes = false ∧ fld flipCmd.c[0] 28 4 = 0 ∧ flipCmd.page ≠ 1 ∧
    regionPa flipCmd.hreg (relocRegion flipCmd) = 0x1B000 ∧ relocPages (ticked s) flipCmd = .ok [0] ∧
    cmdSpan (ticked s) flipCmd true false flipCmd.c[2] 8 = .ok (physLocs 0x15800 8) ∧ relocResult s flipCmd [0] = 0 ∧
    regionMk (rdWord s 0x1B000) (rdWord s (0x1B000 + 8)) = some ⟨1, [], 1, 0⟩ ∧ s.cur.live = true := by
  refine ⟨_, rfl, ?_⟩; and_intros <;> decide +kernel

theorem witness_Relocation_acknowledge : ∃ s : State, s = { heap id with cores := [(0, { oldEntry := [(0x1B000, 5)] }), (1, { oldEntry := [(0x1B000, 5)] })] } ∧
    (tkeys (coreOf s 0).oldEntry).contains 0x1B000 = true ∧ 1 ≠ 0 ∧ 1 ∈ coresHold s 0x1B000 := by
  refine ⟨_, rfl, ?_⟩; and_intros <;> decide +kernel

/-- MOVE of page 0 of region 0, whose list has one EMPTY entry: 22 granules from the page's start to 0x20000 above it. -/
def moveCmd (n : Nat) : Cmd := cmdOf .reloc #v[0x10000000, 0, 2048, 1, 0, 0, 0, 0] (fun c => { c with entry := n })
def moving (n : Nat) : State :=
  let s := wrWord 0x1B008 0x1E000 (heap id)
  let s := wrWord 0x1E000 0x4000000000000001 s
  let s := wrWord 0x1E008 0x1F000 s
  let s := wrWord 0x1F008 0x00F8000000020000 s
  withCmd (moveCmd n) (wrWord 0x40000000 22 s)

theorem witness_Relocation_move (n : Nat) (hn : n < 2) : findCmd (moving n) 0 7 = some (moveCmd n) ∧ (moveCmd n).fault = none ∧ fld (moveCmd n).c[0] 28 4 = 1 ∧
    (moveCmd n).moving = false ∧ relocPages (ticked (moving n)) (moveCmd n) = .ok [0] ∧ relocResult (moving n) (moveCmd n) [0] = 0 ∧
    regionMk (rdWord (moving n) 0x1B000) (rdWord (moving n) 0x1B008) = some ⟨1, [], 1, 0x1E000⟩ ∧ ([0] : List Nat)[(moveCmd n).page]? = some 0 ∧
    fld (rdWord (moving n) (dirPa ⟨1, [], 1, 0x1E000⟩ 0)) 0 13 = 1 ∧ (moveCmd n).kept.contains (moveCmd n).page = false ∧ (moveCmd n).entry = n ∧
    fld (rdWord (moving n) 0x1F000) 62 2 = 0 ∧ refAddr (rdWord (moving n) 0x1F008) = Config.wbase + 0x20000 ∧
    cmdSpan (ticked (moving n)) (moveCmd n) true false (BitVec.ofNat 64 Config.wbase) 8 = .ok (physLocs 0x40000000 8) ∧
    valueAt (moving n) (physLocs 0x40000000 8) = 22 := by
  rcases (show n = 0 ∨ n = 1 by omega) with rfl | rfl <;>
    and_intros <;> decide +kernel

/-! ## Hypotheses of the claims about sends, the sequencer and packs -/

/-- A landing header at the start of the scratchpad with its data in a slot: TARGET, COUNT, GEN, FLAGS, SLOT; in slot 5. -/
def landingIn (slot target flags : Nat) (f : Thread → Thread) : State :=
  hdrWr 0 65536 24 (target + flags * 2 ^ 96 + slot * 2 ^ 128) (scr f)
def landing (target flags : Nat) (f : Thread → Thread) : State := landingIn 5 target flags f
/-- The same with a merge table. -/
def merging (flags : Nat) (f : Thread → Thread) : State :=
  let s := landing 8 (flags + 2 ^ 30) f
  { s with pkg := { s.pkg with mbt := some 0x20000 } }

theorem witness_SendingTiles : (∃ s : State, s = landing 8 (2 ^ 31 + 16) id ∧ Calm s ∧ Mapped s [(1, .read)] (stepped s [(1, .read)]) ∧
      mBad (stepped s [(1, .read)]) 1 (fun _ => true) = none ∧ sendPkg (reg s 0) = s.pkg.index ∧ badSend false (reg s 0) = false ∧
      portReply (stepped s [(1, .read)]) false (sendCid (reg s 0)) (reg s 0) = .accepted ∧ portReply s false 0 (BitVec.ofNat 64 0) = .accepted) ∧
    (∃ s : State, s = landing 8 (2 ^ 31 + 16) (sr 1 1) ∧ portReply (stepped s [(1, .read)]) false (sendCid (reg s 0)) (reg s 1) = .link 3) ∧
    (∃ s : State, s = landing 8 0 id ∧ portReply (stepped s [(1, .read)]) false (sendCid (reg s 0)) (reg s 0) = .sync 4) ∧
    (∃ s : State, s = landing 8 (2 ^ 31) id ∧ portReply (stepped s [(1, .read)]) false (sendCid (reg s 0)) (reg s 0) = .waiting) := by
  refine ⟨⟨_, rfl, calm_intro _ ?_ ?_, mapped_of _ _ ?_ ?_ ?_, ?_⟩, ⟨_, rfl, ?_⟩, ⟨_, rfl, ?_⟩, ⟨_, rfl, ?_⟩⟩ <;> and_intros <;> decide +kernel

theorem witness_SendingTiles_merge : (∃ s : State, s = merging (2 ^ 31 + 16) (sr 2 1) ∧ Calm s ∧ Mapped s [(1, .read)] (stepped s [(1, .read)]) ∧
      mBad (stepped s [(1, .read)]) 1 (fun _ => true) = none ∧ sendPkg (reg s 2) = s.pkg.index ∧ badSend true (reg s 2) = false ∧
      portReply (stepped s [(1, .read)]) true (sendCid (reg s 2)) (reg s 0) = .accepted ∧ badSend false (reg s 2) = true) ∧
    (∃ s : State, s = { landing 8 0 (fun t => sr 2 (5 * 2 ^ 48) { t with wait := some (.msend 1 0 2 false) }) with
        pkg := { State.reset.pkg with peers := [5] } } ∧
      badSend false (reg s 2) = false ∧ sendPkg (reg s 2) ≠ s.pkg.index ∧ s.pkg.peers.contains (sendPkg (reg s 2)) = true ∧
      s.pkg.fenced.contains (sendPkg (reg s 2)) = false ∧ s.cur.live = true ∧ s.cur.frame = 0 ∧ s.cur.wait = some (.msend 1 0 2 false) ∧ s.cur.sent = false) := by
  refine ⟨⟨_, rfl, calm_intro _ ?_ ?_, mapped_of _ _ ?_ ?_ ?_, ?_⟩, ⟨_, rfl, ?_⟩⟩ <;> and_intros <;> decide +kernel

theorem witness_SendingTiles_ends (b : Bool) : (∃ s : State, s = landing 8 0 (fun t => sr 2 (5 * 2 ^ 48)
        { t with sent := true, wait := some (if b then .msendm 1 0 2 false else .msend 1 0 2 false) }) ∧
      s.cur.live = true ∧ s.cur.frame = 0 ∧ s.cur.sent = true ∧ s.cur.wait = some (if b then .msendm 1 0 2 false else .msend 1 0 2 false) ∧
      inFlight s (placeOf s s.cur) = false ∧ sendPkg (reg s 2) ≠ s.pkg.index) ∧
    (∃ s : State, s = landing 8 (2 ^ 31 + 1) id ∧ reservedAt s 0 0 = true ∧ headerAt s 0 0 = 65536 ∧ hdrRd s 0 (65536 + 16) 4 = 5 ∧ Apart 65536 5) := by
  cases b <;> refine ⟨⟨_, rfl, ?_⟩, ⟨_, rfl, ?_⟩⟩ <;> and_intros <;> decide +kernel

theorem witness_LandingTiles_arrival : (∃ s : State, s = landing 16384 (2 ^ 31 + 1) (fun t => { t with sent := true }) ∧ 65536 = headerAt s 0 0 ∧
      5 = hdrRd s 0 (65536 + 16) 4 ∧ dataSlot (coreOf s 0) 5 = true ∧ Apart 65536 5 ∧ fld (0 : Word) 16 10 = s.pkg.index ∧ localSender s 0 ≠ none ∧ fld (0x50000 : Word) 16 10 ≠ s.pkg.index ∧
      reservedAt s 0 0 = true ∧ wbit (flagsRd s 0 65536) 31 = true ∧ wbit (flagsRd s 0 65536) 0 = true ∧ hdrRd s 0 65536 4 = 16384 ∧ hdrRd s 0 (65536 + 4) 4 = 0 ∧
      ∀ q ∈ allCmds s, q.sync ≠ some (0, 65536)) := by
  refine ⟨_, rfl, ?_⟩; and_intros <;> decide +kernel

/-- A SLOT that is no slot of the scratchpad: an arrival, a merge and an MRECV change no slot of a register (R10, log entry 31). -/
theorem witness_LandingTiles_slot : ∃ s : State, s = landingIn 1 16384 (2 ^ 31 + 32) (fun t => sr 1 0x00FF000000000000 { t with wait := some (.mrecv 3 1) }) ∧ Calm s ∧
    65536 = headerAt s 0 0 ∧ dataSlot (coreOf s 0) (hdrRd s 0 (65536 + 16) 4) = false ∧ dataSlot (coreOf s 0) 3 = false ∧ dataSlot (coreOf s 0) 4 = true ∧
    dataSlot (coreOf s 0) 255 = true ∧ dataSlot (coreOf s 0) 256 = false ∧ scratchAt s s.cur (reg s 1) = some (0, 65536) ∧ Clean s (hdrLocs 0 65536 128) ∧
    wbit (flagsRd s 0 65536) 5 = true ∧ FolClear s [(3 : MReg).val] := by
  refine ⟨_, rfl, calm_intro _ ?_ ?_, ?_, ?_, ?_, ?_, ?_, ?_, ?_, clean_of _ _ ?_, ?_, folClear_of _ _ ?_ ?_⟩ <;> decide +kernel

/-- A contribution of one head of one column with maximum 0 and sum 1. -/
def contribution1 (place : Word) (group seq : Nat) : Contribution := ⟨place, group, seq, 1, [(0x3F80000000000000, [0x3F800000])]⟩

theorem witness_LandingTiles_merge : (∃ s : State, s = merging (2 ^ 31 + 16) (fun t => { t with sent := true }) ∧ 65536 = headerAt s 0 0 ∧ 5 = hdrRd s 0 (65536 + 16) 4 ∧
      dataSlot (coreOf s 0) 5 = true ∧ Apart 65536 5 ∧ s.pkg.mbt = some 0x20000 ∧ fld (contribution1 0 255 63).place 16 10 = s.pkg.index ∧ localSender s (contribution1 0 255 63).place ≠ none ∧
      fld (contribution1 0x3FF0000 0 0).place 16 10 ≠ s.pkg.index ∧ portReply s true 0 (BitVec.ofNat 64 0) = .accepted ∧
      wbit (rdWord s (0x20000 + 8 * (255 % 256 * 1024 + 0))) 63 = false ∧ (contribution1 0 255 63).cols ≤ 64 ∧
      (mergeHead (BitVec.ofNat 64 (hdrRd s 0 (65536 + 64) 8)) ((List.range 1).map (tileElt (tileOf (coreOf s 0) 5))) 0x3F80000000000000 [0x3F800000]).isSome = true) ∧
    (∃ s : State, s = wrWord (0x20000 + 8 * (0 % 256 * 1024 + 1023)) 1 (merging (2 ^ 31 + 16) id) ∧
      wbit (rdWord s (0x20000 + 8 * (0 % 256 * 1024 + 1023))) (64 % 64) = true) := by
  refine ⟨⟨_, rfl, ?_⟩, ⟨_, rfl, ?_⟩⟩ <;> and_intros <;> decide +kernel

theorem witness_LandingTiles_receive (full : Bool) : ∃ s : State, s = landing 8 (2 ^ 31 + if full then 32 else 0)
        (fun t => sr 1 0x00FF000000000000 { t with wait := some (.mrecv 3 1) }) ∧ Calm s ∧
      (reg s 1).toNat % 128 = 0 ∧ inOwnWindow (reg s 1) = true ∧ scratchAt s s.cur (reg s 1) = some (0, 65536) ∧ Clean s (hdrLocs 0 65536 128) ∧
      wbit (flagsRd s 0 65536) 31 = true ∧ wbit (flagsRd s 0 65536) 5 = full ∧ FolClear s [(3 : MReg).val] ∧ 5 = hdrRd s 0 (65536 + 16) 4 ∧ dataSlot (coreOf s 0) 5 = true ∧
      s.cur.wait = some (.mrecv 3 1) := by
  cases full <;> refine ⟨_, rfl, calm_intro _ ?_ ?_, ?_, ?_, ?_, clean_of _ _ ?_, ?_, ?_, folClear_of _ _ ?_ ?_, ?_⟩ <;> and_intros <;> decide +kernel

/-- Queue 0 with an address space table whose entry 0 holds the page table of the memory. -/
def spaced (word1 head tail : Word) (en : List Nat) (f : Pkg → Pkg) : State :=
  let s := wrWord 0x1A000 0x10000 (queued word1 head tail en id)
  { s with pkg := f { s.pkg with ast := some 0x1A000 } }
/-- A record by its words. -/
def rec8 (a b c d e f g : Nat) : Rec := BitVec.ofNat 512 (a + b * 2 ^ 64 + c * 2 ^ 128 + d * 2 ^ 192 + e * 2 ^ 256 + f * 2 ^ 320 + g * 2 ^ 384)
def locs8 (o : Nat) : List Loc := physLocs (0x15000 + o) 8

theorem witness_Queues : (∃ s : State, s = spaced 0x64 2 2 [0] id ∧ queueEnabled s 0 = true ∧ queueHost s 0 = true ∧
      ((18 : BitVec 32) - queueTail s 0).toNat ≤ queueSize s 0 ∧ ((18 : BitVec 32) - queueHead s 0).toNat ≤ queueSize s 0 ∧
      queueSize s 0 < ((19 : BitVec 32) - queueTail s 0).toNat ∧ heldFor s 0 = []) ∧
    (∀ n ∈ [4, 16], ∃ s : State, s = spaced (BitVec.ofNat 64 n) 0 0 [] id ∧ s.pkg.qt ≠ none ∧ queueEnabled s 0 = false ∧ s.pkg.fwfail = false ∧
      fld (queueWord s 0 0) 0 12 = 0 ∧ fld (setFld (queueWord s 0 1) 5 1 1) 13 51 = 0 ∧ wbit (setFld (queueWord s 0 1) 5 1 1) 7 = false ∧
      4 ≤ fld (setFld (queueWord s 0 1) 5 1 1) 0 5 ∧ fld (setFld (queueWord s 0 1) 5 1 1) 0 5 ≤ 16) ∧
    (∃ s : State, s = spaced 3 0 0 [] id ∧ s.pkg.qt ≠ none ∧ queueEnabled s 0 = false ∧ s.pkg.fwfail = false ∧ fld (setFld (queueWord s 0 1) 5 1 1) 0 5 < 4) := by
  refine ⟨⟨_, rfl, ?_, ?_, ?_, ?_, ?_, ?_⟩, fun n h => ⟨_, rfl, ?_⟩, ⟨_, rfl, ?_, ?_, ?_, ?_⟩⟩
  case refine_7 => revert n; decide +kernel
  all_goals decide +kernel

theorem witness_Nodes : ∃ s : State, s = spaced 0x24 0 0 [0] id ∧
    (recWord (rec8 1 8 0 0 0 0 0) 4 = 0 ∧ recWord (rec8 1 8 0 0 0 0 0) 3 = 0 ∧
      seqLocs (ticked s) (spaceOf s (queueAsid s 0)).pgroot (recWord (rec8 1 8 0 0 0 0 0) 1) 8 false = some (locs8 8) ∧
      recWord (rec8 1 8 0 0 0 0 0) 5 = 0 ∧ recWord (rec8 1 8 0 0 0 0 0) 6 = 0 ∧
      seqLocs (ticked s) (spaceOf s (queueAsid s 0)).pgroot (recWord (rec8 2 8 0 0 0 0 0) 1) 8 true = some (locs8 8)) ∧
    (recWord (rec8 1 8 0 0 0 64 64) 4 = 0 ∧ recWord (rec8 1 8 0 0 0 64 64) 3 = 0 ∧
      seqLocs (ticked s) (spaceOf s (queueAsid s 0)).pgroot (recWord (rec8 1 8 0 0 0 64 64) 1) 8 false = some (locs8 8) ∧
      recWord (rec8 1 8 0 0 0 64 64) 5 ≠ 0 ∧ recWord (rec8 1 8 0 0 0 64 64) 6 ≠ 0 ∧
      seqLocs (ticked s) (spaceOf s (queueAsid s 0)).pgroot 64 64 false = some (physLocs 0x15040 64) ∧
      Open s (0 : Fin 1024) (spaceOf s (queueAsid s 0)).pgroot) ∧
    (recWord (rec8 3 0 0 0 16 0 0) 4 ≠ 0 ∧ recWord (rec8 3 0 0 0 16 0 0) 3 = 0 ∧
      seqLocs (ticked s) (spaceOf s (queueAsid s 0)).pgroot (recWord (rec8 3 0 0 0 16 0 0) 4) 8 true = some (locs8 16) ∧
      seqLocs (seqWrite (spaceOf s (queueAsid s 0)).pgroot (recWord (rec8 3 0 0 0 16 0 0) 4) (locs8 16) (leBytes 8 0) (ticked s)) (spaceOf s (queueAsid s 0)).pgroot (recWord (rec8 3 0 0 0 16 0 0) 4) 8 true = some (locs8 16)) := by
  refine ⟨_, rfl, ?_⟩; and_intros <;> decide +kernel

def held1 : Held := ⟨0, 3, ⟨0, 0, 0, 0, 0, false⟩, false⟩
theorem witness_HeldAppend : ∃ s : State, s = spaced 0x24 0 15 [0] (fun p => { p with held := [held1] }) ∧ heldFor s 0 = held1 :: [] ∧ held1.node = false ∧
    queueCount s 0 < queueSize s 0 := by
  refine ⟨_, rfl, ?_⟩; and_intros <;> decide +kernel

/-- A package with tables and save frames, whose address space 0 has a frame pool of four. -/
def housed (s : State) : State :=
  let s := wrWord 0x1A020 0x40000 (wrWord 0x1A000 0x10000 s)
  { s with pkg := { s.pkg with ast := some 0x1A000, qt := some 0x1C000, sf := some (0x100000, 4), sfBefore := some (0x100000, 4), retainOk := 15 } }
/-- No thread on a context, and a frame of a saved thread in frame 0: VERSION 1, STATE 1, VROWS and MSHAPE. -/
def away : State := wrWord (0x100000 + ctlOffset 8) 0x404040 (wrWord (0x100000 + ctlOffset 4) 1 (wrWord 0x100000 0x101 (housed State.reset)))
def withPack (st : PackState) (f : Pack → Pack) (s : State) : State := { s with packs := [f { pack0 with state := st }] }
/-- A code record of one thread without scratchpad. -/
def rec1 : Rec := BitVec.ofNat 512 (2 ^ 16 + 2 ^ 24)

theorem witness_Dispatch : ∃ s : State, s = wrPhys 0x1D000 8 3 (spaced 0x24 0 1 [0] id) ∧ s.pkg.fwfail = false ∧ s.pkg.ready = true ∧
    (∀ r ∈ s.packs, r.state ≠ .saved) ∧ s.pkg.enabled = [0] ∧ queueCount s 0 ≠ 0 ∧ headRecord s 0 = some 3 ∧
    intake 3 (spaceOf s (queueAsid s 0)).pool = 0 ∧ recKind 3 = 3 ∧ heldFor s 0 = [] := by
  refine ⟨_, rfl, ?_⟩; and_intros <;> decide +kernel

theorem witness_PackStart (busy : Bool) : ∃ s : State, s = withPack .starting id (if busy then scr id else housed State.reset) ∧
    packOf s 0 = some { pack0 with state := .starting } ∧
    ([(0, 0)].all fun c => startReady s (32 * 0 + c.1) (recOctets pack0.record) c.2 ([(0, 0)].contains (c.1, 0)) ([(0, 0)].contains (c.1, 1))) = !busy := by
  cases busy <;> refine ⟨_, rfl, ?_⟩ <;> and_intros <;> decide +kernel

theorem witness_PackSave (parks : Bool) : ∃ s : State, s = housed (scr (fun t => { t with parking := if parks then some 2 else none })) ∧
    packOf s 0 = some pack0 ∧ pack0.state = .running ∧ (∀ t ∈ (threads s).filter (·.pack == 0), t.grp = none ∧ t.sent = false) ∧
    ((threads s).filter (·.pack == 0)).any (·.parking.isSome) = parks := by
  cases parks <;> refine ⟨_, rfl, ?_⟩ <;> and_intros <;> decide +kernel

/-- Frame 0 is sound where its fields are and its reserved regions are zero, the longest of which memory does not list. -/
theorem formed_of (s : State) (h : (frameFaulty s 0 || frameRd s 0 0x140 192 != 0 || frameRd s 0 0x3C0 64 != 0) = false)
    (hp : framePa s 0x1000 = some 0x101000)
    (hm : s.mem.all (fun c => decide (c.1 < 0x101000) || decide (0x101000 + 28672 ≤ c.1)) = true) : frameMalformed s 0 = false := by
  have hg : frameRd s 0 0x1000 28672 = 0 := by
    simp only [frameRd, Nat.zero_mul, Nat.zero_add, hp]; exact rdPhys_unlisted s _ _ hm
  simp only [Bool.or_eq_false_iff] at h
  simp only [frameMalformed, frameGaps, h, hg]; rfl

theorem witness_PackRestore (bad : Bool) : ∃ s : State, s = withPack .resuming id (if bad then housed State.reset else away) ∧
    packOf s 0 = some { pack0 with state := .resuming } ∧
    ([(0, 0)].all fun c => startReady s (32 * 0 + c.1) (recOctets pack0.record) c.2 ([(0, 0)].contains (c.1, 0)) ([(0, 0)].contains (c.1, 1))) = true ∧
    (pack0.members.filter fun m => !m.ended).any (fun m => frameMalformed s m.frame) = bad ∧ s.cores.all (fun c => c.2.tags == []) = true := by
  cases bad
  · refine ⟨_, rfl, by decide +kernel, by decide +kernel, ?_, by decide +kernel⟩
    have h := formed_of (withPack .resuming id away) (by decide +kernel) (by decide +kernel) (by decide +kernel)
    simpa [pack0] using h
  · refine ⟨_, rfl, ?_⟩; and_intros <;> decide +kernel

theorem adoptOk_one (s : State) (r : Rec) (h : headerFaulty s 0 = false)
    (ho : (let a := fld (frameWord s 0 0) 48 12; let pool := fld (frameWord s 0 0) 32 16
      s.pkg.ast.isSome && s.pkg.qt.isSome && s.pkg.sf.isSome && s.pkg.sf == s.pkg.sfBefore && recKind r = 0 && intake r (spaceOf s a).pool = 0 &&
      decide (1 ≤ recThreads r) && decide (0 < frameCount s) && !(framesUsed s).contains 0 &&
      (let st := fld (frameWord s 0 0) 8 2; st == 1 || st == 2) && decide (pool < (spaceOf s a).pool) && !(poolsUsed s a).contains pool &&
      recScratch r = 0) = true) : adoptOk s r [0] = true := by
  simp [adoptOk, h] at ho ⊢; tauto

theorem witness_PackCommands : (∃ s : State, s = withPack .parked (fun p => { p with record := rec1 }) away ∧ s.pkg.tripped = false ∧ s.pkg.fwfail = false ∧
      s.pkg.mbox.background = none ∧ parkedPack s 0 = some { pack0 with record := rec1, state := .parked } ∧ recScratch rec1 = 0) ∧
    (∃ s : State, s = { away with packs := [] } ∧ s.pkg.tripped = false ∧ s.pkg.fwfail = false ∧ s.pkg.mbox.background = none ∧ adoptOk s rec1 [0] = true) := by
  refine ⟨⟨_, rfl, ?_⟩, ⟨_, rfl, by decide +kernel, by decide +kernel, by decide +kernel, adoptOk_one _ _ ?_ ?_⟩⟩ <;>
    and_intros <;> decide +kernel

theorem witness_PackEvents : (∃ s t, s = { scr id with cores := [(0, { lanepart := 4 })] } ∧ t = s.cur ∧ threadOf s 0 = some t ∧
      (lanesMask t.ctl.lanes &&& (255 - targetMask (coreOf s (cidOf t)) t.ctx % 256)) ≠ 0) ∧
    (∃ s : State, s = { State.reset with cores := [(5, { xfers := [⟨0, 0, 0, true, 0, false, false, false⟩] })] } ∧
      (coreOf s 5).xfers = ⟨0, 0, 0, true, 0, false, false, false⟩ :: []) ∧
    (∃ s : State, s = one id ∧ s.cur.live = true ∧ s.cur.frame = 0 ∧ s.cur.elim = none ∧ ∀ u ∈ s.others, u.frame ≠ 0) := by
  refine ⟨⟨_, _, rfl, rfl, ?_⟩, ⟨_, rfl, ?_⟩, ⟨_, rfl, ?_⟩⟩ <;> and_intros <;> decide +kernel

/-! ## Hypotheses of the claims about debug, the mailbox, resets and the fleet -/

/-- The debug set of address space 0 on core 0. -/
def watched (ws : List Word) (s : State) : State := { s with cores := [(0, { sets := [(0, ws)] })] }
def halting : State := watched [2 ^ 32] (mm id)
/-- A debug table at 0x60000 whose ring of core 0 is enabled, at 0x70000 with 256 records. -/
def ringed (w1 : Word) : State :=
  let s := wrWord 0x60008 w1 (wrWord 0x60000 0x70000 (mm id))
  { s with pkg := { s.pkg with dbg := some 0x60000 } }
def ringCore (wrap : Bool) (tail : BitVec 32) : State :=
  { ringed 0x28 with cores := [(0, { ring := { desc := 0x60000, en := true, act := true, wrap := wrap, log2 := 8, base := 0x70000, tail := tail, queue := [5] } })] }

theorem witness_Debug : (∃ s : State, s = one (fun t => { t with stepDue := some (0, []) }) ∧ s.cur.stepDue = some (0, []) ∧ drained s s.cur 0 [] = true) ∧
    (∃ s : State, s = halting ∧ haltDue s s.cur = true ∧ s.cur.grp = none ∧ s.cur.sent = false ∧ s.cur.parking = none) ∧
    (∃ s : State, s = ringed 0x28 ∧ s.pkg.dbg = some 0x60000 ∧ ringEnabled s (ringDesc 0x60000 0) = true) ∧
    (∃ s : State, s = ringed 0x08 ∧ ringEnabled s (ringDesc 0x60000 0) = false ∧ (coreOf s 0).ring.act = false ∧ s.cur.live = true ∧ cidOf s.cur = 0) := by
  refine ⟨⟨_, rfl, ?_⟩, ⟨_, rfl, ?_⟩, ⟨_, rfl, ?_⟩, ⟨_, rfl, ?_⟩⟩ <;> and_intros <;> decide +kernel

theorem witness_Debug_focus : focus 0 halting = some halting := rfl

theorem witness_Debug_rings : (∀ w : Bool, ∃ s : State, s = ringCore w (if w then 256 else 255) ∧ s.pkg.dbg = some 0x60000 ∧ ((coreOf s 0).ring.act = true ∧ (coreOf s 0).ring.desc = ringDesc 0x60000 0) ∧
      (coreOf s 0).ring.queue = [5] ∧
      ((coreOf s 0).ring.wrap = true ∨ ((coreOf s 0).ring.tail - BitVec.ofNat 32 (rdPhys s (ringDesc 0x60000 0 + 16) 4)).toNat ≠ 2 ^ (coreOf s 0).ring.log2) ∧
      ringDesc 0x60000 0 + 64 ≤ (coreOf s 0).ring.base + 16 * ((coreOf s 0).ring.tail.toNat % 2 ^ (coreOf s 0).ring.log2)) ∧
    (∃ s : State, s = { State.reset with pkg := { State.reset.pkg with fq := some ⟨0x20000, 0x21000, 6⟩, fqWait := [[1, 2]] } } ∧ s.pkg.fqWait = [1, 2] :: [] ∧
      s.pkg.fq = some ⟨0x20000, 0x21000, 6⟩ ∧ (rdPhys s (0x20000 + 24) 4 + 2 ^ 32 - rdPhys s (0x20000 + 16) 4) % 2 ^ 32 ≠ 2 ^ 6) := by
  refine ⟨fun w => ⟨_, rfl, ?_, ?_, ?_, ?_, ?_⟩, ⟨_, rfl, ?_, ?_, ?_⟩⟩
  case refine_4 => cases w
                   · exact .inr (by decide +kernel)
                   · exact .inl rfl
  all_goals first | decide +kernel | (revert w; decide +kernel)

/-- The machine after reset with its package changed. -/
def fleet (f : Pkg → Pkg) : State := { State.reset with pkg := f State.reset.pkg }
def inMailbox (f : Mailbox → Mailbox) : State := fleet (fun p => { p with ready := true, fwfail := false, mbox := f p.mbox })

theorem serving_reset (f : Mailbox → Mailbox) (h : (f {}).background = none) : Serving (inMailbox f) := ⟨rfl, rfl, h⟩

theorem witness_MailboxCommands : Serving (inMailbox id) ∧ (inMailbox id).pkg.mbox.image = none ∧
    (Serving (inMailbox (fun m => { m with image := some [1] })) ∧ (inMailbox (fun m => { m with image := some [1] })).pkg.mbox.image = some [1]) ∧
    (fleet (fun p => { p with tripped := true })).pkg.tripped = true ∧
    (∃ s : State, s = fleet (fun p => { p with fwfail := true }) ∧ s.pkg.tripped = false ∧ s.pkg.fwfail = true) ∧
    (∃ s : State, s = inMailbox (fun m => { m with background := some (.expand 0) }) ∧ s.pkg.tripped = false ∧ s.pkg.mbox.background ≠ none ∧ s.pkg.fwfail = false) :=
  ⟨serving_reset _ rfl, rfl, ⟨serving_reset _ rfl, rfl⟩, rfl, ⟨_, rfl, rfl, rfl⟩, ⟨_, rfl, rfl, by simp [inMailbox, fleet], rfl⟩⟩

theorem localTable_of (s : State) (b : Word) (align n : Nat)
    (h : (b.toNat % align == 0 && b.toNat / 2 ^ 39 == s.pkg.index && decide (b.toNat % 2 ^ 39 + n ≤ Config.hbmBytes)) = true) : LocalTable s b align n := by
  simpa [LocalTable, and_assoc] using h

/-- A fault queue's descriptor at 0x20000 for a ring of 2^n entries. -/
def faultRing (n : Word) : State := wrWord 0x20008 n (wrWord 0x20000 0x21000 (inMailbox id))

theorem witness_Bases : ∃ s : State, s = inMailbox id ∧ Serving s ∧ LocalTable s 0x1000 4096 1 ∧ s.pkg.enabled = [] ∧ ¬ LocalTable s 8 4096 1 ∧
    LocalTable s 0x10000 65536 1 ∧ (∀ p ∈ s.packs, p.state = .dead ∨ p.state = .starting) ∧ (∀ c ∈ s.cores, c.2.ring.act = false ∧ c.2.ring.en = false) ∧
    LocalTable s 0x200000 0x200000 0x200000 ∧ mergeBusy s = false ∧ ownRange s 0 65536 = true ∧ onlyCompressed s 0 = true := by
  refine ⟨_, rfl, serving_reset _ rfl, localTable_of _ _ _ _ ?_, rfl, fun h => absurd h.1 (by decide), localTable_of _ _ _ _ ?_, ?_, ?_,
    localTable_of _ _ _ _ ?_, ?_, ?_, ?_⟩
  case refine_3 => exact fun p h => absurd h List.not_mem_nil
  case refine_4 => exact fun p h => absurd h List.not_mem_nil
  all_goals decide +kernel

theorem witness_Bases_faults (small : Bool) : ∃ s : State, s = faultRing (if small then 6 else 16) ∧ LocalTable s 0x20000 32 1 ∧
    (∀ z, s.pkg.fq = some z → rdPhys s (z.desc + 16) 4 = rdPhys s (z.desc + 24) 4) ∧ LocalTable s (rdWord s 0x20000) 4096 1 ∧
    (fld (rdWord s 0x20000) 0 12 = 0 ∧ fld (rdWord s 0x20000) 52 12 = 0 ∧ fld (rdWord s (0x20000 + 8)) 5 59 = 0 ∧
      6 ≤ fld (rdWord s (0x20000 + 8)) 0 5 ∧ fld (rdWord s (0x20000 + 8)) 0 5 ≤ 16) := by
  have hq : (faultRing (if small then 6 else 16)).pkg.fq = none := by revert small; decide +kernel
  refine ⟨_, rfl, localTable_of _ _ _ _ ?_, fun z hz => absurd (hq.symm.trans hz) (by simp), localTable_of _ _ _ _ ?_, ?_⟩
  all_goals (clear hq; revert small; decide +kernel)

theorem witness_Bases_parked : (∃ s : State, s = inMailbox id ∧ (coreOf s (32 * ((0 : Fin 8).val / 2) + 0)).parked = false) ∧
    (∃ s : State, s = { inMailbox id with cores := (List.range 32).map fun i => (i, { parked := true }) } ∧
      ∀ i < 32, (coreOf s (32 * ((1 : Fin 8).val / 2) + i)).parked = true) := by
  exact ⟨⟨_, rfl, rfl⟩, ⟨_, rfl, by decide +kernel⟩⟩

theorem witness_Background : (∀ bg ∈ [Background.shootdown 0 0 1, .expand 0, .mergeTable 0x200000, .park 0 1], ∃ s : State,
      s = inMailbox (fun m => { m with background := some bg }) ∧ s.pkg.mbox.background = some bg ∧ ∀ t ∈ threads s, ¬ ∃ i < 32, (1 : BitVec 32).getLsbD i = true ∧ cidOf t = 32 * 0 + i) ∧
    (∃ s : State, s = { inMailbox (fun m => { m with background := some (.park 0 1) }) with cur := { live := true } } ∧ s.pkg.mbox.background = some (.park 0 1) ∧
      ∃ t ∈ threads s, ∃ i < 32, (1 : BitVec 32).getLsbD i = true ∧ cidOf t = 32 * 0 + i) ∧
    (∃ s : State, s = { inMailbox (fun m => { m with background := some (.park 0 1) }) with packs := [pack0] } ∧ scratchHolder s 0 = true) := by
  refine ⟨fun bg _ => ⟨_, rfl, rfl, ?_⟩, ⟨_, rfl, rfl, ?_⟩, ⟨_, rfl, ?_⟩⟩
  · simp [threads, inMailbox, fleet, State.reset]
  · exact ⟨{ live := true }, by simp [threads], 0, by decide, by decide, by decide⟩
  · decide +kernel

theorem witness_HostAndResets : (∃ s : State, s = inMailbox id ∧ s.pkg.ready = true ∧ s.pkg.tripped = false ∧ Config.hbmBytes - 2 + [(1 : Byte), 2].length ≤ Config.hbmBytes ∧
      ownRange s (Config.hbmBytes - 2) [(1 : Byte), 2].length = true ∧ (∀ wide : Bool, 8 % (if wide then 8 else 4) = 0 ∧ ownRange s 8 (if wide then 8 else 4) = true ∧
        badPhys s 8 (if wide then 8 else 4) = false) ∧ 5 ≠ s.pkg.index ∧ s.pkg.fenced.contains 5 = false ∧
      4096 % 4096 = 0 ∧ 8192 % 4096 = 0 ∧ paOk s 4096 = true ∧ paOk s 8192 = true ∧ ∀ l ∈ allLeaves (moveBytes (physLocs 4096 4096) (physLocs 8192 4096) (ticked s)),
        l.1 + 8 ≤ 8192 ∨ 8192 + 4096 ≤ l.1) ∧
    (fleet (fun p => { p with ready := false })).pkg.ready = false ∧ (fleet (fun p => { p with tripped := true })).pkg.tripped = true := by
  refine ⟨⟨_, rfl, ?_⟩, rfl, rfl⟩; and_intros <;> decide +kernel

theorem witness_FleetEvents : (∃ s : State, s = fleet (fun p => { p with hStep := 15 }) ∧ max s.pkg.hStep s.pkg.tStep ≤ 15 ∧ fld s.pkg.health 56 4 ≠ max s.pkg.hStep s.pkg.tStep) ∧
    (∃ s : State, s = fleet id ∧ fld s.pkg.health 56 4 = max s.pkg.hStep s.pkg.tStep ∧ s.pkg.doubled.contains (0 : Fin 8).val ≠ true ∧ (coreOf s 127).outOfService = false ∧
      (∀ t ∈ threads s, cidOf t ≠ 127) ∧ 0 < fld s.pkg.health (48 + 2 * (127 / 32)) 2 ∧ fld s.pkg.health (32 + 4 * (3 : Fin 4).val) 4 ≠ 0 ∧ s.pkg.lanes[(11 : Fin 12)] ≠ 0) ∧
    (∃ s : State, s = { fleet id with setts := Vector.replicate 4 { tallow := 0 } } ∧ fld (settOf s (2 : Fin 4).val).tallow 0 16 = 0 ∧ s.pkg.tStep < 8) ∧
    (∃ s : State, s = fleet (fun p => { p with tStep := 1 }) ∧ (∀ j < 4, 16 ≤ fld (settOf s j).tallow 0 16) ∧ s.pkg.hStep < s.pkg.tStep) := by
  refine ⟨⟨_, rfl, ?_⟩, ⟨_, rfl, ?_⟩, ⟨_, rfl, ?_⟩, ⟨_, rfl, ?_⟩⟩ <;> and_intros <;> decide +kernel

theorem witness_FleetEvents_more : (∃ s : State, s = fleet (fun p => { p with tStep := 8 }) ∧ s.pkg.tStep = 8 ∧ s.pkg.tripped = false) ∧
    (∃ s : State, s = fleet (fun p => { p with selfRefresh := [7] }) ∧ s.pkg.selfRefresh.contains (7 : Fin 8).val = true) ∧
    (∃ s : State, s = one id ∧ s.cur.live = true ∧ s.cur.frame = 0 ∧ (coreOf s 0).outOfService = false ∧ ∃ t ∈ threads s, cidOf t = 0) ∧
    (∃ s : State, s = { fleet (fun p => { p with health := 0 }) with packs := [pack0] } ∧ fld s.pkg.health (48 + 2 * (0 / 32)) 2 = 0 ∧ (coreOf s 0).tags = [] ∧
      (∀ t ∈ threads s, cidOf t ≠ 0) ∧ 0 < recScratch pack0.record ∧ pack0.state ≠ .dead ∧ memberOnCore pack0 0 = true) := by
  refine ⟨⟨_, rfl, ?_⟩, ⟨_, rfl, ?_⟩, ⟨_, rfl, ?_⟩, ⟨_, rfl, ?_⟩⟩ <;> and_intros <;> decide +kernel

/-! ## Hypotheses of single clauses of the claims above -/

/-- Two rows of two elements, the second in a page that is not mapped. -/
def rows2 : State := vec (ct (fun c => { c with vrows := 2, vpitch := 8 }))

theorem rows2_item (e : Nat) (h : inAccess rows2 .tile e = true) : e < 4 := by
  have := inAccess_lt _ _ _ h
  have hc : countOf rows2.cur .tile = 4 := by decide +kernel
  omega

theorem witness_VectorAccessFaults_tile : kindOf rows2.cur = some .fp32 ∧ MemReady rows2 .tile ∧ inAccess rows2 .tile 2 = true ∧ 2 / vlOf rows2.cur * vlOf rows2.cur = 2 ∧
    (∀ e, inAccess rows2 .tile e = true → (vmItem rows2 1 .fp32 .tile 0 e).addr.toNat % ebytes .fp32 = 0) ∧
    (∀ k ∈ [Acc.load, .store], xlatN rows2 rows2.cur (vmItem rows2 1 .fp32 .tile 0 2).addr (ebytes .fp32) k = .error (.miss, 4096) ∧
      ∀ e < 2, xlatN rows2 rows2.cur (vmItem rows2 1 .fp32 .tile 0 e).addr (ebytes .fp32) k = .ok (two e, 0)) ∧
    (∀ e < 2, (∀ l ∈ two e, locFenced rows2 l = false) ∧ Clean rows2 (two e)) := by
  refine ⟨?_, ⟨calm_intro _ ?_ ?_, ?_⟩, ?_, ?_, fun e h => ?_, ?_, fun e h => ⟨?_, clean_of _ _ ?_⟩⟩
  case refine_7 =>
    have := rows2_item e h
    rcases (show e = 0 ∨ e = 1 ∨ e = 2 ∨ e = 3 by omega) with rfl | rfl | rfl | rfl <;> decide +kernel
  all_goals and_intros
  all_goals first | decide +kernel | (revert e; decide +kernel)

/-- A map whose one resident register is clean, or dirty, or has no slot. -/
theorem witness_MapInstructions_flush (dirty : Bool) : ∃ s : State, s = backed [(0, { entry := .resident 0 dirty false })] id ∧ Calm s ∧ s.cur.fols = [] ∧
    s.cur.folBad = [] ∧ s.cur.elim = none ∧
    checkTiles s (ownTiles ((heldSlots s.cur.map).map fun h => if h.dirty then Mv.spill h.reg h.slot h.land else .evict h.reg h.slot h.land)) = none ∧
    spilling (((heldSlots s.cur.map).map fun h => if h.dirty then Mv.spill h.reg h.slot h.land else .evict h.reg h.slot h.land).foldl applyMv s) s.cur = dirty ∧
    heldSlots (backed [] id).cur.map = [] ∧ spilling (backed [] id) (backed [] id).cur = false ∧
    (∀ q e, slotOf s.cur.map (1 : MReg) ≠ some (q, e, true)) := by
  have none' (m : NMap MapEntry) (h : slotOf m ((1 : MReg) : Nat) = none) : ∀ q e, slotOf m (1 : MReg) ≠ some (q, e, true) := fun q e he => by rw [h] at he; cases he
  cases dirty
  · refine ⟨_, rfl, calm_intro _ ?_ ?_, ?_, ?_, ?_, ?_, ?_, ?_, ?_, none' _ ?_⟩ <;> decide +kernel
  · refine ⟨_, rfl, calm_intro _ ?_ ?_, ?_, ?_, ?_, ?_, ?_, ?_, ?_, none' _ ?_⟩
    case refine_6 => exact checkTiles_one (backed held0 id) true 0 _ held0_places held0_unfenced
    case refine_7 =>
      have hm : (heldSlots (backed [(0, { entry := .resident 0 true false })] id).cur.map).map (fun h =>
          if h.dirty then Mv.spill h.reg h.slot h.land else .evict h.reg h.slot h.land) = [.spill 0 0 false] := by decide +kernel
      rw [hm, List.foldl_cons, List.foldl_nil]
      unfold spilling coreOf
      rw [cores_spill]
      decide +kernel
    all_goals decide +kernel

theorem witness_Attention_trap : ∃ s : State, s = grouped false (fun t => { t with grp := some { group1 0 with stop := .trap ⟨0x19, 0, 0⟩ }, pc := 8 }) ∧ Calm s ∧
    isResident s.cur.map (2 : MReg) = true ∧ (group1 0).last < (group1 0).total := by
  refine ⟨_, rfl, calm_intro _ ?_ ?_, ?_⟩ <;> and_intros <;> decide +kernel

theorem witness_Matching_abandoned : ∃ s : State, s = onThread (fun t => { t with elim := some (0, .request) }) mapped2 ∧ Calm s ∧ s.cur.elim = some (0, .request) ∧
    matchParent s href = .ok none ∧ resolveT s href .store = .ok href Config.wbase false ∧ matchPlaces (stepped s [(0, .read)]) href Config.wbase = .ok places2 := by
  refine ⟨_, rfl, calm_intro _ ?_ ?_, ?_⟩ <;> and_intros <;> decide +kernel

/-- A region of colours 1 and 2 whose directory at 0x1E000 gives its first page a STATE and one entry, of OLD 5, at 0x1F000. -/
def forwarding (page entry : Nat) : State :=
  wrWord 0x1F008 0x00F8000000020000 (wrWord 0x1F000 (BitVec.ofNat 64 (5 + entry * 2 ^ 62)) (wrWord 0x1E008 0x1F000
    (wrWord 0x1E000 (BitVec.ofNat 64 (1 + page * 2 ^ 62)) (wrWord 0x1B008 0x1E000 (wrWord 0x1B000 0x1205000000000000 (heap id))))))
/-- A reference of the older colour to the granule of that entry. -/
def oldRef : Word := 0x20F8000000000050

theorem witness_BarrierSlowPath (n : Nat) (hn : n ∈ [0, 1, 2, 3]) : let s := forwarding n (3 - n)
    let e : Region := ⟨1, [2], 1, 0x1E000⟩
    regionOf s 0 0x1B000 0 = some e ∧ fld oldRef 60 4 ∈ e.olds ∧ fld oldRef 60 4 ≠ e.good ∧ badPhys s (pageEntry e (refAddr oldRef)) 16 = false ∧
    fld (rdWord s (pageEntry e (refAddr oldRef))) 62 2 = n ∧ fld (rdWord s (pageEntry e (refAddr oldRef))) 0 13 = 1 ∧
    fld (rdWord s (pageItem s e (refAddr oldRef) 0)) 0 12 = refAddr oldRef / 16 % 4096 ∧ refAddr (oldRef + 16) / 16 % 4096 ≠ 5 ∧
    fld (rdWord s (pageItem s e (refAddr oldRef) 0)) 62 2 = 3 - n ∧ badPhys s (pageItem s e (refAddr oldRef) 0) 16 = false := by
  simp only [List.mem_cons, List.not_mem_nil, or_false] at hn
  rcases hn with rfl | rfl | rfl | rfl <;> decide +kernel

theorem witness_SyncWords_traps : ((reg inPage 1).toNat % 16 ≠ 0 ∧ scratchAt inPage inPage.cur (reg inPage 1) = none) ∧
    (∃ s : State, s = hdrWr 0 65536 24 (8 + (2 ^ 31 + 2 ^ 30) * 2 ^ 96 + 5 * 2 ^ 128) (scr (sr 1 0x00FF000000000000)) ∧ Calm s ∧ syncWord s (reg s 1) = .ok (0, 65536) ∧
      hdrRd s 0 65536 4 ≠ 0 ∧ wbit (flagsRd s 0 65536) 0 = false ∧ fld (flagsRd s 0 65536) 24 6 = 0 ∧ fld (flagsRd s 0 65536) 7 9 = 0 ∧
      malformedHeader s 0 65536 (flagsRd s 0 65536) (hdrRd s 0 65536 4) = false ∧ wbit (flagsRd s 0 65536) 31 = true ∧
      wbit (flagsRd s 0 65536) 30 = true ∧ s.pkg.mbt = none) := by
  refine ⟨?_, ⟨_, rfl, calm_intro _ ?_ ?_, ?_⟩⟩ <;> and_intros <;> decide +kernel

/-- The last thread of a record with a completion word at 64, or of one with a join block at 128. -/
def ending (src : Source) (f : State → State) : State :=
  let s := f (mm id)
  { s with packs := [{ pack0 with src := src, record := pack0.record }] }
def doneSrc : Source := ⟨0, 0, 64, 0, 0x10000, false⟩
def joinSrc : Source := ⟨0, 0, 0, 128, 0x10000, false⟩

theorem witness_End_words : (∃ s p, s = ending doneSrc (wrWord 0x15040 0) ∧ packOf s s.cur.pack = some p ∧ s.cur.live = true ∧ p.src.done ≠ 0 ∧ p.src.inside = false ∧
      p.src.join = 0 ∧ seqLocs (ticked s) p.src.pgroot p.src.done 8 true = some (physLocs 0x15040 8) ∧ recThreads p.record = 1) ∧
    (∀ n ∈ [1, 2], ∃ s p, s = ending joinSrc (wrWord 0x15080 (BitVec.ofNat 64 n)) ∧ packOf s s.cur.pack = some p ∧ p.src.done = 0 ∧ p.src.join ≠ 0 ∧
      (∀ m ∈ p.members, m.frame = s.cur.frame ∨ m.ended = true) ∧
      seqLocs (ticked s) p.src.pgroot p.src.join 16 true = some (physLocs 0x15080 16) ∧
      (let w0 : Word := BitVec.ofNat 64 (valueAt s ((physLocs 0x15080 16).take 8))
       fld w0 58 6 = 0 ∧ (1 < fld w0 0 32 ∨ (fld w0 0 32 = 1 ∧ valueAt s ((physLocs 0x15080 16).drop 8) = 0)))) := by
  refine ⟨⟨_, _, rfl, rfl, ?_⟩, fun n h => ⟨_, _, rfl, rfl, ?_⟩⟩
  · and_intros <;> decide +kernel
  · revert n; decide +kernel

/-- The same with a successor record at 256 for queue 0, which is open. -/
def succeeding : State :=
  let s := wrWord 0x15100 0 (wrWord 0x15088 256 (wrWord 0x15080 1 (queued 0x24 0 0 [0] id)))
  { s with packs := [{ pack0 with src := joinSrc }] }

theorem witness_End_successor : (let jl := physLocs 0x15080 16
    let w0 : Word := BitVec.ofNat 64 (valueAt succeeding (jl.take 8))
    let y := seqWrite joinSrc.pgroot joinSrc.join (jl.take 8) (leBytes 8 (setFld w0 0 32 (fld w0 0 32 - 1)).toNat) (ticked succeeding)
    fld w0 58 6 = 0 ∧ fld w0 0 32 = 1 ∧ fld w0 32 16 = 0 ∧ valueAt succeeding (jl.drop 8) = 256 ∧
    seqLocs y joinSrc.pgroot 256 64 false = some (physLocs 0x15100 64) ∧ Open y (fld w0 48 10) joinSrc.pgroot) := by
  refine ⟨?_, ?_, ?_, ?_, ?_, ?_, ?_⟩ <;> decide +kernel

/-- A follow-on whose matrix operand would begin at an address outside the scratchpad. -/
def badFollow : State := scr (fun t => sr 1 0x3FFFFF0 (sr 15 (BitVec.ofNat 64 ((encode (.mmas 1 1 0)).getD 0)) (folRegs t)))
theorem witness_FollowOns_trap : Calm badFollow ∧ badCmd .cpym (cmdWords .s8 badFollow) = false ∧ badAddr badFollow .cpym (cmdWords .s8 badFollow) = false ∧
    folInstr badFollow (fld (cmdWords .s8 badFollow)[7] 0 32) = some (.mmas 1 1 0) ∧ badFollow.cur.fols.length < 4 ∧
    (folCheck badFollow (.mmas 1 1 0)).isSome = true := by
  refine ⟨calm_intro _ ?_ ?_, ?_⟩ <;> and_intros <;> decide +kernel

/-- A FLIP that waits for core 0 alone. -/
def flipping : State := { withCmd { flipCmd with state := .flipping 0x1B000 } (heap id) with cores := [(0, { msplit := 4, lanepart := 8, oldEntry := [(0x1B000, 5)] })] }

theorem witness_Relocation_last : (tkeys (coreOf flipping 0).oldEntry).contains 0x1B000 = true ∧ (∀ k ∈ coresHold flipping 0x1B000, k = 0) ∧
    { flipCmd with state := .flipping 0x1B000 } ∈ (settOf flipping 0).cmds ∧
    cmdSpan (wrWord 0x1B010 (rdWord flipping 0x1B010 + 1) (wrWord 0x1B000 (setFld (rdWord flipping 0x1B000) 48 2 1) (ticked flipping))) flipCmd true false flipCmd.c[2] 8 =
      .ok (physLocs 0x15800 8) ∧ (physLocs 0x15800 8).Nodup ∧ (∀ j, j < 32 → Loc.phys (0x1B000 + j) ∉ physLocs 0x15800 8) := by
  refine ⟨?_, ?_, ?_, ?_, physLocs_nodup _ _, ?_⟩ <;> decide +kernel

/-- A MOVE of an object of 22 granules: unpinned, pinned, and half-way through. -/
def pinCmd : Cmd := cmdOf .reloc #v[0x10000000, 0, 2048, 1, 1, 0, 0, 0] id
def movingPinned : State := withCmd pinCmd (wrWord 0x40000000 (22 + 2 ^ 32) (moving 0))
def movingOn : State :=
  let s := wrWord 0x1F000 0x4000000000000000 (moving 0)
  withCmd { moveCmd 0 with moving := true } s

theorem witness_Relocation_entry : (∀ i j, i < j → j < 1 → i ≠ j) ∧
    (let new := refAddr (rdWord (moving 0) 0x1F008)
     Config.wbase ≤ new ∧ new < Config.wbase + 2 ^ 30 ∧ Config.wbase + 65536 ≤ new) ∧
    fld (BitVec.ofNat 64 (valueAt (moving 0) (physLocs 0x40000000 8))) 32 16 = 0 ∧
    (fld (BitVec.ofNat 64 (valueAt movingPinned (physLocs 0x40000000 8))) 32 16 ≠ 0 ∧ findCmd movingPinned 0 7 = some pinCmd ∧
      pinCmd.nrep < fld pinCmd.c[4] 0 32 ∧ cmdSpan (ticked movingPinned) pinCmd true false (pinCmd.c[2] + 8) 8 = .ok (physLocs 0x15808 8) ∧
      ∀ j, j < 16 → Loc.phys (0x1F000 + j) ∉ physLocs 0x15808 8) ∧
    (findCmd movingOn 0 7 = some { moveCmd 0 with moving := true } ∧
      cmdSpan (ticked movingOn) { moveCmd 0 with moving := true } false false (BitVec.ofNat 64 Config.wbase) 352 = .ok (physLocs 0x40000000 352) ∧
      cmdSpan (ticked movingOn) { moveCmd 0 with moving := true } true false (BitVec.ofNat 64 (Config.wbase + 0x20000)) 352 = .ok (physLocs 0x40020000 352) ∧
      (physLocs 0x40020000 352).Nodup ∧ ∀ j, j < 8 → Loc.phys (0x1F000 + j) ∉ physLocs 0x40020000 352) := by
  refine ⟨fun i j h _ => by omega, ?_, ?_, ?_, ?_, ?_, ?_, physLocs_nodup _ _, ?_⟩ <;> and_intros <;> decide +kernel

/-- A queue whose head is a code record of one thread that starts at address 4, with save frames and pools in address space 0. -/
def offered : State :=
  let s := wrWord 0x1A020 0x40000 (wrPhys 0x1D000 64 (rec1.toNat + 4 * 2 ^ 64) (spaced 0x24 0 1 [0] id))
  { s with cur := {}, pkg := { s.pkg with sf := some (0x100000, 4) } }

theorem witness_DispatchCode : ∃ x, headRecord offered 0 = some x ∧ intake x (spaceOf offered (queueAsid offered 0)).pool = 0 ∧ recKind x = 0 ∧ recWord x 4 = 0 ∧
    queueCount offered 0 ≠ 0 ∧ heldFor offered 0 = [] ∧
    choosePlace (ticked offered) (min (recPrio x) (queuePmax offered 0)) [0, 1, 2, 3] (fun k gone => placeNew (ticked offered) gone 0 x k (recThreads x) []) =
      some (0, [(0, 0)], []) ∧
    lowest (recThreads x) (spaceOf offered (queueAsid offered 0)).pool (poolsUsed offered (queueAsid offered 0)) = some [0] ∧
    lowest (recThreads x) (frameCount offered) (framesUsed offered) = some [0] := by
  refine ⟨rec1 + 4 * 2 ^ 64, ?_⟩; and_intros <;> decide +kernel

/-- A pack that waits for core 0, which is parked. -/
theorem witness_PackStart_barred : ∃ s : State, s = withPack .starting id { State.reset with cores := [(0, { parked := true })] } ∧
    packOf s 0 = some { pack0 with state := .starting } ∧ coreBarred s (32 * 0 + 0) = true ∧ (coreOf s 0).outOfService = false := by
  refine ⟨_, rfl, ?_⟩; and_intros <;> decide +kernel

theorem witness_PackStart_clear : ∃ s : State, s = withPack .starting id (housed State.reset) ∧ s.cores = [] ∧ (∀ t ∈ threads s, t.frame ∉ pack0.members.map (·.frame)) ∧
    (∀ m ∈ pack0.members, m.frame < frameCount s) := by
  refine ⟨_, rfl, rfl, ?_⟩; and_intros <;> decide +kernel

/-- One thread, which a save writes to frame 0. -/
theorem witness_PackSave_one : ∃ s t, s = housed (scr id) ∧ (threads s).filter (·.pack == 0) = [t] ∧ ((threads s).map (·.frame)).Nodup ∧ t.frame < frameCount s := by
  refine ⟨_, (housed (scr id)).cur, rfl, ?_⟩; and_intros <;> decide +kernel

theorem witness_PackRestore_registers : ∃ s : State, s = withPack .resuming id away ∧ s.pkg.dbg = none ∧ pack0.members.all (fun m => !m.idled) = true := by
  refine ⟨_, rfl, ?_⟩; and_intros <;> decide +kernel

/-- A set of address space 0 in the debug table at 0x60000, with a good header and with one that breaks the rules. -/
theorem witness_Debug_sets (bad : Bool) : ∃ s t, s = wrWord 0x62000 (if bad then 2 ^ 35 else 1) (ringed 0x28) ∧ t = s.cur ∧ s.pkg.dbg = some 0x60000 ∧ t ∈ threads s ∧ cidOf t = 0 ∧
    decide (fld (rdWord s (0x60000 + 0x2000 + 256 * asidOf t.ctl.pgroot)) 35 29 ≠ 0) = bad := by
  cases bad <;> refine ⟨_, _, rfl, rfl, ?_⟩ <;> and_intros <;> decide +kernel

/-- A fault entry that has room at the tail of its ring. -/
theorem witness_Debug_fault : ∃ s z, s = { State.reset with pkg := { State.reset.pkg with fq := some z, fqWait := [[1, 2, 3, 4, 5, 6, 7, 8]] } } ∧
    z = (⟨0x20000, 0x21000, 6⟩ : FaultQ) ∧ s.pkg.fqWait = [1, 2, 3, 4, 5, 6, 7, 8] :: [] ∧ s.pkg.fq = some z ∧ ([1, 2, 3, 4, 5, 6, 7, 8] : List Word).length = 8 ∧
    (rdPhys s (z.desc + 24) 4 + 2 ^ 32 - rdPhys s (z.desc + 16) 4) % 2 ^ 32 ≠ 2 ^ z.log2 ∧ z.desc + 32 ≤ z.ring + 64 * (rdPhys s (z.desc + 24) 4 % 2 ^ z.log2) := by
  refine ⟨_, _, rfl, rfl, ?_⟩; and_intros <;> decide +kernel

/-- The debug table can be moved while no ring is enabled, and not while one is. -/
theorem witness_Bases_debug (on : Bool) : ∃ s : State, s = { ringed (if on then 0x28 else 0x08) with work := [] } ∧ Serving s ∧ LocalTable s 0x60000 4096 1 ∧
    s.pkg.dbg = some 0x60000 ∧ ringEnabled s (ringDesc 0x60000 0) = on := by
  cases on <;> refine ⟨_, rfl, ⟨?_, ?_, ?_⟩, localTable_of _ _ _ _ ?_, ?_, ?_⟩ <;> decide +kernel

/-- A ring that its descriptor has disabled: with nothing left to write it falls inactive, with an end record owed it does not (R393, R395,
R397). -/
def fading (owed : Nat) : State :=
  { ringed 0x08 with work := [], cores := [(0, { ring := { desc := 0x60000, en := true, act := true, log2 := 8, base := 0x70000, owed := owed } })] }
theorem witness_Bases_ring (owed : Nat) (h : owed < 2) : Serving (fading owed) ∧ LocalTable (fading owed) 0x80000 4096 1 ∧ ringEnabled (fading owed) (ringDesc 0x60000 0) = false ∧
    (∀ c ∈ (fading owed).cores, c.2.ring.act = true) ∧ (coreOf (fading owed) 0).ring.queue = [] ∧ (coreOf (fading owed) 0).ring.owed = owed := by
  rcases (show owed = 0 ∨ owed = 1 by omega) with rfl | rfl <;> refine ⟨⟨?_, ?_, ?_⟩, localTable_of _ _ _ _ ?_, ?_, ?_, ?_, ?_⟩ <;> decide +kernel

theorem witness_Background_unpark : ∃ s : State, s = { inMailbox (fun m => { m with background := some (.unpark 0 1) }) with cores := [(0, { parked := true })] } ∧
    s.pkg.mbox.background = some (.unpark 0 1) ∧ (coreOf s (32 * 0 + 0)).parked = true ∧ (1 : BitVec 32).getLsbD 0 = true := by
  refine ⟨_, rfl, ?_⟩; and_intros <;> decide +kernel

/-- Ranges that a peer may name, in this package and in another of the pod. -/
theorem witness_HostAndResets_ranges : ∃ s : State, s = fleet (fun p => { p with peers := [5] }) ∧ memRange s 8 8 = true ∧ memRange s (5 * 2 ^ 39 + 8) 4 = true ∧
    memRange s 1 1 = true ∧ ownRange s 0 16 = true ∧ badPhys s 8 8 = false ∧ (fleet (fun p => { p with fwfail := true })).pkg.fwfail = true := by
  refine ⟨_, rfl, ?_⟩; and_intros <;> decide +kernel

/-- With no address space the page at 4,096 is 4 KiB, inside no other. -/
theorem witness_HostAndResets_pages : pageSpan (fleet id) 4096 = 4096 ∧ memRange (fleet id) 4096 4096 = true ∧ memRange (fleet id) 8192 4096 = true ∧ allLeaves (fleet id) = [] := by
  refine ⟨?_, ?_, ?_, ?_⟩ <;> decide +kernel

/-- A group that resumes: the thread stands at a load, with the addition behind it still of its group (R192). -/
def chained : State := { wrPhys 0x15004 4 ((encode (.vadd 5 4 (.vec 4))).getD 0) (wrPhys 0x15000 4 ((encode (.vld 4 1 .fp32 .unit 0 0)).getD 0)
  (vec (fun t => { t with chain := 1 }))) with turns := [] }

theorem witness_StepRunsDecoded_chain : pcBrk (settle chained) [0] = none ∧ groupBrk (.vld 4 1 .fp32 .unit 0 0) (settle chained) = none ∧
    (fetchAt (settle chained) (settle chained).cur 0).toOption = encode (.vld 4 1 .fp32 .unit 0 0) ∧
    chainBehind (.vld 4 1 .fp32 .unit 0 0) (settle chained) = [.vadd 5 4 (.vec 4)] ∧ setOf (settle chained) (settle chained).cur = [] := by
  refine ⟨?_, ?_, ?_, ?_, ?_⟩ <;> decide +kernel

theorem witness_StepRunsDecoded_fetch : ∃ s : State, s = mm (fun t => { t with pc := 4096 }) ∧ AtTurn s (settle s) ∧ pcBrk (settle s) [4096] = none ∧
    fetchAt (settle s) (settle s).cur (settle s).cur.pc = .error ⟨0x10, 4096, 0⟩ := by
  refine ⟨_, rfl, ⟨.inl ⟨rfl, rfl⟩, rfl, rfl, rfl, rfl, rfl, rfl, rfl, rfl, ?_⟩, ?_, ?_⟩ <;> decide +kernel

/-! ## Hypotheses of the clauses on several levels, failing elements and atomics, and on what follows a merge or a flip -/

/-- Two levels that end at address 8, an outer LOOPV with three to go and an inner LOOP on its last pass; or the outer one with VL = 0. -/
def nested (vl : Word) (inner : Bool) : State :=
  mm (fun t => sr 1 4088 { ct (fun c => { c with ldepth := 2, lcnt := vput (vput c.lcnt 0 3) 1 1, lend := vput (vput c.lend 0 8) 1 8, vl := vl, lanes := 8, vlcap := 9 }) t with
    pc := 8, lkind := vput (vput t.lkind 0 true) 1 inner })

theorem witness_BackEdges_levels : (nested 2 true).cur.pend = [] ∧ inSup (nested 2 true).cur = false ∧ depthOf (nested 2 true).cur = 1 + 1 ∧
    (∀ j, j ≤ 1 → lendOf (nested 2 true).cur j = (nested 2 true).cur.pc) ∧
    (vnth (nested 2 true).cur.lkind false 1 = true ∧ 0 < vlOf (nested 2 true).cur ∧ (lvl (nested 2 true).cur.ctl.lcnt 1).toNat ≤ vlOf (nested 2 true).cur) ∧
    (vnth (nested 2 true).cur.lkind false 0 = true ∧ vlOf (nested 2 true).cur < (lvl (nested 2 true).cur.ctl.lcnt 0).toNat) ∧
    (vnth (nested 0 false).cur.lkind false 1 = false ∧ (lvl (nested 0 false).cur.ctl.lcnt 1).toNat ≤ 1 ∧ vlOf (nested 0 false).cur = 0) ∧
    (nested 2 true).cur.h[2] = 0 ∧
    Reached (nested 2 true) (effective (nested 2 true) 1 0) 8 .scalarLoad (physLocs 0x15FF8 8) ∧
    Reached (nested 2 true) (effective (nested 2 true) 1 0) 8 .scalarStore (physLocs 0x15FF8 8) ∧ (∀ l ∈ physLocs 0x15FF8 8, poisoned (nested 2 true) l = false) := by
  refine ⟨?_, ?_, ?_, ?_, ?_, ?_, ?_, ?_, reached_of _ _ _ 0 _ _ ?_ ?_ ?_ ?_, reached_of _ _ _ 0 _ _ ?_ ?_ ?_ ?_, ?_⟩ <;> and_intros <;> decide +kernel

/-- Two elements in two sectors, the second of which is poisoned. -/
def straddle (f : Thread → Thread) : State := { vec (fun t => f (sr 1 4060 t)) with poison := [0x15FE0 / 32] }
def apart (e : Nat) : List Loc := physLocs (0x15FDC + 4 * e) 4

theorem straddle_vl : vlOf (straddle id).cur = 2 ∧ countOf (straddle id).cur .unit = 2 := by decide +kernel

theorem straddle_accessed (e : Nat) (h : e < 2) : Accessed (straddle id) .fp32 .load (vmItem (straddle id) 1 .fp32 .unit 0 e) (apart e) ∧
    Accessed (straddle id) .fp32 .load (idxItem (straddle id) 1 .fp32 2 e) (apart e) ∧ (e < 1 → Clean (straddle id) (apart e)) := by
  refine ⟨?_, ?_, fun h1 => ?_⟩
  · rcases (show e = 0 ∨ e = 1 by omega) with rfl | rfl <;> exact accessed_of _ _ _ _ _ 0 (by decide +kernel) (by decide +kernel) (by decide +kernel)
  · rcases (show e = 0 ∨ e = 1 by omega) with rfl | rfl <;> exact accessed_of _ _ _ _ _ 0 (by decide +kernel) (by decide +kernel) (by decide +kernel)
  · obtain rfl : e = 0 := by omega
    exact clean_of _ _ (by decide +kernel)

theorem witness_PoisonAndAtomicFaults : kindOf (straddle id).cur = some .fp32 ∧ MemReady (straddle id) .unit ∧ VecReady (straddle id) (sewOf (straddle id).cur) ∧
    (inAccess (straddle id) .unit 1 = true ∧ body (straddle id) 1 = true ∧ ∃ l ∈ apart 1, poisoned (straddle id) l = true) ∧
    ∀ e, e < 2 → Accessed (straddle id) .fp32 .load (vmItem (straddle id) 1 .fp32 .unit 0 e) (apart e) ∧
      Accessed (straddle id) .fp32 .load (idxItem (straddle id) 1 .fp32 2 e) (apart e) ∧ (e < 1 → Clean (straddle id) (apart e)) := by
  refine ⟨?_, ⟨calm_intro _ ?_ ?_, ?_⟩, ⟨calm_intro _ ?_ ?_, ?_⟩, ?_, straddle_accessed⟩
  all_goals and_intros
  all_goals decide +kernel

/-- Integer elements: the second beyond the mapped page, in a poisoned sector, or in a page of CLASS device-io. -/
def cutInt : State := vec (fun t => ct (fun c => { c with vtype := 0x605 }) (sr 1 4092 t))
def struckInt : State := straddle (ct (fun c => { c with vtype := 0x605 }))
def ioInt : State := { wrWord 0x14000 (rdWord vecInt 0x14000 ||| 0x180) vecInt with past := [] }

theorem witness_VectorAtomics_fail : (VecReady cutInt (sewOf cutInt.cur) ∧ kindOf cutInt.cur = some .i32 ∧ vlOf cutInt.cur = 2 ∧ body cutInt 1 = true ∧
      xlatN cutInt cutInt.cur (idxItem cutInt 1 .int32 2 0).addr (ebytes .int32) .store = .ok (physLocs 0x15FFC 4, 0) ∧
      xlatN cutInt cutInt.cur (idxItem cutInt 1 .int32 2 1).addr (ebytes .int32) .store = .error (.miss, 4096)) ∧
    (VecReady struckInt (sewOf struckInt.cur) ∧ vlOf struckInt.cur = 2 ∧ body struckInt 1 = true ∧ (∃ l ∈ apart 1, poisoned struckInt l = true) ∧ Clean struckInt (apart 0) ∧
      ∀ e ∈ [0, 1], xlatN struckInt struckInt.cur (idxItem struckInt 1 .int32 2 e).addr (ebytes .int32) .store = .ok (apart e, 0) ∧ ∀ l ∈ apart e, locFenced struckInt l = false) ∧
    (VecReady ioInt (sewOf ioInt.cur) ∧ vlOf ioInt.cur = 2 ∧ body ioInt 0 = true ∧
      ∀ e ∈ [0, 1], xlatN ioInt ioInt.cur (idxItem ioInt 1 .int32 2 e).addr (ebytes .int32) .store = .ok (two e, 3)) := by
  refine ⟨⟨⟨calm_intro _ ?_ ?_, ?_⟩, ?_⟩, ⟨⟨calm_intro _ ?_ ?_, ?_⟩, ?_, ?_, ?_, clean_of _ _ ?_, ?_⟩, ⟨⟨calm_intro _ ?_ ?_, ?_⟩, ?_⟩⟩ <;> and_intros <;> decide +kernel

/-- A matrix of two rows of one column, the second row beyond the mapped page or in a poisoned sector. -/
def tall (base : Word) (poison : List Nat) : State := { mx someMap (fun t => sr 2 4 (sr 1 base (ct (fun c => { c with mshape := 0x10102, vpitch := 4 }) t))) with poison := poison }

theorem witness_TileFaults : (∃ s : State, s = tall 4092 [] ∧ Calm s ∧ s.cur.elim = none ∧ LegalShape s.cur ∧ eprogOf s.cur = 0 ∧ rowsOf s.cur * colsOf s.cur = 2 ∧ colsOf s.cur = 1 ∧
      Mapped s [(1, .full)] (stepped s [(1, .full)]) ∧ Mapped s [(1, .read)] (stepped s [(1, .read)]) ∧
      (∀ e ∈ [0, 1], mBad (stepped s [(1, .read)]) (1 : MReg) (· == 64 * (e / 1) + e % 1) = none) ∧
      ∀ p ∈ [(MAcc.full, Acc.load), (.read, .store)], let u := stepped s [(1, p.1)]
        xlatN u u.cur 4092 4 p.2 = .ok (physLocs 0x15FFC 4, 0) ∧ (physLocs 0x15FFC 4).all (fun l => !poisoned u l && !locFenced u l) = true ∧ xlatN u u.cur 4096 4 p.2 = .error (.miss, 4096)) ∧
    (∃ s : State, s = tall 4060 [0x15FE0 / 32] ∧ Calm s ∧ LegalShape s.cur ∧ Mapped s [(1, .full)] (stepped s [(1, .full)]) ∧
      (∃ l ∈ apart 1, poisoned (stepped s [(1, .full)]) l = true) ∧ Clean (stepped s [(1, .full)]) (apart 0) ∧
      ∀ e ∈ [0, 1], xlatN (stepped s [(1, .full)]) (stepped s [(1, .full)]).cur (4060 + BitVec.ofNat 64 (4 * e)) 4 .load = .ok (apart e, 0) ∧
        ∀ l ∈ apart e, locFenced (stepped s [(1, .full)]) l = false) := by
  refine ⟨⟨_, rfl, calm_intro _ ?_ ?_, ?_, ⟨?_, ?_, ?_, ?_⟩, ?_, ?_, ?_, mapped_of _ _ ?_ ?_ ?_, mapped_of _ _ ?_ ?_ ?_, ?_⟩,
    ⟨_, rfl, calm_intro _ ?_ ?_, ⟨?_, ?_, ?_, ?_⟩, mapped_of _ _ ?_ ?_ ?_, ?_, clean_of _ _ ?_, ?_⟩⟩
  all_goals and_intros
  all_goals decide +kernel

/-- The word at the end of the page as an atomic's place: of CLASS device-io. -/
def inIo : State := { wrWord 0x14000 (rdWord inPage 0x14000 ||| 0x180) inPage with past := [] }

/-- The same where the page lies in a peer that no port fences, with the reply abandoned (R360). -/
def abandonedFar : State := onThread (fun t => { t with elim := some (0, .abandon) }) { inFence with pkg := { inFence.pkg with fenced := [] } }

theorem witness_AtomicTraps : (Calm inPage ∧ (reg (mm (sr 1 4090)) 1).toNat % 4 ≠ 0 ∧ canonical (reg (one (sr 1 (2 ^ 60))) 1) = false) ∧
    xlatN out out.cur (reg out 1) 4 .store = .error (.miss, 4096) ∧
    (∃ s : State, s = mm (sr 1 0x00FF000000000000) ∧ Calm s ∧ xlatN s s.cur (reg s 1) 4 .store = .error (.addr, 0x00FF000000000000)) ∧
    xlatN inBadTable inBadTable.cur (reg inBadTable 1) 8 .store = .error (.ecc, 4088) ∧
    xlatN inIo inIo.cur (reg inIo 1) 8 .store = .ok (physLocs 0x15FF8 8, 3) ∧
    (xlatN inPoison inPoison.cur (reg inPoison 1) 8 .store = .ok (physLocs 0x15FF8 8, 0) ∧ (∃ l ∈ physLocs 0x15FF8 8, poisoned inPoison l = true) ∧
      ∀ l ∈ physLocs 0x15FF8 8, oneLost inPoison l = false) ∧
    ∀ s ∈ [inFence, abandonedFar], xlatN s s.cur (reg s 1) 8 .store = .ok (physLocs (2 ^ 39 + 4088) 8, 0) ∧ ∃ l ∈ physLocs (2 ^ 39 + 4088) 8, oneLost s l = true := by
  refine ⟨⟨inPage_calm, ?_⟩, ?_, ⟨_, rfl, calm_intro _ ?_ ?_, ?_⟩, ?_⟩ <;> and_intros <;> decide +kernel

/-- A merging landing word, not armed, with a merge table. -/
theorem witness_SyncWords_merging : ∃ s : State, s = { hdrWr 0 65536 24 (8 + (2 ^ 31 + 2 ^ 30) * 2 ^ 96 + 5 * 2 ^ 128) (scr (sr 1 0x00FF000000000000)) with
      pkg := { State.reset.pkg with mbt := some 0x20000 } } ∧ Calm s ∧ syncWord s (reg s 1) = .ok (0, 65536) ∧ hdrRd s 0 65536 4 ≠ 0 ∧
    wbit (flagsRd s 0 65536) 0 = false ∧ fld (flagsRd s 0 65536) 24 6 = 0 ∧ fld (flagsRd s 0 65536) 7 9 = 0 ∧
    malformedHeader s 0 65536 (flagsRd s 0 65536) (hdrRd s 0 65536 4) = false ∧ wbit (flagsRd s 0 65536) 31 = true ∧ wbit (flagsRd s 0 65536) 30 = true ∧
    s.pkg.mbt ≠ none := by
  refine ⟨_, rfl, calm_intro _ ?_ ?_, ?_⟩ <;> and_intros <;> decide +kernel

/-- A contribution of two heads. -/
theorem witness_LandingTiles_heads : ∃ (s : State) (c : Contribution), s = merging (2 ^ 31 + 16) (fun t => { t with sent := true }) ∧
    c = ⟨0, 255, 63, 1, [(0x3F80000000000000, [0x3F800000]), (0x3F80000000000000, [0x40000000])]⟩ ∧ localSender s c.place ≠ none ∧ c.cols ≤ 64 ∧
    (∀ y ∈ c.heads, y.2.length = c.cols) ∧ ∀ h < 2, ((c.heads[h]?).bind fun y =>
      mergeHead (BitVec.ofNat 64 (hdrRd s 0 (65536 + 64 + 8 * h) 8)) ((List.range 1).map fun j => tileElt (tileOf (coreOf s 0) 5) (64 * h + j)) y.1 y.2).isSome = true := by
  refine ⟨_, _, rfl, rfl, ?_⟩; and_intros <;> decide +kernel

/-- A doorbell that passes HEAD by more than the ring's size and TAIL by less, and descriptors that the checks refuse at their edges. -/
theorem witness_Queues_more : (∃ s : State, s = spaced 0x64 2 10 [0] id ∧ queueEnabled s 0 = true ∧ queueHost s 0 = true ∧
      ((19 : BitVec 32) - queueTail s 0).toNat ≤ queueSize s 0 ∧ queueSize s 0 < ((19 : BitVec 32) - queueHead s 0).toNat) ∧
    (∀ n ∈ [17, 0x84, 0x2004], ∃ s : State, s = spaced (BitVec.ofNat 64 n) 0 0 [] id ∧ s.pkg.qt ≠ none ∧ queueEnabled s 0 = false ∧ s.pkg.fwfail = false ∧
      (16 < fld (setFld (queueWord s 0 1) 5 1 1) 0 5 ∨ fld (setFld (queueWord s 0 1) 5 1 1) 13 51 ≠ 0 ∨ wbit (setFld (queueWord s 0 1) 5 1 1) 7 = true)) ∧
    (∃ s : State, s = wrWord 0x1C000 0x1D008 (spaced 4 0 0 [] id) ∧ s.pkg.qt ≠ none ∧ queueEnabled s 0 = false ∧ fld (queueWord s 0 0) 0 12 ≠ 0) := by
  refine ⟨⟨_, rfl, ?_⟩, fun n h => ⟨_, rfl, ?_⟩, ⟨_, rfl, ?_⟩⟩
  case refine_2 => revert n; decide +kernel
  all_goals and_intros <;> decide +kernel

/-- A loop record whose count ends or goes on, each with a successor. -/
theorem witness_Nodes_loop (last : Bool) : ∃ (s : State) (x : Rec), s = wrWord 0x15008 (if last then 1 else 3) (spaced 0x24 0 0 [0] id) ∧ x = rec8 2 8 0 0 0 64 128 ∧
    recWord x 4 = 0 ∧ recWord x 3 = 0 ∧ seqLocs (ticked s) (spaceOf s (queueAsid s 0)).pgroot (recWord x 1) 8 true = some (locs8 8) ∧
    BitVec.ofNat 64 (valueAt s (locs8 8)) = (if last then (1 : Word) else 3) ∧ recWord x 5 ≠ 0 ∧ recWord x 6 ≠ 0 ∧
    (let y := seqWrite (spaceOf s (queueAsid s 0)).pgroot (recWord x 1) (locs8 8) (leBytes 8 (if last then 0 else 2)) (ticked s)
     seqLocs y (spaceOf s (queueAsid s 0)).pgroot (if last then 128 else 64) 64 false = some (physLocs (0x15000 + if last then 128 else 64) 64) ∧
     Open y (0 : Fin 1024) (spaceOf s (queueAsid s 0)).pgroot) := by
  cases last <;> refine ⟨_, _, rfl, rfl, ?_⟩ <;> and_intros <;> decide +kernel

/-- A CPYM with a good follow-on whose addresses are not good, in a full sett, or with four follow-ons pending. -/
theorem witness_CopyCommands_statuses : (∃ s : State, s = scr (fun t => sr 9 (2 ^ 60) (folRegs t)) ∧ Calm s ∧ s.cur.sett < 4 ∧ badCmd .cpym (cmdWords .s8 s) = false ∧
      folInstr s (fld (cmdWords .s8 s)[7] 0 32) ≠ none ∧ badAddr s .cpym (cmdWords .s8 s) = true) ∧
    (∃ s : State, s = { scr folRegs with setts := (scr folRegs).setts.set 0 { cmds := List.replicate 256 (cmdOf .cpy copyWords id) } } ∧ Calm s ∧ s.cur.sett < 4 ∧
      badCmd .cpym (cmdWords .s8 s) = false ∧ folInstr s (fld (cmdWords .s8 s)[7] 0 32) ≠ none ∧ badAddr s .cpym (cmdWords .s8 s) = false ∧ 256 ≤ (settOf s s.cur.sett).cmds.length) ∧
    (∃ s : State, s = scr (fun t => { folRegs t with fols := List.replicate 4 folReadyOne }) ∧ Calm s ∧ s.cur.sett < 4 ∧ badCmd .cpym (cmdWords .s8 s) = false ∧
      folInstr s (fld (cmdWords .s8 s)[7] 0 32) ≠ none ∧ badAddr s .cpym (cmdWords .s8 s) = false ∧ (settOf s s.cur.sett).cmds.length < 256 ∧ 4 ≤ s.cur.fols.length) := by
  refine ⟨⟨_, rfl, calm_intro _ ?_ ?_, ?_⟩, ⟨_, rfl, calm_intro _ ?_ ?_, ?_⟩, ⟨_, rfl, calm_intro _ ?_ ?_, ?_⟩⟩ <;> and_intros <;> decide +kernel

/-- A follow-on with a reserved bit in its descriptor. -/
theorem witness_FollowOns_ill : ∃ s e, s = scr (fun t => sr 1 (2 ^ 63) (sr 15 (BitVec.ofNat 64 ((encode (.mmas 1 1 0)).getD 0)) (folRegs t))) ∧
    folInstr s (fld (cmdWords .s8 s)[7] 0 32) = some (.mmas 1 1 0) ∧ folCheck s (.mmas 1 1 0) = some e ∧ e.cause = 0x01 := by
  refine ⟨_, ⟨1, 0, 0⟩, rfl, ?_⟩; and_intros <;> decide +kernel

/-- The directory entry of the flipped page lies apart from the region's words. -/
theorem witness_Relocation_directory : dirPa ⟨1, [], 1, 0⟩ 0 + 8 ≤ 0x1B000 ∧ (cidOf (withCmd flipCmd (heap id)).cur) = 0 := by decide +kernel

/-- The last core to acknowledge, which has done so as it fell idle. -/
theorem witness_Relocation_idle : (tkeys (coreOf { flipping with cores := [] } 0).oldEntry).contains 0x1B000 = false ∧
    coresHold { flipping with cores := [] } 0x1B000 = [] ∧ { flipCmd with state := .flipping 0x1B000 } ∈ (settOf { flipping with cores := [] } 0).cmds := by decide +kernel

/-- The edges of the two temperatures. -/
theorem witness_FleetEvents_refresh : (fleet id).pkg.doubled.contains (0 : Fin 8).val = false ∧ 850 < (851 : BitVec 12).toNat ∧ ¬ 850 < (850 : BitVec 12).toNat ∧
    (fleet (fun p => { p with doubled := [0] })).pkg.doubled.contains (0 : Fin 8).val = true ∧ (820 : BitVec 12).toNat ≤ 820 ∧ 820 < (821 : BitVec 12).toNat := by
  decide +kernel

/-! ## Hypotheses of the claims about decoding and whole steps, and single steps from a fetched word -/

theorem witness_DecodeEncode : (Instr.add 5 6 7 2).wellFormed = true ∧ encode (.add 5 6 7 2) = some 0x02531C02 ∧ decode 0x02531C02 = .ok (.add 5 6 7 2) := by decide

/-- The machine after reset about to run one word, with values in s6 and s7. -/
def about (w : Nat) : State := (onThread (fun t => sr 7 3 (sr 6 0xFFFFFFFFFFFFFFFF t)) (State.reset.withFetchWord 32 w))

def nextOk (o : Host.Outcome State Fault Refusal) (p : State → Bool) : Bool :=
  match o with
  | .next t => p t
  | _ => false

theorem nextOk_iff (o : Host.Outcome State Fault Refusal) (p : State → Bool) (h : nextOk o p = true) : ∃ t, o = .next t ∧ p t = true := by
  cases o <;> simp_all [nextOk]

theorem issues_about (w : Nat) (h : (fetchAt (settle (about w)) (settle (about w)).cur (settle (about w)).cur.pc).toOption = some w)
    (h2 : haltDue (settle (about w)) (settle (about w)).cur = false) : Issues (about w) (settle (about w)) w := by
  refine ⟨⟨.inl ⟨rfl, rfl⟩, rfl, rfl, rfl, rfl, rfl, rfl, rfl, rfl, h2⟩, ?_⟩
  · revert h
    cases fetchAt (settle (about w)) (settle (about w)).cur (settle (about w)).cur.pc <;> simp [Except.toOption]

theorem witness_StepRunsDecoded : Issues (about 0x02531C00) (settle (about 0x02531C00)) 0x02531C00 ∧ decode 0x02531C00 = .ok (.add 5 6 7 0) ∧
    AtTurn (about 0x02531C00) (settle (about 0x02531C00)) ∧ pcBrk (settle (about 0x02531C00)) [0] = none ∧ groupBrk (.add 5 6 7 0) (settle (about 0x02531C00)) = none ∧
    chainBehind (.add 5 6 7 0) (settle (about 0x02531C00)) = [] ∧ elemBrk (.add 5 6 7 0) (settle (about 0x02531C00)) = none ∧ Untraced (settle (about 0x02531C00)) ∧
    (∃ t, exec (.add 5 6 7 0) (settle (about 0x02531C00)) = .next t ∧ (!t.cur.logged && !(coreOf t (cidOf t.cur)).ring.en) = true) ∧
    (Issues (about 1) (settle (about 1)) 1 ∧ decode 1 = .error .ill) := by
  refine ⟨issues_about _ ?_ ?_, ?_, (issues_about _ ?_ ?_).1, ?_, ?_, ?_, ?_, ⟨rfl, rfl, ?_⟩, nextOk_iff _ _ ?_, issues_about _ ?_ ?_, ?_⟩ <;> decide +kernel

theorem witness_StepKeepsMemoryForm : Inv (about 0x02531C00) ∧ ∃ t, step (about 0x02531C00) = .next t ∧ (t.cur.pc == 4) = true :=
  ⟨show _ = true by decide +kernel, nextOk_iff _ _ (by decide +kernel)⟩

/-- The same with breakpoint entries at address 0: entries of the set of address space 0. -/
def broken (ws : List Word) : State := watched ws (about 0x02531C00)
def entries (k : Nat) : List Word := List.replicate (4 * k) 0 ++ [0x4000000000000000, 0, 0, 0] ++ List.replicate (28 - 4 * k) 0

theorem witness_BreakpointStops (first : Bool) : ∃ s u k b, s = broken (entries (if first then 1 else 7)) ∧ u = settle s ∧ k = (if first then 1 else 7) ∧
    AtTurn s u ∧ inSup u.cur = false ∧ brkAt u u.cur k = some b ∧ b.type = 1 ∧ b.addr = u.cur.pc ∧ u.cur.brkSkip ≠ some k ∧
    ∀ j, 1 ≤ j → j < k → brkAt u u.cur j = none := by
  refine ⟨_, _, _, ⟨1, 0, 0, 0, 0⟩, rfl, rfl, rfl, ⟨.inl ⟨rfl, rfl⟩, rfl, rfl, rfl, rfl, rfl, rfl, rfl, rfl, ?_⟩, ?_, ?_, rfl, rfl, ?_, ?_⟩
  · revert first; decide +kernel
  · revert first; decide +kernel
  · revert first; decide +kernel
  · revert first; decide +kernel
  · intro j h1 h2
    cases first
    · have h : ∀ j, j < 7 → brkAt (settle (broken (entries 7))) (settle (broken (entries 7))).cur j = none := by decide +kernel
      exact h j h2
    · exact absurd h2 (by simp at *; omega)

/-- ADD wraps (R116), a word of no instruction traps (R90). -/
theorem test_step_add : nextOk (step (about 0x02531C00)) (fun t => t.cur.s[5] == 2 && t.cur.pc == 4 && t.cur.seq == 1) = true := by decide +kernel
theorem test_step_illegal : nextOk (step (about 1)) (fun t => t.cur.trapped || t.cur.parking.isSome) = true := by decide +kernel

/-! ## Single instructions, with the corner values of the tables of the manual (R116-R119, R123, R126, R138, R140) -/

/-- Scalar register `r` after an instruction, where it answers a next state. -/
def sAfter (i : Instr) (s : State) (r : SReg) (x : Word) : Bool := nextOk (exec i s) (fun t => reg t r == x)

theorem test_add_discards : sAfter (.add 0 2 2 0) edge 0 0 = true := by decide +kernel
theorem test_sub_wraps : sAfter (.sub 5 1 2 0) edge 5 0x8000000000000001 = true := by decide +kernel
theorem test_sra : sAfter (.sra 5 1 2 0) edge 5 0xFFFFFFFFFFFFFFFF = true := by decide +kernel
theorem test_mulh : sAfter (.mulh 5 2 2 0) edge 5 0 = true ∧ sAfter (.mulhU 5 2 2 0) edge 5 0xFFFFFFFFFFFFFFFE = true := by decide +kernel
theorem test_div_corners : sAfter (.div 5 1 2 0) edge 5 0x8000000000000000 = true ∧ sAfter (.divU 5 1 0 0) edge 5 0xFFFFFFFFFFFFFFFF = true := by decide +kernel
theorem test_rem_corners : sAfter (.rem 5 1 2 0) edge 5 0 = true ∧ sAfter (.remU 5 1 0 0) edge 5 0x8000000000000000 = true := by decide +kernel
theorem test_clz_popc : sAfter (.clz 5 0 0) edge 5 64 = true ∧ sAfter (.popc 5 2 0) edge 5 64 = true := by decide +kernel
theorem test_slt : sAfter (.slt 5 1 0 0) edge 5 1 = true ∧ sAfter (.sltu 5 1 0 0) edge 5 0 = true := by decide +kernel
theorem test_lui_negative : sAfter (.lui 5 0x80000) edge 5 0xFFFFFFFF80000000 = true := by decide +kernel
theorem test_addi_negative : sAfter (.addi 5 0 0x1FFF 0) edge 5 0xFFFFFFFFFFFFFFFF = true := by decide +kernel
theorem test_fadd : sAfter (.fadd 5 6 6 .rne 0) (one (sr 6 0x3F800000)) 5 0x40000000 = true := by decide +kernel
theorem test_fdiv : sAfter (.fdiv 5 6 7 .rne 0) (one (fun t => sr 7 0x40000000 (sr 6 0x3F800000 t))) 5 0x3F000000 = true := by decide +kernel
theorem test_jal_links : nextOk (exec (.jal 1 2) flat) (fun t => reg t 1 == 8 && t.cur.pc == 12) = true := by decide +kernel
theorem test_store_then_load : nextOk (exec (.stW 1 2 0 0) (mm (fun t => sr 2 64 (sr 1 0xFFFFFFFF80000001 t))))
    (fun t => sAfter (.ldB 5 2 3 0) t 5 0xFFFFFFFFFFFFFF80 && sAfter (.ldHu 5 2 0 0) t 5 1) = true := by decide +kernel
theorem test_misaligned : nextOk (exec (.ldD 5 2 4 0) (mm (ct (fun c => { c with evec := 8 })))) (fun t => t.cur.trapped && t.cur.ctl.eval == 4 && t.cur.pc == 8) = true := by
  decide +kernel
theorem test_amoadd : nextOk (exec (.amoaddW 5 2 3 false false .package 0) (mm (fun t => sr 3 5 (sr 2 64 t))))
    (fun t => sAfter (.ldW 6 2 0 0) t 6 5 && reg t 5 == 0) = true := by decide +kernel
theorem test_trap_enters : nextOk (exec (.trap 0x123) handled) (fun t => inSup t.cur && t.cur.ctl.epc == 4 && t.cur.ctl.eval == 0x123 && t.cur.pc == 8) = true := by decide +kernel

/-- An entry that loses its permission to be written may serve until a shootdown of its page (R345). -/
def lowered : State := wrWord 0x14000 (rdWord inPage 0x14000 &&& ~~~(2 : Word)) (noteRoots inPage)
def heldW (s : State) : List Bool :=
  let g := s.cur.ctl.pgroot
  (heldLeaves s g 0 [] (walkWas s [] g 0).toOption.toList s.past).map (·.w)
theorem test_stale_entry : heldW lowered = [false, true] ∧ heldW (shoot 0 0 1 lowered) = [false] ∧
    heldW (shoot 0 4096 1 lowered) = [false, true] ∧ heldW (shoot 1 0 1 lowered) = [false, true] := by decide +kernel
/-- The same word written before any thread ran under the root was no translation of it (R344). -/
theorem test_never_walked : heldW (noteRoots (wrWord 0x14000 (rdWord inPage 0x14000 &&& ~~~(2 : Word)) inPage)) = [false] := by decide +kernel

/-- MRECV of a header whose SLOT is a register's slot binds nothing (R10, log entry 31). -/
theorem test_recv_no_slot : nextOk (exec (.mrecv 3 1) (landingIn 1 16384 (2 ^ 31 + 32) (sr 1 0x00FF000000000000)))
    (fun t => (slotOf t.cur.map 3).isNone && slotOf t.cur.map 1 == some (0, true, false)) = true := by decide +kernel

/-- A TLB entry is tagged with the ASID alone: what another root of the address space has mapped may serve until a shootdown (R344). -/
theorem test_other_root : let s := settle (onThread (ct (fun c => { c with pgroot := 0x18000 })) (settle inPage))
    ((tlbLeaves s 0x18000 0 (walkWas s [] 0x18000 0)).map (·.pa) = [0x15000] ∧ tlbLeaves (shoot 0 0 1 s) 0x18000 0 (.error .miss) = []) := by decide +kernel

/-- The barrier meets poison in a forwarding entry that its search compares (R190, R251, log entry 14). -/
theorem test_poisoned_entry : resolveT { forwarding 1 2 with poison := [0x1F000 / 32] } (oldRef + 16) .load = .ecc (refAddr (oldRef + 16)) ∧
    resolveT (forwarding 1 2) (oldRef + 16) .load = .ok (oldRef + 16) (refAddr (oldRef + 16)) false := by decide +kernel

/-- A range whose last byte is not canonical names one that is not (R294, R295). -/
theorem test_span_canonical : spanCanonical 0x00FFFFFFFFFFFFF8 8 = true ∧ spanCanonical 0x00FFFFFFFFFFFFF8 9 = false ∧
    spanCanonical 0xFFFFFFFFFFFFFFF8 16 = true := by decide

/-- An atomic at a home in another package traps LINK where its reply is abandoned, and else reaches it (R360). -/
theorem test_atomic_link : amoPlaces abandonedFar 4088 8 = .error ⟨cLINK, 2, 0⟩ ∧
    amoPlaces (onThread (fun t => { t with elim := none }) abandonedFar) 4088 8 = .ok (physLocs (2 ^ 39 + 4088) 8) := by decide +kernel

/-- The new debug table leaves a ring that owes an end record active by its old descriptor (R395, R397). -/
theorem test_ring_owes : nextOk (exec (.setDbgbase 0x80000) (fading 1)) (fun t => (coreOf t 0).ring.act && !(coreOf t 0).ring.en && (coreOf t 0).ring.owed == 1 && t.pkg.dbg == some 0x80000) = true ∧
    nextOk (exec (.setDbgbase 0x80000) (fading 0)) (fun t => !(coreOf t 0).ring.act) = true := by decide +kernel

/-- A stop below the element a chain group resumes from is none (R192). -/
theorem test_asked_stop : askedStop (.vadd 5 4 (.vec 4)) (one (fun t => { ct (fun c => { c with vl := 64, lanes := 8, vstart := 40 }) t with elim := some (10, .request) })) = none ∧
    (askedStop (.vadd 5 4 (.vec 4)) (one (fun t => { ct (fun c => { c with vl := 64, lanes := 8, vstart := 40 }) t with elim := some (50, .request) }))).map (·.elem) = some 50 := by
  decide +kernel

/-- A store joins a chain group only where no element of it meets a higher element of the load (R191, R192). -/
theorem test_clash : clash { mem := [(1, none, [.phys 4])] } { mem := [(0, none, [.phys 4])] } = true ∧
    clash { mem := [(1, none, [.phys 4])] } { mem := [(1, none, [.phys 4])] } = false ∧
    clash { drops := [2] } { mem := [(3, none, [.phys 64])] } = true ∧ clash { drops := [2] } { mem := [(3, none, [.phys 96])] } = false ∧ clash { regs := [(4, 16, true)] } { regs := [(5, 32, true), (4, 32, false)] } = true := by
  decide +kernel

/-- A TIMESYNC goes to an active ring where the clock changes, and only there (R401, R457). -/
theorem test_clock (n : Nat) (h : n < 2) : (coreOf (applyClock { one id with pkg := { (one id).pkg with hStep := n }, cores := [(0, { ring := { act := true, en := true, log2 := 6 } })] }) 0).ring.queue.length =
    n := by rcases (show n = 0 ∨ n = 1 by omega) with rfl | rfl <;> decide +kernel

/-- A place of the register block that is no register, which reads zero (R366). -/
theorem test_hostReg_gap : hostReg State.reset 0x1004 = 0 := by decide +kernel

/-- A masked vector holds its message pending until the host unmasks it (R366). -/
def masked : Pkg := signal 1 { State.reset.pkg with msixMask := Vector.replicate 3 true }
theorem test_msix_pending : (vnth masked.msix false 1 || !signalled masked 1) = false ∧
    nextOk (hostAct (.mask 1 false) { State.reset with pkg := masked })
      (fun t => vnth t.pkg.msix false 1 && !vnth t.pkg.msixPending false 1 && !vnth t.pkg.msixMask false 1) = true := by decide +kernel

end Sys2Proof.Tests
end

section
/-! SUPPORT. Bits and fields of a word: a read after a write of a field. -/

namespace Sys2Proof.Machine

theorem testBit_fld (w : Word) (lo n i : Nat) : (fld w lo n).testBit i = (decide (i < n) && wbit w (lo + i)) := by
  simp [fld, wbit, BitVec.getLsbD, Nat.testBit_mod_two_pow, Nat.testBit_div_two_pow, Nat.add_comm]

theorem fld_bit (w : Word) (i : Nat) : fld w i 1 = (wbit w i).toNat := by
  simp [fld, wbit, BitVec.getLsbD, Nat.toNat_testBit]

theorem fld_bit_eq_one (w : Word) (i : Nat) : fld w i 1 = 1 ↔ wbit w i = true := by
  rw [fld_bit]; cases wbit w i <;> decide

theorem wbit_setFld (w : Word) (lo n x : Nat) {i : Nat} (hi : i < 64) :
    wbit (setFld w lo n x) i = if i < lo then wbit w i else if i < lo + n then x.testBit (i - lo) else wbit w i := by
  have e : w.toNat / 2 ^ (lo + n) * 2 ^ (lo + n) + x % 2 ^ n * 2 ^ lo + w.toNat % 2 ^ lo =
      2 ^ lo * (2 ^ n * (w.toNat / 2 ^ (lo + n)) + x % 2 ^ n) + w.toNat % 2 ^ lo := by ring
  have h1 : w.toNat % 2 ^ lo < 2 ^ lo := Nat.mod_lt _ (Nat.two_pow_pos lo)
  have h2 : x % 2 ^ n < 2 ^ n := Nat.mod_lt _ (Nat.two_pow_pos n)
  simp only [wbit, setFld, BitVec.getLsbD_ofNat, hi, decide_true, Bool.true_and, e, Nat.testBit_two_pow_mul_add _ h1,
    Nat.testBit_two_pow_mul_add _ h2, Nat.testBit_mod_two_pow, Nat.testBit_div_two_pow, BitVec.testBit_toNat]
  by_cases hl : i < lo
  · simp [hl]
  by_cases hn : i < lo + n
  · have : i - lo < n := by omega
    simp [hl, hn, this]
  · have h3 : ¬ i - lo < n := by omega
    have h4 : i - lo - n + (lo + n) = i := by omega
    simp [hl, hn, h3, h4]

theorem fld_setFld_same (w : Word) {lo n : Nat} (h : lo + n ≤ 64) (x : Nat) : fld (setFld w lo n x) lo n = x % 2 ^ n := by
  refine Nat.eq_of_testBit_eq fun i => ?_
  rw [testBit_fld, Nat.testBit_mod_two_pow]
  by_cases hi : i < n
  · rw [wbit_setFld w lo n x (by omega)]
    simp [hi]
  · simp [hi]

end Sys2Proof.Machine
end

section
/-! SUPPORT. The control registers that a save keeps, by number (01 R21, R22): a read of one after a write of another. -/

namespace Sys2Proof.Machine

open Sys2Proof.Safety

theorem vnth_vput {α : Type} {n : Nat} (v : Vector α n) (d x : α) {i : Nat} (hi : i < n) (j : Nat) :
    vnth (vput v i x) d j = if j = i then x else vnth v d j := by
  unfold vnth vput
  by_cases hj : j < n
  · simp [hi, hj, Vector.getElem_set, eq_comm]
  · have : j ≠ i := by omega
    simp [hj, this]

/-- The saved control registers that are one word each. -/
def wordCtl : List Nat :=
  List.range 12 ++ [0x010, 0x011, 0x012, 0x013, 0x01B, 0x020, 0x058] ++ List.range' 0x100 5 ++ [0x800, 0x802, 0x804, 0x805, 0x806]

/-- The others are one of six of a loop register, LCNT, LBEG or LEND. -/
theorem mem_savedCtl : ∀ n ∈ savedCtl, n ∈ wordCtl ∨ ∃ i < 6, n = 0x040 + i ∨ n = 0x048 + i ∨ n = 0x050 + i := by decide

theorem word_ne_level : ∀ n ∈ wordCtl, ∀ i < 6, n ≠ 0x040 + i ∧ n ≠ 0x048 + i ∧ n ≠ 0x050 + i := by decide

theorem ctlGet_lcnt {i : Nat} (h : i < 6) (c : Ctl) : ctlGet (0x040 + i) c = lvl c.lcnt i := by interval_cases i <;> rfl
theorem ctlGet_lbeg {i : Nat} (h : i < 6) (c : Ctl) : ctlGet (0x048 + i) c = lvl c.lbeg i := by interval_cases i <;> rfl
theorem ctlGet_lend {i : Nat} (h : i < 6) (c : Ctl) : ctlGet (0x050 + i) c = lvl c.lend i := by interval_cases i <;> rfl

theorem ctlSet_lcnt {i : Nat} (h : i < 6) (v : Word) (c : Ctl) : ctlSet (0x040 + i) v c = { c with lcnt := vput c.lcnt i v } := by
  interval_cases i <;> rfl
theorem ctlSet_lbeg {i : Nat} (h : i < 6) (v : Word) (c : Ctl) : ctlSet (0x048 + i) v c = { c with lbeg := vput c.lbeg i v } := by
  interval_cases i <;> rfl
theorem ctlSet_lend {i : Nat} (h : i < 6) (v : Word) (c : Ctl) : ctlSet (0x050 + i) v c = { c with lend := vput c.lend i v } := by
  interval_cases i <;> rfl

/-- A write of a one-word register replaces its place among them and no other. -/
theorem map_ctlGet_ctlSet {n : Nat} (h : n ∈ wordCtl) (v : Word) (c : Ctl) :
    wordCtl.map (ctlGet · (ctlSet n v c)) = (wordCtl.map (ctlGet · c)).set (wordCtl.idxOf n) v := by
  fin_cases h <;> rfl

/-- A write of a one-word register leaves the loop registers alone. -/
theorem ctlSet_word_levels {n : Nat} (h : n ∈ wordCtl) (v : Word) (c : Ctl) :
    (ctlSet n v c).lcnt = c.lcnt ∧ (ctlSet n v c).lbeg = c.lbeg ∧ (ctlSet n v c).lend = c.lend := by
  fin_cases h <;> exact ⟨rfl, rfl, rfl⟩

/-- A read of a one-word register does not see the loop registers. -/
theorem ctlGet_word_levels {m : Nat} (h : m ∈ wordCtl) (c : Ctl) (x y z : Vector Word 6) :
    ctlGet m { c with lcnt := x, lbeg := y, lend := z } = ctlGet m c := by
  fin_cases h <;> rfl

theorem ctlGet_ctlSet_word {n m : Nat} (hn : n ∈ wordCtl) (hm : m ∈ wordCtl) (v : Word) (c : Ctl) :
    ctlGet m (ctlSet n v c) = if m = n then v else ctlGet m c := by
  have hi : wordCtl.idxOf m < wordCtl.length := List.idxOf_lt_length_iff.mpr hm
  have h := congrArg (·[wordCtl.idxOf m]?) (map_ctlGet_ctlSet hn v c)
  simp only [List.getElem?_set, List.getElem?_map, List.getElem?_eq_getElem hi, List.getElem_idxOf hi, Option.map_some, List.length_map] at h
  by_cases e : m = n
  · subst e; simpa [hi] using h
  · have : wordCtl.idxOf n ≠ wordCtl.idxOf m := fun h => e ((List.idxOf_inj hm).mp h.symm)
    simpa [this, e] using h

/-- Of two loop registers both are the same one of six, or they are two of six, or of different kinds. -/
theorem ctlGet_ctlSet_level {n m i j : Nat} (hi : i < 6) (hj : j < 6) (hn : n = 0x040 + i ∨ n = 0x048 + i ∨ n = 0x050 + i)
    (hm : m = 0x040 + j ∨ m = 0x048 + j ∨ m = 0x050 + j) (v : Word) (c : Ctl) :
    ctlGet m (ctlSet n v c) = if m = n then v else ctlGet m c := by
  have same (k : Nat) : k + j = k + i ↔ j = i := by omega
  rcases hn with rfl | rfl | rfl <;> rcases hm with rfl | rfl | rfl <;>
    simp only [ctlSet_lcnt hi, ctlSet_lbeg hi, ctlSet_lend hi, ctlGet_lcnt hj, ctlGet_lbeg hj, ctlGet_lend hj, lvl, vnth_vput _ _ _ hi, same]
  all_goals exact (if_neg (by omega)).symm

/-- The control registers are separate (R21, R22). -/
theorem ctlGet_ctlSet {n m : Nat} (hn : n ∈ savedCtl) (hm : m ∈ savedCtl) (v : Word) (c : Ctl) :
    ctlGet m (ctlSet n v c) = if m = n then v else ctlGet m c := by
  rcases mem_savedCtl n hn with hn | ⟨i, hi, hn⟩ <;> rcases mem_savedCtl m hm with hm | ⟨j, hj, hm⟩
  · exact ctlGet_ctlSet_word hn hm v c
  · obtain ⟨e1, e2, e3⟩ := ctlSet_word_levels hn v c
    obtain ⟨n1, n2, n3⟩ := word_ne_level n hn j hj
    rcases hm with rfl | rfl | rfl
    · rw [if_neg n1.symm, ctlGet_lcnt hj, ctlGet_lcnt hj, e1]
    · rw [if_neg n2.symm, ctlGet_lbeg hj, ctlGet_lbeg hj, e2]
    · rw [if_neg n3.symm, ctlGet_lend hj, ctlGet_lend hj, e3]
  · obtain ⟨n1, n2, n3⟩ := word_ne_level m hm i hi
    rcases hn with rfl | rfl | rfl
    · rw [if_neg n1, ctlSet_lcnt hi]; exact ctlGet_word_levels hm c _ c.lbeg c.lend
    · rw [if_neg n2, ctlSet_lbeg hi]; exact ctlGet_word_levels hm c c.lcnt _ c.lend
    · rw [if_neg n3, ctlSet_lend hi]; exact ctlGet_word_levels hm c c.lcnt c.lbeg _
  · exact ctlGet_ctlSet_level hi hj hn hm v c

/-- Settles O18: a register is either a word of its own or one of six of a loop register, and the cases of two registers are those of
the two kinds. -/
theorem controlRegistersAreSeparate : Obligations.ControlRegistersAreSeparate :=
  fun _ _ v c hn hm => ctlGet_ctlSet hn hm v c

end Sys2Proof.Machine
end

section
/-! SUPPORT. PUTC: its checks, once each, what a write without a rule of its own does, and that no level comes to end at the PC by it
(01 R20, R22; 04 R128, R130). -/

namespace Sys2Proof.Machine

open Sys2Proof.Safety

@[simp] theorem orTrap_ok {α : Type} (x : α) (s : State) (k : α → State) : orTrap (.ok x) s k = k x := rfl
@[simp] theorem orTrap_error {α : Type} (e : TrapInfo) (s : State) (k : α → State) : orTrap (.error e) s k = trap e s := rfl

/-- A register that the map lists and a thread does not own is read-only or one of its core. -/
theorem mem_savedCtl_of_ctlMask {n : Nat} (h : (ctlMask n).isSome = true) : n ∈ savedCtl ∨ n ∈ [0x018, 0x019, 0x01A, 0x801, 0x803] := by
  unfold ctlMask at h
  split at h
  rotate_right
  · cases h
  all_goals decide

/-- A register that passes the checks of a write and has no rule of its own is one the thread owns. -/
theorem mem_savedCtl_of_writable {s : State} {n : Nat} {x : Word} (h : Writable s n x) (hn : n ∉ special) : n ∈ savedCtl := by
  obtain ⟨hlist, -, hro, -⟩ := h
  refine (mem_savedCtl_of_ctlMask hlist).resolve_right fun hm => ?_
  simp only [List.mem_cons, List.not_mem_nil, or_false] at hm
  rcases hm with rfl | rfl | rfl | rfl | rfl
  · simp [ctlReadOnly] at hro
  · simp [ctlReadOnly] at hro
  · simp [ctlReadOnly] at hro
  · simp [special] at hn
  · simp [special] at hn

theorem putcTo_unlisted {n : Nat} (h : ctlMask n = none) (v word : Word) (s : State) : putcTo n v word s = trap ⟨cILL, word, 0⟩ s := by
  simp [putcTo, h]

theorem not_priv {s : State} {n : Nat} (hmode : n < 0x100 ∨ inSup s.cur = true) : ¬ (0x100 ≤ n ∧ inSup s.cur = false) := by
  rintro ⟨hn, hu⟩
  rcases hmode with h | h
  · omega
  · rw [hu] at h; cases h

section
variable {s : State} {n : Nat} {v : Word} (hlist : (ctlMask n).isSome = true)
include hlist

theorem putcTo_priv (hn : 0x100 ≤ n) (hu : inSup s.cur = false) (word : Word) : putcTo n v word s = trap ⟨cPRIV, word, 0⟩ s := by
  obtain ⟨mask, hm⟩ := Option.isSome_iff_exists.mp hlist
  simp [putcTo, hm, hn, hu]

variable (hmode : n < 0x100 ∨ inSup s.cur = true)
include hmode

theorem putcTo_refused (h : ctlReadOnly s.cur n = true ∨ ctlValid n v = false) (word : Word) :
    putcTo n v word s = trap ⟨cILL, word, 0⟩ s := by
  obtain ⟨mask, hm⟩ := Option.isSome_iff_exists.mp hlist
  simp [putcTo, hm, not_priv hmode, h]

/-- Past the checks of mode, access and range the write alone decides. -/
theorem putcTo_checked (hro : ctlReadOnly s.cur n = false) (hv : ctlValid n v = true) (word : Word) :
    putcTo n v word s = orTrap (ctlWrite n (ctlBits n v) word s) s (finish 0 id) := by
  obtain ⟨mask, hm⟩ := Option.isSome_iff_exists.mp hlist
  simp only [putcTo, hm, Bool.and_eq_true, decide_eq_true_eq, Bool.not_eq_true', not_priv hmode, hro, hv, ctlBits]
  simp only [Option.getD_some, if_false, Bool.not_true, Bool.or_false, Bool.false_eq_true]
  cases ctlWrite n (v &&& mask) word s <;> rfl

end

theorem ctlWrite_active {s : State} {n : Nat} (h : activeBound s.cur n) (v word : Word) :
    ctlWrite n v word s = .error ⟨cLOOP, 2, 0⟩ := by
  simp only [activeBound] at h
  simp only [ctlWrite, Bool.and_eq_true, Bool.or_eq_true, decide_eq_true_eq, and_assoc, h, if_true]

/-- A write of a register without a rule of its own writes the register (R20, R22). -/
theorem ctlWrite_plain {s : State} {n : Nat} (h : ¬ activeBound s.cur n) (hn : n ∉ special) (v word : Word) :
    ctlWrite n v word s = .ok (modT (modC (ctlSet n v)) s) := by
  simp only [activeBound] at h
  simp only [ctlWrite, Bool.and_eq_true, Bool.or_eq_true, decide_eq_true_eq, and_assoc, h, if_false]
  split
  rotate_right
  · rfl
  all_goals exact absurd (by decide) hn

/-! ### A write that completes -/

/-- A thread's control register, if it is another than the one written. -/
theorem ctlGet_modC_other {n m : Nat} (hn : n ∈ savedCtl) (hm : m ∈ savedCtl) (h : m ≠ n) (v : Word) (t : Thread) :
    ctlGet m (modC (ctlSet n v) t).ctl = ctlGet m t.ctl := by rw [modC_ctl, ctlGet_ctlSet hn hm, if_neg h]

theorem inSup_write {n : Nat} (hn : n ∈ savedCtl) (h : n ≠ 0x806) (v : Word) (t : Thread) :
    inSup (modC (ctlSet n v) t) = inSup t :=
  congrArg (wbit · 0) (ctlGet_modC_other hn (by decide : 0x806 ∈ savedCtl) h.symm v t)

/-- The last address of a level that the write does not name. -/
theorem lendOf_write {n : Nat} (hn : n ∈ savedCtl) {i : Nat} (h : i < 6 → n ≠ 0x050 + i) (v : Word) (t : Thread) :
    lendOf (modC (ctlSet n v) t) i = lendOf t i := by
  refine congrArg vaOf ?_
  by_cases hi : i < 6
  · have hm : ∀ i < 6, 0x050 + i ∈ savedCtl := by decide
    rw [← ctlGet_lend hi, ← ctlGet_lend hi]
    exact ctlGet_modC_other hn (hm i hi) (h hi).symm v t
  · simp [lvl, vnth, hi]

/-- A write that leaves LDEPTH and the active levels alone makes no level end at the PC (R128, R130). -/
theorem noEdge_write {n : Nat} (hn : n ∈ savedCtl) (h806 : n ≠ 0x806) (v : Word) (t : Thread) (h : NoEdge t)
    (hl : inSup t = true ∨ n ≠ 0x058 ∧ ¬ activeBound t n) : NoEdge (modC (ctlSet n v) t) := by
  by_cases hs : inSup t = true
  · exact .inl ((inSup_write hn h806 v t).trans hs)
  obtain ⟨hd, ha⟩ := hl.resolve_left hs
  have hdepth : depthOf (modC (ctlSet n v) t) = depthOf t :=
    congrArg (fld · 0 3) (ctlGet_modC_other hn (by decide : 0x058 ∈ savedCtl) hd.symm v t)
  rw [NoEdge, hdepth]
  rcases Nat.eq_zero_or_pos (depthOf t) with hz | hz
  · exact .inr (.inl hz)
  · refine .inr (.inr ?_)
    have hlevel : depthOf t - 1 < 6 → n ≠ 0x050 + (depthOf t - 1) := fun hi e => ha (.inr (by omega))
    rw [lendOf_write hn hlevel]
    exact (h.resolve_left hs).resolve_left hz.ne'

/-- A PUTC completes after a change of the thread that makes no level end at the PC. -/
theorem finish_modT_calm {s : State} {f : Thread → Thread} (hp : (f s.cur).pend = []) (hn : NoEdge (f s.cur)) :
    finish 0 id (modT f s) = retired f s := finish_calm 0 id (modT f s) hp hn

/-- In a calm thread PUTC is the checks and the write of the source (R135). -/
theorem exec_putc_calm {s : State} (h : Calm s) (a : SReg) (c : BitVec 12) :
    exec (.putc a c) s = .next (putcTo c.toNat (reg s a) (own (.putc a c)) s) := by
  simp only [exec_putc, execPutc, guardS_quiet _ h.1, rs_quiet _ h.1, sreg_eq_reg]
  rfl

/-- A write without a rule of its own that passes its checks (R20, R22). -/
theorem putcTo_plain {s : State} {n : Nat} {x : Word} (h : Calm s) (hw : Writable s n x) (hn : n ∉ special) (word : Word) :
    putcTo n x word s = retired (modC (ctlSet n (ctlBits n x))) s := by
  have hsaved := mem_savedCtl_of_writable hw hn
  obtain ⟨hlist, hmode, hro, hv, hact⟩ := hw
  rw [putcTo_checked hlist hmode hro hv, ctlWrite_plain hact hn, orTrap_ok]
  refine finish_modT_calm h.1 (noEdge_write hsaved ?_ _ _ h.2 ?_)
  · rintro rfl; simp [special] at hn
  · refine or_iff_not_imp_left.mpr fun hs => ⟨?_, hact⟩
    rintro rfl; simp [ctlReadOnly, hs] at hro

end Sys2Proof.Machine
end

section
/-! SUPPORT. GETC: its checks and what it reads (01 R20, R26; 04 R135). -/

namespace Sys2Proof.Machine

open Sys2Proof.Safety

theorem execGetc_unlisted {c : BitVec 12} (hm : ctlMask c.toNat = none) (d : SReg) (s : State) :
    exec (.getc d c) s = .next (trapWord cILL (.getc d c) s) := by simp [execGetc, hm]

theorem execGetc_priv {c : BitVec 12} {s : State} (hm : (ctlMask c.toNat).isSome = true) (hn : 0x800 ≤ c.toNat)
    (hu : inSup s.cur = false) (d : SReg) : exec (.getc d c) s = .next (trapWord cPRIV (.getc d c) s) := by
  obtain ⟨mask, hm⟩ := Option.isSome_iff_exists.mp hm
  simp [execGetc, hm, hn, hu]

/-- A read that passes its checks (R20): CYCLE alone changes with it (R26). -/
theorem execGetc_read {c : BitVec 12} {s : State} (hm : (ctlMask c.toNat).isSome = true) (hmode : c.toNat < 0x800 ∨ inSup s.cur = true)
    (d : SReg) : exec (.getc d c) s = .next (finish 0 (fun t => setS d (ctlBits c.toNat (ctlRead s c.toNat))
      (if c.toNat = 0x01B then modC (ctlSet 0x01B (ctlBits c.toNat (ctlRead s c.toNat))) t else t)) s) := by
  obtain ⟨mask, hm⟩ := Option.isSome_iff_exists.mp hm
  have hp : ¬ (0x800 ≤ c.toNat ∧ inSup s.cur = false) := by
    rintro ⟨hn, hu⟩
    rcases hmode with h | h
    · omega
    · rw [hu] at h; cases h
  simp only [exec_getc, execGetc, hm, Bool.and_eq_true, decide_eq_true_eq, Bool.not_eq_true', hp, if_false, ctlBits, Option.getD_some]
  rfl

/-- A register without reserved bits keeps the whole value. -/
theorem and_bitsMask_all (x : Word) : x &&& bitsMask 0 63 = x := by
  rw [show bitsMask 0 63 = BitVec.allOnes 64 by decide, BitVec.and_allOnes]

theorem ctlBits_cycle (x : Word) : ctlBits 0x01B x = x := and_bitsMask_all x

/-- An instruction that completes writes a scalar register after another change `g` of the thread. -/
theorem finish_setS_after (w : Nat) (d : SReg) (x : Thread → Word) (g : Thread → Thread) (s : State) (hp : s.cur.pend = [])
    (hg : (g s.cur).pend = []) (hn : NoEdge (g s.cur)) :
    finish w (fun t => setS d (x t) (g t)) s = retired (fun t => put d (x t) (g t)) s := by
  rw [finish_calm w (fun t => setS d (x t) (g t)) s hp (noEdge_setS _ _ _ hn)]
  simp [retired, setS_quiet _ _ _ hg]

/-- Settles O17: GETC reads, and PUTC writes, what the checks of its number, its mode and its value let through; each trap is the check
that fails. -/
theorem controlRegisterAccess : Obligations.ControlRegisterAccess := by
  unfold Obligations.ControlRegisterAccess
  refine ⟨fun s d c h => ⟨fun hm hmode hc => ?_, fun hc => ?_, fun hm hn hu => ?_, fun hm => ?_⟩, fun s a c h hw hn => ?_,
    fun s a c h => ⟨fun hm => ?_, fun hm hn hu => ?_, fun hm hmode hbad => ?_, fun hm hmode hro hv hact => ?_⟩⟩
  · rw [execGetc_read hm hmode]
    simp only [hc, if_false]
    rw [finish_setS 0 d _ s h]; rfl
  · have hlist : (ctlMask c.toNat).isSome = true := by rw [hc]; rfl
    rw [execGetc_read hlist (.inl (by omega))]
    simp only [hc, if_true, ctlBits_cycle]
    rw [finish_setS_after 0 d _ (modC _) s h.1 h.1 (noEdge_of _ _ h.2 rfl rfl rfl rfl)]
    rfl
  · rw [execGetc_priv hm hn hu, trapWord, trap_eq]; rfl
  · rw [execGetc_unlisted (Option.isNone_iff_eq_none.mp hm), trapWord, trap_eq]; rfl
  · rw [exec_putc_calm h, putcTo_plain h hw hn]; rfl
  · rw [exec_putc_calm h, putcTo_unlisted (Option.isNone_iff_eq_none.mp hm), trap_eq]; rfl
  · rw [exec_putc_calm h, putcTo_priv hm hn hu, trap_eq]; rfl
  · rw [exec_putc_calm h, putcTo_refused hm hmode hbad, trap_eq]; rfl
  · rw [exec_putc_calm h, putcTo_checked hm hmode hro hv, ctlWrite_active hact, orTrap_error, trap_eq]; rfl

end Sys2Proof.Machine
end

section
/-! SUPPORT. PUTC of the registers with a rule of their own, in supervisor mode (01 R25; 04 R130, R139; 06 R192; 07 R205, R207; 12 R337). -/

namespace Sys2Proof.Machine

open Sys2Proof.Safety

/-- In supervisor mode a listed, writable register with a value in range is written. -/
theorem putcTo_sup {s : State} {n : Nat} {v : Word} (hs : inSup s.cur = true) (hlist : (ctlMask n).isSome = true)
    (hro : n ∉ [0x018, 0x019, 0x01A]) (hv : ctlValid n v = true) (word : Word) :
    putcTo n v word s = orTrap (ctlWrite n (ctlBits n v) word s) s (finish 0 id) :=
  putcTo_checked hlist (.inr hs) (by simpa [ctlReadOnly, hs] using hro) hv word

/-- In supervisor mode the writes of registers without a rule of their own (R20, R22). -/
theorem putcTo_sup_plain {s : State} {n : Nat} {v : Word} (h : Calm s) (hs : inSup s.cur = true) (hn : n ∈ savedCtl) (hsp : n ∉ special)
    (hv : ctlValid n v = true) (hact : ¬ activeBound s.cur n) (word : Word) :
    putcTo n v word s = retired (modC (ctlSet n (ctlBits n v))) s := by
  have hmap : ∀ n ∈ savedCtl, (ctlMask n).isSome = true ∧ n ∉ [0x018, 0x019, 0x01A] := by decide
  exact putcTo_plain h ⟨(hmap n hn).1, .inr hs, by simpa [ctlReadOnly, hs] using (hmap n hn).2, hv, hact⟩ hsp word

/-- MAPBASE is written where nothing is resident (R207). -/
theorem putcTo_mapbase {s : State} (h : Calm s) (hs : inSup s.cur = true) (hm : heldSlots s.cur.map = []) (v word : Word) :
    putcTo 0x800 v word s = retired (modC (ctlSet 0x800 (ctlBits 0x800 v))) s := by
  have hw : ctlWrite 0x800 (ctlBits 0x800 v) word s = .ok (modT (modC (ctlSet 0x800 (ctlBits 0x800 v))) s) := by
    simp [ctlWrite, hm]
  rw [putcTo_sup hs rfl (by decide) rfl, hw]
  exact finish_modT_calm h.1 (.inl hs)

/-- LANEPART is written for the whole core (R25, R337). -/
theorem putcTo_lanepart {s : State} (h : Calm s) (hs : inSup s.cur = true) {v : Word} (hv : ctlValid 0x803 v = true) (word : Word) :
    putcTo 0x803 v word s = retired id (setLanepart (cidOf s.cur) (fld (ctlBits 0x803 v) 0 4) s) := by
  rw [putcTo_sup hs rfl (by decide) hv]
  exact finish_calm 0 id (setLanepart (cidOf s.cur) (fld (ctlBits 0x803 v) 0 4) s) h.1 h.2

section
variable {s : State} {v : Word} (hs : inSup s.cur = true) (hv : ctlValid 0x801 v = true)
include hs hv

theorem putcTo_msplit_same (h : Calm s) (e : ctlBits 0x801 v = (coreOf s (cidOf s.cur)).msplit) (word : Word) :
    putcTo 0x801 v word s = retired id s := by
  have hw : ctlWrite 0x801 (ctlBits 0x801 v) word s = .ok s := by simp [ctlWrite, e]
  rw [putcTo_sup hs rfl (by decide) hv, hw]
  exact finish_calm 0 id s h.1 h.2

/-- Another MSPLIT traps where the core's slots are held or kept (R205, R206). -/
theorem putcTo_msplit_held (hne : ctlBits 0x801 v ≠ (coreOf s (cidOf s.cur)).msplit)
    (hh : coreHolds s (cidOf s.cur) = true ∨ coreReserved s [] (cidOf s.cur) = true) (word : Word) :
    putcTo 0x801 v word s = trap ⟨cILL, word, 0⟩ s := by
  have hw : ctlWrite 0x801 (ctlBits 0x801 v) word s = .error ⟨cILL, word, 0⟩ := by simp [ctlWrite, hne, hh]
  rw [putcTo_sup hs rfl (by decide) hv, hw, orTrap_error]

theorem putcTo_msplit_free (hh : coreHolds s (cidOf s.cur) = false) (hr : coreReserved s [] (cidOf s.cur) = false) (word : Word) :
    putcTo 0x801 v word s = finish 0 id (writeMsplit (some s.cur) (cidOf s.cur) (ctlBits 0x801 v) s) := by
  have hw : ctlWrite 0x801 (ctlBits 0x801 v) word s = .ok (writeMsplit (some s.cur) (cidOf s.cur) (ctlBits 0x801 v) s) := by
    by_cases e : ctlBits 0x801 v = (coreOf s (cidOf s.cur)).msplit
    · simp [ctlWrite, writeMsplit, e]
    · simp [ctlWrite, e, hh, hr]
  rw [putcTo_sup hs rfl (by decide) hv, hw, orTrap_ok]

end

@[simp] theorem setTile_msplit (k : Nat) (x : Tile) (c : Core) : (setTile k x c).msplit = c.msplit := rfl
@[simp] theorem clearSlotBad_msplit (k : Nat) (p : Nat → Bool) (c : Core) : (clearSlotBad k p c).msplit = c.msplit := rfl

/-- Slots that change role do not change MSPLIT. -/
theorem freshSlots_msplit (tick : Nat) (slots : List Nat) (c : Core) : (freshSlots tick slots c).msplit = c.msplit := by
  have kept (f : Core → Nat → Core) (hf : ∀ c k, (f c k).msplit = c.msplit) (c : Core) : (slots.foldl f c).msplit = c.msplit := by
    induction slots generalizing c with
    | nil => rfl
    | cons k l ih => rw [List.foldl_cons, ih, hf]
  simp only [freshSlots]
  rw [kept _ fun c k => by rw [clearSlotBad_msplit, setTile_msplit]]

/-- A core without foreign slots: a write of MSPLIT reaches no memory and no thread (R205). -/
theorem writeMsplit_untagged (u : Option Thread) (cid : Nat) (v : Word) (s : State) (h : (coreOf s cid).tags = []) :
    (coreOf (writeMsplit u cid v s) cid).msplit = v ∧ (writeMsplit u cid v s).cur = s.cur ∧ (writeMsplit u cid v s).mem = s.mem ∧
      (writeMsplit u cid v s).others = s.others := by
  by_cases e : v = (coreOf s cid).msplit
  · simp [writeMsplit, e]
  · simp [writeMsplit, e, h, tkeys, coreOf_modCore, freshSlots_msplit]

/-- LCNT of any level is written whole (R130). -/
theorem putcTo_lcnt {s : State} (h : Calm s) (hs : inSup s.cur = true) (n : Fin 6) (v word : Word) :
    putcTo (0x040 + n.val) v word s = retired (modC (ctlSet (0x040 + n.val) v)) s := by
  have hn : ∀ n : Fin 6, 0x040 + n.val ∈ savedCtl ∧ 0x040 + n.val ∉ special := by decide
  have hv : ctlValid (0x040 + n.val) v = true := by fin_cases n <;> rfl
  have hb : ctlBits (0x040 + n.val) v = v := by fin_cases n <;> exact and_bitsMask_all v
  have ha : ¬ activeBound s.cur (0x040 + n.val) := by unfold activeBound; omega
  rw [putcTo_sup_plain h hs (hn n).1 (hn n).2 hv ha, hb]

/-- LBEG and LEND are written where their level is not active (R130). -/
theorem putcTo_bound {s : State} (h : Calm s) (hs : inSup s.cur = true) (e : Bool) (n : Fin 6) (hd : depthOf s.cur ≤ n.val) (v word : Word) :
    putcTo ((if e then 0x050 else 0x048) + n.val) v word s =
      retired (modC (ctlSet ((if e then 0x050 else 0x048) + n.val) (v &&& bitsMask 2 56))) s := by
  have hn : ∀ (e : Bool) (n : Fin 6), (if e then 0x050 else 0x048) + n.val ∈ savedCtl ∧ (if e then 0x050 else 0x048) + n.val ∉ special := by
    decide
  have hv : ctlValid ((if e then 0x050 else 0x048) + n.val) v = true := by cases e <;> fin_cases n <;> rfl
  have hb : ctlBits ((if e then 0x050 else 0x048) + n.val) v = v &&& bitsMask 2 56 := by cases e <;> fin_cases n <;> rfl
  have ha : ¬ activeBound s.cur ((if e then 0x050 else 0x048) + n.val) := by
    unfold activeBound; split <;> omega
  rw [putcTo_sup_plain h hs (hn e n).1 (hn e n).2 hv ha, hb]

/-- EPC ends a stopped chain group, and another EPC what a stopped `.last` load has touched (R192, log entries 7 and 40). -/
theorem putcTo_epc {s : State} (h : Calm s) (hs : inSup s.cur = true) (v word : Word) :
    putcTo 0x102 v word s = retired (fun t => { modC (ctlSet 0x102 (ctlBits 0x102 v)) t with
      chain := 0
      touched := if ctlBits 0x102 v = t.ctl.epc then t.touched
        else terase t.touched (touchKey (vaOf t.ctl.epc) (wbit t.ctl.estat 2)) }) s := by
  rw [putcTo_sup hs rfl (by decide) rfl]
  exact finish_modT_calm h.1 (.inl hs)

/-- ESTAT as a PUTC leaves it: SUP stays (R139). -/
def estatPut (v estat : Word) : Word := setFld (ctlBits 0x806 v) 0 1 (fld estat 0 1)

theorem wbit_estatPut_sup (v estat : Word) : wbit (estatPut v estat) 0 = wbit estat 0 := by
  rw [estatPut, wbit_setFld _ _ _ _ (by decide), fld_bit]
  cases wbit estat 0 <;> rfl

theorem wbit_estatPut (v estat : Word) {i : Nat} (hi : i = 2 ∨ i = 3) : wbit (estatPut v estat) i = wbit v i := by
  have hm : ctlBits 0x806 v = v &&& 0xD := rfl
  rw [estatPut, hm, wbit_setFld _ _ _ _ (by omega)]
  rcases hi with rfl | rfl <;> simp [wbit]

theorem putcTo_estat {s : State} (h : Calm s) (hs : inSup s.cur = true) (v word : Word) :
    putcTo 0x806 v word s = retired (modC (ctlSet 0x806 (estatPut v s.cur.ctl.estat))) s := by
  rw [putcTo_sup hs rfl (by decide) rfl]
  exact finish_modT_calm h.1 (.inl ((wbit_estatPut_sup v s.cur.ctl.estat).trans hs))

theorem coreOf_setLanepart_other (s : State) {cid k : Nat} (h : k ≠ cid) (p : Nat) : coreOf (setLanepart cid p s) k = coreOf s k := by
  rw [setLanepart, coreOf_modCore, if_neg h]

/-- P of LANEPART is the value's, its reserved bits apart (R22). -/
theorem fld_lanepart_setLanepart (cid : Nat) (v : Word) (s : State) :
    fld (coreOf (setLanepart cid (fld (ctlBits 0x803 v) 0 4) s) cid).lanepart 0 4 = fld v 0 4 := by
  have hb : fld (ctlBits 0x803 v) 0 4 = fld v 0 4 := by
    have e : (ctlBits 0x803 v).toNat = v.toNat % 2 ^ 4 := Nat.and_two_pow_sub_one_eq_mod v.toNat 4
    simp [fld, e]
  simp only [setLanepart, coreOf_modCore, if_true]
  rw [fld_setFld_same _ (by decide), hb]
  simp [fld]

/-- Settles O19: in supervisor mode the checks leave each register its own rule, and no level ends at the PC afterwards. -/
theorem specialRegisterWrites : Obligations.SpecialRegisterWrites := by
  unfold Obligations.SpecialRegisterWrites
  intro s v a n e h hs cid x
  have putc (c : BitVec 12) := exec_putc_calm h a c
  refine ⟨fun hm => ⟨?_, ?_⟩, fun hv => ⟨retired id (setLanepart cid (fld (ctlBits 0x803 v) 0 4) s), ?_, rfl, ?_, fun k hk => ?_, rfl, rfl⟩,
    fun hv => ?_, fun hv he => ?_, fun hv hh hr ht => ?_, fun hv hne hh => ?_, fun hv hh hr => ?_, ?_,
    ⟨estatPut x s.cur.ctl.estat, ?_, ?_, ?_, ?_⟩, ?_, fun hd => ?_, fun hv => ?_⟩
  · rw [exec_mapbaseWrite, execMapbaseWrite, putcTo_mapbase h hs hm]; rfl
  · rw [exec_mapbaseWrite, execMapbaseWrite, putcTo_mapbase h hs hm, putc]
    exact congrArg _ (putcTo_mapbase h hs hm x _)
  · rw [exec_lanepartWrite, execLanepartWrite, putcTo_lanepart h hs hv]
  · exact fld_lanepart_setLanepart cid v s
  · exact coreOf_setLanepart_other s hk _
  · rw [exec_lanepartWrite, execLanepartWrite, putcTo_lanepart h hs hv, putc]
    exact congrArg _ (putcTo_lanepart h hs hv _)
  · rw [exec_msplitWrite, execMsplitWrite, putcTo_msplit_same hs hv h he]
  · obtain ⟨h1, h2, h3, h4⟩ := writeMsplit_untagged (some s.cur) cid (ctlBits 0x801 v) s ht
    refine ⟨retired id (writeMsplit (some s.cur) cid (ctlBits 0x801 v) s), ?_, h1, congrArg after h2, h3, h4⟩
    rw [exec_msplitWrite, execMsplitWrite, putcTo_msplit_free hs hv hh hr, finish_calm _ _ _ (by rw [h2]; exact h.1) (by rw [h2]; exact h.2)]
  · rw [putc]
    exact congrArg _ ((putcTo_msplit_held hs hv hne hh _).trans (trap_eq _ _))
  · rw [exec_msplitWrite, execMsplitWrite, putcTo_msplit_free hs hv hh hr, putc]
    exact congrArg _ (putcTo_msplit_free hs hv hh hr _)
  · rw [putc]
    exact congrArg _ (putcTo_epc h hs x _)
  · rw [putc]
    exact congrArg _ (putcTo_estat h hs x _)
  · rw [fld_bit_eq_one, wbit_estatPut_sup]; exact hs
  · rw [fld_bit, fld_bit, wbit_estatPut _ _ (.inl rfl)]
  · rw [fld_bit, fld_bit, wbit_estatPut _ _ (.inr rfl)]
  · rw [exec_lcntWrite, execLcntWrite, putcTo_lcnt h hs]; rfl
  · rw [exec_lbegLendWrite, execLbegLendWrite, putcTo_bound h hs e n hd]; rfl
  · have ha : ¬ activeBound s.cur 0x058 := by unfold activeBound; omega
    rw [exec_ldepthWrite, execLdepthWrite, putcTo_sup_plain h hs (by decide) (by decide) hv ha]; rfl

end Sys2Proof.Machine
end

section
/-! SUPPORT. The grant and the vector length: what a grant does to a thread, and SETVL and SETVLR in a calm thread
(01 R31-R34; 04 R134; 08 R221-R223). -/

namespace Sys2Proof.Machine

open Sys2Proof.Safety

/-! ### A scalar register written -/

section
variable (d : SReg) (x : Word) (t : Thread)

@[simp] theorem put_ctl : (put d x t).ctl = t.ctl := by unfold put; split <;> rfl
@[simp] theorem put_pc : (put d x t).pc = t.pc := by unfold put; split <;> rfl
@[simp] theorem put_v : (put d x t).v = t.v := by unfold put; split <;> rfl
@[simp] theorem put_k : (put d x t).k = t.k := by unfold put; split <;> rfl
@[simp] theorem put_h : (put d x t).h = t.h := by unfold put; split <;> rfl
@[simp] theorem put_sf : (put d x t).sf = t.sf := by unfold put; split <;> rfl
@[simp] theorem put_o : (put d x t).o = t.o := by unfold put; split <;> rfl
@[simp] theorem put_map : (put d x t).map = t.map := by unfold put; split <;> rfl

variable {d}

theorem put_s_same (h : d ≠ 0) : (put d x t).s[d] = x := by simp [put, h]

theorem put_s_other {r : SReg} (h : r ≠ d) : (put d x t).s[r] = t.s[r] := by
  unfold put
  split
  · rfl
  · exact Vector.getElem_set_ne d.isLt r.isLt fun e => h (Fin.ext e.symm)

end

section
variable (f : Thread → Thread) (s : State) (t : Thread)

@[simp] theorem retired_cur : (retired f s).cur = after (f s.cur) := rfl
@[simp] theorem after_ctl : (after t).ctl = t.ctl := rfl
@[simp] theorem after_s : (after t).s = t.s := rfl
@[simp] theorem after_v : (after t).v = t.v := rfl
@[simp] theorem after_k : (after t).k = t.k := rfl
@[simp] theorem after_h : (after t).h = t.h := rfl
@[simp] theorem after_sf : (after t).sf = t.sf := rfl
@[simp] theorem after_o : (after t).o = t.o := rfl
@[simp] theorem after_map : (after t).map = t.map := rfl
@[simp] theorem after_pc : (after t).pc = t.pc + 4 := rfl

end

/-! ### A new grant (R31-R33) -/

/-- VSTAT.C of R32: whether VLCAP limits the grant. -/
def noteCap (t : Thread) : Thread :=
  modC (fun c => { c with vstat := setFld c.vstat 2 1 (if capOf t (sewOf t) < grantMax t (sewOf t) then 1 else 0) }) t

/-- LANES of a new grant, with VSTAT.G (R31). -/
def takeLanes (lw : Word) (t : Thread) : Thread := modC (fun c => { c with lanes := lw, vstat := setFld c.vstat 0 1 1 }) t

@[simp] theorem regrantFiles_ctl (n a b : Nat) (t : Thread) : (regrantFiles n a b t).ctl = t.ctl := by
  simp only [regrantFiles]

/-- A regrant reaches the vector and mask files alone (R33). -/
theorem regrantFiles_frame (n a b : Nat) (t : Thread) :
    (regrantFiles n a b t).s = t.s ∧ (regrantFiles n a b t).h = t.h ∧ (regrantFiles n a b t).sf = t.sf ∧ (regrantFiles n a b t).o = t.o ∧
      (regrantFiles n a b t).map = t.map ∧ (regrantFiles n a b t).pc = t.pc ∧ (regrantFiles n a b t).pend = t.pend := by
  simp only [regrantFiles, and_self]

theorem vreg_regrantFiles_zero (n a b : Nat) (t : Thread) : vreg (regrantFiles n a b t) 0 = lowBytes (16 * min a b) (vreg t 0) := by
  simp [regrantFiles, vreg]

theorem vreg_modC (f : Ctl → Ctl) (t : Thread) (r : VReg) : vreg (modC f t) r = vreg t r := rfl

theorem applyGrant_same {s : State} {t : Thread} (e : lanesWord (newGrant s t) = t.ctl.lanes) : applyGrant s t = noteCap t := by
  simp only [applyGrant, e, if_true, noteCap]

theorem applyGrant_new {s : State} {t : Thread} (e : lanesWord (newGrant s t) ≠ t.ctl.lanes) :
    applyGrant s t = noteCap (regrantFiles s.tick (lanesOf t) (lanesOf (takeLanes (lanesWord (newGrant s t)) t))
      (takeLanes (lanesWord (newGrant s t)) t)) := by
  unfold applyGrant
  simp only [if_neg e]
  rfl

theorem lanesOf_congr {u t : Thread} (h : u.ctl.lanes = t.ctl.lanes) : lanesOf u = lanesOf t := by rw [lanesOf, h, lanesOf]

theorem applyGrant_lanes (s : State) (t : Thread) : (applyGrant s t).ctl.lanes = lanesWord (newGrant s t) := by
  by_cases e : lanesWord (newGrant s t) = t.ctl.lanes
  · rw [applyGrant_same e, e]; rfl
  · rw [applyGrant_new e, noteCap, modC_ctl, regrantFiles_ctl]; rfl

/-- A grant writes LANES and VSTAT and no other control register. -/
theorem applyGrant_ctl (s : State) (t : Thread) : ∃ l x, (applyGrant s t).ctl = { t.ctl with lanes := l, vstat := x } := by
  by_cases e : lanesWord (newGrant s t) = t.ctl.lanes
  · rw [applyGrant_same e]; exact ⟨_, _, rfl⟩
  · rw [applyGrant_new e, noteCap, modC_ctl, regrantFiles_ctl, takeLanes, modC_ctl]; exact ⟨_, _, rfl⟩

/-- Beside them it reaches the vector and mask files alone (R33). -/
theorem applyGrant_frame (s : State) (t : Thread) :
    (applyGrant s t).s = t.s ∧ (applyGrant s t).h = t.h ∧ (applyGrant s t).sf = t.sf ∧ (applyGrant s t).o = t.o ∧
      (applyGrant s t).map = t.map ∧ (applyGrant s t).pc = t.pc ∧ (applyGrant s t).pend = t.pend := by
  by_cases e : lanesWord (newGrant s t) = t.ctl.lanes
  · simp only [applyGrant_same e, noteCap, modC_s, modC_h, modC_sf, modC_o, modC_map, modC_pc, modC_pend, and_self]
  · simp only [applyGrant_new e, noteCap, takeLanes, modC_s, modC_h, modC_sf, modC_o, modC_map, modC_pc, modC_pend, regrantFiles_frame,
      and_self]

theorem sewOf_applyGrant (s : State) (t : Thread) : sewOf (applyGrant s t) = sewOf t := by
  obtain ⟨l, x, e⟩ := applyGrant_ctl s t
  rw [sewOf, e]; rfl

theorem noEdge_applyGrant (s : State) {t : Thread} (h : NoEdge t) : NoEdge (applyGrant s t) := by
  obtain ⟨l, x, e⟩ := applyGrant_ctl s t
  obtain ⟨-, -, -, -, -, hpc, -⟩ := applyGrant_frame s t
  exact noEdge_of t _ h hpc (by rw [e]) (by rw [e]) (by rw [e])

/-- v0 keeps the bytes of the lanes in both grants (R33), and VSTAT.G tells of the new one. -/
theorem applyGrant_new_v0 {s : State} {t : Thread} (e : lanesWord (newGrant s t) ≠ t.ctl.lanes) :
    vreg (applyGrant s t) 0 = lowBytes (16 * min (lanesOf t) (lanesOf (applyGrant s t))) (vreg t 0) ∧
      fld (applyGrant s t).ctl.vstat 0 1 = 1 := by
  have hl : lanesOf (takeLanes (lanesWord (newGrant s t)) t) = lanesOf (applyGrant s t) := lanesOf_congr (applyGrant_lanes s t).symm
  rw [← hl, applyGrant_new e]
  refine ⟨by rw [noteCap, vreg_modC, vreg_regrantFiles_zero, takeLanes, vreg_modC], ?_⟩
  rw [fld_bit_eq_one, noteCap, modC_ctl, regrantFiles_ctl, takeLanes, modC_ctl]
  exact (wbit_setFld _ 2 1 _ (by decide : 0 < 64)).trans (wbit_setFld _ 0 1 1 (by decide : 0 < 64))

/-! ### SETVL and SETVLR -/

theorem vlmax_congr {u t : Thread} (h1 : u.ctl.lanes = t.ctl.lanes) (h2 : u.ctl.vlcap = t.ctl.vlcap) (w : Nat) : vlmax u w = vlmax t w := by
  simp only [vlmax, grantMax, capOf, lanesOf_congr h1, h2]

/-- A thread with VL the smaller of `c` and its VLMAX (R32, R34). -/
def withLength (c : Nat) (t : Thread) : Thread := setVl (min c (vlmax t (sewOf t))) t

section
variable (c : Nat) (t : Thread)

@[simp] theorem withLength_s : (withLength c t).s = t.s := rfl
@[simp] theorem withLength_v : (withLength c t).v = t.v := rfl
@[simp] theorem withLength_k : (withLength c t).k = t.k := rfl
@[simp] theorem withLength_h : (withLength c t).h = t.h := rfl
@[simp] theorem withLength_sf : (withLength c t).sf = t.sf := rfl
@[simp] theorem withLength_o : (withLength c t).o = t.o := rfl
@[simp] theorem withLength_map : (withLength c t).map = t.map := rfl
@[simp] theorem withLength_pc : (withLength c t).pc = t.pc := rfl
@[simp] theorem withLength_lanes : (withLength c t).ctl.lanes = t.ctl.lanes := rfl
@[simp] theorem withLength_vlcap : (withLength c t).ctl.vlcap = t.ctl.vlcap := rfl
@[simp] theorem withLength_vstat : (withLength c t).ctl.vstat = t.ctl.vstat := rfl
theorem withLength_vl : (withLength c t).ctl.vl = BitVec.ofNat 64 (min c (vlmax t (sewOf t))) := rfl

end

/-- SETVL is a grant, then VL and D (R31-R34, R134). -/
theorem exec_setvl_calm {s : State} (h : Calm s) (d a : SReg) (w : Stall) :
    exec (.setvl d a w) s = .next (retired (fun t => put d (withLength (reg s a).toNat (applyGrant s t)).ctl.vl
      (withLength (reg s a).toNat (applyGrant s t))) s) := by
  obtain ⟨-, -, -, -, -, -, hpend⟩ := applyGrant_frame s s.cur
  simp only [exec_setvl, execSetvl, guardS_quiet _ h.1, rs_quiet _ h.1, sreg_eq_reg]
  exact congrArg _ (finish_setS_after w d (fun t => (withLength (reg s a).toNat (applyGrant s t)).ctl.vl)
    (fun t => withLength (reg s a).toNat (applyGrant s t)) s h.1 (hpend.trans h.1)
    (noEdge_of _ _ (noEdge_applyGrant s h.2) rfl rfl rfl rfl))

/-- SETVLR through a well-formed block table is a grant, the healed reference, VL and the token's address (R221-R223). -/
theorem exec_setvlr_calm {s : State} (hcalm : Calm s) (d a b : SReg) {h : HReg} (w : Stall) {r w16 w24 ref r' : Word} {tbl blk tb doff : Nat}
    {c0 c1 : Bool} (hx : resolveT s (hreg s.cur h) .load = .ok r tbl c0) (h16 : tableRead s (hreg s.cur h) (tbl + 16) = .ok w16)
    (h24 : tableRead s (hreg s.cur h) (tbl + 24) = .ok w24) (hshape : tableShape w16 w24 = some (tb, doff))
    (hp : (reg s a).toNat / 16 < fld w16 0 32)
    (href : tableRead s (hreg s.cur h) (tbl + 32 + 8 * ((reg s a).toNat / 16)) = .ok ref) (hblk : resolveT s ref .load = .ok r' blk c1) :
    exec (.setvlr d a b h w) s = .next (retired (fun t => put d (BitVec.ofNat 64 (blk + doff + (reg s a).toNat % 16 * tb))
      (withLength (min (reg s b).toNat (16 - (reg s a).toNat % 16)) (setH h r (applyGrant s t)))) s) := by
  obtain ⟨-, -, -, -, -, -, hpend⟩ := applyGrant_frame s s.cur
  simp only [exec_setvlr, execSetvlr, guardS_quiet _ hcalm.1, rs_quiet _ hcalm.1, sreg_eq_reg, withRef, hx, h16, h24, orTrap_ok, hshape,
    Nat.not_le.mpr hp, if_false, href, hblk]
  exact congrArg _ (finish_setS_after w d (fun _ => BitVec.ofNat 64 (blk + doff + (reg s a).toNat % 16 * tb))
    (fun t => withLength (min (reg s b).toNat (16 - (reg s a).toNat % 16)) (setH h r (applyGrant s t))) s hcalm.1 (hpend.trans hcalm.1)
    (noEdge_of _ _ (noEdge_applyGrant s hcalm.2) rfl rfl rfl rfl))

/-- What SETVL and SETVLR have in common (R31-R34, R222): from `s` to `u` the grant is formed, VL is the smaller of `c` and the new VLMAX,
D is `x`, and no other scalar register, no register file beside v, k and h, and nothing outside the thread changes. -/
structure Lengthened (s u : State) (d : SReg) (x : Word) (c : Nat) : Prop where
  lanes : u.cur.ctl.lanes = lanesWord (newGrant s s.cur)
  vl : u.cur.ctl.vl = BitVec.ofNat 64 (min c (vlmax u.cur (sewOf s.cur)))
  dest : d ≠ 0 → u.cur.s[d] = x
  scalars : ∀ r : SReg, r ≠ d → u.cur.s[r] = s.cur.s[r]
  scales : u.cur.sf = s.cur.sf
  softmax : u.cur.o = s.cur.o
  map : u.cur.map = s.cur.map
  pc : u.cur.pc = s.cur.pc + 4
  mem : u.mem = s.mem
  cores : u.cores = s.cores
  others : u.others = s.others

/-- An instruction that forms the grant and sets VL and D, and beside them at most the h registers, has done that. -/
theorem lengthened_retired {s : State} {g : Thread → Thread} {y : Vector Word 16} (hg : g s.cur = { applyGrant s s.cur with h := y })
    (d : SReg) (x : Thread → Word) (c : Nat) :
    Lengthened s (retired (fun t => put d (x t) (withLength c (g t))) s) d (x s.cur) c := by
  obtain ⟨hs, -, hsf, ho, hmap, hpc, -⟩ := applyGrant_frame s s.cur
  have hsew : sewOf (g s.cur) = sewOf s.cur := by rw [hg]; exact sewOf_applyGrant s s.cur
  have hold : (withLength c (g s.cur)).s = s.cur.s := by rw [withLength_s, hg, hs]
  constructor
  case lanes => simp only [retired_cur, after_ctl, put_ctl, withLength_lanes, hg, applyGrant_lanes]
  case vl =>
    rw [retired_cur, after_ctl, put_ctl, withLength_vl, hsew, vlmax_congr (u := after _) (t := g s.cur)]
    all_goals simp only [after_ctl, put_ctl, withLength_lanes, withLength_vlcap]
  case dest => exact fun hd => put_s_same (x s.cur) _ hd
  case scalars => exact fun r hr => (put_s_other (x s.cur) _ hr).trans (by rw [hold])
  case scales => simp only [retired_cur, after_sf, put_sf, withLength_sf, hg, hsf]
  case softmax => simp only [retired_cur, after_o, put_o, withLength_o, hg, ho]
  case map => simp only [retired_cur, after_map, put_map, withLength_map, hg, hmap]
  case pc => simp only [retired_cur, after_pc, put_pc, withLength_pc, hg, hpc]
  all_goals rfl

/-- Settles O12: a grant reaches LANES, VSTAT and the vector and mask files alone, and what follows it in both instructions is VL and D. -/
theorem vectorLengths : Obligations.VectorLengths := by
  unfold Obligations.VectorLengths
  refine ⟨fun s d a w h he => ?_, fun s d a w h he => ?_, fun s d a b h w r w16 w24 ref r' tbl blk tb doff c0 c1 hcalm => ?_⟩
  · rw [exec_setvl_calm h]
    simp only [retired, applyGrant_same he]
    rfl
  · obtain ⟨-, hh, -⟩ := applyGrant_frame s s.cur
    obtain ⟨hv0, hg⟩ := applyGrant_new_v0 he
    refine ⟨_, exec_setvl_calm h d a w, ?_⟩
    have L := lengthened_retired (g := applyGrant s) (s := s) rfl d
      (fun t => (withLength (reg s a).toNat (applyGrant s t)).ctl.vl) (reg s a).toNat
    refine ⟨L.lanes, ?_, ?_, L.vl, ?_, L.scalars, ?_, ?_, L.scales, L.softmax, L.map, L.pc, L.mem, L.cores, L.others⟩
    · simpa only [retired_cur, after_ctl, put_ctl, withLength_vstat] using hg
    · rw [vlOf, L.vl]
      simp [fld]
    · intro hd
      rw [L.dest hd]
      simp only [retired_cur, after_ctl, put_ctl]
    · rw [lanesOf_congr (L.lanes.trans (applyGrant_lanes s s.cur).symm), ← hv0]
      simp only [vreg, retired_cur, after_v, put_v, withLength_v]
    · simp only [retired_cur, after_h, put_h, withLength_h, hh]
  · intro x p c hx h16 h24 hshape hp href hblk
    obtain ⟨-, hh, -⟩ := applyGrant_frame s s.cur
    refine ⟨_, exec_setvlr_calm hcalm d a b w hx h16 h24 hshape hp href hblk, ?_⟩
    have L := lengthened_retired (g := fun t => setH h r (applyGrant s t)) (s := s) rfl d
      (fun _ => BitVec.ofNat 64 (blk + doff + p % 16 * tb)) (min c (16 - p % 16))
    refine ⟨L.vl, L.dest, L.scalars, ?_, L.lanes, L.pc, L.scales, L.softmax, L.map, L.mem, L.cores, L.others, fun he => ?_⟩
    · simp only [retired_cur, after_h, put_h, withLength_h, setH, hh]
    · simp only [retired_cur, after_v, put_v, withLength_v, after_k, put_k, withLength_k, setH_v, setH_k, applyGrant_same he]
      exact ⟨rfl, rfl⟩

end Sys2Proof.Machine
end

section
/-! SUPPORT. A pattern decoded and packed again, in its own format or in one with more fraction bits, is the pattern followed by zero
bits, exact in every mode (02 R52, R63). -/

namespace Sys2Proof.Machine

/-- Format `g` is `f` with `k` more fraction bits, and its exponents are those that a field of `eb` bits has (R52). -/
structure Widens (f g : FForm) (k : Nat) : Prop where
  p : g.p = f.p + k
  pos : 0 < f.p
  emin : g.emin = f.emin
  eb : g.eb = f.eb
  emax : g.emax = g.emin + 2 ^ g.eb - 3
  two : 2 ≤ g.eb

theorem widens_form32 : Widens form32 form32 0 := by constructor <;> decide

theorem widens_b16_form32 : Widens formB16 form32 16 := by constructor <;> decide

theorem log2_mul_two_pow {m : Nat} (h : m ≠ 0) (k : Nat) : Nat.log2 (m * 2 ^ k) = Nat.log2 m + k := by
  induction k with
  | zero => simp
  | succ k ih =>
    have hk : m * 2 ^ k ≠ 0 := by positivity
    rw [pow_succ, ← mul_assoc, Nat.log2_eq_log_two, Nat.log_mul_base (by decide) hk, ← Nat.log2_eq_log_two, ih, Nat.add_assoc]

/-- m × 2^e that needs no rounding: with `k` more bits its units fill the precision, or stand at the least exponent (R63). -/
theorem packFin_exact {f : FForm} {m k : Nat} {e : Int} (md : Rm) (s : Bool) (hm : m * 2 ^ k < 2 ^ f.p)
    (hq : e - k = f.emin - (f.p - 1) ∨ 2 ^ (f.p - 1) ≤ m * 2 ^ k ∧ f.emin - (f.p - 1) ≤ e - k) (hmax : e - k + (f.p - 1) ≤ f.emax) :
    packFin f md s m e = (packUnits f s (m * 2 ^ k) (e - k), 0) := by
  by_cases h0 : m = 0
  · subst h0
    simp [packFin, packUnits]
  have hmk : m * 2 ^ k ≠ 0 := by positivity
  have hlog : Nat.log2 (m * 2 ^ k) = Nat.log2 m + k := log2_mul_two_pow h0 k
  have hlt : Nat.log2 (m * 2 ^ k) < f.p := (Nat.log2_lt hmk).mpr hm
  have hunit : max (topExp m e) f.emin - (f.p - 1) = e - k := by
    unfold topExp
    rcases hq with hq | ⟨hn, hq⟩
    · omega
    · have := (Nat.le_log2 hmk).mpr hn
      omega
  have hround : roundTo f md s m e = (m * 2 ^ k, e - k, false) := by
    have hk : (e - (e - k)).toNat = k := by omega
    have hle : e - k ≤ e := by omega
    simp only [roundTo, hunit, roundUnits, hle, if_true, hk, hm.ne, if_false]
  have hfit : ¬ f.emax < e - k + Nat.log2 (m * 2 ^ k) := by omega
  simp [packFin, h0, hround, hfit]

section
variable {f g : FForm} {k : Nat} (h : Widens f g k)
include h

/-- A finite pattern's sign, exponent field and fraction stand in the wider format as they are (R52). -/
theorem packNum_numFinite (md : Rm) (s : Bool) {x m : Nat} (hx : x < 2 ^ f.eb - 1) (hm : m < 2 ^ (f.p - 1)) :
    packNum g md (numFinite f s x m) = ((s.toNat * 2 ^ (f.p - 1 + f.eb) + x * 2 ^ (f.p - 1) + m) * 2 ^ k, 0) := by
  obtain ⟨hp, hpos, hmin, heb, hmax, htwo⟩ := h
  have h4 : 2 ^ 2 ≤ 2 ^ f.eb := Nat.pow_le_pow_right (by decide) (heb ▸ htwo)
  have hp1 : 2 ^ (g.p - 1) = 2 ^ (f.p - 1) * 2 ^ k := by rw [← pow_add]; congr 1; omega
  have hp2 : 2 ^ g.p = 2 * (2 ^ (f.p - 1) * 2 ^ k) := by rw [← hp1, ← pow_succ']; congr 1; omega
  have hp3 : 2 ^ (g.p - 1 + g.eb) = 2 ^ (f.p - 1 + f.eb) * 2 ^ k := by rw [← pow_add]; congr 1; omega
  have hmk : m * 2 ^ k < 2 ^ (f.p - 1) * 2 ^ k := Nat.mul_lt_mul_of_pos_right hm (Nat.two_pow_pos k)
  have hrange : g.emax = f.emin + (2 ^ f.eb : Nat) - 3 := by rw [hmax, hmin, heb]; norm_cast
  by_cases h0 : x = 0
  · subst h0
    simp only [numFinite, if_true, packNum]
    rw [packFin_exact (k := k) md s (by omega) (.inl (by omega)) (by omega)]
    simp only [packUnits, hp1, hp3, if_pos hmk]
    ring_nf
  · simp only [numFinite, if_neg h0, packNum]
    have hs : (2 ^ (f.p - 1) + m) * 2 ^ k = 2 ^ (f.p - 1) * 2 ^ k + m * 2 ^ k := by ring
    rw [packFin_exact (k := k) md s (by omega) (.inr ⟨by omega, by omega⟩) (by omega)]
    have hexp : ((x : Int) - 1 + f.emin - (f.p - 1) - k + (g.p - 1) - g.emin + 1).toNat = x := by omega
    have hnorm : ¬ 2 ^ (f.p - 1) * 2 ^ k + m * 2 ^ k < 2 ^ (f.p - 1) * 2 ^ k := by omega
    simp only [packUnits, hp1, hp3, hs, if_neg hnorm, hexp, Nat.add_sub_cancel_left]
    ring_nf

omit h in
/-- Sign, exponent field and fraction make up the pattern (R52). -/
theorem numFields_value (hpos : 0 < f.p) {w : Nat} (hw : w < 2 ^ (f.p + f.eb)) :
    (numFields f w).1.toNat * 2 ^ (f.p - 1 + f.eb) + (numFields f w).2.1 * 2 ^ (f.p - 1) + (numFields f w).2.2 = w := by
  have hsign : w / 2 ^ (f.p - 1 + f.eb) < 2 := by
    rw [Nat.div_lt_iff_lt_mul (Nat.two_pow_pos _), ← pow_succ']
    exact hw.trans_eq (by congr 1; omega)
  have hbit : (w / 2 ^ (f.p - 1 + f.eb) % 2 == 1).toNat = w / 2 ^ (f.p - 1 + f.eb) := by
    interval_cases w / 2 ^ (f.p - 1 + f.eb) <;> rfl
  have h1 := Nat.div_add_mod (w / 2 ^ (f.p - 1)) (2 ^ f.eb)
  have h2 := Nat.div_add_mod w (2 ^ (f.p - 1))
  rw [Nat.div_div_eq_div_mul, ← pow_add] at h1
  simp only [numFields, hbit]
  calc _ = 2 ^ (f.p - 1) * (2 ^ f.eb * (w / 2 ^ (f.p - 1 + f.eb)) + w / 2 ^ (f.p - 1) % 2 ^ f.eb) + w % 2 ^ (f.p - 1) := by ring
    _ = w := by rw [h1, h2]

/-- A number packed again is its pattern with `k` zero bits after it; nothing is rounded and no flag raised. -/
theorem packNum_numOf (md : Rm) {w : Nat} (hw : w < 2 ^ (f.p + f.eb)) (hn : isNan (numOf f w) = false) :
    packNum g md (numOf f w) = (w * 2 ^ k, 0) := by
  have hv := numFields_value h.pos hw
  have hx : (numFields f w).2.1 < 2 ^ f.eb := Nat.mod_lt _ (Nat.two_pow_pos _)
  have hm : (numFields f w).2.2 < 2 ^ (f.p - 1) := Nat.mod_lt _ (Nat.two_pow_pos _)
  generalize hfields : numFields f w = fields at hv hx hm
  obtain ⟨s, x, m⟩ := fields
  simp only [numOf, hfields] at hn hv hx hm ⊢
  by_cases htop : x = 2 ^ f.eb - 1
  · by_cases h0 : m = 0
    · simp only [if_pos htop, if_pos h0, packNum, packInf]
      have hp1 : 2 ^ (g.p - 1) = 2 ^ (f.p - 1) * 2 ^ k := by rw [← pow_add]; congr 1; have := h.p; have := h.pos; omega
      rw [pow_add, hp1, h.eb, ← hv, htop, h0, pow_add]
      ring_nf
    · simp [if_pos htop, if_neg h0, isNan] at hn
  · rw [if_neg htop, packNum_numFinite h md s (by omega) hm, hv]

end

end Sys2Proof.Machine
end

section
/-! SUPPORT. NaN operands of the scalar operations and the results of FCVT (02 R65, R69; 04 R122). -/

namespace Sys2Proof.Machine

open Sys2Proof.Safety

theorem isNan_iff (v : Num) : isNan v = true ↔ v = .nan := by cases v <;> simp [isNan]

theorem negNum_nan : negNum .nan = .nan := rfl

/-- A NaN on either side passes through the operations before rounding, without a flag (R65). -/
theorem addNum_nan (md : Rm) {a b : Num} (h : a = .nan ∨ b = .nan) : addNum md a b = (.nan, 0) := by
  rcases h with rfl | rfl
  · rfl
  · cases a <;> rfl

theorem mulNum_nan {a b : Num} (h : a = .nan ∨ b = .nan) : mulNum a b = (.nan, 0) := by
  rcases h with rfl | rfl
  · rfl
  · cases a <;> rfl

theorem divNum_nan {a b : Num} (h : a = .nan ∨ b = .nan) : divNum a b = (.nan, 0) := by
  rcases h with rfl | rfl
  · rfl
  · cases a <;> rfl

/-- The canonical NaN is the FP32 result of a NaN in every mode (R65). -/
theorem to32_nan (md : Rm) : to32 md (.nan, 0) = (0x7FC00000, 0) := rfl

/-- A number in FP32 keeps its pattern. -/
theorem to32_num32 (md : Rm) {x : F32} (h : isNan (num32 x) = false) : to32 md (num32 x, 0) = (x, 0) := by
  have hx : x.toNat < 2 ^ (form32.p + form32.eb) := x.isLt
  simp only [to32, num32, packNum_numOf widens_form32 md hx h]
  simp

/-- A number in BF16 has its pattern above 16 zero bits in FP32. -/
theorem to32_numB16 (md : Rm) {x : BitVec 16} (h : isNan (numB16 x) = false) :
    to32 md (numB16 x, 0) = (BitVec.ofNat 32 (x.toNat * 65536), 0) := by
  have hx : x.toNat < 2 ^ (formB16.p + formB16.eb) := x.isLt
  simp only [to32, numB16, packNum_numOf widens_b16_form32 md hx h]
  simp

/-- The lesser and the greater of two NaN are the canonical NaN; of a NaN and a number they are the number (R65). -/
theorem minMax32_nan {x y : F32} (hx : isNan (num32 x) = true) (hy : isNan (num32 y) = true) :
    min32 x y = 0x7FC00000 ∧ max32 x y = 0x7FC00000 := by
  simp only [min32, max32, minNum, maxNum, hx, if_true, (isNan_iff _).mp hy, keep32, to32_nan, and_self]

theorem minMax32_number {x y : F32} (hx : isNan (num32 x) = true) (hy : isNan (num32 y) = false) :
    min32 x y = y ∧ max32 x y = y ∧ min32 y x = y ∧ max32 y x = y := by
  simp only [min32, max32, minNum, maxNum, hx, hy, if_true, Bool.false_eq_true, if_false, keep32, to32_num32 .rne hy, and_self]

/-- FCVT in a calm thread: the converted value with latency 4, and its flags (R114, R122). -/
theorem exec_fcvt_calm {s : State} (h : Calm s) (d a : SReg) (k : FConv) (m : Rm) (w : Stall) :
    exec (.fcvt d a k m w) s =
      .next (retired (fun t => raise (fcvt k m (reg s a)).2 (put4 d w (fcvt k m (reg s a)).1 t)) s) := by
  simp only [exec_fcvt, execFcvt, guardS_quiet _ h.1, rs_quiet _ h.1, sreg_eq_reg]
  exact congrArg _ (finish_float4 w d _ _ s h)

/-- A BF16 source is widened exactly (R122): its pattern in bits [31:16]. -/
theorem fcvt_frombf16 (m : Rm) (x : Word) : fcvt .frombf16 m x =
    (if isNan (numB16 (x.truncate 16)) then 0x7FC00000 else BitVec.ofNat 64 (x.toNat % 65536 * 65536), 0) := by
  by_cases h : isNan (numB16 (x.truncate 16)) = true
  · simp only [fcvt, (isNan_iff _).mp h, to32_nan]
    rfl
  · have hx : x.toNat % 65536 * 65536 < 2 ^ 32 := by omega
    simp only [fcvt, to32_numB16 _ (Bool.not_eq_true _ ▸ h), if_neg h]
    simp only [BitVec.truncate_eq_setWidth, BitVec.toNat_setWidth, BitVec.zeroExtend]
    refine congrArg (·, _) (BitVec.eq_of_toNat_eq ?_)
    simp
    omega

/-- Settles O5: a NaN is decoded to the one value that every operation passes on, any other pattern packs to itself; and FCVT is its
conversion in a calm thread. -/
theorem nansAndConversions : Obligations.NansAndConversions := by
  unfold Obligations.NansAndConversions
  refine ⟨fun m x y => ⟨fun h => ?_, fun h => ?_, minMax32_nan, minMax32_number⟩, fun s d a m w h => ?_⟩
  · have h : num32 x = .nan ∨ num32 y = .nan := by
      simpa only [unordered, Bool.or_eq_true, isNan_iff] using h
    have hneg : num32 x = .nan ∨ negNum (num32 y) = .nan := h.imp_right fun h => by rw [h, negNum_nan]
    simp only [add32, sub32, mul32, div32, addNum_nan m h, addNum_nan m hneg, mulNum_nan h, divNum_nan h, to32_nan, and_self]
  · simp only [sqrt32, (isNan_iff _).mp h, sqrtNum, to32_nan]
  · have run (k : FConv) := exec_fcvt_calm h d a k m w
    refine ⟨run .toi32, run .toi64, run .fromi32, run .fromi64, run .tobf16, ?_⟩
    rw [run .frombf16, fcvt_frombf16]

end Sys2Proof.Machine
end

section
/-! SUPPORT. Little-endian bytes, one by one and bit by bit (00 R8), and what a memory access leaves beside its bytes. -/

namespace Sys2Proof.Machine

open Sys2Proof.Safety

@[simp] theorem length_leBytes (n x : Nat) : (leBytes n x).length = n := by
  induction n generalizing x with
  | zero => rfl
  | succ n ih => simp [leBytes, ih]

theorem getElem_leBytes (n x : Nat) {j : Nat} (h : j < (leBytes n x).length) : (leBytes n x)[j] = BitVec.ofNat 8 (x / 256 ^ j) := by
  induction n generalizing x j with
  | zero => simp [leBytes] at h
  | succ n ih =>
    cases j with
    | zero => simp [leBytes]
    | succ j => simp only [leBytes, List.getElem_cons_succ, ih, Nat.div_div_eq_div_mul, pow_succ']

/-- Bit `i` of a number is bit i mod 8 of its byte i / 8. -/
theorem getLsbD_byte (x i : Nat) : (BitVec.ofNat 8 (x / 256 ^ (i / 8))).getLsbD (i % 8) = x.testBit i := by
  have h256 : 256 ^ (i / 8) = 2 ^ (8 * (i / 8)) := by rw [pow_mul]; rfl
  rw [BitVec.getLsbD_ofNat, h256, Nat.testBit_div_two_pow, Nat.mod_add_div]
  simp [Nat.mod_lt]

theorem ofBytes_div (l : List Byte) (j : Nat) : BitVec.ofNat 8 (ofBytes l / 256 ^ j) = l.getD j 0 := by
  induction l generalizing j with
  | nil => simp [ofBytes]
  | cons b l ih =>
    cases j with
    | zero =>
      refine BitVec.eq_of_toNat_eq ?_
      simp [ofBytes]
      omega
    | succ j =>
      have hb : (b.toNat + 256 * ofBytes l) / 256 = ofBytes l := by have := b.isLt; omega
      rw [ofBytes, pow_succ', ← Nat.div_div_eq_div_mul, hb, ih, List.getD_cons_succ]

theorem testBit_ofBytes (l : List Byte) (i : Nat) : (ofBytes l).testBit i = (l.getD (i / 8) 0).getLsbD (i % 8) := by
  rw [← getLsbD_byte, ofBytes_div]

theorem nodup_places {p : Nat → Loc} {n : Nat} (h : ∀ i j, i < j → j < n → p i ≠ p j) : ((List.range n).map p).Nodup := by
  refine List.nodup_range.map_on fun i hi j hj e => ?_
  rcases Nat.lt_trichotomy i j with hij | hij | hij
  · exact absurd e (h i j hij (List.mem_range.mp hj))
  · exact hij
  · exact absurd e.symm (h j i hij (List.mem_range.mp hi))

/-- The bits of a number written to places that differ stand at those places. -/
theorem getLsbD_written {p : Nat → Loc} {n : Nat} (h : ∀ i j, i < j → j < n → p i ≠ p j) (x : Nat) (s : State) {i : Nat} (hi : i < 8 * n) :
    (byteAt (writeAll (wrBytes ((List.range n).map p) (leBytes n x)) s) (p (i / 8))).getLsbD (i % 8) = x.testBit i := by
  have hj : i / 8 < n := by omega
  have hb := byteAt_writeAll_bytes ((List.range n).map p) (leBytes n x) s (nodup_places h) (i / 8) (by simpa using hj) (by simpa using hj)
  rw [List.getElem_map, List.getElem_range, getElem_leBytes] at hb
  rw [hb, getLsbD_byte]

theorem byteAt_wrBytes_other {ls : List Loc} {l : Loc} (h : l ∉ ls) (bs : List Byte) (s : State) :
    byteAt (writeAll (wrBytes ls bs) s) l = byteAt s l := by
  refine byteAt_writeAll_other _ l s fun w hw e => h ?_
  obtain ⟨x, hx, rfl⟩ := List.mem_map.mp hw
  exact e ▸ (List.of_mem_zip hx).1

/-- From `s` to `u` no more than memory, the matrix stores and their poison change. -/
def OnlyMemory (s u : State) : Prop :=
  u = { s with mem := u.mem, written := u.written, past := u.past, cores := u.cores, poison := u.poison }

theorem OnlyMemory.refl (s : State) : OnlyMemory s s := rfl

theorem OnlyMemory.trans {s u v : State} (h : OnlyMemory s u) (h' : OnlyMemory u v) : OnlyMemory s v := by
  unfold OnlyMemory at *
  rw [h', h]

theorem onlyMemory_foldl {α : Type} {f : State → α → State} (h : ∀ s a, OnlyMemory s (f s a)) (l : List α) (s : State) :
    OnlyMemory s (l.foldl f s) := by
  induction l generalizing s with
  | nil => exact .refl s
  | cons a l ih => exact (h s a).trans (ih (f s a))

theorem onlyMemory_wr1 (s : State) (w : Wr) : OnlyMemory s (wr1 s w) := by
  unfold wr1
  cases w.loc <;> rfl

theorem onlyMemory_clearSector (s : State) (q : Loc) : OnlyMemory s (clearSector q s) := by cases q <;> rfl

theorem onlyMemory_writeAll (ws : List Wr) (s : State) : OnlyMemory s (writeAll ws s) := by
  have h := (onlyMemory_foldl onlyMemory_wr1 ws s).trans
    (onlyMemory_foldl onlyMemory_clearSector ((touchedBad s ws).filter (covers ws)) (ws.foldl wr1 s))
  exact h.trans rfl

/-- An instruction that writes memory and completes with the effect `f` on its thread. -/
theorem onlyBytes_retired {s u : State} (h : OnlyMemory s u) (f : Thread → Thread) : OnlyBytes s (retired f u) f := by
  unfold OnlyMemory at h
  rw [h]
  rfl

@[simp] theorem byteAt_retired (f : Thread → Thread) (s : State) (l : Loc) : byteAt (retired f s) l = byteAt s l := by cases l <;> rfl

end Sys2Proof.Machine
end

section
/-! SUPPORT. The all-or-nothing accesses VLDSC, VLDK and VSTK, and VPREF (02 R59; 06 R181-R183): spans whose bytes are all reached. -/

namespace Sys2Proof.Machine

open Sys2Proof.Safety

/-! ### The walk of a span -/

/-- Every byte of a walked span has a place. -/
def AllReached (l : List (Word × Except Bad Xlat)) : Prop := ∀ x ∈ l, ∃ y, x.2 = .ok y

theorem AllReached.append {l l' : List (Word × Except Bad Xlat)} (h : AllReached l) (h' : AllReached l') : AllReached (l ++ l') :=
  fun x hx => (List.mem_append.mp hx).elim (h x) (h' x)

theorem spanFail_none {l : List (Word × Except Bad Xlat)} (h : AllReached l) (miss : Nat) : spanFail miss l = none := by
  unfold spanFail
  induction l with
  | nil => rfl
  | cons x l ih =>
    obtain ⟨y, hy⟩ := h x List.mem_cons_self
    obtain ⟨a, r⟩ := x
    subst hy
    exact ih fun x hx => h x (List.mem_cons_of_mem _ hx)

theorem spanPoison_none {s : State} {l : List (Word × Except Bad Xlat)} (h : AllReached l) (hp : ∀ q ∈ spanLocs l, poisoned s q = false) :
    spanPoison s l = none := by
  unfold spanPoison
  induction l with
  | nil => rfl
  | cons x l ih =>
    obtain ⟨y, hy⟩ := h x List.mem_cons_self
    obtain ⟨a, r⟩ := x
    subst hy
    have hq : poisoned s y.loc = false ∧ ∀ q ∈ spanLocs l, poisoned s q = false := by simpa [spanLocs] using hp
    rw [List.foldl_cons]
    simp only [hq.1, Bool.not_false, if_true]
    exact ih (fun x hx => h x (List.mem_cons_of_mem _ hx)) hq.2

theorem spanLocs_append (l l' : List (Word × Except Bad Xlat)) : spanLocs (l ++ l') = spanLocs l ++ spanLocs l' := List.filterMap_append

section
variable {s : State} {a : Word} {n : Nat} {k : Acc} {p : Nat → Loc} (h : Spans s a n k p)
include h

theorem spans_allReached : AllReached (spanPlaces s k a n) := by
  intro x hx
  obtain ⟨j, hj, rfl⟩ := List.mem_map.mp hx
  obtain ⟨⟨c, r, hx⟩, -⟩ := h j (List.mem_range.mp hj)
  exact ⟨_, hx⟩

theorem spanLocs_spans : spanLocs (spanPlaces s k a n) = (List.range n).map p := by
  rw [spanLocs, spanPlaces, List.filterMap_map, ← List.filterMap_eq_map]
  refine List.filterMap_congr fun j hj => ?_
  obtain ⟨⟨c, r, hx⟩, -⟩ := h j (List.mem_range.mp hj)
  simp only [spanAt] at hx
  simp [hx]

theorem spans_unfenced : ((List.range n).map p).any (locFenced s) = false := by
  simp only [List.any_map, List.any_eq_false, List.mem_range, Function.comp_apply, Bool.not_eq_true]
  exact fun j hj => (h j hj).2

end

theorem clean_spans {s : State} {n : Nat} {p : Nat → Loc} (h : ∀ j, j < n → poisoned s (p j) = false) :
    ∀ q ∈ (List.range n).map p, poisoned s q = false := by
  simpa using h

/-! ### The last-use hint -/

/-- Steps that each change memory alone change memory alone together. -/
theorem foldl_mem {α : Type} {f : State → α → State} (h : ∀ s a, ∃ m, f s a = { s with mem := m }) (l : List α) (s : State) :
    ∃ m, l.foldl f s = { s with mem := m } := by
  induction l generalizing s with
  | nil => exact ⟨s.mem, rfl⟩
  | cons a l ih =>
    obtain ⟨m, hm⟩ := h s a
    obtain ⟨m', hm'⟩ := ih (f s a)
    exact ⟨m', by rw [List.foldl_cons, hm', hm]⟩

theorem dropSectors_mem (l : List Nat) (s : State) : ∃ m, dropSectors l s = { s with mem := m } :=
  foldl_mem (fun s _ => foldl_mem (fun _ _ => ⟨_, rfl⟩) _ s) l s

/-- A load with the hint leaves what one without it does, but for bytes of memory and the note of touched sectors (R180). -/
theorem hinted_afterHint (h : Hint) (q : List Nat) (lo : Nat) {s u : State} (hm : u.mem = s.mem) (ht : u.cur.touched = s.cur.touched) :
    hinted s (afterHint h q lo s u) = u := by
  have keep : hinted s u = u := by unfold hinted; rw [← hm, ← ht]
  unfold afterHint
  split
  · obtain ⟨m, e⟩ := dropSectors_mem (touchedAt s.cur lo ++ q).eraseDups u
    rw [e]
    exact keep
  · exact keep

theorem afterHint_plain {h : Hint} (hh : h.val ≠ 3) (q : List Nat) (lo : Nat) (s u : State) : afterHint h q lo s u = u := if_neg hh

/-! ### Bits of a mask register written from bit 0 up -/

theorem getLsbD_foldl_putBit (f : Nat → Bool) (l : List Nat) (x : KBits) (hl : ∀ i ∈ l, i < 512) {j : Nat} (hj : j < 512) :
    ((l.map fun i => (i, f i)).foldl (fun x (i, b) => putBit x i b) x).getLsbD j = if j ∈ l then f j else x.getLsbD j := by
  induction l generalizing x with
  | nil => simp
  | cons a l ih =>
    rw [List.map_cons, List.foldl_cons, ih _ fun i hi => hl i (List.mem_cons_of_mem _ hi),
      getLsbD_putBit _ _ _ _ (hl a List.mem_cons_self) hj]
    by_cases h1 : j ∈ l
    · simp [h1]
    · by_cases h2 : j = a
      · simp [h2]
      · simp [h1, h2]

theorem kreg_setK (d r : KReg) (x : KBits) (t : Thread) : kreg (setK d x t) r = if d ≠ 0 ∧ r = d then x else kreg t r := by
  by_cases hd : d = 0
  · simp [setK, hd]
  by_cases hr : r = d
  · simp [setK, kreg, hd, hr]
  · have hv : d.val ≠ r.val := fun e => hr (Fin.ext e.symm)
    simp [setK, kreg, hd, hr, Vector.getElem_set_ne _ _ hv]

/-- A write of a mask register reaches it and the note of values held (R33), and nothing else of the thread. -/
theorem setK_frame_eq (d : KReg) (x : KBits) (t : Thread) :
    setK d x t = { t with k := (setK d x t).k, kheld := (setK d x t).kheld } := by
  unfold setK; split <;> rfl

/-- Without damage a write of mask bits is a write of the register. -/
theorem writeBits_sound {t : Thread} (h : t.kbad = []) (d : KReg) (l : List (Nat × Bool)) :
    writeBits d l t = setK d (l.foldl (fun x (i, b) => putBit x i b) (kreg t d)) t := by
  have hk := setK_kbad d (l.foldl (fun x (i, b) => putBit x i b) (kreg t d)) t
  rw [h] at hk
  simp only [writeBits, h, List.filter_nil]
  rw [← hk]

/-- A vector instruction that writes bits [0, n) of a mask register and completes. -/
theorem maskWrote_writeBits {s : State} (h : s.cur.kbad = []) (d : KReg) {n : Nat} (hn : n ≤ 512) (f : Nat → Bool) :
    MaskWrote s (retired (fun t => setVstart 0 (writeBits d ((List.range n).map fun i => (i, f i)) t)) s) d
      (fun i => decide (i < n)) f 0 := by
  have hl : ∀ i ∈ List.range n, i < 512 := fun i hi => (List.mem_range.mp hi).trans_le hn
  have hk (r : KReg) : kreg (retired (fun t => setVstart 0 (writeBits d ((List.range n).map fun i => (i, f i)) t)) s).cur r =
      if d ≠ 0 ∧ r = d then ((List.range n).map fun i => (i, f i)).foldl (fun x (i, b) => putBit x i b) (kreg s.cur d) else kreg s.cur r := by
    rw [← kreg_setK, ← writeBits_sound h]
    simp only [kreg, retired_cur, after_k, setVstart_k]
  refine ⟨fun j hj => ?_, fun r hr => ?_, ?_⟩
  · rw [hk]
    by_cases hd : d = 0
    · simp [hd]
    · simp only [ne_eq, hd, not_false_eq_true, and_self, if_true, getLsbD_foldl_putBit f _ _ hl hj, List.mem_range, true_and, decide_eq_true_eq]
  · rw [hk, if_neg fun e => hr e.2]
  · simp only [retired, writeBits_sound h]
    rw [setK_frame_eq]
    simp [setVstart, after, modC]

theorem hinted_writeBits (s : State) (i : Hint) (r : List Nat) (d : KReg) (l : List (Nat × Bool)) :
    hinted s (afterHint i r 0 s (retired (fun t => setVstart 0 (writeBits d l t)) s)) =
      retired (fun t => setVstart 0 (writeBits d l t)) s :=
  hinted_afterHint i r 0 rfl (writeBits_touched d l s.cur)

/-! ### The scale file -/

/-- Entry `j` of the scale file: the block code at `p j` times the superscale of its four (R59). -/
def scaleEntry (s : State) (p q : Nat → Loc) (j : Nat) : R32 :=
  to32 .rne (mulNum
    (num32 (BitVec.ofNat 32 (valueAt s [q (j / 4 * 4), q (j / 4 * 4 + 1), q (j / 4 * 4 + 2), q (j / 4 * 4 + 3)])))
    (numInt (byteAt s (p j)).toNat))

/-- The same from the bytes of the two spans. -/
def scaleOfBytes (codes supers : List Byte) (j : Nat) : R32 :=
  to32 .rne (mulNum (num32 (BitVec.ofNat 32 (ofBytes ((supers.drop (j / 4 * 4)).take 4)))) (numInt (codes.getD j 0).toNat))

/-- The four bytes of a superscale among the 64 of their span. -/
theorem take_drop_range {α : Type} (f : Nat → α) {n i : Nat} (hi : i + 4 ≤ n) :
    (((List.range n).map f).drop i).take 4 = [f i, f (i + 1), f (i + 2), f (i + 3)] := by
  refine List.ext_getElem (by simp; omega) fun j hj _ => ?_
  simp only [List.getElem_take, List.getElem_drop, List.getElem_map, List.getElem_range]
  have : j < 4 := (List.length_take_le 4 _).trans_lt' hj
  interval_cases j <;> rfl

theorem scaleOfBytes_readBytes (s : State) (p q : Nat → Loc) {j : Nat} (hj : j < 64) :
    scaleOfBytes (readBytes s ((List.range 64).map p)) (readBytes s ((List.range 64).map q)) j = scaleEntry s p q j := by
  rw [scaleOfBytes, readBytes, readBytes, List.map_map, List.map_map, take_drop_range _ (by omega)]
  simp [scaleEntry, valueAt, hj]

/-- The scale file of 64 such entries, and the flags they raise. -/
def scaleFile (s : State) (p q : Nat → Loc) : Vector F32 64 := Vector.ofFn fun j => (scaleEntry s p q j.val).1
def scaleFlags (s : State) (p q : Nat → Loc) : Flags := (List.range 64).foldl (fun g j => g ||| (scaleEntry s p q j).2) 0

theorem getElem_scaleFile (s : State) (p q : Nat → Loc) (j : Nat) (hj : j < 64) : (scaleFile s p q)[j] = (scaleEntry s p q j).1 :=
  Vector.getElem_ofFn hj

/-- A thread with another scale file and more flags. -/
def withScales (v : Vector F32 64) (g : Flags) (t : Thread) : Thread := orFlags g { t with sf := v }

theorem finishV_withScales {s : State} (hc : Calm s) (hchain : s.cur.chain = 0) (v : Vector F32 64) (g : Flags) :
    finishV (withScales v g) s = retired (fun t => setVstart 0 (withScales v g t)) s :=
  finishV_calm (withScales v g) s hc.1 (noEdge_of _ _ hc.2 rfl rfl rfl rfl) hchain

theorem hinted_withScales (s : State) (i : Hint) (r : List Nat) (v : Vector F32 64) (g : Flags) :
    hinted s (afterHint i r 0 s (retired (fun t => setVstart 0 (withScales v g t)) s)) =
      retired (fun t => setVstart 0 (withScales v g t)) s := hinted_afterHint i r 0 rfl rfl

theorem sf_afterHint_withScales (s : State) (i : Hint) (r : List Nat) (v : Vector F32 64) (g : Flags) :
    (afterHint i r 0 s (retired (fun t => setVstart 0 (withScales v g t)) s)).cur.sf = v :=
  congrArg (·.cur.sf) (hinted_withScales s i r v g)

theorem retired_withScales (s : State) (v : Vector F32 64) (g : Flags) : retired (fun t => setVstart 0 (withScales v g t)) s =
    retired (fun t => { t with sf := v, ctl := { t.ctl with vstart := 0, fflags := t.ctl.fflags ||| g.zeroExtend 64 } }) s := rfl

/-! ### The instructions -/

section
variable {s : State} (h : VecReady s 16)
include h

/-- VL is within the bits that the lanes of a mask register hold (R183). -/
theorem vl_within_lanes : ¬ 8 * lanesOf s.cur < vlOf s.cur := by
  obtain ⟨-, -, -, -, -, hvl, -⟩ := h
  unfold grantMax at hvl
  omega

theorem exec_vpref_ready (b : SReg) (f : Fmt) (m : VMode) (i : Hint) (x : BitVec 6) :
    exec (.vpref b f m i x) s = .next (retired (setVstart 0) (cleared m false s)) := by
  obtain ⟨⟨hp, hn⟩, -, -, -, hc, -, -⟩ := h
  simp only [exec_vpref, execVpref, guardS_quiet _ hp]
  cases m with
  | tile => exact congrArg _ (finish_calm 0 _ s hp (noEdge_of _ _ hn rfl rfl rfl rfl))
  | unit => exact congrArg _ (finishV_calm id s hp hn hc)
  | strided => exact congrArg _ (finishV_calm id s hp hn hc)

/-- A VSTK whose bytes are all reached writes them and completes (R183). -/
theorem exec_vstk_ready (k : KReg) (b : SReg) (i : Hint) (x : BitVec 6) {p : Nat → Loc}
    (hs : Spans s (reg s b + 64 * x.signExtend 64) ((vlOf s.cur + 7) / 8) .store p) :
    exec (.vstk k b i x) s = .next (retired (setVstart 0) (writeAll
      (wrBytes ((List.range ((vlOf s.cur + 7) / 8)).map p) (leBytes ((vlOf s.cur + 7) / 8) (kreg s.cur k).toNat)) s)) := by
  have hvl := vl_within_lanes h
  obtain ⟨⟨hp, hn⟩, -, hk, -, hc, -, -⟩ := h
  have hbad (n : Nat) : (List.range n).any (bitBad s.cur k) = false := by simp [bitBad, hk]
  simp only [exec_vstk, execVstk, maskBase, guardS_quiet _ hp, rs_quiet _ hp, sreg_eq_reg, hvl, if_false,
    spanFail_none (spans_allReached hs), spanLocs_spans hs, spans_unfenced hs, hbad, Bool.false_eq_true]
  exact congrArg _ (finishV_calm id _ (by rwa [writeAll_cur]) (by rwa [writeAll_cur]) (by rwa [writeAll_cur]))

/-- A VLDK whose bytes are all reached and hold no poison writes the bits and completes (R183). -/
theorem exec_vldk_ready (k : KReg) (b : SReg) (i : Hint) (x : BitVec 6) {p : Nat → Loc}
    (hs : Spans s (reg s b + 64 * x.signExtend 64) ((vlOf s.cur + 7) / 8) .load p)
    (hclean : ∀ j, j < (vlOf s.cur + 7) / 8 → poisoned s (p j) = false) :
    exec (.vldk k b i x) s = .next (afterHint i (spanSectors (spanPlaces s .load (reg s b + 64 * x.signExtend 64) ((vlOf s.cur + 7) / 8))) 0 s
      (retired (fun t => setVstart 0 (writeBits k ((List.range (vlOf s.cur)).map
        fun i => (i, (byteAt s (p (i / 8))).getLsbD (i % 8))) t)) s)) := by
  have hvl := vl_within_lanes h
  obtain ⟨⟨hp, hn⟩, -, -, -, hc, -, -⟩ := h
  have hbits : ∀ i ∈ List.range (vlOf s.cur),
      (i, (ofBytes (readBytes s ((List.range ((vlOf s.cur + 7) / 8)).map p))).testBit i) = (i, (byteAt s (p (i / 8))).getLsbD (i % 8)) := by
    intro i hi
    have hlt := List.mem_range.mp hi
    have : i / 8 < (vlOf s.cur + 7) / 8 := by omega
    simp [testBit_ofBytes, readBytes, this]
  have hpoison : spanPoison s (spanPlaces s .load (reg s b + 64 * x.signExtend 64) ((vlOf s.cur + 7) / 8)) = none :=
    spanPoison_none (spans_allReached hs) (spanLocs_spans hs ▸ clean_spans hclean)
  simp only [exec_vldk, execVldk, maskBase, guardS_quiet _ hp, rs_quiet _ hp, sreg_eq_reg, hvl, if_false,
    spanFail_none (spans_allReached hs), spanLocs_spans hs, spans_unfenced hs, hpoison, Bool.false_eq_true, List.map_congr_left hbits]
  rw [finishV_calm _ s hp]
  · exact noEdge_of _ _ hn (writeBits_pc ..) (by rw [writeBits_ctl]) (by rw [writeBits_ctl]) (by rw [writeBits_ctl])
  · rw [writeBits_chain, hc]

/-- A VLDSC whose bytes are all reached and hold no poison loads the scale file and completes (R59, R182). -/
theorem exec_vldsc_ready (b y : SReg) (i : Hint) {p q : Nat → Loc} (halign : (reg s y).toNat % 4 = 0)
    (hs : Spans s (reg s b) 64 .load p) (hs' : Spans s (reg s y) 64 .load q)
    (hclean : ∀ j, j < 64 → poisoned s (p j) = false ∧ poisoned s (q j) = false) :
    exec (.vldsc b i y) s = .next (afterHint i (spanSectors (spanPlaces s .load (reg s b) 64 ++ spanPlaces s .load (reg s y) 64)) 0 s
      (retired (fun t => setVstart 0 (withScales (scaleFile s p q) (scaleFlags s p q) t)) s)) := by
  obtain ⟨hcalm, -, -, -, hchain, -, -⟩ := h
  have hreach := (spans_allReached hs).append (spans_allReached hs')
  have hlocs : spanLocs (spanPlaces s .load (reg s b) 64 ++ spanPlaces s .load (reg s y) 64) = (List.range 64).map p ++ (List.range 64).map q := by
    rw [spanLocs_append, spanLocs_spans hs, spanLocs_spans hs']
  have hpoison : spanPoison s (spanPlaces s .load (reg s b) 64 ++ spanPlaces s .load (reg s y) 64) = none := by
    refine spanPoison_none hreach (hlocs ▸ fun l hl => ?_)
    exact (List.mem_append.mp hl).elim (clean_spans (fun j hj => (hclean j hj).1) l) (clean_spans (fun j hj => (hclean j hj).2) l)
  have hfile (j : Fin 64) := scaleOfBytes_readBytes s p q j.isLt
  have hflags : (List.range 64).foldl (fun g j => g ||| (scaleOfBytes (readBytes s ((List.range 64).map p))
      (readBytes s ((List.range 64).map q)) j).2) 0 = scaleFlags s p q :=
    List.foldl_ext _ _ _ fun g j hj => congrArg (g ||| ·.2) (scaleOfBytes_readBytes s p q (List.mem_range.mp hj))
  simp only [scaleOfBytes] at hfile hflags
  simp only [exec_vldsc, execVldsc, guardS_quiet _ hcalm.1, rs_quiet _ hcalm.1, sreg_eq_reg, halign, spanFail_none hreach, hlocs, List.any_append,
    spans_unfenced hs, spans_unfenced hs', hpoison, spanLocs_spans hs, spanLocs_spans hs', hflags, hfile]
  rw [← finishV_withScales hcalm hchain]
  rfl

end

/-- Settles O30: with every byte reached the spans are lists of places, the hint apart each load leaves what it reads there, and the
bits that VSTK writes at different places are those of its register. -/
theorem spanAccesses : Obligations.SpanAccesses := by
  unfold Obligations.SpanAccesses
  intro s b y f m k h x p q hready n base zero
  have ⟨_, _, hkbad, _⟩ := hready
  refine ⟨fun halign hs hs' hclean => ?_, fun hvl hs hclean => ?_, fun hvl hs hne => ?_, ?_⟩
  · have hu (r) := hinted_withScales s h r (scaleFile s p q) (scaleFlags s p q)
    have hsf (r) := sf_afterHint_withScales s h r (scaleFile s p q) (scaleFlags s p q)
    refine ⟨_, exec_vldsc_ready hready b y h halign hs hs' hclean, fun j hj => ?_, fun hh => ?_, ?_⟩
    · rw [hsf, getElem_scaleFile]
      rfl
    · rw [hu, afterHint_plain hh]
    · rw [hu, hsf]
      exact retired_withScales s _ _
  · have hu (r) := hinted_writeBits s h r k ((List.range (vlOf s.cur)).map fun i => (i, (byteAt s (p (i / 8))).getLsbD (i % 8)))
    refine ⟨_, exec_vldk_ready hready k b h x hs hclean, fun hh => ?_, ?_⟩
    · rw [hu, afterHint_plain hh]
    · rw [hu]
      exact maskWrote_writeBits hkbad k hvl _
  · refine ⟨_, exec_vstk_ready hready k b h x hs, ?_, fun i hi => ?_, fun l hl => ?_⟩
    · exact onlyBytes_retired (onlyMemory_writeAll _ s) zero
    · rw [byteAt_retired, getLsbD_written hne _ s hi, BitVec.testBit_toNat]
    · rw [byteAt_retired]
      refine byteAt_wrBytes_other (fun hm => ?_) _ s
      obtain ⟨j, hj, rfl⟩ := List.mem_map.mp hm
      exact hl j (List.mem_range.mp hj) rfl
  · exact exec_vpref_ready hready b f m h x

end Sys2Proof.Machine
end

section
/-! SUPPORT. A word that decodes is the word of what it decodes to (03 R84-R97): the word is the sum of its fields, and each
decoder reads every one of them. -/

namespace Sys2Proof.Laws.WordOf

open Sys2Proof Sys2Proof.Dec Sys2Proof.Enc

/-- What a decoder makes of word `w` is no instruction, or a well-formed one whose word is `w`. -/
def Sound (w : Nat) (r : Except DecodeError Instr) : Prop :=
  ∀ i, r = .ok i → i.wellFormed = true ∧ encode i = some w

/-! ## The combinators of the decoder -/

section
variable {w : Nat} {k : Except DecodeError Instr}

theorem sound_error {e : DecodeError} : Sound w (.error e) := fun _ h => nomatch h

theorem sound_ok {i : Instr} {x : Nat} (hi : i.wellFormed = true) (he : encode i = some x) (hx : x = w) : Sound w (.ok i) := by
  rintro _ ⟨⟩
  exact ⟨hi, he.trans (congrArg some hx)⟩

theorem sound_rsv {bad : Bool} (h : bad = false → Sound w k) : Sound w (rsv bad k) := by
  cases bad
  · exact h rfl
  · exact sound_error

theorem sound_acc {good : Bool} (h : good = true → Sound w k) : Sound w (acc good k) := by
  cases good
  · exact sound_error
  · exact h rfl

theorem sound_opt {α : Type} {v : Option α} {f : α → Except DecodeError Instr} (h : ∀ x, v = some x → Sound w (f x)) :
    Sound w (opt v f) := by
  cases v with
  | none => exact sound_error
  | some x => exact h x rfl

/-- A field that is reserved. -/
theorem sound_zero {lo n : Nat} (h : fld w lo n = 0 → Sound w k) : Sound w (rsv (fld w lo n != 0) k) :=
  sound_rsv fun hb => h (bne_eq_false_iff_eq.mp hb)

/-- One reserved field and others. -/
theorem sound_zero_or {lo n : Nat} {bad : Bool} (h : fld w lo n = 0 → Sound w (rsv bad k)) :
    Sound w (rsv (bad || fld w lo n != 0) k) := by
  refine sound_rsv fun hb => ?_
  obtain ⟨hbad, hz⟩ := Bool.or_eq_false_iff.mp hb
  have := h (bne_eq_false_iff_eq.mp hz)
  rwa [hbad] at this

theorem fld_bit (w lo : Nat) : (bit w lo).toNat = fld w lo 2 := by
  have : w / 2 ^ lo % 2 < 2 := Nat.mod_lt _ (by decide)
  unfold bit fld
  interval_cases w / 2 ^ lo % 2 <;> rfl

theorem fld_of_bit {lo : Nat} {b : Bool} (h : bit w lo = b) : fld w lo 2 = b.toNat := by rw [← fld_bit, h]

/-- A reserved bit. -/
theorem sound_zero_bit {lo : Nat} (h : fld w lo 2 = 0 → Sound w k) : Sound w (rsv (bit w lo) k) :=
  sound_rsv fun hb => h (fld_of_bit hb)

/-- SB where a scalar source is not accepted (R93). -/
theorem sound_noSB (h : fld w 3 2 = 0 → Sound w k) : Sound w (acc (!bit w 3) k) :=
  sound_acc fun hb => h (fld_of_bit (by simpa using hb))

end

/-! ## Fields and the values they stand for -/

/-- A field inside one that is zero. -/
theorem fld_within {w lo n lo' n' : Nat} (hz : fld w lo n = 0) (h : lo ≤ lo' ∧ 2 ^ (lo' - lo) * n' ∣ n := by decide) : fld w lo' n' = 0 := by
  obtain ⟨hle, hn⟩ := h
  have hd : 2 ^ (lo' - lo) * n' ∣ w / 2 ^ lo := hn.trans (Nat.dvd_of_mod_eq_zero hz)
  have e : w / 2 ^ lo' = w / 2 ^ lo / 2 ^ (lo' - lo) := by rw [Nat.div_div_eq_div_mul, ← pow_add, Nat.add_sub_cancel' hle]
  exact Nat.mod_eq_zero_of_dvd (e ▸ Nat.dvd_div_of_mul_dvd hd)

/-- A field whose upper part is zero. -/
theorem fld_narrow {w lo n m hi p : Nat} (hz : fld w hi p = 0) (h : lo ≤ hi ∧ m = 2 ^ (hi - lo) ∧ n = m * p := by decide) :
    fld w lo n = fld w lo m := by
  obtain ⟨hle, rfl, rfl⟩ := h
  have e : w / 2 ^ lo / 2 ^ (hi - lo) = w / 2 ^ hi := by rw [Nat.div_div_eq_div_mul, ← pow_add, Nat.add_sub_cancel' hle]
  have hz' : w / 2 ^ hi % p = 0 := hz
  simp [fld, Nat.mod_mul, e, hz']

theorem bv_toNat (n w lo : Nat) : (bv n w lo).toNat = fld w lo (2 ^ n) := BitVec.toNat_ofNat ..

theorem srcB_vsrc (w : Nat) : srcB (vsrc w) = fld w 10 32 := by
  unfold vsrc
  split <;> rfl

theorem srcSB_vsrc (w : Nat) : srcSB (vsrc w) = fld w 3 2 := by
  unfold vsrc
  rw [← fld_bit]
  cases bit w 3 <;> rfl

theorem rm_enc {n : Nat} {m : Rm} (h : Dec.rm n = some m) : n = Enc.rm m := by
  unfold Dec.rm at h
  split at h <;> cases h <;> rfl
theorem fcond_enc {n : Nat} {c : FCond} (h : Dec.fcond n = some c) : n = Enc.fcond c := by
  unfold Dec.fcond at h
  split at h <;> cases h <;> rfl
theorem fconv_enc {n : Nat} {c : FConv} (h : Dec.fconv n = some c) : n = Enc.fconv c := by
  unfold Dec.fconv at h
  split at h <;> cases h <;> rfl
theorem redop_enc {n : Nat} {c : RedOp} (h : Dec.redop n = some c) : n = Enc.redop c := by
  unfold Dec.redop at h
  split at h <;> cases h <;> rfl
theorem vconv_enc {n : Nat} {c : VConv} (h : Dec.vconv n = some c) : n = Enc.vconv c := by
  unfold Dec.vconv at h
  split at h <;> cases h <;> rfl
theorem fmt_enc {n : Nat} {c : Fmt} (h : Dec.fmt n = some c) : n = c.code := by
  unfold Dec.fmt at h
  split at h <;> cases h <;> rfl
theorem vmode_enc {n : Nat} {c : VMode} (h : Dec.vmode n = some c) : n = Enc.vmode c := by
  unfold Dec.vmode at h
  split at h <;> cases h <;> rfl
theorem scope_enc {n : Nat} {c : Scope} (h : Dec.scope n = some c) : n = Enc.scope c := by
  unfold Dec.scope at h
  split at h <;> cases h <;> rfl
theorem nibop_enc {n : Nat} {c : NibOp} (h : Dec.nibop n = some c) : n = Enc.nibop c := by
  unfold Dec.nibop at h
  split at h <;> cases h <;> rfl
theorem ldwidth_enc {n : Nat} {c : LdWidth} (h : Dec.ldwidth n = some c) : n = Enc.ldwidth c := by
  unfold Dec.ldwidth at h
  split at h <;> cases h <;> rfl
theorem stwidth_enc {n : Nat} {c : StWidth} (h : Dec.stwidth n = some c) : n = Enc.stwidth c := by
  unfold Dec.stwidth at h
  split at h <;> cases h <;> rfl
theorem cmdbase_enc {n : Nat} {c : CmdBase} (h : Dec.cmdbase n = some c) : n = Enc.cmdbase c := by
  unfold Dec.cmdbase at h
  split at h <;> cases h <;> rfl
theorem vcond_enc {n : Nat} (h : n < 8) : n = Enc.vcond (Dec.vcond n) := by interval_cases n <;> rfl

/-! ## A word is the sum of its fields, format by format (R84) -/

section
variable {w maj : Nat} (hm : w / 2 ^ 25 = maj)
include hm

theorem sr_eq {d a b fn n : Nat} (hd : fld w 20 32 = d) (ha : fld w 15 32 = a) (hb : fld w 10 32 = b) (hf : fld w 2 256 = fn)
    (hn : fld w 0 4 = n) : sr maj d a b fn n = w := by
  unfold fld at *; unfold sr; omega

theorem si_eq {d a i n : Nat} (hd : fld w 20 32 = d) (ha : fld w 15 32 = a) (hi : fld w 2 8192 = i) (hn : fld w 0 4 = n) :
    si maj d a i n = w := by
  unfold fld at *; unfold si; omega

theorem li_eq {d i : Nat} (hd : fld w 20 32 = d) (hi : fld w 0 (2 ^ 20) = i) : li maj d i = w := by
  unfold fld at *; unfold li; omega

theorem br_eq {a b o : Nat} (ha : fld w 20 32 = a) (hb : fld w 15 32 = b) (ho : fld w 0 32768 = o) : br maj a b o = w := by
  unfold fld at *; unfold br; omega

theorem vr_eq {d a b op sb sub : Nat} (hd : fld w 20 32 = d) (ha : fld w 15 32 = a) (hb : fld w 10 32 = b) (ho : fld w 4 64 = op)
    (hs : fld w 3 2 = sb) (hu : fld w 0 8 = sub) : vr maj d a b op sb sub = w := by
  unfold fld at *; unfold vr; omega

theorem vm_eq {v s f m h x : Nat} (hv : fld w 20 32 = v) (hs : fld w 15 32 = s) (hf : fld w 11 16 = f) (hmd : fld w 8 8 = m)
    (hh : fld w 6 4 = h) (hx : fld w 0 64 = x) : vm maj v s f m h x = w := by
  unfold fld at *; unfold vm; omega

theorem mx_eq {m a b fn : Nat} (hr : fld w 16 512 = m) (ha : fld w 11 32 = a) (hb : fld w 6 32 = b) (hf : fld w 0 64 = fn) :
    mx maj m a b fn = w := by
  unfold fld at *; unfold mx; omega

theorem mm_eq {m s x l h fn : Nat} (hr : fld w 16 512 = m) (hs : fld w 11 32 = s) (hx : fld w 6 32 = x) (hl : fld w 5 2 = l)
    (hh : fld w 3 4 = h) (hf : fld w 0 8 = fn) : mm maj m s x l h fn = w := by
  unfold fld at *; unfold mm; omega

theorem mt_eq {m n l fn : Nat} (hr : fld w 16 512 = m) (hn : fld w 7 512 = n) (hl : fld w 6 2 = l) (hf : fld w 0 64 = fn) :
    Enc.mt maj m n l fn = w := by
  unfold fld at *; unfold Enc.mt; omega

theorem hr_eq {d h o fn : Nat} (hd : fld w 20 32 = d) (hh : fld w 16 16 = h) (ho : fld w 3 8192 = o) (hf : fld w 0 8 = fn) :
    hr maj d h o fn = w := by
  unfold fld at *; unfold hr; omega

theorem sy_eq {d a c fn : Nat} (hd : fld w 20 32 = d) (ha : fld w 15 32 = a) (hc : fld w 3 4096 = c) (hf : fld w 0 8 = fn) :
    sy maj d a c fn = w := by
  unfold fld at *; unfold sy; omega

end

end Sys2Proof.Laws.WordOf
end

section
/-! SUPPORT. The decoders of the scalar and vector majors read every bit of a word (03 R92, R93). -/

namespace Sys2Proof.Laws.WordOf

open Sys2Proof Sys2Proof.Dec Sys2Proof.Enc

variable {w : Nat}

/-- FN8 of the scalar floating-point operations: the operation above its mode or condition (R92). -/
theorem fn_sfloat {op m : Nat} (ho : fld w 5 32 = op) (hc : fld w 2 8 = m) : fld w 2 256 = op * 8 + m := by
  unfold fld at *; omega

/-- A field of five bits that names a mask register, its upper two reserved (R85). -/
theorem kD_fld (h : fld w 23 4 = 0) : fld w 20 32 = (r3 w 20).val := fld_narrow h
theorem kA_fld (h : fld w 18 4 = 0) : fld w 15 32 = (r3 w 15).val := fld_narrow h
theorem kB_fld (h : fld w 13 4 = 0) : fld w 10 32 = (r3 w 10).val := fld_narrow h

/-! ## Scalar majors -/

theorem sound_alu (hm : w / 2 ^ 25 = 0x01) : Sound w (alu w) := by
  unfold alu
  split
  case h_15 h | h_16 h => exact sound_zero fun hb => sound_ok rfl rfl (sr_eq hm rfl rfl hb h rfl)
  case h_17 => exact sound_error
  all_goals
    rename_i h
    exact sound_ok rfl rfl (sr_eq hm rfl rfl rfl h rfl)

theorem sound_mulDiv (hm : w / 2 ^ 25 = 0x02) : Sound w (mulDiv w) := by
  unfold mulDiv
  split
  case h_8 => exact sound_error
  all_goals
    rename_i h
    exact sound_ok rfl rfl (sr_eq hm rfl rfl rfl h rfl)

theorem sound_sfloat (hm : w / 2 ^ 25 = 0x03) : Sound w (sfloat w) := by
  unfold sfloat
  dsimp only
  split
  case h_6 h => exact sound_zero fun hb => sound_opt fun m hr => sound_ok rfl rfl (sr_eq hm rfl rfl hb (fn_sfloat h (rm_enc hr)) rfl)
  case h_7 h | h_8 h => exact sound_zero fun hz => sound_ok rfl rfl (sr_eq hm rfl rfl rfl (fn_sfloat h hz) rfl)
  case h_9 h => exact sound_opt fun c hc => sound_ok rfl rfl (sr_eq hm rfl rfl rfl (fn_sfloat h (fcond_enc hc)) rfl)
  case h_10 h =>
    exact sound_opt fun k hk => sound_opt fun m hr => sound_ok rfl rfl (sr_eq hm rfl rfl (fconv_enc hk) (fn_sfloat h (rm_enc hr)) rfl)
  case h_11 => exact sound_error
  all_goals
    rename_i h
    exact sound_opt fun m hr => sound_ok rfl rfl (sr_eq hm rfl rfl rfl (fn_sfloat h (rm_enc hr)) rfl)

/-- IMM13 of the shifts: the kind above the amount, with five reserved bits above both (R88). -/
theorem imm_shift {kind : Nat} (h : fld w 8 4 = kind) (hz : fld w 10 32 = 0) : fld w 2 8192 = 64 * kind + w / 2 ^ 2 % 64 := by
  unfold fld at *; omega

theorem sound_shiftImm (hm : w / 2 ^ 25 = 0x09) : Sound w (shiftImm w) := by
  unfold shiftImm
  dsimp only
  split
  case h_1 h =>
    exact sound_zero fun hz => sound_ok rfl rfl (si_eq hm rfl rfl ((imm_shift h hz).trans (Nat.zero_add _)) rfl)
  case h_4 => exact sound_error
  all_goals
    rename_i h
    exact sound_zero fun hz => sound_ok rfl rfl (si_eq hm rfl rfl (imm_shift h hz) rfl)

/-- OFF15 of a loop lies where R127 has it. -/
theorem off_bounds (h : (decide (2 ≤ fld w 0 32768) && decide (fld w 0 32768 ≤ 16383)) = true) :
    (decide (2 ≤ (bv 15 w 0).toNat) && decide ((bv 15 w 0).toNat ≤ 16383)) = true := by
  rw [bv_toNat]
  exact h

theorem off15_toNat : fld w 0 32768 = (bv 15 w 0).toNat := (bv_toNat 15 w 0).symm

theorem sound_loops (hm : w / 2 ^ 25 = 0x1E) : Sound w (loops w) := by
  unfold loops
  split
  case h_1 h | h_2 h => exact sound_acc fun ho => sound_ok (off_bounds ho) rfl (br_eq hm rfl h off15_toNat)
  case h_6 => exact sound_error
  all_goals
    rename_i h
    exact sound_zero fun hz => sound_ok rfl rfl (br_eq hm (kD_fld hz) h off15_toNat)

theorem imm13_toNat : fld w 2 8192 = (bv 13 w 2).toNat := (bv_toNat 13 w 2).symm
theorem imm20_toNat : fld w 0 (2 ^ 20) = (bv 20 w 0).toNat := (bv_toNat 20 w 0).symm

theorem sound_scalar : Sound w (scalar w) := by
  unfold scalar
  dsimp only
  split
  case h_1 hm => exact sound_alu hm
  case h_2 hm => exact sound_mulDiv hm
  case h_3 hm => exact sound_sfloat hm
  case h_9 hm => exact sound_shiftImm hm
  case h_10 hm | h_28 hm => exact sound_ok rfl rfl (li_eq hm rfl imm20_toNat)
  case h_22 hm | h_23 hm | h_24 hm | h_25 hm | h_26 hm | h_27 hm => exact sound_ok rfl rfl (br_eq hm rfl rfl off15_toNat)
  case h_30 hm => exact sound_loops hm
  case h_31 hm =>
    split
    · next h => exact sound_zero fun hb => sound_ok rfl rfl (sr_eq hm rfl rfl hb h rfl)
    · exact sound_error
  case h_32 => exact sound_error
  all_goals
    rename_i hm
    exact sound_ok rfl rfl (si_eq hm rfl rfl imm13_toNat rfl)

/-! ## Vector majors -/

theorem sound_varith (hm : w / 2 ^ 25 = 0x20) : Sound w (varith w) := by
  unfold varith
  dsimp only
  split
  case h_9 h | h_10 h =>
    exact sound_noSB fun hs => sound_zero_or fun hb => sound_zero fun hu => sound_ok rfl rfl (vr_eq hm rfl rfl hb h hs hu)
  case h_11 => exact sound_error
  all_goals
    rename_i h
    exact sound_zero fun hu => sound_ok rfl rfl (vr_eq hm rfl rfl (srcB_vsrc w).symm h (srcSB_vsrc w).symm hu)

theorem sound_vunary (hm : w / 2 ^ 25 = 0x21) : Sound w (vunary w) := by
  unfold vunary
  dsimp only
  split
  case h_7 => exact sound_error
  all_goals
    rename_i h
    exact sound_noSB fun hs => sound_zero_or fun hb => sound_zero fun hu => sound_ok rfl rfl (vr_eq hm rfl rfl hb h hs hu)

theorem sound_vlogic (hm : w / 2 ^ 25 = 0x22) : Sound w (vlogic w) := by
  unfold vlogic
  dsimp only
  split
  case h_7 => exact sound_error
  all_goals
    rename_i h
    exact sound_zero fun hu => sound_ok rfl rfl (vr_eq hm rfl rfl (srcB_vsrc w).symm h (srcSB_vsrc w).symm hu)

theorem sound_vcmp (hm : w / 2 ^ 25 = 0x23) : Sound w (Dec.vcmp w) := by
  unfold Dec.vcmp
  split
  · next h =>
    exact sound_zero fun hd => sound_ok rfl rfl
      (vr_eq hm (kD_fld hd) rfl (srcB_vsrc w).symm h (srcSB_vsrc w).symm (vcond_enc (Nat.mod_lt _ (by decide))))
  · exact sound_error

theorem sound_kops (hm : w / 2 ^ 25 = 0x24) : Sound w (kops w) := by
  unfold kops
  dsimp only
  simp only [← Bool.or_assoc]
  split
  case h_4 h =>
    exact sound_noSB fun hs => sound_zero_or fun hb => sound_zero_or fun ha => sound_zero_or fun hd => sound_zero fun hu =>
      sound_ok rfl rfl (vr_eq hm (kD_fld hd) (kA_fld ha) hb h hs hu)
  case h_5 h | h_6 h =>
    exact sound_noSB fun hs => sound_zero_or fun hb => sound_zero_or fun ha => sound_zero fun hu =>
      sound_ok rfl rfl (vr_eq hm rfl (kA_fld ha) hb h hs hu)
  case h_7 => exact sound_error
  all_goals
    rename_i h
    exact sound_noSB fun hs => sound_zero_or fun hb => sound_zero_or fun ha => sound_zero_or fun hd => sound_zero fun hu =>
      sound_ok rfl rfl (vr_eq hm (kD_fld hd) (kA_fld ha) (kB_fld hb) h hs hu)

theorem sound_vcompact (hm : w / 2 ^ 25 = 0x25) : Sound w (vcompact w) := by
  unfold vcompact
  dsimp only
  split
  case h_1 h | h_2 h =>
    exact sound_noSB fun hs => sound_zero_or fun hb => sound_zero fun hu => sound_ok rfl rfl (vr_eq hm rfl rfl (kB_fld hb) h hs hu)
  case h_3 h =>
    exact sound_noSB fun hs => sound_zero_or fun hb => sound_zero_or fun ha => sound_zero fun hu =>
      sound_ok rfl rfl (vr_eq hm rfl (kA_fld ha) hb h hs hu)
  case h_4 h =>
    exact sound_noSB fun hs => sound_zero_or fun hz => sound_zero fun hu =>
      sound_ok rfl rfl (vr_eq hm rfl (a := 0) (b := 0) (by unfold fld at *; omega) (by unfold fld at *; omega) h hs hu)
  case h_5 h =>
    exact sound_noSB fun hs => sound_opt fun u hr => sound_zero fun hb => sound_ok rfl rfl (vr_eq hm rfl rfl hb h hs (redop_enc hr))
  case h_6 => exact sound_error

theorem sound_vmoves (hm : w / 2 ^ 25 = 0x26) : Sound w (vmoves w) := by
  unfold vmoves
  dsimp only
  split
  case h_4 h =>
    exact sound_noSB fun hs => sound_zero_or fun hb => sound_zero fun hu => sound_ok rfl rfl (vr_eq hm rfl rfl hb h hs hu)
  case h_5 h =>
    refine sound_noSB fun hs => ?_
    split
    case h_3 => exact sound_error
    all_goals
      rename_i hu
      exact sound_zero fun hb => sound_ok rfl rfl (vr_eq hm rfl rfl hb h hs hu)
  case h_7 => exact sound_error
  all_goals
    rename_i h
    exact sound_noSB fun hs => sound_zero fun hu => sound_ok rfl rfl (vr_eq hm rfl rfl rfl h hs hu)

theorem sound_vreduce (hm : w / 2 ^ 25 = 0x27) : Sound w (vreduce w) := by
  unfold vreduce
  dsimp only
  split
  case h_4 h =>
    exact sound_noSB fun hs => sound_opt fun u hr => sound_zero fun hb => sound_ok rfl rfl (vr_eq hm rfl rfl hb h hs (redop_enc hr))
  case h_5 => exact sound_error
  all_goals
    rename_i h
    exact sound_noSB fun hs => sound_zero fun hu => sound_ok rfl rfl (vr_eq hm rfl rfl rfl h hs hu)

theorem sound_vconvert (hm : w / 2 ^ 25 = 0x28) : Sound w (vconvert w) :=
  sound_opt fun _ hc => sound_noSB fun hs => sound_zero_or fun hb => sound_zero fun hu => sound_acc fun hg =>
    sound_ok hg rfl (vr_eq hm rfl rfl hb (vconv_enc hc) hs hu)

end Sys2Proof.Laws.WordOf
end

section
/-! SUPPORT. The decoders of the memory, matrix, attention, heap and system majors read every bit of a word (03 R94-R97). -/

namespace Sys2Proof.Laws.WordOf

open Sys2Proof Sys2Proof.Dec Sys2Proof.Enc

variable {w : Nat}

/-! ## Vector memory and atomics (R94, R170) -/

theorem x_toNat : fld w 0 64 = (bv 6 w 0).toNat := (bv_toNat 6 w 0).symm

/-- X as the number of a register, its low bit reserved (R170). -/
theorem x_reg (h : fld w 0 2 = 0) : fld w 0 64 = 2 * (r5 w 1).val := by
  unfold fld r5 at *; dsimp only; omega

/-- A store takes no HINT 0b11 (R170, R180). -/
theorem hint_ok (h : (fld w 6 4 == 3) = false) : decide ((r2 w 6).val ≠ 3) = true :=
  decide_eq_true (beq_eq_false_iff_ne.mp h)

theorem sound_vmem {store : Bool} {k : Fmt → VMode → Instr}
    (h : ∀ f m, fld w 11 16 = f.code → fld w 8 8 = Enc.vmode m → f.modeOk m = true → (store && fld w 6 4 == 3) = false → Sound w (.ok (k f m))) :
    Sound w (vmem w store k) :=
  sound_opt fun f hf => sound_opt fun m hv => sound_acc fun hg => by
    rw [Bool.and_eq_true, Bool.not_eq_true'] at hg
    exact h f m (fmt_enc hf) (vmode_enc hv) hg.1 hg.2

theorem sound_vidx {store : Bool} {k : Fmt → Instr}
    (h : ∀ f, fld w 0 2 = 0 → fld w 11 16 = f.code → fld w 8 8 = 0 → (store && fld w 6 4 == 3) = false → Sound w (.ok (k f))) :
    Sound w (vidx w store k) :=
  sound_zero fun hx => sound_opt fun f hf => sound_acc fun hg => by
    rw [Bool.and_eq_true, Bool.not_eq_true', beq_iff_eq] at hg
    exact h f hx (fmt_enc hf) hg.1 hg.2

/-- FN8 of an atomic: its operation, aq, rl and scope (R94, R288). -/
theorem fn_amo {op : Nat} {c : Scope} (ho : fld w 7 8 = op) (hc : Dec.scope (fld w 2 8) = some c) :
    fld w 2 256 = op * 2 ^ 5 + (bit w 6).toNat * 2 ^ 4 + (bit w 5).toNat * 2 ^ 3 + Enc.scope c := by
  rw [fld_bit, fld_bit, ← scope_enc hc]
  unfold fld at *; omega

theorem sound_amoW (hm : w / 2 ^ 25 = 0x48) : Sound w (amoW w) := by
  unfold amoW
  split
  case h_8 => exact sound_error
  all_goals
    rename_i h
    exact sound_opt fun c hc => sound_ok rfl rfl (sr_eq hm rfl rfl rfl (fn_amo h hc) rfl)

theorem sound_amoD (hm : w / 2 ^ 25 = 0x49) : Sound w (amoD w) := by
  unfold amoD
  split
  case h_8 => exact sound_error
  all_goals
    rename_i h
    exact sound_opt fun c hc => sound_ok rfl rfl (sr_eq hm rfl rfl rfl (fn_amo h hc) rfl)

/-- D, A and the upper part of CTRL12 reserved: CTRL12 is the scope (R287). -/
theorem sync_eq {fn : Nat} {c : Scope} (hm : w / 2 ^ 25 = 0x4C) (hf : fld w 0 8 = fn) (hz : fld w 6 (2 ^ 19) = 0)
    (hc : Dec.scope (fld w 3 8) = some c) : sy 0x4C 0 0 (Enc.scope c) fn = w := by
  rw [← scope_enc hc]
  unfold fld at *; unfold sy; omega

theorem sound_sync (hm : w / 2 ^ 25 = 0x4C) : Sound w (sync w) := by
  unfold sync
  split
  case h_3 => exact sound_error
  all_goals
    rename_i h
    exact sound_zero fun hz => sound_opt fun c hc => sound_ok rfl rfl (sync_eq hm h hz hc)

/-- MODE of VAMOADD is its scope and HINT its aq and rl (R94). -/
theorem hint_flags : fld w 6 4 = 2 * (bit w 7).toNat + (bit w 6).toNat := by
  rw [fld_bit, fld_bit]
  unfold fld; omega

theorem sound_memory (hr : 0x40 ≤ w / 2 ^ 25 ∧ w / 2 ^ 25 ≤ 0x4C) : Sound w (memory w) := by
  unfold memory
  dsimp only
  split
  case h_1 hm => exact sound_vmem fun f m hf hv ho _ => sound_ok ho rfl (vm_eq hm rfl rfl hf hv rfl x_toNat)
  case h_2 hm =>
    exact sound_vmem fun f m hf hv ho hh => sound_ok (Bool.and_eq_true_iff.mpr ⟨ho, hint_ok hh⟩) rfl (vm_eq hm rfl rfl hf hv rfl x_toNat)
  case h_3 hm => exact sound_vidx fun f hx hf hv _ => sound_ok rfl rfl (vm_eq hm rfl rfl hf hv rfl (x_reg hx))
  case h_4 hm => exact sound_vidx fun f hx hf hv hh => sound_ok (hint_ok hh) rfl (vm_eq hm rfl rfl hf hv rfl (x_reg hx))
  case h_5 hm =>
    exact sound_zero_or fun hx => sound_zero_or fun hf => sound_zero fun hd => sound_acc fun hv =>
      sound_ok rfl rfl (vm_eq hm hd rfl hf (beq_iff_eq.mp hv) rfl (x_reg hx))
  case h_6 hm =>
    exact sound_zero fun hd => sound_vmem fun f m hf hv ho hh =>
      sound_ok (Bool.and_eq_true_iff.mpr ⟨ho, hint_ok hh⟩) rfl (vm_eq hm hd rfl hf hv rfl x_toNat)
  case h_7 hm =>
    exact sound_zero_or fun hf => sound_zero fun hd => sound_acc fun hv =>
      sound_ok rfl rfl (vm_eq hm (kD_fld hd) rfl hf (beq_iff_eq.mp hv) rfl x_toNat)
  case h_8 hm =>
    refine sound_zero_or fun hf => sound_zero fun hd => sound_acc fun hg => ?_
    obtain ⟨hv, hh⟩ := Bool.and_eq_true_iff.mp hg
    exact sound_ok (decide_eq_true (bne_iff_ne.mp hh)) rfl (vm_eq hm (kD_fld hd) rfl hf (beq_iff_eq.mp hv) rfl x_toNat)
  case h_9 hm => exact sound_amoW hm
  case h_10 hm => exact sound_amoD hm
  case h_11 hm =>
    split
    · exact sound_error
    · exact sound_opt fun p hp => sound_opt fun c hc => sound_ok rfl rfl (sr_eq hm rfl rfl rfl (fn_amo (nibop_enc hp) hc) rfl)
  case h_12 hm =>
    exact sound_zero fun hx => sound_opt fun f hf => sound_opt fun c hc => sound_acc fun hg =>
      sound_ok hg rfl (vm_eq hm rfl rfl (fmt_enc hf) (scope_enc hc) hint_flags (x_reg hx))
  case h_13 =>
    simp only [imp_false] at *
    exact sound_sync (by omega)

/-! ## Matrix (R95, R213-R220) -/

theorem sound_matrix (hr : 0x58 ≤ w / 2 ^ 25 ∧ w / 2 ^ 25 ≤ 0x5F) : Sound w (matrix w) := by
  unfold matrix
  dsimp only
  split
  case h_1 hm | h_2 hm =>
    split
    case h_3 => exact sound_error
    all_goals
      rename_i h
      exact sound_ok rfl rfl (mx_eq hm rfl rfl rfl h)
  case h_3 hm =>
    split
    · next h => exact sound_ok rfl rfl (mx_eq hm rfl rfl rfl h)
    · exact sound_error
  case h_4 hm =>
    split
    case h_2 h => exact sound_acc fun hg => sound_ok hg rfl (mt_eq hm rfl rfl (fld_bit w 6).symm h)
    case h_6 h => exact sound_zero fun hz => sound_ok rfl rfl (mt_eq hm (fld_within hz) (fld_within hz) (fld_within hz) h)
    case h_7 => exact sound_error
    all_goals
      rename_i h
      exact sound_zero fun hz => sound_ok rfl rfl (mt_eq hm rfl (fld_within hz) (fld_within hz) h)
  case h_5 hm =>
    split
    case h_3 => exact sound_error
    all_goals
      rename_i h
      exact sound_zero_bit fun hl => sound_ok rfl rfl (mm_eq hm rfl rfl rfl hl rfl h)
  case h_6 hm =>
    split
    case h_3 => exact sound_error
    all_goals
      rename_i h
      exact sound_acc fun hh => sound_ok (decide_eq_true (bne_iff_ne.mp hh)) rfl (mm_eq hm rfl rfl rfl (fld_bit w 5).symm rfl h)
  case h_7 hm =>
    split
    case h_3 h => exact sound_zero fun hz => sound_ok rfl rfl (mm_eq hm rfl rfl rfl (fld_within hz) (fld_within hz) h)
    case h_4 => exact sound_error
    all_goals
      rename_i h
      exact sound_zero fun hh => sound_ok rfl rfl (mm_eq hm rfl rfl rfl (fld_bit w 5).symm hh h)
  case h_8 =>
    simp only [imp_false] at *
    have hm : w / 2 ^ 25 = 0x5F := by omega
    split
    · next h => exact sound_zero fun hz => sound_ok rfl rfl (mm_eq hm rfl rfl (fld_within hz) (fld_within hz) (fld_within hz) h)
    · exact sound_error

/-! ## Attention (R95, R222-R239) -/

/-- FN6 of ATSC: the bias register above the bit that says there is one (R224). -/
theorem fn_bias (h : fld w 0 2 = 1) : fld w 0 64 = 2 * (r5 w 1).val + 1 := by
  unfold fld r5 at *; dsimp only; omega

theorem fn_noBias (h : fld w 0 2 = 0) (hz : fld w 1 32 = 0) : fld w 0 64 = 0 := by
  unfold fld at *; omega

/-- FN8 of the instructions of an o register: the operation above the register's number, a reserved bit between. -/
theorem fn_oreg {op : Nat} (ho : fld w 6 16 = op) (hz : fld w 5 2 = 0) : fld w 2 256 = 16 * op + (r3 w 2).val := by
  unfold fld r3 at *; dsimp only; omega

/-- FN6 of TMERGE and TUNMRG: the operation above the number of an h register. -/
theorem fn_token {op : Nat} (ho : fld w 4 4 = op) : fld w 0 64 = 16 * op + (r4 w 0).val := by
  unfold fld r4 at *; dsimp only; omega

theorem sound_attention (hr : 0x68 ≤ w / 2 ^ 25 ∧ w / 2 ^ 25 ≤ 0x6F) : Sound w (attention w) := by
  unfold attention
  dsimp only
  split
  case h_1 hm => exact sound_zero fun hz => sound_ok rfl rfl (sr_eq hm rfl rfl rfl (fld_narrow hz) rfl)
  case h_2 hm =>
    split
    · next hb => exact sound_ok rfl rfl (mx_eq hm rfl rfl rfl (fn_bias (fld_of_bit hb)))
    · next hb =>
      exact sound_zero fun hz => sound_ok rfl rfl (mx_eq hm rfl rfl rfl (fn_noBias (fld_of_bit (Bool.eq_false_of_not_eq_true hb)) hz))
  case h_3 hm =>
    exact sound_zero_or fun hl => sound_zero fun hh => sound_ok rfl rfl
      (mx_eq hm (fld_within hh) (fld_narrow (fld_within (lo' := 14) (n' := 4) hh)) (fld_within hl) (fld_within hl))
  case h_4 hm =>
    exact sound_zero fun hz => sound_acc fun hg => sound_ok hg rfl (mt_eq hm rfl rfl (fld_bit w 6).symm (fld_narrow hz))
  case h_5 hm =>
    split
    case h_1 h =>
      exact sound_zero_or fun hz => sound_zero_bit fun h5 => sound_ok rfl rfl
        (sr_eq hm rfl (fld_within hz) (fld_within hz) ((fn_oreg h h5).trans (Nat.zero_add _)) rfl)
    case h_2 h =>
      exact sound_zero_or fun hd => sound_zero_or fun hb => sound_zero_bit fun h5 => sound_ok rfl rfl
        (sr_eq hm hd rfl hb (fn_oreg h h5) rfl)
    case h_3 h =>
      exact sound_zero_or fun hz => sound_zero_bit fun h5 => sound_ok rfl rfl
        (sr_eq hm (fld_within hz) (fld_within hz) (fld_within hz) (fn_oreg h h5) rfl)
    case h_4 => exact sound_error
  case h_6 hm =>
    exact sound_zero fun hz => sound_ok rfl rfl (vr_eq hm rfl rfl rfl (fld_within hz) (fld_within hz) (fld_within hz))
  case h_7 hm =>
    exact sound_zero_or fun hz => sound_zero_bit fun hb => sound_ok rfl rfl (mx_eq hm rfl rfl (fld_narrow hb) hz)
  case h_8 =>
    simp only [imp_false] at *
    have hm : w / 2 ^ 25 = 0x6F := by omega
    split
    case h_1 h => exact sound_acc fun hg => sound_ok hg rfl (mt_eq hm rfl rfl (fld_bit w 6).symm ((fn_token h).trans (Nat.zero_add _)))
    case h_2 h => exact sound_acc fun hg => sound_ok hg rfl (mt_eq hm rfl rfl (fld_bit w 6).symm (fn_token h))
    case h_3 => exact sound_error

/-! ## Heap (R96) -/

theorem off13_toNat : fld w 3 8192 = (bv 13 w 3).toNat := (bv_toNat 13 w 3).symm

/-- D of HCAS is even where its low bit is zero (R262). -/
theorem even_hreg (h : (fld w 20 2 == 0) = true) : decide ((r4 w 20).val % 2 = 0) = true := by
  have h0 : w / 2 ^ 20 % 2 = 0 := beq_iff_eq.mp h
  exact decide_eq_true (show w / 2 ^ 20 % 16 % 2 = 0 by omega)

/-- VLDH and VSTH have FMT in three bits (R263). -/
theorem code_lt_eight {f : Fmt} (h : Dec.fmt (fld w 0 8) = some f) : decide (f.code < 8) = true :=
  decide_eq_true (fmt_enc h ▸ Nat.mod_lt _ (by decide))

/-- The immediate size is not zero (R265). -/
theorem size_ne_zero (h : (fld w 3 8192 != 0) = true) : decide ((bv 13 w 3).toNat ≠ 0) = true :=
  decide_eq_true (off13_toNat (w := w) ▸ bne_iff_ne.mp h)

theorem sound_heap (hr : 0x70 ≤ w / 2 ^ 25 ∧ w / 2 ^ 25 ≤ 0x77) : Sound w (heap w) := by
  unfold heap
  dsimp only
  split
  case h_1 hm => exact sound_opt fun n hn => sound_ok rfl rfl (hr_eq hm rfl rfl off13_toNat (ldwidth_enc hn))
  case h_2 hm => exact sound_opt fun n hn => sound_ok rfl rfl (hr_eq hm rfl rfl off13_toNat (stwidth_enc hn))
  case h_3 hm =>
    split
    case h_3 h => exact sound_zero_bit fun hd => sound_acc fun hg => sound_ok (even_hreg hg) rfl (hr_eq hm (fld_narrow hd) rfl off13_toNat h)
    case h_4 => exact sound_error
    all_goals
      rename_i h
      exact sound_zero_bit fun hd => sound_ok rfl rfl (hr_eq hm (fld_narrow hd) rfl off13_toNat h)
  case h_4 hm | h_5 hm => exact sound_opt fun f hf => sound_ok (code_lt_eight hf) rfl (hr_eq hm rfl rfl off13_toNat (fmt_enc hf))
  case h_6 hm =>
    split
    case h_1 h => exact sound_zero fun hz => sound_ok rfl rfl (hr_eq hm rfl rfl hz h)
    case h_2 h | h_3 h => exact sound_zero_or fun hd => sound_zero fun hz => sound_ok rfl rfl (hr_eq hm hd rfl hz h)
    case h_4 h => exact sound_zero fun hz => sound_ok rfl rfl (hr_eq hm rfl rfl (fld_narrow hz) h)
    case h_5 => exact sound_error
  case h_7 hm =>
    split
    case h_1 h =>
      exact sound_zero_or fun hh => sound_zero_bit fun hd => sound_acc fun hg =>
        sound_ok (size_ne_zero hg) rfl (hr_eq hm (fld_narrow hd) hh off13_toNat h)
    case h_2 h =>
      exact sound_zero_or fun hz => sound_zero_or fun hh => sound_zero_bit fun hd =>
        sound_ok rfl rfl (hr_eq hm (fld_narrow hd) hh (fld_narrow hz) h)
    case h_3 => exact sound_error
  case h_8 =>
    simp only [imp_false] at *
    have hm : w / 2 ^ 25 = 0x77 := by omega
    split
    case h_3 => exact sound_error
    all_goals
      rename_i h
      exact sound_zero fun hd => sound_ok rfl rfl (hr_eq hm hd rfl off13_toNat h)

/-! ## System (R97) -/

theorem ctrl12_toNat : fld w 3 4096 = (bv 12 w 3).toNat := (bv_toNat 12 w 3).symm

theorem sound_system (hr : 0x78 ≤ w / 2 ^ 25 ∧ w / 2 ^ 25 ≤ 0x7D) : Sound w (system w) := by
  unfold system
  dsimp only
  split
  case h_1 hm =>
    split
    case h_5 => exact sound_error
    all_goals
      rename_i h
      exact sound_zero fun hc => sound_opt fun a ha => sound_ok rfl rfl (sy_eq hm rfl (cmdbase_enc ha) hc h)
  case h_2 hm =>
    split
    case h_1 h => exact sound_zero_or fun hd => sound_zero fun hc => sound_ok rfl rfl (sy_eq hm hd rfl hc h)
    case h_2 h => exact sound_zero fun hc => sound_ok rfl rfl (sy_eq hm rfl rfl hc h)
    case h_3 h => exact sound_zero fun hz => sound_ok rfl rfl (sy_eq hm (fld_within hz) (fld_within hz) (fld_within hz) h)
    case h_4 => exact sound_error
  case h_3 hm =>
    split
    case h_1 h => exact sound_zero_or fun hd => sound_zero fun hz => sound_ok rfl rfl (sy_eq hm hd rfl (fld_narrow (m := 1024) hz) h)
    case h_2 h => exact sound_zero fun hz => sound_ok rfl rfl (sy_eq hm (fld_within hz) (fld_within hz) (fld_within hz) h)
    case h_3 => exact sound_error
  case h_4 hm =>
    split
    case h_1 h | h_2 h => exact sound_zero fun hh => sound_ok rfl rfl (mm_eq hm rfl rfl rfl (fld_bit w 5).symm hh h)
    case h_3 h => exact sound_zero fun hz => sound_ok rfl rfl (mm_eq hm rfl rfl (fld_within hz) (fld_within hz) (fld_within hz) h)
    case h_4 => exact sound_error
  case h_5 hm =>
    split
    case h_1 h => exact sound_zero fun ha => sound_ok rfl rfl (sy_eq hm rfl ha ctrl12_toNat h)
    case h_2 h => exact sound_zero fun hd => sound_ok rfl rfl (sy_eq hm hd rfl ctrl12_toNat h)
    case h_3 => exact sound_error
  case h_6 =>
    simp only [imp_false] at *
    have hm : w / 2 ^ 25 = 0x7D := by omega
    split
    case h_3 h => exact sound_zero fun hz => sound_ok rfl rfl (sy_eq hm (fld_within hz) (fld_within hz) ctrl12_toNat h)
    case h_6 => exact sound_error
    all_goals
      rename_i h
      exact sound_zero fun hz => sound_ok rfl rfl (sy_eq hm (fld_within hz) (fld_within hz) (fld_within hz) h)

/-! ## The decoder (R90, R91) -/

theorem sound_decode (w : Nat) : Sound w (decode w) := by
  unfold decode
  split
  · exact sound_error
  split
  · next h => exact sound_ok rfl rfl h.symm
  split
  case h_1 hm => exact sound_varith hm
  case h_2 hm => exact sound_vunary hm
  case h_3 hm => exact sound_vlogic hm
  case h_4 hm => exact sound_vcmp hm
  case h_5 hm => exact sound_kops hm
  case h_6 hm => exact sound_vcompact hm
  case h_7 hm => exact sound_vmoves hm
  case h_8 hm => exact sound_vreduce hm
  case h_9 hm => exact sound_vconvert hm
  case h_10 =>
    simp only [Bool.and_eq_true, decide_eq_true_eq]
    split
    · exact sound_scalar
    split
    · next hr => exact sound_memory hr
    split
    · next hr => exact sound_matrix hr
    split
    · next hr => exact sound_attention hr
    split
    · next hr => exact sound_heap hr
    split
    · next hr => exact sound_system hr
    exact sound_error

end Sys2Proof.Laws.WordOf
end

section
/-! SUPPORT. Decoding and encoding are inverse (03 R83-R97): the word of every instruction decodes to it, constructor by constructor
(Laws/PerInstr), and every word that decodes is the word of what it decodes to. -/

namespace Sys2Proof.Laws.RoundTrip

open Sys2Proof

/-- The round trip of every instruction: that of its constructor. -/
theorem roundTrip : ∀ i : Instr, Statement i :=
  Instr.rec
    unassignedEncoding instructionFetchFault packStart packSave contextRestore mapTransferComplete decideNode loopNode nopNode
    heldAppend followOn engineCommandStart engineTranslationFault engineCommandComplete flip flipAcknowledge move tileArrival
    mergeContribution sendReservation sendAcknowledgement traceTailWrite add sub and or xor sll srl sra min max minU maxU slt sltu
    clz popc mul mulh mulhU div divU rem remU fadd fsub fmul ffma fdiv fsqrt fmin fmax fcmp fcvt addi andi ori xori slti slli srli
    srai lui ldB ldBu ldH ldHu ldW ldWu ldD stB stH stW stD beq bne blt bge bltu bgeu jal jalr loop loopv bkany bknone bkall setvl
    vadd vsub vmul vmin vmax vdiv vfma vfms vabs vneg vsqrt vrcp vrsqrt vexp2 vexp vln2 vand vor vxor vsll vsrl vsra vcmp kand kor
    kxor knot kpop kfirst vcompress vexpand viota vid vscan vslideup vslidedn vperm vbcast vmvsToScalar vmvsToVector vmerge
    vredsum vredmax vredmin vsegred vcvt vld vst vldx vstx vldsc vpref vldk vstk amoaddW amominW amomaxW amoandW amoorW amoswpW
    amocasW amoaddD amominD amomaxD amoandD amoorD amoswpD amocasD amonib vamoadd phase fence mopaB mopaF mopsB mopsF mmas mzero
    mmov mdead mpref mflush mflushall mld mst mrow mcol4 mwrow mstat setvlr atsc atscBias atex atac osget osput oszero vtopk
    tmatch tmerge tunmrg hld hst ldh sth hcas vldh vsth hpin hunpin hheal hcmp hallocImmediate hallocRegister hnul hnulN
    heapStoreResume cpy cpym cgath reloc sarm swait swaitReturn bar barDeparture spawn spawnAppend endThread endRelease msend
    msendm mrecv mrecvBind getc putc eret wait trap fencei idle brk msplitWrite mapbaseWrite lanepartWrite lcntWrite lbegLendWrite
    ldepthWrite doorbell queueEnable queueClose dispatchDecision laneReclaimTimeout replyAbandonment remoteAccess linkFailure
    laneFailure faultQueuePost singleStepTrap halt debugTableReread hostCxlMemRead hostCxlMemWrite identify getEventRecords
    clearEventRecords getTimestamp setTimestamp transferFw activateFw getLog setAstbase setQtbase setFqbase setFrames setMbtbase
    setDthr shootdown pageExpand backgroundCommandComplete packResume packAbort packAdopt cmdResume cmdAbort setPstate clockChange
    corePark coreUnpark hbmSrEnter hbmSrExit hbmWake setDbgbase warmReset coldReset functionLevelReset getCertificate challenge
    getMeasurements tallowUpdate thermalStepDown thermalRepeatStep thermalStepUp thermalTrip refreshRateChange coreRetirement
    bondLaneRepair memoryReply cacheEviction uncorrectableError migration portFence ideKeyProgramming

/-- Settles O57: the first half holds of each constructor, the second of each decoder. -/
theorem decodeEncode : Obligations.DecodeEncode := by
  unfold Obligations.DecodeEncode
  exact ⟨fun i w hi he => roundTrip i w he hi, fun w => WordOf.sound_decode w⟩

/-- Settles O58: the decoder evaluates each word. -/
theorem decodeWords : Obligations.DecodeWords := by
  unfold Obligations.DecodeWords
  decide

end Sys2Proof.Laws.RoundTrip
end

section
/-! SUPPORT. What a step does beside the instruction it runs (04 R137; 13 R362; 16 R397-R415): from whose turn it is to the fetch, and
what is left of the surroundings of an instruction where nothing traces, watches or steps it. -/

namespace Sys2Proof.Machine

open Sys2Proof.Safety

/-! ## From the step to the fetch -/

theorem settleUnits_cur (s : State) : (settleUnits s).cur = s.cur := by
  have arranged (l : List (Nat × Nat)) : ∀ s : State, (l.foldl (fun s (u, k) => arrangeUnit u (k / 4 - 1) s) s).cur = s.cur := by
    induction l with
    | nil => exact fun _ => rfl
    | cons x l ih => exact fun s => ih _
  exact arranged _ s

@[simp] theorem settle_frame (s : State) : (settle s).cur.frame = s.cur.frame := by
  show (settleUnits s).cur.frame = _
  rw [settleUnits_cur]

theorem focus_cur {s : State} {f : Nat} (hl : s.cur.live = true) (hf : s.cur.frame = f) : focus f s = some s := by
  simp [focus, hl, hf]

/-- A thread at its turn runs (R83, R411). -/
theorem step_atTurn {s u : State} (h : AtTurn s u) : step s = runCur u := by
  obtain ⟨hturn, hlive, hwait, hpark, _⟩ := h
  rcases hturn with ⟨ht, rfl⟩ | ⟨l, ht, rfl⟩
  · simp [step, ht, runNext, hlive, hwait, hpark]
  · simp [step, ht, focus_cur hlive (settle_frame _)]

/-- Its turn is the fetch of an instruction. -/
theorem runCur_atTurn {s u : State} (h : AtTurn s u) : runCur u = runFetch u := by
  obtain ⟨_, hlive, hwait, hpark, _, hstep, htrip, hfw, hlog, hhalt⟩ := h
  simp [runCur, logBlocked, hlive, hwait, hpark, hstep, htrip, hfw, hlog, hhalt]

section
variable {u : State} (hb : pcBrk u [u.cur.pc] = none) (hg : u.cur.grp = none)
include hb hg

theorem runFetch_decoded {w : Nat} {i : Instr} (hf : fetchAt u u.cur u.cur.pc = .ok w) (hd : decode w = .ok i) (hgrp : groupBrk i u = none) :
    runFetch u = runIssue i u := by
  simp [runFetch, nextWord, hb, hg, hf, hd, hgrp]

theorem runFetch_undecoded {w : Nat} {e : DecodeError} (hf : fetchAt u u.cur u.cur.pc = .ok w) (hd : decode w = .error e) :
    runFetch u = runAs (.unassignedEncoding (BitVec.ofNat 32 w)) (exec (.unassignedEncoding (BitVec.ofNat 32 w))) u := by
  simp [runFetch, nextWord, hb, hg, hf, hd]

theorem runFetch_unfetched {x : TrapInfo} (hf : fetchAt u u.cur u.cur.pc = .error x) :
    runFetch u = runAs (.instructionFetchFault u.cur.pc) (exec (.instructionFetchFault u.cur.pc)) u := by
  simp [runFetch, nextWord, hb, hg, hf]

end

/-- Of how its first load runs alone a chain group asks no more than what it does in the state of the issue (R191). -/
theorem runChain_congr {i : Instr} {l : List Instr} {a b : State → Out} {s : State} (h : a s = b s) : runChain i l a s = runChain i l b s := by
  simp only [runChain, h]

section
variable {u : State} {i : Instr} (he : elemBrk i u = none)
include he

theorem runIssue_alone (hc : chainBehind i u = []) : runIssue i u = runAs i (exec i) u := by
  simp [runIssue, hc, he]

theorem runIssue_chain {l : List Instr} (hc : chainBehind i u = l) (hl : l ≠ []) : runIssue i u = runChain i l (runAs i (exec i)) u := by
  unfold runIssue
  rw [hc]
  cases l with
  | nil => exact absurd rfl hl
  | cons x l =>
    refine runChain_congr ?_
    simp only [he]

end

theorem runAs_next {i : Instr} {go : State → Out} {s t : State} (h : go s = .next t) : runAs i go s = .next (concluded i s t) := by
  simp only [runAs, h]

/-! ## No debug set, no trace, no log -/

/-- Without a debug set no entry is in force (R404, R405). -/
theorem brks_eq_nil {s : State} {t : Thread} (h : setOf s t = []) : brks s t = [] := by
  have none_at (k : Nat) : brkAt s t k = none := by simp [brkAt, h, fld]
  simp [brks, none_at]

theorem elemBrk_eq_none {s : State} (h : setOf s s.cur = []) (i : Instr) : elemBrk i s = none := by
  have due : dueBrks s = [] := by simp [dueBrks, brks_eq_nil h]
  simp [elemBrk, due]

theorem watchHit_eq_none {s : State} (h : setOf s s.cur = []) (i : Instr) (hi : Nat) : watchHit i s hi = none := by
  simp [watchHit, brks_eq_nil h]

theorem traceIssue_off {s0 : State} (h : s0.cur.ctl.trctl = 0) (i : Instr) (t : Thread) (e : Ending) (c : Bool) (s : State) :
    traceIssue i s0 t e c s = s := by
  unfold traceIssue
  split
  · rfl
  · simp [h, wbit]

theorem traceEntry_off {s0 : State} (h : s0.cur.ctl.trctl = 0) (i : Instr) (s : State) : traceEntry i s0 s = s := by
  unfold traceEntry
  split
  · rfl
  · simp [h, wbit]

theorem logIssue_off {s0 : State} (h : s0.cur.logged = false) (i : Instr) (hi : Nat) (e : Ending) (s : State) : logIssue i s0 hi e s = s := by
  unfold logIssue
  exact if_pos (by simp [h])

theorem recorded_off {s0 : State} (ht : s0.cur.ctl.trctl = 0) (hl : s0.cur.logged = false) (i : Instr) (e : Ending) (c : Bool) (s : State) :
    recorded i s0 e c s = s := by
  rw [recorded, logIssue_off hl, traceIssue_off ht]

/-- No watch and no single-step (R362, R408). -/
theorem watchOrStep_off {s0 : State} (h : wbit s0.cur.ctl.estat 3 = false) (seq : Nat) (s : State) : watchOrStep s0 none seq s = s := by
  simp [watchOrStep, h]

section
variable {s : State} {t : Thread} (hl : t.logged = false) (he : (coreOf s (cidOf t)).ring.en = false)
include hl he

/-- A ring that is not enabled takes no marker and counts none as lost (R396). -/
theorem putMarker_off (type low w1 : Nat) : putMarker t type low w1 s = s := by
  simp [putMarker, putRecs, ringAccepts, hl, he]

end

section
variable {s : State} (hl : s.cur.logged = false) (he : (coreOf s (cidOf s.cur)).ring.en = false)
include hl he

theorem tracedTrap_off (seq : Nat) : tracedTrap seq s = s := by
  unfold tracedTrap
  split
  · simp [traceTrap, putMarker_off hl he, putLog, hl]
  · rfl

end

/-! ## The stacks and the units that an instruction's accesses reach -/

theorem wakeLocs_pkg (ls : List Loc) (s : State) : ∃ r, wakeLocs ls s = { s with pkg := { s.pkg with selfRefresh := r } } := by
  have woken (ks : List Nat) : ∀ s : State, ∃ r, ks.foldl (fun s k => awaken k s) s = { s with pkg := { s.pkg with selfRefresh := r } } := by
    induction ks with
    | nil => exact fun s => ⟨_, rfl⟩
    | cons k ks ih => exact fun s => ih (awaken k s)
  unfold wakeLocs
  split
  · exact ⟨_, rfl⟩
  · exact woken _ s

/-- An access that wakes stacks changes no more than which of them are in self-refresh (R456). -/
theorem wakeStacks_pkg (i : Instr) (s0 s : State) : ∃ r, wakeStacks i s0 s = { s with pkg := { s.pkg with selfRefresh := r } } := by
  unfold wakeStacks
  split
  · exact ⟨_, rfl⟩
  · exact wakeLocs_pkg _ s

theorem wakeStacks_awake {s : State} (h : s.pkg.selfRefresh = []) (i : Instr) (s0 : State) : wakeStacks i s0 s = s := by
  simp [wakeStacks, h]

/-- Stores change no more of the state beside their bytes than the arrangement of units and which sectors are plain (R343). -/
theorem noteGang_units (i : Instr) (s0 s : State) : ∃ g p, noteGang i s0 s = { s with gang := g, plain := p } := by
  have noted (l : List Access) : ∀ s : State, ∃ g p,
      l.foldl (fun s x => noteStore s0 s0.cur.ctl.pgroot x.addr.toNat x.bytes s) s = { s with gang := g, plain := p } := by
    induction l with
    | nil => exact fun s => ⟨_, _, rfl⟩
    | cons x l ih =>
      intro s
      obtain ⟨g, p, h⟩ := noteStore_units s0 s0.cur.ctl.pgroot x.addr.toNat x.bytes s
      rw [List.foldl_cons, h]
      exact ih _
  exact noted _ s

theorem noteGang_noStore {i : Instr} {s0 : State} (h : ∀ x ∈ accessesOf i s0, x.store = false) (s : State) : noteGang i s0 s = s := by
  have none_stores : (accessesOf i s0).filter (fun x => x.store && (accPlaces s0 x).any ((writtenSince s0 s).contains ·)) = [] :=
    List.filter_eq_nil_iff.mpr fun x hx => by simp [h x hx]
  rw [noteGang, none_stores]
  rfl

theorem attended_frame (i : Instr) (s0 s : State) : noteGang i s0 (wakeStacks i s0 s) =
    { s with
      gang := (noteGang i s0 (wakeStacks i s0 s)).gang, plain := (noteGang i s0 (wakeStacks i s0 s)).plain
      pkg := { s.pkg with selfRefresh := (wakeStacks i s0 s).pkg.selfRefresh } } := by
  obtain ⟨g, p, hg⟩ := noteGang_units i s0 (wakeStacks i s0 s)
  obtain ⟨r, hr⟩ := wakeStacks_pkg i s0 s
  rw [hg, hr]

/-! ## What follows an instruction -/

section
variable {s0 s : State} (hu : Untraced s0) (hlog0 : s0.cur.logged = false) (hlog : s.cur.logged = false)
  (hen : (coreOf s (cidOf s.cur)).ring.en = false)
include hu hlog0 hlog hen

/-- Untraced, an instruction is followed by no more than what its accesses do to stacks and units: whichever way it ends, each record,
marker and trap of `concluded` leaves the state alone. ERET is apart, since it has a marker of its own (R400). -/
theorem concluded_untraced (i : Instr) : concluded i s0 s = noteGang i s0 (wakeStacks i s0 s) := by
  obtain ⟨htr, hset, hstep⟩ := hu
  unfold concluded
  have hframe := attended_frame i s0 s
  generalize noteGang i s0 (wakeStacks i s0 s) = v at hframe ⊢
  have hcur : v.cur = s.cur := by rw [hframe]
  have hcore : coreOf v (cidOf v.cur) = coreOf s (cidOf s.cur) := by rw [hframe]; rfl
  rw [← hcur] at hlog
  rw [← hcore] at hen
  simp only [recorded_off htr hlog0, traceIssue_off htr, traceEntry_off htr, watchHit_eq_none hset]
  by_cases hi : i = .eret
  · subst hi
    simp only [putMarker_off hlog hen, tracedTrap_off hlog hen, watchOrStep_off hstep, ite_self]
  · simp only [tracedTrap_off hlog hen, watchOrStep_off hstep, ite_self]

theorem runAs_untraced {i : Instr} {go : State → Out} (h : go s0 = .next s) : runAs i go s0 = .next (noteGang i s0 (wakeStacks i s0 s)) := by
  rw [runAs_next h, concluded_untraced hu hlog0 hlog hen]

/-- The same of what makes no access, such as the trap of a word that is no instruction. -/
theorem runAs_untraced_noAccess {i : Instr} {go : State → Out} (h : go s0 = .next s) (hns : accessesOf i s0 = []) :
    runAs i go s0 = .next (wakeStacks i s0 s) := by
  rw [runAs_untraced hu hlog0 hlog hen h, noteGang_noStore fun x hx => by simp [hns] at hx]

end

/-! ## The step -/

/-- Settles O59: at its turn the thread's step is the fetch, and the instruction found, or what stands in its place, runs there; the
surroundings of an instruction that nothing traces are its accesses' effects on stacks and units. -/
theorem stepRunsDecoded : Obligations.StepRunsDecoded := by
  unfold Obligations.StepRunsDecoded
  intro s u hturn hbrk
  have ⟨_, _, _, _, hgrp, _, _, _, hlog, _⟩ := hturn
  have hstep : step s = runFetch u := (step_atTurn hturn).trans (runCur_atTurn hturn)
  refine ⟨fun w i ⟨_, hf⟩ hd hg => ?_, fun w e ⟨_, hf⟩ hd hu => ?_, fun x hf hu => ?_, fun i t => attended_frame i u t, fun i t hns hr => ?_⟩
  · rw [hstep, runFetch_decoded hbrk hgrp hf hd hg]
    refine ⟨fun hc he => runIssue_alone he hc, fun hc hu t ht hl he => ?_, fun l hc hne ⟨_, hset, _⟩ =>
      runIssue_chain (elemBrk_eq_none hset i) hc hne⟩
    have ⟨_, hset, _⟩ := hu
    rw [runIssue_alone (elemBrk_eq_none hset i) hc]
    exact runAs_untraced hu hlog hl he ht
  · refine ⟨_, rfl, fun hl he => ?_⟩
    rw [hstep, runFetch_undecoded hbrk hgrp hf hd]
    exact runAs_untraced_noAccess hu hlog hl he rfl rfl
  · refine ⟨_, rfl, fun hl he => ?_⟩
    rw [hstep, runFetch_unfetched hbrk hgrp hf]
    exact runAs_untraced_noAccess hu hlog hl he rfl rfl
  · rw [wakeStacks_awake hr, noteGang_noStore hns]

end Sys2Proof.Machine
end

section
/-! SUPPORT. Integer results of the scalar unit in the words of the library: order, products, quotients (04 R116, R117). -/

namespace Sys2Proof.Machine

open Sys2Proof.Safety

/-! ### Order -/

theorem le_iff_not_slt (x y : Word) : x.toInt ≤ y.toInt ↔ y.slt x = false := by
  rw [BitVec.slt_eq_decide, decide_eq_false_iff_not, not_lt]

theorem minS_eq (x y : Word) : minS x y = if y.slt x then y else x := by
  simp only [minS, le_iff_not_slt]
  cases y.slt x <;> rfl

/-- Two words that are not in strict order either way have one value. -/
theorem maxS_eq (x y : Word) : maxS x y = if x.slt y then y else x := by
  simp only [maxS, BitVec.slt_eq_decide, decide_eq_true_eq]
  rcases lt_trichotomy x.toInt y.toInt with h | h | h
  · rw [if_pos h, if_pos h.le]
  · rw [BitVec.eq_of_toInt_eq h, ite_self, ite_self]
  · rw [if_neg (not_le.mpr h), if_neg (not_lt.mpr h.le)]

theorem minUW_eq (x y : Word) : minUW x y = if y < x then y else x := by
  simp only [minUW, BitVec.lt_def, ← not_lt, ite_not]

theorem maxUW_eq (x y : Word) : maxUW x y = if x < y then y else x := by
  simp only [maxUW, BitVec.lt_def]
  rcases lt_trichotomy x.toNat y.toNat with h | h | h
  · rw [if_pos h, if_pos h.le]
  · rw [BitVec.eq_of_toNat_eq h, ite_self, ite_self]
  · rw [if_neg (not_le.mpr h), if_neg (not_lt.mpr h.le)]

/-- A truth value as a word. -/
theorem boolWord_decide (p : Prop) [Decidable p] : boolWord (decide p) = truth p := by
  by_cases h : p <;> simp [boolWord, truth, h]

theorem boolWord_slt (x y : Word) : boolWord (x.slt y) = truth (x.toInt < y.toInt) := by
  rw [BitVec.slt_eq_decide, boolWord_decide]

theorem boolWord_ult (x y : Word) : boolWord (x.ult y) = truth (x.toNat < y.toNat) := by
  rw [BitVec.ult, boolWord_decide]

/-! ### Quotients and remainders -/

theorem divS_eq (x y : Word) : divS x y = if y = 0 then BitVec.allOnes 64 else x.sdiv y := by
  have h : BitVec.ofInt 64 (x.toInt.tdiv y.toInt) = x.sdiv y :=
    BitVec.eq_of_toInt_eq (by rw [BitVec.toInt_ofInt, BitVec.toInt_sdiv])
  rw [divS, h]

theorem remS_eq (x y : Word) : remS x y = if y = 0 then x else x.srem y := by
  have h : BitVec.ofInt 64 (x.toInt.tmod y.toInt) = x.srem y := by
    rw [← BitVec.toInt_srem, BitVec.ofInt_toInt]
  rw [remS, h]

theorem divU_eq (x y : Word) : divU x y = if y = 0 then BitVec.allOnes 64 else x.udiv y := by
  have h : BitVec.ofNat 64 (x.toNat / y.toNat) = x.udiv y := by
    rw [← BitVec.toNat_udiv, BitVec.ofNat_toNat, BitVec.setWidth_eq]; rfl
  rw [divU, h]

theorem remU_eq (x y : Word) : remU x y = if y = 0 then x else x.umod y := by
  have h : BitVec.ofNat 64 (x.toNat % y.toNat) = x.umod y := by
    rw [← BitVec.toNat_umod, BitVec.ofNat_toNat, BitVec.setWidth_eq]; rfl
  rw [remU, h]

/-! ### High halves of products -/

theorem mulhU_eq (x y : Word) : mulhU x y = (x.zeroExtend 128 * y.zeroExtend 128).extractLsb' 64 64 := by
  have hx := x.isLt
  have hy := y.isLt
  have hxy : x.toNat * y.toNat < 2 ^ 128 := by
    calc x.toNat * y.toNat < 2 ^ 64 * 2 ^ 64 := Nat.mul_lt_mul'' hx hy
      _ = 2 ^ 128 := by norm_num
  refine BitVec.eq_of_toNat_eq ?_
  simp only [mulhU, BitVec.toNat_ofNat, BitVec.extractLsb'_toNat, BitVec.toNat_mul, BitVec.zeroExtend, BitVec.toNat_setWidth,
    Nat.shiftRight_eq_div_pow]
  rw [Nat.mod_eq_of_lt (show x.toNat < 2 ^ 128 by omega), Nat.mod_eq_of_lt (show y.toNat < 2 ^ 128 by omega), Nat.mod_eq_of_lt hxy]

/-- A product of 64-bit numbers is what its low 128 bits are, and the high half of these is what the whole number gives. -/
theorem mulhS_eq (x y : Word) : mulhS x y = (x.signExtend 128 * y.signExtend 128).extractLsb' 64 64 := by
  have hprod : x.signExtend 128 * y.signExtend 128 = BitVec.ofInt 128 (x.toInt * y.toInt) := by
    rw [BitVec.ofInt_mul]; rfl
  refine BitVec.eq_of_toNat_eq ?_
  rw [hprod, mulhS, BitVec.extractLsb'_toNat, Nat.shiftRight_eq_div_pow, BitVec.toNat_ofInt, BitVec.toNat_ofInt]
  generalize x.toInt * y.toInt = p
  omega

/-- Settles O1: each instruction is one function of its operands in a calm thread, and the functions are the library's. -/
theorem integerArithmetic : Obligations.IntegerArithmetic := by
  unfold Obligations.IntegerArithmetic
  refine ⟨fun s d a b w h => ?_, fun s d a b w h => ?_⟩
  · intro x y
    have run (f : Word → Word → Word) {z : Word} (hz : f x y = z) : (.next (alu2 f d a b w s) : Out) = .next (retired (put d z) s) := by
      rw [alu2_calm f d a b w s h, hz]
    refine ⟨run (· + ·) rfl, run (· - ·) rfl, run (· &&& ·) rfl, run (· ||| ·) rfl, run (· ^^^ ·) rfl, run _ rfl, run _ rfl, run _ rfl,
      run minS (minS_eq x y), run maxS (maxS_eq x y), run minUW (minUW_eq x y), run maxUW (maxUW_eq x y),
      run _ (boolWord_slt x y), run _ (boolWord_ult x y), run divS (divS_eq x y), run divU (divU_eq x y),
      run remS (remS_eq x y), run remU (remU_eq x y), fun hx hy => ⟨run divS ?_, run remS ?_⟩⟩
    · rw [hx, hy]; decide
    · rw [hx, hy]; decide
  · intro x y
    have run (f : Word → Word → Word) {z : Word} (hz : f x y = z) : (.next (mul2 f d a b w s) : Out) = .next (retired (put4 d w z) s) := by
      rw [mul2_calm f d a b w s h, hz]
    exact ⟨run (· * ·) rfl, run mulhS (mulhS_eq x y), run mulhU (mulhU_eq x y)⟩

end Sys2Proof.Machine
end

section
/-! SUPPORT. Immediates and bit counts (04 R116, R118). -/

namespace Sys2Proof.Machine

open Sys2Proof.Safety

theorem boolWord_slt_signExtend (x : Word) (i : BitVec 13) : boolWord (x.slt (i.signExtend 64)) = truth (x.toInt < i.toInt) := by
  rw [boolWord_slt, BitVec.toInt_signExtend_of_le (by decide)]

/-- LUI's value: the immediate above 12 zero bits is the immediate times 4,096. -/
theorem lui_eq (u : BitVec 20) : u.signExtend 64 <<< 12 = BitVec.ofInt 64 (u.toInt * 4096) := by
  have h : (4096 : Word) = BitVec.twoPow 64 12 := by decide
  rw [BitVec.ofInt_mul, BitVec.shiftLeft_eq_mul_twoPow, ← h]
  rfl

/-- Zeros above the highest one bit, 64 for zero (R116). -/
def leadingZeros (x : Word) : Nat := if x = 0 then 64 else 63 - Nat.log2 x.toNat

theorem clz64_eq (x : Word) : clz64 x = BitVec.ofNat 64 (leadingZeros x) := by
  unfold clz64 leadingZeros; split <;> rfl

theorem leadingZeros_le (x : Word) : leadingZeros x ≤ 64 := by
  unfold leadingZeros; split <;> omega

/-- The highest one bit of a word that is not zero is at 63 less the count, and none is above it. -/
theorem leadingZeros_spec (x : Word) : (∀ i, 64 - leadingZeros x ≤ i → x.getLsbD i = false) ∧
    (leadingZeros x < 64 → x.getLsbD (63 - leadingZeros x) = true) := by
  by_cases h0 : x = 0
  · simp [leadingZeros, h0]
  have hx : x.toNat ≠ 0 := fun e => h0 (BitVec.eq_of_toNat_eq e)
  have hlog : Nat.log2 x.toNat < 64 := (Nat.log2_lt hx).mpr x.isLt
  simp only [leadingZeros, if_neg h0]
  refine ⟨fun i hi => Nat.testBit_lt_two_pow ((Nat.log2_lt hx).mp (by omega)), fun _ => ?_⟩
  rw [show 63 - (63 - Nat.log2 x.toNat) = Nat.log2 x.toNat by omega]
  exact Nat.testBit_log2 hx

/-- The count of one bits is that of the places which hold one. -/
theorem popBits_eq (x n : Nat) : popBits x n = ((List.range n).filter x.testBit).length := by
  induction n with
  | zero => rfl
  | succ n ih =>
    rw [popBits, ih, List.range_succ, List.filter_append, List.length_append]
    cases h : x.testBit n <;> simp [h, Nat.add_comm]

/-- Settles O2: each instruction is one function of its operand in a calm thread. -/
theorem immediatesAndBitCounts : Obligations.ImmediatesAndBitCounts := by
  unfold Obligations.ImmediatesAndBitCounts
  refine ⟨fun s d a i n u w h => ?_, fun s d a w h => ?_⟩
  · intro x k
    have run (f : Word → Word) {z : Word} (hz : f x = z) : (.next (alu1 f d a w s) : Out) = .next (retired (put d z) s) := by
      rw [alu1_calm f d a w s h, hz]
    refine ⟨run _ rfl, run _ rfl, run _ rfl, run _ rfl, run _ (boolWord_slt_signExtend x i), run _ rfl, run _ rfl, run _ rfl, ?_⟩
    rw [exec_lui, execLui, lui_eq, finish_setS 0 d _ s h]
  · have run (f : Word → Word) : (.next (alu1 f d a w s) : Out) = .next (retired (put d (f (reg s a))) s) := by
      rw [alu1_calm f d a w s h]
    obtain ⟨habove, htop⟩ := leadingZeros_spec (reg s a)
    refine ⟨⟨leadingZeros (reg s a), ?_, leadingZeros_le _, habove, htop⟩, ?_⟩
    · rw [← clz64_eq]; exact run clz64
    · exact (run popc64).trans (by rw [popc64, popBits_eq]; rfl)

end Sys2Proof.Machine
end

section
/-! SUPPORT. Scalar floating point in a calm thread (04 R119-R121). -/

namespace Sys2Proof.Machine

open Sys2Proof.Safety

section
variable {s : State} (h : Calm s) (f : F32 → F32 → R32) (d a b : SReg) (w : Stall)
include h

/-- A two-operand instruction of latency 4 (R114, R119). -/
theorem float2_calm4 : float2 f true d a b w s = retired (float4 d w (f (single s a) (single s b))) s := by
  simp only [float2, guardS_quiet _ h.1, rs_quiet _ h.1, sreg_eq_reg, if_true]
  exact finish_float4 w d _ _ s h

/-- A scoreboarded two-operand instruction (R119). -/
theorem float2_calm1 : float2 f false d a b w s = retired (float1 d (f (single s a) (single s b))) s := by
  simp only [float2, guardS_quiet _ h.1, rs_quiet _ h.1, sreg_eq_reg, Bool.false_eq_true, if_false]
  exact finish_float1 w d _ _ s h

end

/-- Settles O3: the guard passes in a calm thread, and the result and its flags are written at the instruction's latency. -/
theorem scalarFloatResults : Obligations.ScalarFloatResults := by
  unfold Obligations.ScalarFloatResults
  intro s d a b m w h x y
  have late (f : F32 → F32 → R32) : (.next (float2 f true d a b w s) : Out) = .next (retired (float4 d w (f x y)) s) := by
    rw [float2_calm4 h]
  have boarded (f : F32 → F32 → R32) : (.next (float2 f false d a b w s) : Out) = .next (retired (float1 d (f x y)) s) := by
    rw [float2_calm1 h]
  refine ⟨late (add32 m), late (sub32 m), late (mul32 m), ?_, boarded (div32 m), ?_, late _, late _⟩
  · simp only [exec_ffma, execFfma, guardS_quiet _ h.1, rs_quiet _ h.1, sreg_eq_reg]
    exact congrArg _ (finish_float4 w d _ _ s h)
  · simp only [exec_fsqrt, execFsqrt, guardS_quiet _ h.1, rs_quiet _ h.1, sreg_eq_reg]
    exact congrArg _ (finish_float1 w d _ _ s h)

/-! ### FCMP -/

theorem fcond_unassigned {n : Nat} (h : 5 ≤ n) : Dec.fcond n = none := by
  unfold Dec.fcond
  split
  rotate_right
  · rfl
  all_goals omega

/-- A word of FCMP with an unassigned condition (R121). -/
theorem decode_fcmp_unassigned {n : Nat} (hmaj : n / 2 ^ 25 = 3) (hop : n / 32 % 32 = 8) (hc : 5 ≤ n / 4 % 8) : decode n = .error .ill := by
  have h0 : n ≠ 0 := by omega
  have h1 : n ≠ 0xFFFFFFFF := by omega
  have hf : Dec.fld n 5 32 = 8 := hop
  have hn : Dec.fcond (Dec.fld n 2 8) = none := fcond_unassigned hc
  calc decode n = Dec.sfloat n := by simp only [decode, h0, h1, if_false, hmaj, Dec.scalar]; rfl
    _ = .error .ill := by simp only [Dec.sfloat, hf, hn, Dec.opt]

/-- FCMP in a calm thread: the truth of its condition and the condition's flags (R121). -/
theorem exec_fcmp_calm {s : State} (h : Calm s) (d a b : SReg) (c : FCond) (w : Stall) {p : Bool} {g : Flags}
    (hc : fcmpNum c (num32 (single s a)) (num32 (single s b)) = (p, g)) :
    exec (.fcmp d a b c w) s = .next (retired (fun t => raise g (put4 d w (truth (p = true)) t)) s) := by
  have hc : fcmpNum c (num32 (lo32 (reg s a))) (num32 (lo32 (reg s b))) = (p, g) := hc
  simp only [exec_fcmp, execFcmp, guardS_quiet _ h.1, rs_quiet _ h.1, sreg_eq_reg, hc]
  rw [← boolWord_decide, Bool.decide_eq_true]
  exact congrArg _ (finish_float4 w d _ _ s h)

/-- Settles O4: an unassigned condition decodes to no instruction, and each assigned one is its comparison of two numbers. -/
theorem fcmpConditions : Obligations.FcmpConditions := by
  unfold Obligations.FcmpConditions
  refine ⟨fun n hmaj hop hc => decode_fcmp_unassigned hmaj hop hc, fun s d a b w h => ?_⟩
  intro x y u c out
  have run (k : FCond) {p : Bool} {g : Flags} := exec_fcmp_calm h d a b k w (p := p) (g := g)
  have hu : (!isNan (num32 x) && !isNan (num32 y)) = !u := (Bool.not_or _ _).symm
  refine ⟨run .eq ?_, run .ne ?_, run .lt ?_, run .le ?_, run .un rfl⟩
  · exact congrArg (· && c == 0, (0 : Flags)) hu
  · refine congrArg (·, (0 : Flags)) ?_
    rw [eqNum, hu, Bool.not_and, Bool.not_not]; rfl
  · exact congrArg (· && decide (c < 0), cmpFlags (num32 x) (num32 y)) hu
  · exact congrArg (· && decide (c ≤ 0), cmpFlags (num32 x) (num32 y)) hu

end Sys2Proof.Machine
end

section
/-! SUPPORT. Trap entry, the traps of words that are no instruction, ERET and IDLE (03 R90; 04 R136-R141; 13 R342). -/

namespace Sys2Proof.Machine

open Sys2Proof.Safety

/-! ### A field beside the one written -/

theorem fld_setFld_other (w : Word) {lo n lo' n' : Nat} (h : lo' + n' ≤ lo ∨ lo + n ≤ lo') (h64 : lo' + n' ≤ 64) (x : Nat) :
    fld (setFld w lo n x) lo' n' = fld w lo' n' := by
  refine Nat.eq_of_testBit_eq fun i => ?_
  rw [testBit_fld, testBit_fld]
  by_cases hi : i < n'
  · rw [wbit_setFld w lo n x (by omega)]
    rcases h with h | h
    · rw [if_pos (by omega)]
    · rw [if_neg (by omega), if_neg (by omega)]
  · simp [hi]

/-- A bit of a word copied into another of its bits. -/
theorem fld_setFld_bit (w v : Word) {i j : Nat} (h : i < 64) : fld (setFld w i 1 (fld v j 1)) i 1 = fld v j 1 := by
  rw [fld_setFld_same w (by omega), fld_bit]
  exact Nat.mod_eq_of_lt (Bool.toNat_lt _)

/-! ### ESTAT: bit 0 is SUP, bit 2 PSUP (R22) -/

/-- ESTAT after trap entry (R139). -/
theorem fld_estat_entered (w : Word) :
    fld (setFld (setFld w 2 1 (fld w 0 1)) 0 1 1) 0 1 = 1 ∧ fld (setFld (setFld w 2 1 (fld w 0 1)) 0 1 1) 2 1 = fld w 0 1 ∧
      fld (setFld (setFld w 2 1 (fld w 0 1)) 0 1 1) 3 61 = fld w 3 61 := by
  refine ⟨fld_setFld_same _ (by decide) _, ?_, ?_⟩
  · rw [fld_setFld_other _ (.inr (by decide)) (by decide), fld_setFld_bit _ _ (by decide)]
  · rw [fld_setFld_other _ (.inr (by decide)) (by decide), fld_setFld_other _ (.inr (by decide)) (by decide)]

/-- ESTAT after ERET (R140). -/
theorem fld_estat_returned (w : Word) :
    fld (setFld (setFld w 0 1 (fld w 2 1)) 2 1 0) 0 1 = fld w 2 1 ∧ fld (setFld (setFld w 0 1 (fld w 2 1)) 2 1 0) 2 1 = 0 ∧
      fld (setFld (setFld w 0 1 (fld w 2 1)) 2 1 0) 3 61 = fld w 3 61 := by
  refine ⟨?_, fld_setFld_same _ (by decide) _, ?_⟩
  · rw [fld_setFld_other _ (.inl (by decide)) (by decide), fld_setFld_bit _ _ (by decide)]
  · rw [fld_setFld_other _ (.inr (by decide)) (by decide), fld_setFld_other _ (.inr (by decide)) (by decide)]

/-! ### Traps -/

section
variable {s : State} {cause : Nat} (hc : cause ≠ 0x19)
include hc

/-- A trap that counts no error is entered or parks as EVEC has it (R139). -/
theorem trapped_entered (h : evecOk { s with tick := s.tick + 1 } = true) (eval erec : Word) :
    Safety.trapped cause eval erec s = entered s.cur.pc cause eval erec s := by
  simp only [Safety.trapped, trappedAt, if_neg hc, h, if_true]

theorem trapped_undelivered (h : evecOk { s with tick := s.tick + 1 } = false) (eval erec : Word) :
    Safety.trapped cause eval erec s = undelivered s.cur.pc cause eval erec s := by
  simp only [Safety.trapped, trappedAt, if_neg hc, h, Bool.false_eq_true, if_false]

end

/-- What every trap leaves, delivered or not (R139). -/
theorem trappedAt_frame (epc : Word) (cause : Nat) (eval erec : Word) (s : State) :
    (trappedAt epc cause eval erec s).cur.ctl.epc = wordAddr epc ∧ (trappedAt epc cause eval erec s).cur.ctl.eval = eval ∧
      (trappedAt epc cause eval erec s).cur.ctl.ecause = BitVec.ofNat 64 cause ∧ (trappedAt epc cause eval erec s).mem = s.mem ∧
      (trappedAt epc cause eval erec s).cur.s = s.cur.s := by
  simp only [trappedAt]
  split <;> split <;> exact ⟨rfl, rfl, rfl, rfl, rfl⟩

theorem exec_brk_trapped (s : State) : exec .brk s = .next (Safety.trapped 0x20 0 0 s) := by
  rw [exec_brk, execBrk, trap_eq]; rfl

theorem exec_trap_calm {s : State} (h : Calm s) (c : BitVec 12) : exec (.trap c) s = .next (Safety.trapped 0x06 (c.zeroExtend 64) 0 s) := by
  rw [exec_trap, execTrap, guardEnd_calm s h.2, trap_eq]; rfl

/-- Settles O13: TRAP's entry, and ESTAT field by field. -/
theorem trapEntry : Obligations.TrapEntry := by
  unfold Obligations.TrapEntry
  intro s c h hv
  obtain ⟨hsup, hpsup, hrest⟩ := fld_estat_entered s.cur.ctl.estat
  refine ⟨entered s.cur.pc 0x06 (c.zeroExtend 64) 0 s, ?_, rfl, rfl, rfl, rfl, rfl, hsup, hpsup, hrest, ?_⟩
  · rw [exec_trap_calm h, trapped_entered (by decide) hv]
  · simp only [entered, h.1]

/-! ### Where no instruction is found -/

/-- An address in canonical form is the one that its bits [56:0] stand for (R22, R339). -/
theorem vaOf_canonical {a : Word} (h : canonical a = true) : vaOf a = a := by
  have hhigh (j : Nat) : a.getLsbD (56 + j) = (a.toNat / 2 ^ 56).testBit j := by
    rw [Nat.testBit_div_two_pow, Nat.add_comm]; rfl
  have hsign (j : Nat) (hj : j < 8) : a.getLsbD (56 + j) = a.getLsbD 56 := by
    rw [hhigh j, hhigh 0]
    simp only [canonical, Bool.or_eq_true, beq_iff_eq] at h
    rcases h with h | h <;> rw [h] <;> interval_cases j <;> rfl
  refine BitVec.eq_of_getLsbD_eq fun i hi => ?_
  by_cases h57 : i < 57
  · rw [vaOf, BitVec.getLsbD_signExtend, if_pos h57, decide_eq_true hi, Bool.true_and, BitVec.truncate_eq_setWidth, BitVec.getLsbD_setWidth,
      decide_eq_true h57, Bool.true_and]
  · obtain ⟨j, rfl⟩ := Nat.exists_eq_add_of_le (show 56 ≤ i by omega)
    rw [hsign j (by omega), vaOf, BitVec.getLsbD_signExtend, if_neg h57, decide_eq_true hi, Bool.true_and, BitVec.msb_eq_getLsbD_last,
      BitVec.truncate_eq_setWidth, BitVec.getLsbD_setWidth]
    rfl

/-- A fetch that fails takes ADDR, PFLD or ECC, and EVAL is the fetched address (R126, R342). -/
theorem fetchAt_error {s : State} {t : Thread} {a : Word} {e : TrapInfo} (h : fetchAt s t a = .error e) :
    e.eval = a ∧ (e.cause = 0x05 ∨ e.cause = 0x10 ∨ e.cause = 0x19) := by
  unfold fetchAt at h
  split at h
  · cases h
    by_cases hc : canonical a = true <;> simp [hc, cADDR, cPFLD]
  · cases h; simp [cPFLD]
  · cases h; simp [cECC]
  · split at h
    · cases h; simp [cECC]
    · cases h

/-- Settles O14: BRK and TRAP are their trap, a refused word is the trap of its refusal, and a failed fetch that of the fetch. -/
theorem trapsAndStops : Obligations.TrapsAndStops := by
  unfold Obligations.TrapsAndStops
  refine ⟨fun s hv => ?_, fun s c => ⟨fun h => exec_trap_calm h c, exec_brk_trapped s⟩, fun s w a => ⟨fun hd => ?_, fun hd => ?_, fun hd => ?_,
    fun e he => ?_⟩⟩
  · refine ⟨undelivered s.cur.pc 0x20 0 0 s, ?_, rfl, fun hc => vaOf_canonical hc, rfl, rfl, rfl, rfl, rfl, rfl, rfl, rfl, rfl, rfl, rfl, rfl,
      rfl, rfl, rfl, rfl, rfl⟩
    rw [exec_brk_trapped, trapped_undelivered (by decide) hv]
  · simp only [exec_unassignedEncoding, execUnassignedEncoding, hd, trap_eq]; rfl
  · simp only [exec_unassignedEncoding, execUnassignedEncoding, hd, trap_eq]; rfl
  · simp only [exec_unassignedEncoding, execUnassignedEncoding, hd, trap_eq]; rfl
  · obtain ⟨heval, hcause⟩ := fetchAt_error he
    obtain ⟨hepc, hev, hec, hmem, hs⟩ := trappedAt_frame a e.cause e.eval e.erec s
    refine ⟨trapBetween a e s, ?_, ?_⟩
    · simp only [exec_instructionFetchFault, execInstructionFetchFault, he]
    · rw [trapBetween, trapAt_eq]
      exact ⟨hepc, hev.trans heval, hec, hcause, hmem, hs, rfl⟩

/-! ### ERET and IDLE -/

/-- Settles O15: the mode alone decides, and ESTAT is read field by field. -/
theorem returnAndIdle : Obligations.ReturnAndIdle := by
  unfold Obligations.ReturnAndIdle
  refine ⟨fun s hp => ⟨fun hs => ?_, fun hs => ?_⟩, fun s => ⟨fun hs => ?_, fun hs => ?_⟩⟩
  · obtain ⟨hsup, hpsup, hrest⟩ := fld_estat_returned s.cur.ctl.estat
    refine ⟨{ s with tick := s.tick + 1, cur := eretOf (counted s.cur) }, ?_, rfl, hsup, hpsup, hrest, rfl⟩
    simp only [exec_eret, execEret, hs, Bool.not_true, Bool.false_eq_true, if_false, agePend_quiet _ hp]
  · have hw : wordOf .eret = 0xFA000000 := by decide
    simp only [exec_eret, execEret, hs, Bool.not_false, if_true, trapWord, trap_eq, hw]; rfl
  · simp only [exec_idle, execIdle, hs, Bool.not_true, Bool.false_eq_true, if_false]; rfl
  · have hw : wordOf .idle = 0xFA000004 := by decide
    simp only [exec_idle, execIdle, hs, Bool.not_false, if_true, trapWord, trap_eq, hw]; rfl

end Sys2Proof.Machine
end

section
/-! SUPPORT. WAIT, FENCEI, PHASE and FENCE (04 R136, R137; 10 R287; 11 R302). -/

namespace Sys2Proof.Machine

open Sys2Proof.Safety

/-- An instruction without an effect of its own completes in a calm thread. -/
theorem finish_id_calm {s : State} (h : Calm s) (w : Nat) : finish w id s = retired id s := finish_calm w id s h.1 h.2

section
variable {s : State} (hbad : s.cur.folBad = [])
include hbad

/-- Nothing is outstanding where the wait's test finds nothing (R302). -/
theorem drained_iff : Drained s ↔
    (!s.cur.fols.isEmpty || (coreOf s (cidOf s.cur)).xfers.any (fun x => x.frame == s.cur.frame)) = false := by
  simp [Drained, hbad]

theorem waitDrain_drained (h : Calm s) (hd : Drained s) (i : Instr) : waitDrain i s = retired id s := by
  simp only [waitDrain, hbad, (drained_iff hbad).mp hd, Bool.false_eq_true, if_false, finish_id_calm h]

theorem waitDrain_waiting (hd : ¬ Drained s) (i : Instr) : waitDrain i s = waiting i s := by
  have hwait := Bool.eq_true_of_not_eq_false ((drained_iff hbad).not.mp hd)
  simp only [waitDrain, hbad, hwait, if_true]
  rfl

end

/-- Settles O16: the wait's test is whether anything is outstanding, and the others have no effect. -/
theorem waitsAndFences : Obligations.WaitsAndFences := by
  unfold Obligations.WaitsAndFences
  refine ⟨fun s h hbad => ⟨fun hd => ⟨?_, ?_⟩, fun hd => ⟨?_, ?_⟩⟩, fun s c h => ⟨?_, ?_⟩⟩
  · rw [exec_wait, execWait, waitDrain_drained hbad h hd]
  · rw [exec_fencei, execFencei, waitDrain_drained hbad h hd]
  · rw [exec_wait, execWait, waitDrain_waiting hbad hd]
  · rw [exec_fencei, execFencei, waitDrain_waiting hbad hd]
  · rw [exec_phase, execPhase, finish_id_calm h]
  · rw [exec_fence, execFence, finish_id_calm h]

end Sys2Proof.Machine
end

section
/-! SUPPORT. An operand whose producer is too near (04 R115). -/

namespace Sys2Proof.Machine

open Sys2Proof.Safety

/-- Whatever results are in flight, an instruction that completes where no loop body ends goes on with the next. -/
theorem finish_noEdge (w : Nat) (f : Thread → Thread) (s : State) (hn : NoEdge (f (agePend w s.cur))) :
    finish w f s = { s with tick := s.tick + 1, cur := after (f (agePend w s.cur)) } := by
  unfold finish
  by_cases hs : inSup (f (agePend w s.cur)) = true
  · have hs' : inSup (counted (f (agePend w s.cur))) = true := hs
    simp only [hs', if_true]; rfl
  · have hs' : inSup (counted (f (agePend w s.cur))) = false := Bool.eq_false_iff.mpr hs
    have hn' : NoEdge (counted (f (agePend w s.cur))) := hn
    simp only [hs', Bool.false_eq_true, if_false, backEdge_noEdge _ hs' hn']; rfl

section
variable {s : State} {p : Pending} (hp : s.cur.pend = [p]) (hdist : p.dist < 3)
include hp hdist

theorem isEarly_producer : isEarly s.cur p.reg = true := by simp [isEarly, hp, hdist]

/-- The read of an early operand is the old value or the new one (R115). -/
theorem rs_early (j : Nat) (h0 : p.reg ≠ 0) : rs j s p.reg = p.old ∨ rs j s p.reg = s.cur.s[p.reg] := by
  simp only [rs, hp, List.find?_cons, beq_self_eq_true, hdist, decide_true, Bool.and_self, sreg, if_neg h0]
  cases Config.freeBit s.tick j <;> simp

omit hdist in
/-- A register that no result in flight is for reads as it stands. -/
theorem rs_other {r : SReg} (h : r ≠ p.reg) (j : Nat) : rs j s r = reg s r := by
  simp only [rs, hp, List.find?_cons, List.find?_nil, beq_eq_false_iff_ne.mpr h.symm, Bool.false_and]
  rfl

end

/-- Settles O20: the stall rule names the early operand; without it the operand is read as either value. -/
theorem earlyReads : Obligations.EarlyReads := by
  unfold Obligations.EarlyReads
  intro s d a b w p hn hp hdist hreg h0 hb
  subst hreg
  refine ⟨fun hen => ?_, fun hen => ?_⟩
  · have hstall : stallOf s.cur [p.reg, b] = some p.reg := by
      simp [stallOf, (fld_bit_eq_one _ _).mp hen, isEarly_producer hp hdist]
    simp only [exec_add, execAdd, alu2, guardS, hstall, trap_eq]; rfl
  · have hfree : wbit s.cur.ctl.schk 0 = false := by
      rw [← Bool.not_eq_true, ← fld_bit_eq_one, hen]; decide
    have hstall : stallOf s.cur [p.reg, b] = none := by simp [stallOf, hfree]
    have hedge : NoEdge (setS d (rs 0 s p.reg + reg s b) (agePend w s.cur)) :=
      noEdge_setS _ _ _ (noEdge_of s.cur _ hn rfl rfl rfl rfl)
    refine ⟨rs 0 s p.reg, { s with tick := s.tick + 1, cur := after (setS d (rs 0 s p.reg + reg s b) (agePend w s.cur)) },
      rs_early hp hdist 0 h0, ?_, ?_, ?_, rfl⟩
    · simp only [exec_add, execAdd, alu2, guardS, hstall, rs_other hp hb, finish_noEdge _ _ _ hedge]
    · rw [after_pc, setS_pc]; rfl
    · rw [after_s, setS, put]
      split <;> rfl

end Sys2Proof.Machine
end

section
/-! SUPPORT. Scalar loads and stores: the places of an aligned access, what a store leaves, and where an access traps
(00 R8; 04 R123, R124). -/

namespace Sys2Proof.Machine

open Sys2Proof.Safety

/-! ### The places of an aligned access -/

/-- From where a byte lies at least the rest of its 32 bytes lies in order (R339, R343). -/
theorem xlat_run {s : State} {t : Thread} {a : Word} {k : Acc} {x : Xlat} (h : xlat s t a k = .ok x) : 32 - a.toNat % 32 ≤ x.run := by
  have hpage : 32 - a.toNat % 32 ≤ 4096 - a.toNat % 4096 := by omega
  unfold xlat at h
  simp only at h
  split at h
  · cases h
  split at h
  · split at h
    · cases h; exact hpage
    · cases h
  · split at h
    · split at h
      · cases h; exact hpage
      · cases h
    · cases h
  · split at h
    · cases h
    · split at h
      · cases h
        dsimp only [runFrom]
        split
        · exact le_refl _
        · exact hpage
      · cases h

/-- Within 32 aligned bytes the places of an aligned access follow one another. -/
theorem xlatN_aligned {s : State} {t : Thread} {a : Word} {n c : Nat} {k : Acc} {ls : List Loc} (hn : n ∣ 32) (ha : a.toNat % n = 0)
    (h : xlatN s t a n k = .ok (ls, c)) : ∃ l, ls = (List.range n).map (locAdd l) := by
  have hpos : n ≠ 0 := by rintro rfl; simp at hn
  have hfit : n ≤ 32 - a.toNat % 32 := by
    have hlt : 0 < 32 - a.toNat % 32 := by omega
    refine Nat.le_of_dvd hlt ((Nat.dvd_sub_iff_right (by omega) hn).mpr ?_)
    exact (Nat.dvd_mod_iff hn).mpr (Nat.dvd_of_mod_eq_zero ha)
  rw [xlatN, xlatPages, if_neg hpos] at h
  split at h
  · cases h
  · rename_i x hx
    have hrun : min n x.run = n := Nat.min_eq_left (hfit.trans (xlat_run hx))
    have hrest (a' : Word) : xlatPages s t k (n / 32 + 1) a' 0 = .ok ([], 0) := by rw [xlatPages, if_pos rfl]
    simp only [hrun, Nat.sub_self, hrest, List.append_nil] at h
    cases h
    exact ⟨x.loc, rfl⟩

theorem locAdd_inj {l : Loc} {i j : Nat} (h : locAdd l i = locAdd l j) : i = j := by
  cases l <;> simpa [locAdd] using h

/-- The bytes that an access reaches have a place each. -/
theorem reached_places {s : State} {a : Word} {n : Nat} {k : Acc} {ls : List Loc} (hn : n ∣ 32) (h : Reached s a n k ls) :
    ls.length = n ∧ ls.Nodup := by
  obtain ⟨-, ha, ⟨c, hx⟩, -⟩ := h
  obtain ⟨l, rfl⟩ := xlatN_aligned hn ha hx
  exact ⟨by simp, List.nodup_range.map fun i j e => locAdd_inj e⟩

/-! ### Little-endian numbers -/

theorem ofBytes_lt (l : List Byte) : ofBytes l < 256 ^ l.length := by
  induction l with
  | nil => simp [ofBytes]
  | cons b l ih =>
    have hb := b.isLt
    simp only [ofBytes, List.length_cons, pow_succ]
    omega

theorem ofBytes_leBytes (n x : Nat) : ofBytes (leBytes n x) = x % 256 ^ n := by
  induction n generalizing x with
  | zero => simp [leBytes, ofBytes, Nat.mod_one]
  | succ n ih =>
    have h256 : (BitVec.ofNat 8 x).toNat = x % 256 := BitVec.toNat_ofNat x 8
    rw [leBytes, ofBytes, ih, h256, pow_succ', Nat.mod_mul]

/-- Bytes read back where they were written. -/
theorem readBytes_written {ls : List Loc} {bs : List Byte} (hn : ls.Nodup) (hl : bs.length = ls.length) (s : State) :
    readBytes (writeAll (wrBytes ls bs) s) ls = bs := by
  refine List.ext_getElem (by simp [readBytes, hl]) fun i h1 h2 => ?_
  simp only [readBytes, List.getElem_map]
  exact byteAt_writeAll_bytes ls bs s hn i (by omega) h2

/-- A number of `n` bytes as a word of their width, with zeros above. -/
theorem zextNat_eq {n x : Nat} (hx : x < 2 ^ n) : zextNat x = (BitVec.ofNat n x).zeroExtend 64 := by
  refine BitVec.eq_of_toNat_eq ?_
  simp only [zextNat, BitVec.zeroExtend, BitVec.toNat_setWidth, BitVec.toNat_ofNat, Nat.mod_eq_of_lt hx]

/-! ### Accesses that complete -/

section
variable {s : State} {d a : SReg} {i : BitVec 13} {w : Stall} {n : Nat} {ls : List Loc} (hq : s.cur.pend = [])
include hq

/-- A load that reaches clean bytes completes with their number, converted (R123, R124). -/
theorem scalarLoad_finish (hr : Reached s (effective s a i) n .scalarLoad ls) (hp : ∀ l ∈ ls, poisoned s l = false) (f : Nat → Word) :
    scalarLoad n f d a i w s = finish w (setS d (f (valueAt s ls))) s := by
  obtain ⟨hcan, halign, ⟨c, hx⟩, hfence⟩ := hr
  have hb : loadBytes s (reg s a + i.signExtend 64) n .scalarLoad = .ok (readBytes s ls) :=
    loadBytes_eq s _ n _ ls c hcan halign hx hfence hp
  simp only [scalarLoad, eaOf, guardS_quiet _ hq, rs_quiet _ hq, sreg_eq_reg, hb]
  rfl

/-- A store that reaches its bytes writes them and completes. -/
theorem scalarStore_finish (hr : Reached s (effective s a i) n .scalarStore ls) :
    scalarStore n d a i w s = finish w id (writeAll (wrBytes ls (leBytes n (reg s d).toNat)) s) := by
  obtain ⟨hcan, halign, ⟨c, hx⟩, hfence⟩ := hr
  have hb : storePlaces s (reg s a + i.signExtend 64) n .scalarStore = .ok ls := storePlaces_eq s _ n _ ls c hcan halign hx hfence
  simp only [scalarStore, eaOf, guardS_quiet _ hq, rs_quiet _ hq, sreg_eq_reg, hb]

end

section
variable {s : State} {d a : SReg} {i : BitVec 13} {w : Stall} {n : Nat} {ls : List Loc} (h : Calm s)
include h

theorem scalarLoad_reached (hr : Reached s (effective s a i) n .scalarLoad ls) (hp : ∀ l ∈ ls, poisoned s l = false) (f : Nat → Word) :
    scalarLoad n f d a i w s = retired (put d (f (valueAt s ls))) s := by
  rw [scalarLoad_finish h.1 hr hp, finish_setS w d _ s h]

theorem scalarStore_reached (hr : Reached s (effective s a i) n .scalarStore ls) :
    scalarStore n d a i w s = retired id (writeAll (wrBytes ls (leBytes n (reg s d).toNat)) s) := by
  rw [scalarStore_finish h.1 hr, finish_calm _ _ _ (by rw [writeAll_cur]; exact h.1) (by rw [writeAll_cur]; exact h.2)]

end

/-! ### Stores -/

/-- Bytes written at places that differ, and the instruction retired (R8, R123). -/
theorem stored_writeAll {ls : List Loc} {n : Nat} (hl : ls.length = n) (hn : ls.Nodup) (s : State) (x : Nat) :
    Stored s (retired id (writeAll (wrBytes ls (leBytes n x)) s)) ls n x := by
  have hmem : OnlyMemory s (writeAll (wrBytes ls (leBytes n x)) s) := onlyMemory_writeAll _ s
  have hbytes (i : Nat) (hi : i < ls.length) :
      (byteAt (retired id (writeAll (wrBytes ls (leBytes n x)) s)) ls[i]).toNat = x / 256 ^ i % 256 := by
    have hb : i < (leBytes n x).length := by rw [length_leBytes, ← hl]; exact hi
    rw [byteAt_retired, byteAt_writeAll_bytes ls _ s hn i hi hb, getElem_leBytes, BitVec.toNat_ofNat]
  have hother (l : Loc) (h : l ∉ ls) : byteAt (retired id (writeAll (wrBytes ls (leBytes n x)) s)) l = byteAt s l := by
    rw [byteAt_retired, byteAt_wrBytes_other h]
  refine ⟨?_, ?_, ?_, ?_, ?_, ?_, ?_, ?_, hl, hbytes, hother⟩
  · rw [retired_cur, writeAll_cur]; rfl
  all_goals rw [retired, hmem]

/-- A store that reaches its bytes leaves them, and every other byte as it was (R124). -/
theorem stored_reached {s : State} {d a : SReg} {i : BitVec 13} {w : Stall} {n : Nat} {ls : List Loc} (h : Calm s) (hn : n ∣ 32)
    (hr : Reached s (effective s a i) n .scalarStore ls) :
    ∃ t, (.next (scalarStore n d a i w s) : Out) = .next t ∧ Stored s t ls n (reg s d).toNat := by
  obtain ⟨hlen, hnodup⟩ := reached_places hn hr
  exact ⟨_, congrArg _ (scalarStore_reached h hr), stored_writeAll hlen hnodup s _⟩

/-- Settles O6: loads and stores by width, the places of an aligned access being as many as its bytes and all different. -/
theorem loadsAndStores : Obligations.LoadsAndStores := by
  unfold Obligations.LoadsAndStores
  refine ⟨fun s d a i w ls h hp => ?_, fun s d a i w ls h => ?_⟩
  · intro ea x
    have sext {n : Nat} (m : Nat) (hr : Reached s ea n .scalarLoad ls) :
        (.next (scalarLoad n (sextNat m) d a i w s) : Out) = .next (retired (put d ((BitVec.ofNat m x).signExtend 64)) s) := by
      rw [scalarLoad_reached h hr hp]; rfl
    have zext {n m : Nat} (hn : n ∣ 32) (hm : 256 ^ n = 2 ^ m) (hr : Reached s ea n .scalarLoad ls) :
        (.next (scalarLoad n zextNat d a i w s) : Out) = .next (retired (put d ((BitVec.ofNat m x).zeroExtend 64)) s) := by
      obtain ⟨hlen, -⟩ := reached_places hn hr
      have hx : x < 2 ^ m := by
        have hlt := ofBytes_lt (readBytes s ls)
        rwa [readBytes, List.length_map, hlen, hm] at hlt
      rw [scalarLoad_reached h hr hp, zextNat_eq hx]
    refine ⟨fun hr => ⟨sext 8 hr, zext (m := 8) (by decide) (by decide) hr⟩,
      fun hr => ⟨sext 16 hr, zext (m := 16) (by decide) (by decide) hr⟩,
      fun hr => ⟨sext 32 hr, zext (m := 32) (by decide) (by decide) hr⟩, fun hr => ?_⟩
    exact congrArg _ (scalarLoad_reached h hr hp zextNat)
  · exact ⟨stored_reached h (by decide), stored_reached h (by decide), stored_reached h (by decide), stored_reached h (by decide)⟩

/-! ### Where an access traps -/

/-- Each load is a scalar load of its width. -/
theorem exec_of_loads {d a : SReg} {i : BitVec 13} {w : Stall} {p : Nat × Instr} (hp : p ∈ loads d a i w) (s : State) :
    ∃ f, exec p.2 s = .next (scalarLoad p.1 f d a i w s) := by
  simp only [loads, List.mem_cons, List.not_mem_nil, or_false] at hp
  rcases hp with rfl | rfl | rfl | rfl | rfl | rfl | rfl
  all_goals exact ⟨_, rfl⟩

theorem exec_of_stores {d a : SReg} {i : BitVec 13} {w : Stall} {p : Nat × Instr} (hp : p ∈ stores d a i w) (s : State) :
    exec p.2 s = .next (scalarStore p.1 d a i w s) := by
  simp only [stores, List.mem_cons, List.not_mem_nil, or_false] at hp
  rcases hp with rfl | rfl | rfl | rfl
  all_goals rfl

section
variable {s : State} {a : Word} {n : Nat}

/-- The checks of the address come before its translation (R124). -/
theorem placesOf_badAddress (h : canonical a = false ∨ a.toNat % n ≠ 0) (k : Acc) (miss : Nat) :
    placesOf s a n k miss = .error ⟨cADDR, a, 0⟩ := by
  unfold placesOf
  by_cases hc : canonical a = true
  · simp [hc, h.resolve_left (by simp [hc])]
  · simp [hc]

variable {k : Acc} (hc : canonical a = true) (ha : a.toNat % n = 0)
include hc ha

theorem placesOf_failed {b : Bad} {x : Word} (h : xlatN s s.cur a n k = .error (b, x)) (miss : Nat) :
    placesOf s a n k miss = .error (badTrap miss b a) := by
  simp [placesOf, hc, ha, h]

theorem placesOf_found {p : List Loc × Nat} (h : xlatN s s.cur a n k = .ok p) (miss : Nat) : placesOf s a n k miss = .ok p := by
  simp [placesOf, hc, ha, h]

end

section
variable {s : State} {a : Word} {n : Nat} {k : Acc}

theorem loadBytes_error {e : TrapInfo} (h : placesOf s a n k cPFLD = .error e) : loadBytes s a n k = .error e := by
  simp only [loadBytes, h]

theorem storePlaces_error {e : TrapInfo} (h : placesOf s a n k cPFST = .error e) : storePlaces s a n k = .error e := by
  simp only [storePlaces, h]

/-- A home behind a fenced port is not reached (R459). -/
theorem loadBytes_fenced {ls : List Loc} {c : Nat} (h : placesOf s a n k cPFLD = .ok (ls, c)) (hf : ∃ l ∈ ls, locFenced s l = true) :
    loadBytes s a n k = .error ⟨cLINK, 2, 0⟩ := by
  simp only [loadBytes, h, List.any_eq_true.mpr hf, if_true]

theorem storePlaces_fenced {ls : List Loc} {c : Nat} (h : placesOf s a n k cPFST = .ok (ls, c)) (hf : ∃ l ∈ ls, locFenced s l = true) :
    storePlaces s a n k = .error ⟨cLINK, 2, 0⟩ := by
  simp only [storePlaces, h, List.any_eq_true.mpr hf, if_true]

/-- Poison among the bytes that are reached (R190). -/
theorem loadBytes_poisoned {ls : List Loc} (h : Reached s a n k ls) (hp : ∃ l ∈ ls, poisoned s l = true) :
    loadBytes s a n k = .error ⟨cECC, a, 0⟩ := by
  obtain ⟨hcan, halign, ⟨c, hx⟩, hfence⟩ := h
  have hf : ls.any (locFenced s) = false := by simpa using hfence
  simp only [loadBytes, placesOf_found hcan halign hx, hf, List.any_eq_true.mpr hp, Bool.false_eq_true, if_false, if_true]

end

section
variable {s : State} {d a : SReg} {i : BitVec 13} {w : Stall} (h : Calm s) {p : Nat × Instr} {cause : Nat} {eval : Word}
include h

theorem exec_load_trapped (hp : p ∈ loads d a i w) (he : loadBytes s (effective s a i) p.1 .scalarLoad = .error ⟨cause, eval, 0⟩) :
    exec p.2 s = .next (Safety.trapped cause eval 0 s) := by
  obtain ⟨f, hf⟩ := exec_of_loads hp s
  rw [hf, scalarLoad_trap p.1 f d a i w s _ h he, trap_eq]

theorem exec_store_trapped (hp : p ∈ stores d a i w) (he : storePlaces s (effective s a i) p.1 .scalarStore = .error ⟨cause, eval, 0⟩) :
    exec p.2 s = .next (Safety.trapped cause eval 0 s) := by
  rw [exec_of_stores hp, scalarStore_trap p.1 d a i w s _ h he, trap_eq]

end

/-- Settles O7: the checks in their order, each the trap of the access that fails it. -/
theorem scalarAccessTraps : Obligations.ScalarAccessTraps := by
  unfold Obligations.ScalarAccessTraps
  intro s d a i w h ea
  refine ⟨fun p hp => ⟨fun hbad => ?_, fun hc ha => ⟨fun x hx => ?_, fun x hx => ?_, fun x hx => ?_, fun ls c hx hf => ?_, fun ls hr hbad => ?_⟩⟩,
    fun p hp => ⟨fun hbad => ?_, fun hc ha => ⟨fun x hx => ?_, fun x hx => ?_, fun x hx => ?_, fun ls c hx hf => ?_⟩⟩⟩
  · exact exec_load_trapped h hp (loadBytes_error (placesOf_badAddress hbad _ _))
  · exact exec_load_trapped h hp (loadBytes_error (placesOf_failed hc ha hx _))
  · exact exec_load_trapped h hp (loadBytes_error (placesOf_failed hc ha hx _))
  · exact exec_load_trapped h hp (loadBytes_error (placesOf_failed hc ha hx _))
  · exact exec_load_trapped h hp (loadBytes_fenced (placesOf_found hc ha hx _) hf)
  · exact exec_load_trapped h hp (loadBytes_poisoned hr hbad)
  · exact exec_store_trapped h hp (storePlaces_error (placesOf_badAddress hbad _ _))
  · exact exec_store_trapped h hp (storePlaces_error (placesOf_failed hc ha hx _))
  · exact exec_store_trapped h hp (storePlaces_error (placesOf_failed hc ha hx _))
  · exact exec_store_trapped h hp (storePlaces_error (placesOf_failed hc ha hx _))
  · exact exec_store_trapped h hp (storePlaces_fenced (placesOf_found hc ha hx _) hf)

end Sys2Proof.Machine
end

section
/-! SUPPORT. Control transfers: when a branch is taken and what a taken one leaves (04 R125, R126, R132, R133; 09 R266). -/

namespace Sys2Proof.Machine

open Sys2Proof.Safety

/-! ### The levels a transfer leaves -/

section
variable {x y : Word} {n : Nat} {t : Thread}

/-- The test of R132 on one level. -/
theorem leaves_iff : (decide ((lbegOf t n).toNat ≤ x.toNat) && decide (x.toNat ≤ (lendOf t n).toNat) &&
    !(decide ((lbegOf t n).toNat ≤ y.toNat) && decide (y.toNat ≤ (lendOf t n).toNat))) = true ↔ leaves t n x y := by
  rw [leaves, Bool.and_eq_true, Bool.and_eq_true, Bool.not_eq_true', ← Bool.not_eq_true, Bool.and_eq_true, decide_eq_true_eq, decide_eq_true_eq,
    decide_eq_true_eq, decide_eq_true_eq, and_assoc]

theorem popLevels_left (h : leaves t n x y) : popLevels x y (n + 1) t = popLevels x y n (setDepth n t) := by
  simp only [popLevels, leaves_iff.mpr h, if_true]

theorem popLevels_kept (h : ¬ leaves t n x y) : popLevels x y (n + 1) t = t := by
  simp only [popLevels, leaves_iff.not.mpr h, Bool.false_eq_true, if_false]

end

/-- Levels are left from the innermost out, down to the first that the transfer stays in (R132). -/
theorem popLevels_spec (x y : Word) (n : Nat) (t : Thread) :
    ∃ m, m ≤ n ∧ popLevels x y n t = (if m = n then t else setDepth m t) ∧ (∀ j, m ≤ j → j < n → leaves t j x y) ∧
      (m = 0 ∨ ¬ leaves t (m - 1) x y) := by
  induction n generalizing t with
  | zero => exact ⟨0, le_refl _, rfl, fun j _ hj => absurd hj (Nat.not_lt_zero j), .inl rfl⟩
  | succ n ih =>
    by_cases h : leaves t n x y
    · obtain ⟨m, hm, hpop, hleft, hstop⟩ := ih (setDepth n t)
      refine ⟨m, by omega, ?_, fun j hj hlt => ?_, hstop⟩
      · have hne : m ≠ n + 1 := by omega
        rw [popLevels_left h, hpop, if_neg hne]
        split
        · next e => rw [e]
        · rfl
      · rcases Nat.lt_succ_iff_lt_or_eq.mp hlt with hlt | rfl
        · exact hleft j hj hlt
        · exact h
    · exact ⟨n + 1, le_refl _, by rw [popLevels_kept h, if_pos rfl], fun j hj hlt => absurd hlt (by omega), .inr h⟩

section
variable {s : State} (hp : s.cur.pend = [])
include hp

/-- A transfer that is of no kind that leaves levels, or with none to leave. -/
theorem transfer_straight (w : Nat) {pops : Bool} (y : Word) (f : Thread → Thread)
    (h : pops = false ∨ inSup (f s.cur) = true ∨ depthOf (f s.cur) = 0) : transfer w pops y f s = jumped y f s := by
  have hkeep : (if (pops && !inSup (counted (f s.cur))) = true
      then popLevels (counted (f s.cur)).pc y (depthOf (counted (f s.cur))) (counted (f s.cur)) else counted (f s.cur)) = counted (f s.cur) := by
    have hsup : inSup (counted (f s.cur)) = inSup (f s.cur) := rfl
    have hdep : depthOf (counted (f s.cur)) = depthOf (f s.cur) := rfl
    rcases h with h | h | h
    · simp [h]
    · simp [hsup, h]
    · simp [hdep, h, popLevels]
  simp only [transfer, agePend_quiet _ hp, hkeep]
  rfl

/-- A transfer out of user mode leaves the levels that do not hold its target (R132). -/
theorem transfer_leaves (hs : inSup s.cur = false) (w : Nat) (y : Word) :
    ∃ m, m ≤ depthOf s.cur ∧ transfer w true y id s = jumped y (atDepth m) s ∧
      (∀ n, m ≤ n → n < depthOf s.cur → leaves s.cur n s.cur.pc y) ∧ (m = 0 ∨ ¬ leaves s.cur (m - 1) s.cur.pc y) := by
  obtain ⟨m, hm, hpop, hleft, hstop⟩ := popLevels_spec s.cur.pc y (depthOf s.cur) (counted s.cur)
  refine ⟨m, hm, ?_, hleft, hstop⟩
  have hsup : inSup (counted s.cur) = false := hs
  have hpop : popLevels (counted s.cur).pc y (depthOf (counted s.cur)) (counted s.cur) =
    if m = depthOf s.cur then counted s.cur else setDepth m (counted s.cur) := hpop
  simp only [transfer, agePend_quiet _ hp, id, hsup, Bool.not_false, Bool.and_self, if_true, hpop, jumped, atDepth]
  split <;> rfl

end

/-! ### Targets -/

theorem four_mul_signExtend {n : Nat} (o : BitVec n) : 4 * o.signExtend 64 = BitVec.ofInt 64 (4 * o.toInt) := by
  rw [BitVec.ofInt_mul]; rfl

theorem brTarget_eq (s : State) (o : BitVec 15) : brTarget s o = target s o := by rw [brTarget, four_mul_signExtend, target]

/-! ### Branches in a calm thread -/

section
variable {s : State} (h : Calm s)
include h

/-- A branch on two scalars is its condition (R125). -/
theorem branch2_calm (c : Word → Word → Bool) (a b : SReg) (o : BitVec 15) {p : Prop} [Decidable p] (hc : c (reg s a) (reg s b) = true ↔ p) :
    branch2 c a b o s = if p then transfer 0 true (target s o) id s else retired id s := by
  simp only [branch2, guardS_quiet _ h.1, guardEnd_calm _ h.2, rs_quiet _ h.1, sreg_eq_reg, hc, brTarget_eq, finish_id_calm h]

section
variable (a b : SReg) (o : BitVec 15)

theorem exec_beq_calm : exec (.beq a b o) s = .next (if reg s a = reg s b then transfer 0 true (target s o) id s else retired id s) :=
  congrArg _ (branch2_calm h _ a b o beq_iff_eq)

theorem exec_bne_calm : exec (.bne a b o) s = .next (if reg s a ≠ reg s b then transfer 0 true (target s o) id s else retired id s) :=
  congrArg _ (branch2_calm h _ a b o bne_iff_ne)

theorem exec_blt_calm : exec (.blt a b o) s =
    .next (if (reg s a).toInt < (reg s b).toInt then transfer 0 true (target s o) id s else retired id s) :=
  congrArg _ (branch2_calm h _ a b o (by rw [BitVec.slt_eq_decide, decide_eq_true_eq]))

theorem exec_bge_calm : exec (.bge a b o) s =
    .next (if (reg s b).toInt ≤ (reg s a).toInt then transfer 0 true (target s o) id s else retired id s) :=
  congrArg _ (branch2_calm h _ a b o (by rw [BitVec.slt_eq_decide, Bool.not_eq_true', decide_eq_false_iff_not, not_lt]))

theorem exec_bltu_calm : exec (.bltu a b o) s =
    .next (if (reg s a).toNat < (reg s b).toNat then transfer 0 true (target s o) id s else retired id s) :=
  congrArg _ (branch2_calm h _ a b o (by rw [BitVec.ult, decide_eq_true_eq]))

theorem exec_bgeu_calm : exec (.bgeu a b o) s =
    .next (if (reg s b).toNat ≤ (reg s a).toNat then transfer 0 true (target s o) id s else retired id s) :=
  congrArg _ (branch2_calm h _ a b o (by rw [BitVec.ult, Bool.not_eq_true', decide_eq_false_iff_not, not_lt]))

end

/-- A mask branch is its condition on the bits below VL (R133). -/
theorem branchK_calm (c : List Bool → Bool) (k : KReg) (o : BitVec 15) {p : Prop} [Decidable p] (hc : c (maskBits s.cur k) = true ↔ p) :
    branchK c k o s = if p then transfer 0 true (target s o) id s else retired id s := by
  simp only [branchK, guardEnd_calm _ h.2, hc, brTarget_eq, finish_id_calm h]

section
variable (k : KReg) (o : BitVec 15)

theorem exec_bkany_calm : exec (.bkany k o) s = .next (if ∃ i, i < vlOf s.cur ∧ (kreg s.cur k).getLsbD i = true
    then transfer 0 true (target s o) id s else retired id s) :=
  congrArg _ (branchK_calm h _ k o (by simp [maskBits]))

theorem exec_bknone_calm : exec (.bknone k o) s = .next (if ∀ i, i < vlOf s.cur → (kreg s.cur k).getLsbD i = false
    then transfer 0 true (target s o) id s else retired id s) :=
  congrArg _ (branchK_calm h _ k o (by simp [maskBits]))

theorem exec_bkall_calm : exec (.bkall k o) s = .next (if ∀ i, i < vlOf s.cur → (kreg s.cur k).getLsbD i = true
    then transfer 0 true (target s o) id s else retired id s) :=
  congrArg _ (branchK_calm h _ k o (by simp [maskBits]))

end

/-- A branch on a reference (R266). -/
theorem branchH_calm (c : Bool) (o : BitVec 13) : branchH c o s =
    if c = true then transfer 0 true (s.cur.pc + BitVec.ofInt 64 (4 * o.toInt)) id s else retired id s := by
  simp only [branchH, guardEnd_calm _ h.2, four_mul_signExtend, finish_id_calm h]

theorem exec_jal_calm (d : SReg) (p : BitVec 20) : exec (.jal d p) s =
    .next (transfer 0 (d == 0) (s.cur.pc + BitVec.ofInt 64 (4 * p.toInt)) (setS d (s.cur.pc + 4)) s) := by
  simp only [exec_jal, execJal, guardEnd_calm _ h.2, four_mul_signExtend]

/-- JALR forms its target, which is to be a multiple of 4 (R126). -/
theorem exec_jalr_calm (d a : SReg) (i : BitVec 13) (w : Stall) : exec (.jalr d a i w) s =
    .next (if (reg s a + BitVec.ofInt 64 i.toInt).toNat % 4 = 0
      then transfer w (d == 0) (reg s a + BitVec.ofInt 64 i.toInt) (setS d (s.cur.pc + 4)) s
      else Safety.trapped 0x05 (reg s a + BitVec.ofInt 64 i.toInt) 0 s) := by
  have hse : i.signExtend 64 = BitVec.ofInt 64 i.toInt := rfl
  simp only [exec_jalr, execJalr, guardS_quiet _ h.1, guardEnd_calm _ h.2, rs_quiet _ h.1, sreg_eq_reg, hse, trap_eq, bne_iff_ne, ite_not]
  rfl

/-- A jump that leaves no level writes its link. -/
theorem jumped_setS (d : SReg) (x y : Word) : jumped y (setS d x) s = jumped y (put d x) s := by
  simp only [jumped, setS_quiet _ _ _ h.1]

end

/-- A bit of a mask register; k0 is all ones (R14). -/
theorem getLsbD_kreg (t : Thread) (k : KReg) {i : Nat} (hi : i < 512) : (kreg t k).getLsbD i = (k == 0 || (t.k[k]).getLsbD i) := by
  by_cases h : k = 0
  · rw [kreg, if_pos h, BitVec.getLsbD_allOnes, decide_eq_true hi, h]; rfl
  · rw [kreg, if_neg h, beq_eq_false_iff_ne.mpr h, Bool.false_or]

/-- A bit that is not set in a mask register is not read as set. -/
theorem getLsbD_kreg_false {t : Thread} {k : KReg} {i : Nat} (h : (k == 0 || (t.k[k]).getLsbD i) = false) : (kreg t k).getLsbD i = false := by
  rw [Bool.or_eq_false_iff, beq_eq_false_iff_ne] at h
  rw [kreg, if_neg h.1, h.2]

/-- Settles O8: a branch is its condition, a taken one jumps where no level is left. -/
theorem branchesAndJumps : Obligations.BranchesAndJumps := by
  unfold Obligations.BranchesAndJumps
  refine ⟨fun s a b o h => ?_, fun s k o h => ?_, fun s d a p i w h => ?_⟩
  · intro x y goes
    have run {j : Instr} {p : Prop} [Decidable p] (hj : exec j s = .next (if p then transfer 0 true (target s o) id s else retired id s)) :
        goes j p := by
      refine ⟨fun hp hf => ?_, fun hp => by rw [hj, if_neg hp]⟩
      rw [hj, if_pos hp, transfer_straight h.1 0 _ id (.inr hf.2)]
    exact ⟨run (exec_beq_calm h a b o), run (exec_bne_calm h a b o), run (exec_blt_calm h a b o), run (exec_bge_calm h a b o),
      run (exec_bltu_calm h a b o), run (exec_bgeu_calm h a b o)⟩
  · intro bit taken u
    have go {j : Instr} (hj : exec j s = .next (transfer 0 true (target s o) id s)) : taken j := fun hf => by
      rw [hj, transfer_straight h.1 0 _ id (.inr hf.2)]
    refine ⟨fun ⟨i, hi, h512, hb⟩ => ?_, fun hvl hb => ?_, fun hvl hb => ?_, fun ⟨i, hi, hb⟩ => ?_⟩
    · have hset : (kreg s.cur k).getLsbD i = true := (getLsbD_kreg _ _ h512).trans hb
      refine ⟨go ?_, ?_⟩
      · rw [exec_bkany_calm h, if_pos ⟨i, hi, hset⟩]
      · rw [exec_bknone_calm h, if_neg fun hn => by simp [hn i hi] at hset]
    · have hclear (i : Nat) (hi : i < vlOf s.cur) : (kreg s.cur k).getLsbD i = false := getLsbD_kreg_false (hb i hi)
      refine ⟨?_, go ?_⟩
      · rw [exec_bkany_calm h, if_neg]
        rintro ⟨i, hi, hset⟩
        simp [hclear i hi] at hset
      · rw [exec_bknone_calm h, if_pos hclear]
    · refine go ?_
      rw [exec_bkall_calm h, if_pos fun i hi => (getLsbD_kreg _ _ (hi.trans_le hvl)).trans (hb i hi)]
    · rw [exec_bkall_calm h, if_neg]
      intro hall
      exact absurd ((getLsbD_kreg_false hb).symm.trans (hall i hi)) (by decide)
  · intro y
    have stays (hf : Flat s) : (d == 0) = false ∨ inSup (setS d (s.cur.pc + 4) s.cur) = true ∨ depthOf (setS d (s.cur.pc + 4) s.cur) = 0 := by
      rw [inSup, depthOf, setS_ctl]
      exact .inr hf.2
    refine ⟨fun hf => ?_, fun hf hy => ?_, fun hy => ?_⟩
    · rw [exec_jal_calm h, transfer_straight h.1 0 _ _ (stays hf), jumped_setS h]
    · rw [exec_jalr_calm h, if_pos hy, transfer_straight h.1 w _ _ (stays hf), jumped_setS h]
    · rw [exec_jalr_calm h, if_neg hy]

/-- Settles O9: a taken transfer pops the levels that `popLevels` leaves; a call is a jump. -/
theorem transfersLeaveLevels : Obligations.TransfersLeaveLevels := by
  unfold Obligations.TransfersLeaveLevels
  intro s a b d o p i q w k g h hs left t x y z far near bit
  have go {j : Instr} {w : Nat} {y : Word} (hj : exec j s = .next (transfer w true y id s)) : left j y := by
    obtain ⟨m, hm, hout, hleft, hstop⟩ := transfer_leaves h.1 hs w y
    exact ⟨m, hm, hj.trans (congrArg _ hout), hleft, hstop⟩
  have branch {j : Instr} {y : Word} {c : Prop} [Decidable c] (hj : exec j s = .next (if c then transfer 0 true y id s else retired id s))
      (hc : c) : left j y := go (hj.trans (by rw [if_pos hc]))
  have call (hd : d ≠ 0) (w : Nat) (y : Word) : transfer w (d == 0) y (setS d (s.cur.pc + 4)) s = jumped y (put d (s.cur.pc + 4)) s := by
    rw [transfer_straight h.1 w _ _ (.inl (beq_eq_false_iff_ne.mpr hd)), jumped_setS h]
  refine ⟨branch (exec_beq_calm h a b o), branch (exec_bne_calm h a b o), branch (exec_blt_calm h a b o), branch (exec_bge_calm h a b o),
    branch (exec_bltu_calm h a b o), branch (exec_bgeu_calm h a b o), fun ⟨n, hn, h512, hb⟩ => ?_, fun _ hb => ?_, fun hvl hb => ?_,
    fun hg => ?_, fun hg => ?_, ?_, fun hz => ?_, fun hd => ⟨?_, fun hz => ?_⟩⟩
  · exact branch (exec_bkany_calm h k o) ⟨n, hn, (getLsbD_kreg _ _ h512).trans hb⟩
  · exact branch (exec_bknone_calm h k o) fun n hn => getLsbD_kreg_false (hb n hn)
  · exact branch (exec_bkall_calm h k o) fun n hn => (getLsbD_kreg _ _ (hn.trans_le hvl)).trans (hb n hn)
  · exact branch (congrArg _ (branchH_calm h _ q)) (beq_iff_eq.mpr hg)
  · exact branch (congrArg _ (branchH_calm h _ q)) (bne_iff_ne.mpr hg)
  · exact go (exec_jal_calm h 0 p)
  · exact go ((exec_jalr_calm h 0 a i w).trans (by rw [if_pos hz]; rfl))
  · rw [exec_jal_calm h, call hd]
  · rw [exec_jalr_calm h, if_pos hz, call hd]

end Sys2Proof.Machine
end

section
/-! SUPPORT. LOOP and LOOPV: what they push and where they trap (04 R127, R131). -/

namespace Sys2Proof.Machine

open Sys2Proof.Safety

/-! ### In a calm thread -/

section
variable {s : State} (h : Calm s) (isV : Bool) (a : SReg) (o : BitVec 15)
include h

/-- The checks of LOOP and LOOPV in their order (R127). -/
theorem loopWith_calm : loopWith isV a o s =
    if inSup s.cur = true then trap ⟨cLOOP, 4, 0⟩ s
    else if reg s a = 0 then transfer 0 false (target s o) id s
    else if 6 ≤ depthOf s.cur then trap ⟨cLOOP, 1, 0⟩ s
    else if 0 < depthOf s.cur ∧ (lendOf s.cur (depthOf s.cur - 1)).toNat < (target s o - 4).toNat then trap ⟨cLOOP, 5, 0⟩ s
    else if isV = true ∧ vlmax s.cur (sewOf s.cur) = 0 then trap ⟨cLOOP, 6, 0⟩ s
    else transfer 0 false (s.cur.pc + 4) (fun t => pushLevel isV (reg s a) s.cur.pc (target s o - 4)
      (if isV then setVl (min (reg s a).toNat (vlmax s.cur (sewOf s.cur))) t else t)) s := by
  have ht : s.cur.pc + 4 * o.signExtend 64 = target s o := brTarget_eq s o
  simp only [loopWith, guardS_quiet _ h.1, guardEnd_calm _ h.2, rs_quiet _ h.1, sreg_eq_reg, brTarget_eq, ht, Bool.and_eq_true,
    decide_eq_true_eq, beq_iff_eq]

theorem loopWith_handler (hs : inSup s.cur = true) : loopWith isV a o s = trap ⟨cLOOP, 4, 0⟩ s := by
  rw [loopWith_calm h, if_pos hs]

variable (hs : inSup s.cur = false)
include hs

theorem loopWith_zero (hc : reg s a = 0) : loopWith isV a o s = jumped (target s o) id s := by
  rw [loopWith_calm h, if_neg (by simp [hs]), if_pos hc, transfer_straight h.1 0 _ id (.inl rfl)]

variable {a} (hc : reg s a ≠ 0)
include hc

theorem loopWith_full (hd : 6 ≤ depthOf s.cur) : loopWith isV a o s = trap ⟨cLOOP, 1, 0⟩ s := by
  rw [loopWith_calm h, if_neg (by simp [hs]), if_neg hc, if_pos hd]

variable (hd : depthOf s.cur < 6)
include hd

theorem loopWith_beyond (h0 : 0 < depthOf s.cur) (he : (lendOf s.cur (depthOf s.cur - 1)).toNat < (target s o - 4).toNat) :
    loopWith isV a o s = trap ⟨cLOOP, 5, 0⟩ s := by
  rw [loopWith_calm h, if_neg (by simp [hs]), if_neg hc, if_neg (by omega), if_pos ⟨h0, he⟩]

variable (he : depthOf s.cur = 0 ∨ (target s o - 4).toNat ≤ (lendOf s.cur (depthOf s.cur - 1)).toNat)
include he

theorem loopWith_noLanes (hv : vlmax s.cur (sewOf s.cur) = 0) : loopWith true a o s = trap ⟨cLOOP, 6, 0⟩ s := by
  rw [loopWith_calm h, if_neg (by simp [hs]), if_neg hc, if_neg (by omega), if_neg (by omega), if_pos ⟨rfl, hv⟩]

/-- A loop that passes its checks pushes its level, LOOPV with the VL of its first pass. -/
theorem loopWith_pushes (hv : isV = true → 0 < vlmax s.cur (sewOf s.cur)) :
    loopWith isV a o s = jumped (s.cur.pc + 4) (fun t => pushLevel isV (reg s a) s.cur.pc (target s o - 4)
      (if isV then setVl (min (reg s a).toNat (vlmax s.cur (sewOf s.cur))) t else t)) s := by
  have hlanes : ¬ (isV = true ∧ vlmax s.cur (sewOf s.cur) = 0) := fun ⟨hi, h0⟩ => (hv hi).ne' h0
  rw [loopWith_calm h, if_neg (by simp [hs]), if_neg hc, if_neg (by omega), if_neg (by omega), if_neg hlanes,
    transfer_straight h.1 0 _ _ (.inl rfl)]

end

/-! ### At the end of a body -/

/-- The instructions of R131 start with the guard of R131. -/
theorem exec_of_endless {s : State} (hp : s.cur.pend = []) {a b : SReg} {o : BitVec 15} {k : KReg} {d : SReg} {p : BitVec 20} {i : BitVec 13}
    {w : Stall} {c : BitVec 12} {h : HReg} {j : Instr} (hj : j ∈ endless a b o k d p i w c h) : ∃ u, exec j s = .next (guardEnd s u) := by
  have guarded (l : List SReg) (u : State) : ∃ u', (.next (guardS l s (guardEnd s u)) : Out) = .next (guardEnd s u') :=
    ⟨u, congrArg _ (guardS_quiet s hp l _)⟩
  simp only [endless, List.mem_cons, List.not_mem_nil, or_false] at hj
  rcases hj with rfl | rfl | rfl | rfl | rfl | rfl | rfl | rfl | rfl | rfl | rfl | rfl | rfl | rfl | rfl | rfl
  iterate 6 exact guarded _ _
  · exact ⟨_, rfl⟩
  iterate 3 exact guarded _ _
  all_goals exact ⟨_, rfl⟩

theorem guardEnd_atEnd {s : State} {n : Nat} (hs : inSup s.cur = false) (hd : depthOf s.cur = n + 1) (he : lendOf s.cur n = s.cur.pc)
    (k : State) : guardEnd s k = Safety.trapped 0x0A 3 0 s := by
  have hend : atLoopEnd s.cur = true := by simp [atLoopEnd, hs, hd, he]
  rw [guardEnd, if_pos hend, trap_eq]
  rfl

/-- Settles O10: the checks of a loop in their order, and the guard of the instructions that may not end a body. -/
theorem loopsBeginAndTrap : Obligations.LoopsBeginAndTrap := by
  unfold Obligations.LoopsBeginAndTrap
  refine ⟨fun s a o h hs => ?_, fun s a o h => ?_, fun s a b o k d p i w c g n hp hs hd he j hj => ?_⟩
  · intro t n e vm pushed setVL
    refine ⟨fun hc => ⟨congrArg _ (loopWith_zero h false a o hs hc), congrArg _ (loopWith_zero h true a o hs hc)⟩, fun hc hd he => ⟨?_, fun hv => ?_⟩⟩
    · exact congrArg _ (loopWith_pushes h false o hs hc hd he (by simp))
    · exact congrArg _ (loopWith_pushes h true o hs hc hd he fun _ => hv)
  · intro t n e
    have trapped {isV : Bool} {v : Word} (ht : loopWith isV a o s = trap ⟨cLOOP, v, 0⟩ s) :
        (.next (loopWith isV a o s) : Out) = .next (Safety.trapped 0x0A v 0 s) := by rw [ht, trap_eq]; rfl
    refine ⟨fun hs => ⟨?_, ?_⟩, fun hs hc => ⟨fun hd => ⟨?_, ?_⟩, fun h0 hd he => ⟨?_, ?_⟩, fun hd he hv => ?_⟩⟩
    · exact trapped (loopWith_handler h false a o hs)
    · exact trapped (loopWith_handler h true a o hs)
    · exact trapped (loopWith_full h false o hs hc hd)
    · exact trapped (loopWith_full h true o hs hc hd)
    · exact trapped (loopWith_beyond h false o hs hc hd h0 he)
    · exact trapped (loopWith_beyond h true o hs hc hd h0 he)
    · exact trapped (loopWith_noLanes h o hs hc hd he hv)
  · obtain ⟨u, hu⟩ := exec_of_endless hp hj
    rw [hu, guardEnd_atEnd hs hd he]

end Sys2Proof.Machine
end

section
/-! SUPPORT. The back-edges of the loop levels that end at an instruction (04 R127, R128). -/

namespace Sys2Proof.Machine

open Sys2Proof.Safety

/-! ### Streams -/

@[simp] theorem put_pend (d : SReg) (x : Word) (t : Thread) : (put d x t).pend = t.pend := by unfold put; split <;> rfl
@[simp] theorem put_lkind (d : SReg) (x : Word) (t : Thread) : (put d x t).lkind = t.lkind := by unfold put; split <;> rfl

/-- One of s20 to s23 advanced by `n` times its stride, which is the field of ASCALE at bit `lo` (R128). -/
def stepStream (n : Word) (r : SReg) (lo : Nat) (t : Thread) : Thread := put r (sreg t r + n * BitVec.ofNat 64 (fld t.ctl.ascale lo 16)) t

section
variable (n : Word) (r : SReg) (lo : Nat) (t : Thread)

@[simp] theorem stepStream_ctl : (stepStream n r lo t).ctl = t.ctl := put_ctl ..
@[simp] theorem stepStream_pend : (stepStream n r lo t).pend = t.pend := put_pend ..
@[simp] theorem stepStream_lkind : (stepStream n r lo t).lkind = t.lkind := put_lkind ..
@[simp] theorem stepStream_pc : (stepStream n r lo t).pc = t.pc := put_pc ..

theorem stepStream_counted : stepStream n r lo (counted t) = counted (stepStream n r lo t) := by
  unfold stepStream put; split <;> rfl

theorem stepStream_setDepth (m : Nat) : stepStream n r lo (setDepth m t) = setDepth m (stepStream n r lo t) := by
  unfold stepStream put; split <;> rfl

theorem stepStream_zero : stepStream 0#64 r lo t = t := by
  have hz : sreg t r + 0#64 * BitVec.ofNat 64 (fld t.ctl.ascale lo 16) = sreg t r := by rw [BitVec.zero_mul, BitVec.add_zero]
  rw [stepStream, hz, put, sreg]
  by_cases h : r = 0
  · rw [if_pos h]
  · simp [h]

end

theorem streamed_eq (t : Thread) : streamed t =
    stepStream (BitVec.ofNat 64 (vlOf t)) 23 48 (stepStream (BitVec.ofNat 64 (vlOf t)) 22 32
      (stepStream (BitVec.ofNat 64 (vlOf t)) 21 16 (stepStream (BitVec.ofNat 64 (vlOf t)) 20 0 t))) := by
  simp only [streamed, stepStream, sreg, put_ctl]

/-- With no result in flight the streams advance as written (R128). -/
theorem advanceStreams_quiet {t : Thread} (h : t.pend = []) : advanceStreams t = streamed t := by
  have step (n : Word) (r : SReg) (lo : Nat) {u : Thread} (hu : u.pend = []) :
      setS r (sreg u r + n * BitVec.ofNat 64 (fld u.ctl.ascale lo 16)) u = stepStream n r lo u := setS_quiet _ _ _ hu
  rw [streamed_eq, ← step _ 23 48 (by simpa using h), ← step _ 22 32 (by simpa using h), ← step _ 21 16 (by simpa using h), ← step _ 20 0 h]
  rfl

@[simp] theorem streamed_ctl (t : Thread) : (streamed t).ctl = t.ctl := by simp only [streamed_eq, stepStream_ctl]
@[simp] theorem streamed_pc (t : Thread) : (streamed t).pc = t.pc := by simp only [streamed_eq, stepStream_pc]
@[simp] theorem streamed_pend (t : Thread) : (streamed t).pend = t.pend := by simp only [streamed_eq, stepStream_pend]
@[simp] theorem streamed_lkind (t : Thread) : (streamed t).lkind = t.lkind := by simp only [streamed_eq, stepStream_lkind]

theorem streamed_counted : Function.Commute streamed counted := fun t => by
  have hv : vlOf (counted t) = vlOf t := rfl
  simp only [streamed_eq, hv, stepStream_counted]

theorem streamed_setDepth (m : Nat) : Function.Commute streamed (setDepth m) := fun t => by
  have hv : vlOf (setDepth m t) = vlOf t := rfl
  simp only [streamed_eq, hv, stepStream_setDepth]

/-- With VL = 0 no stream moves. -/
theorem streamed_noVl {t : Thread} (h : vlOf t = 0) : streamed t = t := by
  have h0 : BitVec.ofNat 64 (vlOf t) = 0#64 := by rw [h]
  simp only [streamed_eq, h0, stepStream_zero]

/-! ### Levels -/

/-- A thread whose loops are those of `t`, but for the depth. -/
structure LoopsOf (t u : Thread) : Prop where
  pend : u.pend = []
  lkind : u.lkind = t.lkind
  ctl : ∃ d, u.ctl = { t.ctl with ldepth := d }

section
variable {t u : Thread} (h : LoopsOf t u)
include h

theorem LoopsOf.streamed : LoopsOf t (streamed u) :=
  ⟨by rw [streamed_pend, h.pend], by rw [streamed_lkind, h.lkind], by rw [streamed_ctl]; exact h.ctl⟩

theorem LoopsOf.iterate (k : Nat) : LoopsOf t (Safety.streamed^[k] u) := by
  induction k with
  | zero => exact h
  | succ k ih => rw [Function.iterate_succ_apply']; exact ih.streamed

theorem LoopsOf.setDepth (m : Nat) : LoopsOf t (setDepth m u) := by
  obtain ⟨hp, hk, d, hc⟩ := h
  exact ⟨hp, hk, BitVec.ofNat 64 m, by rw [Machine.setDepth, modC_ctl, hc]⟩

theorem LoopsOf.counted : LoopsOf t (counted u) := ⟨h.pend, h.lkind, h.ctl⟩

theorem LoopsOf.lend (j : Nat) : lendOf u j = lendOf t j := by obtain ⟨-, -, d, hc⟩ := h; rw [lendOf, hc]; rfl
theorem LoopsOf.lbeg (j : Nat) : lbegOf u j = lbegOf t j := by obtain ⟨-, -, d, hc⟩ := h; rw [lbegOf, hc]; rfl
theorem LoopsOf.lcnt : u.ctl.lcnt = t.ctl.lcnt := by obtain ⟨-, -, d, hc⟩ := h; rw [hc]
theorem LoopsOf.vl : vlOf u = vlOf t := by obtain ⟨-, -, d, hc⟩ := h; rw [vlOf, hc]; rfl
theorem LoopsOf.sup : inSup u = inSup t := by obtain ⟨-, -, d, hc⟩ := h; rw [inSup, hc]; rfl
theorem LoopsOf.vlmax : vlmax u (sewOf u) = Machine.vlmax t (sewOf t) := by obtain ⟨-, -, d, hc⟩ := h; rw [sewOf, Machine.vlmax, grantMax, lanesOf, capOf, hc]; rfl

end

/-- Level `j` is popped where it ends: a LOOP level with one pass or none to go, a LOOPV level with no more than VL left (R128). -/
def Pops (t : Thread) (j : Nat) : Prop :=
  if vnth t.lkind false j = true then 0 < vlOf t ∧ (lvl t.ctl.lcnt j).toNat ≤ vlOf t else (lvl t.ctl.lcnt j).toNat ≤ 1

/-- How often a LOOPV level advances the streams when it ends, and a LOOP level. -/
def advances (t : Thread) (j : Nat) : Nat := if vnth t.lkind false j = true then 1 else 0

/-- LOOPV levels above `m`, of `n` + 1. -/
def vectorLevels (t : Thread) (m n : Nat) : Nat :=
  ((List.range (n + 1)).filter fun j => decide (m < j) && vnth t.lkind false j).length

theorem vectorLevels_self (t : Thread) (m : Nat) : vectorLevels t m m = 0 := by
  simp only [vectorLevels, List.length_eq_zero_iff, List.filter_eq_nil_iff, List.mem_range, Bool.and_eq_true, decide_eq_true_eq]
  omega

theorem vectorLevels_succ (t : Thread) {m n : Nat} (h : m ≤ n) : vectorLevels t m (n + 1) = vectorLevels t m n + advances t (n + 1) := by
  have hlt : m < n + 1 := by omega
  rw [vectorLevels, List.range_succ, List.filter_append, List.length_append, vectorLevels, advances]
  cases hk : vnth t.lkind false (n + 1) <;> simp [hk, hlt]

/-- Levels above `m` popped. -/
def popAbove (m n : Nat) (u : Thread) : Thread := if m = n then u else setDepth (m + 1) u

section
variable {t u : Thread} (h : LoopsOf t u) {x : Word} {j : Nat} (he : lendOf t j = x)
include h he

theorem ends_iff : (lendOf u j != x) = false := by rw [h.lend, he, bne_self_eq_false]

/-- A level that is popped where it ends. -/
theorem backEdge_pop (hp : Pops t j) : backEdge x (j + 1) u = backEdge x j (setDepth j (streamed^[advances t j] u)) := by
  simp only [backEdge, ends_iff h he, h.lkind, advances, advanceStreams_quiet h.pend]
  rw [Pops] at hp
  by_cases hk : vnth t.lkind false j = true
  · rw [if_pos hk, ← h.streamed.lcnt, ← h.streamed.vl] at hp
    simp only [hk, if_true, hp.1.ne', hp.2, if_false, Bool.false_eq_true, Function.iterate_one]
  · rw [if_neg hk, ← h.lcnt] at hp
    simp only [hk, hp, if_true, if_false, Bool.false_eq_true, Function.iterate_zero, id_eq]

/-- A LOOP level with passes to go. -/
theorem backEdge_loop (hk : vnth t.lkind false j = false) (hc : 1 < (lvl t.ctl.lcnt j).toNat) :
    backEdge x (j + 1) u = ({ modC (fun c => { c with lcnt := vput t.ctl.lcnt j (lvl t.ctl.lcnt j - 1) }) u with pc := lbegOf t j }, none) := by
  rw [← h.lkind] at hk
  rw [← h.lcnt] at hc ⊢
  rw [← h.lbeg]
  simp only [backEdge, ends_iff h he, hk, Nat.not_le.mpr hc, if_false, Bool.false_eq_true]
  rfl

/-- A LOOPV level with elements left. -/
theorem backEdge_loopv (hk : vnth t.lkind false j = true) (h0 : 0 < vlOf t) (hc : vlOf t < (lvl t.ctl.lcnt j).toNat) :
    backEdge x (j + 1) u = ({ modC (fun c => { c with
      lcnt := vput t.ctl.lcnt j (BitVec.ofNat 64 ((lvl t.ctl.lcnt j).toNat - vlOf t))
      vl := BitVec.ofNat 64 (min ((lvl t.ctl.lcnt j).toNat - vlOf t) (vlmax t (sewOf t))) }) (streamed u) with pc := lbegOf t j }, none) := by
  have hs := h.streamed
  rw [← h.lkind] at hk
  rw [← hs.vl] at h0 hc ⊢
  rw [← hs.lcnt] at hc ⊢
  rw [← hs.lbeg, ← hs.vlmax]
  simp only [backEdge, ends_iff h he, hk, advanceStreams_quiet h.pend, h0.ne', Nat.not_le.mpr hc, if_true, if_false, Bool.false_eq_true]
  rfl

/-- A LOOPV level that finds VL = 0. -/
theorem backEdge_noVl (hk : vnth t.lkind false j = true) (h0 : vlOf t = 0) :
    backEdge x (j + 1) u = ({ u with pc := lbegOf t j }, some (lbegOf t j)) := by
  rw [← h.lkind] at hk
  rw [← h.vl] at h0
  rw [← h.lbeg]
  simp only [backEdge, ends_iff h he, hk, advanceStreams_quiet h.pend, streamed_noVl h0, h0, if_true, if_false, Bool.false_eq_true]

end

/-- Levels `n` down to `m` + 1 end here and are popped. -/
theorem backEdge_popAbove {t : Thread} {x : Word} {m n : Nat} (hmn : m ≤ n) (he : ∀ j, m < j → j ≤ n → lendOf t j = x)
    (hp : ∀ j, m < j → j ≤ n → Pops t j) {u : Thread} (h : LoopsOf t u) :
    backEdge x (n + 1) u = backEdge x (m + 1) (popAbove m n (streamed^[vectorLevels t m n] u)) := by
  induction n, hmn using Nat.le_induction generalizing u with
  | base => rw [vectorLevels_self, popAbove, if_pos rfl]; rfl
  | succ n hmn ih =>
    have hne : m ≠ n + 1 := by omega
    rw [backEdge_pop h (he _ (by omega) (le_refl _)) (hp _ (by omega) (le_refl _)),
      ih (fun j h1 h2 => he j h1 (by omega)) (fun j h1 h2 => hp j h1 (by omega)) ((h.iterate _).setDepth _),
      (streamed_setDepth _).iterate_left, ← Function.iterate_add_apply, ← vectorLevels_succ t hmn, popAbove, popAbove, if_neg hne]
    split
    · next e => rw [e]
    · rfl

/-- No level ends at `x` below the first `m`. -/
theorem backEdge_done {u : Thread} {x : Word} {m : Nat} (h : m = 0 ∨ lendOf u (m - 1) ≠ x) : backEdge x m u = ({ u with pc := x + 4 }, none) := by
  cases m with
  | zero => rfl
  | succ m =>
    have hne : lendOf u m ≠ x := h.resolve_left (Nat.succ_ne_zero m)
    simp only [backEdge, bne_iff_ne.mpr hne, if_true]

end Sys2Proof.Machine
end

section
/-! SUPPORT. An instruction at the end of a loop body: its effect, then its back-edge (04 R127, R128). -/

namespace Sys2Proof.Machine

open Sys2Proof.Safety

/-! ### The completion of an instruction in user mode -/

section
variable {s : State} {f : Thread → Thread} {u : Thread} (hp : s.cur.pend = []) (hs : inSup (f s.cur) = false) (w : Nat)
include hp hs

theorem finish_backEdge (hb : backEdge (f s.cur).pc (depthOf (f s.cur)) (counted (f s.cur)) = (u, none)) :
    finish w f s = { s with tick := s.tick + 1, cur := u } := by
  have hs' : inSup (counted (f s.cur)) = false := hs
  have hb' : backEdge (counted (f s.cur)).pc (depthOf (counted (f s.cur))) (counted (f s.cur)) = (u, none) := hb
  simp only [finish, agePend_quiet _ hp, hs', hb', Bool.false_eq_true, if_false]

/-- A LOOPV level that finds VL = 0 traps after the instruction's effect, and the instruction does not count as issued (R128). -/
theorem finish_backEdge_trap {b : Word} (hb : backEdge (f s.cur).pc (depthOf (f s.cur)) (counted (f s.cur)) = (u, some b)) :
    finish w f s = trappedAt b 0x0A 6 0 { s with tick := s.tick + 1, cur := { u with seq := u.seq - 1, issued := u.issued - 1 } } := by
  have hs' : inSup (counted (f s.cur)) = false := hs
  have hb' : backEdge (counted (f s.cur)).pc (depthOf (counted (f s.cur))) (counted (f s.cur)) = (u, some b) := hb
  simp only [finish, agePend_quiet _ hp, hs', hb', Bool.false_eq_true, if_false, trapAt_eq]
  rfl

end

/-- Of an effect only what it makes of the thread in focus counts. -/
theorem finish_congr {s : State} {f g : Thread → Thread} (hp : s.cur.pend = []) (h : g s.cur = f s.cur) (w : Nat) :
    finish w g s = finish w f s := by simp only [finish, agePend_quiet _ hp, h]

/-! ### Where the levels above `m` have been popped -/

theorem popAbove_counted (m n : Nat) (t : Thread) : popAbove m n (counted t) = counted (popAbove m n t) := by
  unfold popAbove; split <;> rfl

theorem streamed_popAbove (m n : Nat) : Function.Commute streamed (popAbove m n) := fun t => by
  unfold popAbove
  split
  · rfl
  · exact streamed_setDepth _ t

theorem setDepth_popAbove (k m n : Nat) (t : Thread) : setDepth k (popAbove m n t) = setDepth k t := by
  unfold popAbove; split <;> rfl

theorem LoopsOf.popAbove {t u : Thread} (h : LoopsOf t u) (m n : Nat) : LoopsOf t (popAbove m n u) := by
  unfold Machine.popAbove
  split
  · exact h
  · exact h.setDepth _

/-- An effect that touches nothing the loops read. -/
structure Keeps (t u : Thread) : Prop where
  pc : u.pc = t.pc
  pend : u.pend = t.pend
  lkind : u.lkind = t.lkind
  ctl : u.ctl = t.ctl

theorem keeps_put (d : SReg) (x : Word) (t : Thread) : Keeps t (put d x t) := ⟨put_pc .., put_pend .., put_lkind .., put_ctl ..⟩

theorem iterate_streamed_pc (k : Nat) (t : Thread) : (streamed^[k] t).pc = t.pc := by
  induction k with
  | zero => rfl
  | succ k ih => rw [Function.iterate_succ_apply', streamed_pc, ih]

/-- Levels `m` to `n`, the innermost, end at the PC of a thread in user mode, and those above `m` are popped (R128). -/
structure AtEnds (t : Thread) (m n : Nat) : Prop where
  quiet : t.pend = []
  user : inSup t = false
  depth : depthOf t = n + 1
  le : m ≤ n
  ends : ∀ j, m ≤ j → j ≤ n → lendOf t j = t.pc
  pops : ∀ j, m < j → j ≤ n → Pops t j

section
variable {x : State} {m n : Nat} (h : AtEnds x.cur m n) {f : Thread → Thread} (hk : Keeps x.cur (f x.cur)) (w : Nat)
include h hk

theorem loopsOf_effect : LoopsOf x.cur (f x.cur) := ⟨hk.pend.trans h.quiet, hk.lkind, x.cur.ctl.ldepth, hk.ctl⟩

theorem user_effect : inSup (f x.cur) = false := (loopsOf_effect h hk).sup.trans h.user

/-- The thread at the back-edge of level `m`. -/
theorem loopsOf_above : LoopsOf x.cur (counted (popAbove m n (streamed^[vectorLevels x.cur m n] (f x.cur)))) :=
  (((loopsOf_effect h hk).iterate _).popAbove m n).counted

/-- The back-edge of level `m` is the one that decides. -/
theorem backEdge_effect : backEdge (f x.cur).pc (depthOf (f x.cur)) (counted (f x.cur)) =
    backEdge x.cur.pc (m + 1) (counted (popAbove m n (streamed^[vectorLevels x.cur m n] (f x.cur)))) := by
  have hd : depthOf (f x.cur) = n + 1 := by rw [depthOf, hk.ctl]; exact h.depth
  rw [hd, hk.pc, backEdge_popAbove h.le (fun j h1 h2 => h.ends j h1.le h2) h.pops (loopsOf_effect h hk).counted,
    streamed_counted.iterate_left, popAbove_counted]

/-- Level `m` popped too, and no further one ends here. -/
theorem finish_popped (hp : Pops x.cur m) (hlast : m = 0 ∨ lendOf x.cur (m - 1) ≠ x.cur.pc) : finish w f x =
    retired (fun u => setDepth m (streamed^[advances x.cur m + vectorLevels x.cur m n] (f u))) x := by
  have hb := backEdge_effect h hk
  have hdone : m = 0 ∨ lendOf (setDepth m (streamed^[advances x.cur m + vectorLevels x.cur m n] (counted (f x.cur)))) (m - 1) ≠ x.cur.pc := by
    rwa [((((loopsOf_effect h hk).counted).iterate _).setDepth m).lend]
  rw [backEdge_pop (loopsOf_above h hk) (h.ends m (le_refl _) h.le) hp, ← popAbove_counted, (streamed_popAbove m n).iterate_left,
    setDepth_popAbove, ← streamed_counted.iterate_left, ← Function.iterate_add_apply, backEdge_done hdone,
    streamed_counted.iterate_left] at hb
  have hpc : x.cur.pc = (streamed^[advances x.cur m + vectorLevels x.cur m n] (f x.cur)).pc := by rw [iterate_streamed_pc, hk.pc]
  rw [finish_backEdge h.quiet (user_effect h hk) w hb]
  rw [hpc]
  rfl

/-- A LOOP level with passes to go goes back with one pass less. -/
theorem finish_loop (hv : vnth x.cur.lkind false m = false) (hc : 1 < (lvl x.cur.ctl.lcnt m).toNat) : finish w f x =
    jumped (lbegOf x.cur m) (fun u => modC (fun c => { c with lcnt := vput x.cur.ctl.lcnt m (lvl x.cur.ctl.lcnt m - 1) })
      (popAbove m n (streamed^[vectorLevels x.cur m n] (f u)))) x := by
  have hb := backEdge_effect h hk
  rw [backEdge_loop (loopsOf_above h hk) (h.ends m (le_refl _) h.le) hv hc] at hb
  rw [finish_backEdge h.quiet (user_effect h hk) w hb]
  rfl

/-- A LOOPV level with elements left goes back with the VL of its next pass. -/
theorem finish_loopv (hv : vnth x.cur.lkind false m = true) (h0 : 0 < vlOf x.cur) (hc : vlOf x.cur < (lvl x.cur.ctl.lcnt m).toNat) :
    finish w f x = jumped (lbegOf x.cur m) (fun u => modC (fun c => { c with
      lcnt := vput x.cur.ctl.lcnt m (BitVec.ofNat 64 ((lvl x.cur.ctl.lcnt m).toNat - vlOf x.cur))
      vl := BitVec.ofNat 64 (min ((lvl x.cur.ctl.lcnt m).toNat - vlOf x.cur) (vlmax x.cur (sewOf x.cur))) })
      (popAbove m n (streamed^[vectorLevels x.cur m n + 1] (f u)))) x := by
  have hb := backEdge_effect h hk
  have hnext : streamed (streamed^[vectorLevels x.cur m n] (f x.cur)) = streamed^[vectorLevels x.cur m n + 1] (f x.cur) :=
    (Function.iterate_succ_apply' streamed _ _).symm
  rw [backEdge_loopv (loopsOf_above h hk) (h.ends m (le_refl _) h.le) hv h0 hc, streamed_counted, streamed_popAbove, hnext] at hb
  rw [finish_backEdge h.quiet (user_effect h hk) w hb]
  rfl

/-- A LOOPV level that finds VL = 0 traps at its beginning, the effect standing. -/
theorem finish_noVl (hv : vnth x.cur.lkind false m = true) (h0 : vlOf x.cur = 0) : finish w f x =
    trappedAt (lbegOf x.cur m) 0x0A 6 0 { x with
      tick := x.tick + 1, cur := { popAbove m n (f x.cur) with pc := lbegOf x.cur m, wait := none, elim := none, brkSkip := none } } := by
  have hstill : streamed^[vectorLevels x.cur m n] (f x.cur) = f x.cur :=
    Function.iterate_fixed (streamed_noVl ((loopsOf_effect h hk).vl.trans h0)) _
  have hb := backEdge_effect h hk
  rw [backEdge_noVl (loopsOf_above h hk) (h.ends m (le_refl _) h.le) hv h0, hstill] at hb
  rw [finish_backEdge_trap h.quiet (user_effect h hk) w hb]
  rfl

end

/-! ### The instructions shown -/

/-- An instruction that completes with the effect `f` on its thread, which touches nothing the loops read. -/
def Completes (j : Instr) (f : Thread → Thread) (s x : State) : Prop :=
  ∃ w g, exec j s = .next (finish w g x) ∧ g x.cur = f x.cur ∧ Keeps x.cur (f x.cur)

theorem completes_put {s : State} (hp : s.cur.pend = []) {j : Instr} {d : SReg} {v : Word} {w : Nat}
    (h : exec j s = .next (finish w (setS d v) s)) : Completes j (put d v) s s :=
  ⟨w, setS d v, h, setS_quiet _ _ _ hp, keeps_put d v s.cur⟩

theorem Keeps.refl (t : Thread) : Keeps t t := ⟨rfl, rfl, rfl, rfl⟩

/-- The operands of a two-operand instruction with no result in flight. -/
theorem alu2_quiet {s : State} (hp : s.cur.pend = []) (f : Word → Word → Word) (d a b : SReg) (w : Stall) :
    alu2 f d a b w s = finish w (setS d (f (reg s a) (reg s b))) s := by
  simp only [alu2, guardS_quiet _ hp, rs_quiet _ hp, sreg_eq_reg]

theorem alu1_quiet {s : State} (hp : s.cur.pend = []) (f : Word → Word) (d a : SReg) (w : Stall) :
    alu1 f d a w s = finish w (setS d (f (reg s a))) s := by
  simp only [alu1, guardS_quiet _ hp, rs_quiet _ hp, sreg_eq_reg]

theorem completes_straight {s : State} (hp : s.cur.pend = []) {d a b : SReg} {o : OReg} {h : HReg} {i : BitVec 13} {w : Stall} {c : Scope}
    {p : Instr × (Thread → Thread)} (hm : p ∈ straight s d a b o h i w c) : Completes p.1 p.2 s s := by
  simp only [straight, List.mem_append, List.mem_cons, List.not_mem_nil, or_false] at hm
  rcases hm with (rfl | rfl | rfl | rfl | rfl | rfl | rfl) | hm
  · exact completes_put hp (congrArg _ (alu1_quiet hp _ d a w))
  · exact completes_put hp (congrArg _ (alu2_quiet hp _ d a b w))
  · exact completes_put hp (congrArg _ (alu2_quiet hp _ d a b w))
  · have hslt : boolWord ((reg s a).slt (reg s b)) = truth ((reg s a).slt (reg s b) = true) := by
      rw [← boolWord_decide, Bool.decide_eq_true]
    rw [← hslt]
    exact completes_put hp (congrArg _ (alu2_quiet hp _ d a b w))
  · exact ⟨w, _, rfl, rfl, ⟨rfl, rfl, rfl, rfl⟩⟩
  · exact ⟨0, id, rfl, rfl, .refl _⟩
  · exact ⟨0, id, rfl, rfl, .refl _⟩
  · split at hm
    · next h0 =>
      cases List.mem_singleton.mp hm
      refine ⟨0, id, ?_, rfl, .refl _⟩
      rw [exec_hheal, execHheal, hreg, if_pos h0]
    · cases hm

/-- The levels whose streams an instruction at the end of levels `m` to `n` advances, where level `m` is popped. -/
theorem advances_add_vectorLevels (t : Thread) (m n : Nat) : advances t m + vectorLevels t m n =
    if vnth t.lkind false m = true then vectorLevels t m n + 1 else vectorLevels t m n := by
  unfold advances; split <;> omega

/-- An instruction that completes at the end of levels `m` to `n`, by what level `m` does there (R128). -/
theorem completes_backEdges {s x : State} {m n : Nat} {t : Thread} (hat : AtEnds t m n) (hx : x.cur = t) {j : Instr} {f : Thread → Thread}
    (hj : Completes j f s x) :
    (Pops t m → m = 0 ∨ lendOf t (m - 1) ≠ t.pc → exec j s = .next (retired (fun u => setDepth m
      (streamed^[if vnth t.lkind false m = true then vectorLevels t m n + 1 else vectorLevels t m n] (f u))) x)) ∧
    (vnth t.lkind false m = false → 1 < (lvl t.ctl.lcnt m).toNat → exec j s = .next (jumped (lbegOf t m) (fun u =>
      modC (fun c => { c with lcnt := vput t.ctl.lcnt m (lvl t.ctl.lcnt m - 1) }) (popAbove m n (streamed^[vectorLevels t m n] (f u)))) x)) ∧
    (vnth t.lkind false m = true → 0 < vlOf t → vlOf t < (lvl t.ctl.lcnt m).toNat → exec j s = .next (jumped (lbegOf t m) (fun u =>
      modC (fun c => { c with
        lcnt := vput t.ctl.lcnt m (BitVec.ofNat 64 ((lvl t.ctl.lcnt m).toNat - vlOf t))
        vl := BitVec.ofNat 64 (min ((lvl t.ctl.lcnt m).toNat - vlOf t) (vlmax t (sewOf t))) })
      (popAbove m n (streamed^[vectorLevels t m n + 1] (f u)))) x)) ∧
    (vnth t.lkind false m = true → vlOf t = 0 → exec j s = .next (trappedAt (lbegOf t m) 0x0A 6 0 { x with
      tick := x.tick + 1, cur := { popAbove m n (f x.cur) with pc := lbegOf t m, wait := none, elim := none, brkSkip := none } })) := by
  subst hx
  obtain ⟨v, g, hj, hg, hk⟩ := hj
  rw [finish_congr hat.quiet hg] at hj
  refine ⟨fun hm hlast => ?_, fun hv hc => ?_, fun hv h0 hc => ?_, fun hv h0 => ?_⟩
  · rw [hj, finish_popped hat hk v hm hlast, advances_add_vectorLevels]
  · rw [hj, finish_loop hat hk v hv hc]
  · rw [hj, finish_loopv hat hk v hv h0 hc]
  · rw [hj, finish_noVl hat hk v hv h0]

/-- Settles O11: whatever completes with an effect that the loops do not read, completes with the back-edges of the levels that end there. -/
theorem backEdges : Obligations.BackEdges := by
  unfold Obligations.BackEdges
  intro s d a b o h i w c ls m n hp hs hd hn hmn t vl left isV pops hends hpops k drop above beg edge
  have hat : AtEnds s.cur m n := ⟨hp, hs, hd, hmn, hends, hpops⟩
  have edges {j : Instr} {f : Thread → Thread} {x : State} (hx : x.cur = s.cur) (hj : Completes j f s x) : edge j f x :=
    completes_backEdges hat hx hj
  refine ⟨fun p hm => edges rfl (completes_straight hp hm), fun hr hclean => edges rfl ?_, fun hr => ?_⟩
  · exact completes_put hp (congrArg _ (scalarLoad_finish hp hr hclean zextNat))
  · obtain ⟨hlen, hnodup⟩ := reached_places (by decide) hr
    refine ⟨writeAll (wrBytes ls (leBytes 8 (reg s d).toNat)) s, onlyMemory_writeAll _ s, ?_, fun l hl => byteAt_wrBytes_other hl _ s, ?_⟩
    · have hread := readBytes_written hnodup (bs := leBytes 8 (reg s d).toNat) (by rw [length_leBytes, hlen]) s
      rw [valueAt, ← readBytes, hread, ofBytes_leBytes]
      exact Nat.mod_eq_of_lt (reg s d).isLt
    · exact edges (writeAll_cur _ s) ⟨w, id, congrArg _ (scalarStore_finish hp hr), rfl, .refl _⟩

end Sys2Proof.Machine
end

section
/-! SUPPORT. Vector compute instructions in a ready thread (01 R24, R27; 05 R142-R151): their checks pass, they meet no stop, and they
leave the elements or the bits that they list. -/

namespace Sys2Proof.Machine

open Sys2Proof.Safety

/-! ### What is left behind -/

section
variable {s u : State} {d : VReg} {w : Nat}

/-- The same is written where the same elements are named, with values that agree in their low bits. -/
theorem vecWrote_congr {on on' : Nat → Bool} {f f' : Nat → Nat} {g : Flags} (h : VecWrote s u d w on f g) (hon : ∀ j, on j = on' j)
    (hf : ∀ j, on' j = true → f j % 2 ^ w = f' j % 2 ^ w) : VecWrote s u d w on' f' g := by
  obtain ⟨hd, hr, hu⟩ := h
  refine ⟨fun j hj => ?_, hr, hu⟩
  rw [hd j hj, hon]
  by_cases ho : on' j = true
  · rw [if_pos ho, if_pos ho, hf j ho]
  · rw [if_neg ho, if_neg ho]

theorem elt_within {n i : Nat} (h : w * n ≤ 8192) (hi : i < n) : w * i + w ≤ 8192 :=
  (Nat.mul_succ w i ▸ Nat.mul_le_mul_left w hi).trans h

/-- A vector instruction that writes the elements of a list and raises `g`. -/
theorem vecWrote_writeElts (hbad : s.cur.vbad = []) (d : VReg) {l : List Nat} (hl : ∀ i ∈ l, w * i + w ≤ 8192) {on : Nat → Bool}
    (hon : ∀ i, i ∈ l ↔ on i = true) (f : Nat → Nat) (g : Flags) :
    VecWrote s (retired (fun t => setVstart 0 (orFlags g (writeElts d w (l.map fun i => (i, f i)) t))) s) d w on f g := by
  refine ⟨fun j hj => ?_, fun r hr => vreg_writeElts_other d r w _ s.cur hr, ?_⟩
  · simp only [← hon, ← elt_writeElts d w f l s.cur hl j hj]
    rfl
  · simp [retired, after, orFlags, setVstart, modC, writeElts, setV, hbad, vreg]

theorem orFlags_zero (t : Thread) : orFlags 0 t = t := by simp [orFlags, modC]

end

theorem body_iff {s : State} {i : Nat} : body s i = true ↔ vstartOf s.cur ≤ i ∧ i < vlOf s.cur ∧ governed s.cur i = true := by
  simp [body, and_assoc]

theorem acting_iff {s : State} {i : Nat} : acting s i = true ↔ i < vlOf s.cur ∧ governed s.cur i = true := by simp [acting]

theorem bodyFlags_zero (s : State) : bodyFlags s (fun _ => 0) = 0 := List.foldl_fixed' (fun _ => BitVec.or_zero) _

/-! ### No damage, no stop -/

section
variable {t : Thread}

theorem eltBad_sound (h : t.vbad = []) (r : VReg) (w i : Nat) : eltBad t r w i = false := by simp [eltBad, h]
theorem kDmg_sound (h : t.kbad = []) (ks : List KReg) (lo hi : Nat) : kDmg t ks lo hi = none := by simp [kDmg, h]
theorem maskDmg_sound (h : t.kbad = []) : maskDmg t = none := by simp [maskDmg, kDmg_sound h]
theorem eltsDmg_sound (h : t.vbad = []) (r : VReg) (w : Nat) (l : List Nat) : eltsDmg t r w l = none := by simp [eltsDmg, h]

end

section
variable {s : State} {w : Nat} (h : VecReady s w)
include h

/-- The checks of a vector instruction pass in a ready thread that has a VTYPE it takes. -/
theorem guardV_passed (i : Instr) (regs : List SReg) (k : State) : guardV i regs true w s k = k := guardV_ready i regs true w s k h rfl

theorem vecReady_firstDmg (srcs : List (VReg × Nat)) (ks : List KReg) (lo hi : Nat) : firstDmg s.cur srcs ks lo hi = none := by
  obtain ⟨-, hv, hk, -⟩ := h
  exact firstDmg_none _ hv hk ..

/-- An element-wise instruction leaves its elements of the body (R24, R27, R68). -/
theorem runE_eltwise {w' : Nat} (hw : w' ≤ w) (d : VReg) (f : Nat → Nat × Flags) :
    VecWrote s (runE (vlOf s.cur) none (eltwise d w' f) s) d w' (body s) (fun i => (f i).1) (bodyFlags s fun i => (f i).2) := by
  have ⟨⟨_, hn⟩, _, _, _, hc, _⟩ := h
  rw [runE_ready _ _ _ w h (noEdge_of _ _ hn rfl rfl rfl rfl) hc]
  exact eltwise_wrote s d w' f w h hw

/-- The same for one that raises no flag. -/
theorem runE_eltwise_plain (d : VReg) (f : Nat → Nat) :
    VecWrote s (runE (vlOf s.cur) none (eltwise d w fun i => (f i, 0)) s) d w (body s) f 0 := by
  have he := runE_eltwise h le_rfl d fun i => (f i, 0)
  rwa [bodyFlags_zero] at he

/-- A class-W instruction from element 0 of a vector that has one runs its body (R148). -/
theorem runW_ready (h0 : vstartOf s.cur = 0) (hvl : 0 < vlOf s.cur) (i : Instr) (run idle : Thread → Thread) :
    runW i none run idle s = finishV run s := by
  obtain ⟨-, -, -, he, -⟩ := h
  simp [runW, h0, Nat.not_le.mpr hvl, abandoned, he]

end

/-! ### Completion -/

section
variable {s : State} (hs : Calm s) (hc : s.cur.chain = 0)
include hs hc

/-- A completed instruction that writes the elements of a list and raises `g`. -/
theorem finishV_writeElts (hbad : s.cur.vbad = []) {w : Nat} (d : VReg) {l : List Nat} (hl : ∀ i ∈ l, w * i + w ≤ 8192) {on : Nat → Bool}
    (hon : ∀ i, i ∈ l ↔ on i = true) (f : Nat → Nat) (g : Flags) :
    VecWrote s (finishV (fun t => orFlags g (writeElts d w (l.map fun i => (i, f i)) t)) s) d w on f g := by
  obtain ⟨hp, hn⟩ := hs
  rw [finishV_calm _ s hp (noEdge_of _ _ hn rfl rfl rfl rfl) hc]
  exact vecWrote_writeElts hbad d hl hon f g

theorem finishV_writeElts_plain (hbad : s.cur.vbad = []) {w : Nat} (d : VReg) {l : List Nat} (hl : ∀ i ∈ l, w * i + w ≤ 8192)
    {on : Nat → Bool} (hon : ∀ i, i ∈ l ↔ on i = true) (f : Nat → Nat) :
    VecWrote s (finishV (writeElts d w (l.map fun i => (i, f i))) s) d w on f 0 := by
  have hw := finishV_writeElts hs hc hbad d hl hon f 0
  simpa only [orFlags_zero] using hw

/-- A completed vector instruction with a scalar result (R165, R167). -/
theorem finishV_setS (d : SReg) (x : Word) (g : Flags) : finishV (fun t => orFlags g (setS d x t)) s = scalarOut d x g s := by
  obtain ⟨hp, hn⟩ := hs
  rw [finishV_calm (fun t => orFlags g (setS d x t)) s hp (noEdge_orFlags _ _ (noEdge_setS _ _ _ hn)) (by simpa using hc)]
  simp only [retired, scalarOut, setS_quiet _ _ _ hp, put]
  split <;> rfl

theorem finishV_setS_plain (d : SReg) (x : Word) : finishV (setS d x) s = scalarOut d x 0 s := by
  rw [← finishV_setS hs hc]
  simp only [orFlags_zero]

end

end Sys2Proof.Machine
end

section
/-! SUPPORT. Element-wise arithmetic: the integer operations on signed elements are arithmetic modulo 2^w (05 R152, R153), and what the
instructions of R152 and R154 leave in a ready thread. -/

namespace Sys2Proof.Machine

open Sys2Proof.Safety

/-! ### Signed elements modulo 2^w -/

section
variable {k : Kind}

theorem wrapK_congr {i j : Int} (h : i ≡ j [ZMOD 2 ^ k.width]) : wrapK k i = wrapK k j := congrArg Int.toNat h

theorem wrapK_natCast (n : Nat) : wrapK k n = n % 2 ^ k.width := by
  unfold wrapK
  exact_mod_cast Int.toNat_natCast _

/-- A signed element is the element itself modulo 2^w. -/
theorem intK_modEq (x : Nat) : intK k x ≡ x [ZMOD 2 ^ k.width] := by
  unfold intK
  split
  · rfl
  · exact Int.sub_modulus_modEq_iff.mpr rfl

theorem wrapK_intK {x : Nat} (h : x < 2 ^ k.width) : wrapK k (intK k x) = x := by
  rw [wrapK_congr (intK_modEq x), wrapK_natCast, Nat.mod_eq_of_lt h]

theorem intK_ne_zero {x : Nat} (h : x < 2 ^ k.width) (hx : x ≠ 0) : intK k x ≠ 0 := fun h0 => hx (by rw [← wrapK_intK h, h0]; rfl)

/-- −2^(w−1) and 2^(w−1) have the same pattern. -/
theorem wrapK_neg_half : wrapK k (2 ^ (k.width - 1)) = wrapK k (-(2 ^ (k.width - 1))) := by
  have hw : (2 : Int) ^ k.width = 2 * 2 ^ (k.width - 1) := by cases k <;> rfl
  exact wrapK_congr (Int.modEq_iff_dvd.mpr ⟨-1, by rw [hw]; ring⟩)

variable (hk : isFloat k = false) {a b : Nat}
include hk

theorem arith_int (o : Arith) (a b d : Nat) : arith o k a b d = (arithInt o k (intK k a) (intK k b) (intK k d), 0) := by simp [arith, hk]

theorem arith_add_int (a b d : Nat) : (arith .add k a b d).1 = (a + b) % 2 ^ k.width := by
  rw [arith_int hk, arithInt, wrapK_congr ((intK_modEq a).add (intK_modEq b)), ← Nat.cast_add, wrapK_natCast]

theorem arith_sub_int (hb : b < 2 ^ k.width) (a d : Nat) : (arith .sub k a b d).1 = (a + 2 ^ k.width - b) % 2 ^ k.width := by
  have hm : ((a + 2 ^ k.width - b : Nat) : Int) = a - b + 2 ^ k.width := by
    rw [Nat.cast_sub (by omega)]
    push_cast
    ring
  rw [arith_int hk, arithInt, wrapK_congr ((intK_modEq a).sub (intK_modEq b)), ← wrapK_natCast, hm]
  exact wrapK_congr (Int.add_modulus_modEq_iff.mpr rfl).symm

theorem arith_mul_int (a b d : Nat) : (arith .mul k a b d).1 = a * b % 2 ^ k.width := by
  rw [arith_int hk, arithInt, wrapK_congr ((intK_modEq a).mul (intK_modEq b)), ← Nat.cast_mul, wrapK_natCast]

theorem arith_fma_int (a b d : Nat) : (arith .fma k a b d).1 = (a * b + d) % 2 ^ k.width := by
  rw [arith_int hk, arithInt, wrapK_congr (((intK_modEq a).mul (intK_modEq b)).add (intK_modEq d)), ← Nat.cast_mul, ← Nat.cast_add,
    wrapK_natCast]

theorem arith_fms_int (ha : a < 2 ^ k.width) (hb : b < 2 ^ k.width) (d : Nat) :
    (arith .fms k a b d).1 = (d + 2 ^ k.width * 2 ^ k.width - a * b) % 2 ^ k.width := by
  have hab : a * b ≤ d + 2 ^ k.width * 2 ^ k.width := (Nat.mul_le_mul ha.le hb.le).trans (Nat.le_add_left _ d)
  have hm : ((d + 2 ^ k.width * 2 ^ k.width - a * b : Nat) : Int) = d - a * b + 2 ^ k.width * 2 ^ k.width := by
    rw [Nat.cast_sub hab]
    push_cast
    ring
  rw [arith_int hk, arithInt, wrapK_congr ((intK_modEq d).sub ((intK_modEq a).mul (intK_modEq b))), ← wrapK_natCast, hm]
  exact wrapK_congr (Int.add_mul_modulus_modEq_iff.mpr rfl).symm

theorem arith_min_int (ha : a < 2 ^ k.width) (hb : b < 2 ^ k.width) (d : Nat) :
    (arith .min k a b d).1 = if intK k b < intK k a then b else a := by
  rw [arith_int hk, arithInt]
  split
  next h => rw [min_eq_right h.le, wrapK_intK hb]
  next h => rw [min_eq_left (not_lt.mp h), wrapK_intK ha]

theorem arith_max_int (ha : a < 2 ^ k.width) (hb : b < 2 ^ k.width) (d : Nat) :
    (arith .max k a b d).1 = if intK k a < intK k b then b else a := by
  rw [arith_int hk, arithInt]
  split
  next h => rw [max_eq_right h.le, wrapK_intK hb]
  next h => rw [max_eq_left (not_lt.mp h), wrapK_intK ha]

theorem arith_div_zero (a d : Nat) : (arith .div k a 0 d).1 = 2 ^ k.width - 1 := by
  have h0 : intK k 0 = 0 := by simp [intK]
  rw [arith_int hk, arithInt, if_pos h0]

theorem arith_div_int (hb : b < 2 ^ k.width) (h0 : b ≠ 0) (a d : Nat) :
    (arith .div k a b d).1 = (Int.tdiv (intK k a) (intK k b) % 2 ^ k.width).toNat := by
  rw [arith_int hk, arithInt, if_neg (intK_ne_zero hb h0), wrapK]

/-- The one quotient that overflows is the dividend (R153). -/
theorem arith_div_overflow (ha : a < 2 ^ k.width) (hb : b < 2 ^ k.width) (h0 : b ≠ 0) (hmin : intK k a = -(2 ^ (k.width - 1)))
    (hneg : intK k b = -1) (d : Nat) : (arith .div k a b d).1 = a := by
  have hq : Int.tdiv (intK k a) (intK k b) = 2 ^ (k.width - 1) := by rw [hmin, hneg, Int.tdiv_neg, Int.tdiv_one, neg_neg]
  calc (arith .div k a b d).1 = wrapK k (2 ^ (k.width - 1)) := by rw [arith_div_int hk hb h0, hq, wrapK]
    _ = wrapK k (intK k a) := by rw [wrapK_neg_half, hmin]
    _ = a := wrapK_intK ha

end

/-! ### The instructions in a ready thread -/

/-- A function of R154 at one element, by the element width. -/
def unaryAt (w : Nat) (f16 : BitVec 16 → BitVec 16 × Flags) (f32 : F32 → R32) (x : Nat) : Nat × Flags :=
  if w = 16 then ((f16 (BitVec.ofNat 16 x)).1.toNat, (f16 (BitVec.ofNat 16 x)).2)
  else ((f32 (BitVec.ofNat 32 x)).1.toNat, (f32 (BitVec.ofNat 32 x)).2)

section
variable {s : State} (h : VecReady s (sewOf s.cur)) (i : Instr) (d a : VReg)
include h

theorem vArith_ready {k : Kind} (hk : kindOf s.cur = some k) (o : Arith) (third : Bool) (b : VSrc) :
    VecWrote s (vArith i o third d a b s) d (sewOf s.cur) (body s)
      (fun j => (arith o k (elt s.cur a (sewOf s.cur) j) (srcElt s (sewOf s.cur) b j) (elt s.cur d (sewOf s.cur) j)).1)
      (bodyFlags s fun j => (arith o k (elt s.cur a (sewOf s.cur) j) (srcElt s (sewOf s.cur) b j) (elt s.cur d (sewOf s.cur) j)).2) := by
  simp only [vArith, hk, Option.isSome_some, guardV_passed h, vecReady_firstDmg h]
  exact runE_eltwise h le_rfl d _

theorem vSign_ready {k : Kind} (hk : kindOf s.cur = some k) (f : Kind → Nat → Nat) :
    VecWrote s (vSign i f d a s) d (sewOf s.cur) (body s) (fun j => f k (elt s.cur a (sewOf s.cur) j)) 0 := by
  simp only [vSign, hk, Option.isSome_some, guardV_passed h, vecReady_firstDmg h]
  exact runE_eltwise_plain h d _

theorem vUnary_ready (hf : isInt s.cur = false) (hw : sewOf s.cur ≠ 64) (f16 : BitVec 16 → BitVec 16 × Flags) (f32 : F32 → R32) :
    VecWrote s (vUnary i f16 f32 d a s) d (sewOf s.cur) (body s)
      (fun j => (unaryAt (sewOf s.cur) f16 f32 (elt s.cur a (sewOf s.cur) j)).1)
      (bodyFlags s fun j => (unaryAt (sewOf s.cur) f16 f32 (elt s.cur a (sewOf s.cur) j)).2) := by
  have hok : (!isInt s.cur && sewOf s.cur != 64) = true := by simp [hf, hw]
  simp only [vUnary, hok, guardV_passed h, vecReady_firstDmg h]
  exact runE_eltwise h le_rfl d fun j => unaryAt (sewOf s.cur) f16 f32 (elt s.cur a (sewOf s.cur) j)

end

/-- Settles O21: every instruction is one of the three shared element-wise shapes, and the integer operations are those of `arithInt`. -/
theorem vectorArithmetic : Obligations.VectorArithmetic := by
  unfold Obligations.VectorArithmetic
  refine ⟨fun s d a b k h hk => ?_, fun k a b d hk ha hb _ => ?_, fun s d a h hf hw => ?_⟩
  · have wrote (i o third) := vArith_ready h i d a hk o third b
    have signed (i f) := vSign_ready h i d a hk f
    exact ⟨⟨_, rfl, wrote ..⟩, ⟨_, rfl, wrote ..⟩, ⟨_, rfl, wrote ..⟩, ⟨_, rfl, wrote ..⟩, ⟨_, rfl, wrote ..⟩, ⟨_, rfl, wrote ..⟩,
      ⟨_, rfl, wrote ..⟩, ⟨_, rfl, wrote ..⟩, ⟨_, rfl, signed ..⟩, ⟨_, rfl, signed ..⟩⟩
  · exact ⟨arith_add_int hk a b d, arith_sub_int hk hb a d, arith_mul_int hk a b d, arith_fma_int hk a b d, arith_fms_int hk ha hb d,
      arith_min_int hk ha hb d, arith_max_int hk ha hb d, fun h0 => h0 ▸ arith_div_zero hk a d,
      fun h0 hmin hneg => arith_div_overflow hk ha hb h0 hmin hneg d, fun h0 => arith_div_int hk hb h0 a d,
      fun o => by rw [arith_int hk]⟩
  · have wrote (i f g) := vUnary_ready h i d a hf hw f g
    exact ⟨⟨_, rfl, wrote ..⟩, ⟨_, rfl, wrote ..⟩, ⟨_, rfl, wrote ..⟩, ⟨_, rfl, wrote ..⟩, ⟨_, rfl, wrote ..⟩, ⟨_, rfl, wrote ..⟩⟩

end Sys2Proof.Machine
end

section
/-! SUPPORT. Vector logic, shifts, compares and the mask instructions in a ready thread (05 R155-R158). -/

namespace Sys2Proof.Machine

open Sys2Proof.Safety

/-! ### Shifts -/

theorem sllE_mod (w a b : Nat) : sllE w a b % 2 ^ w = a <<< (b % w) % 2 ^ w := by rw [sllE, Nat.mod_mod, Nat.shiftLeft_eq]

theorem srlE_eq (w a b : Nat) : srlE w a b = a >>> (b % w) := by rw [srlE, Nat.shiftRight_eq_div_pow]

theorem sraE_eq (w a b : Nat) :
    sraE w a b = if a < 2 ^ (w - 1) then a >>> (b % w) else 2 ^ w - 1 - (2 ^ w - 1 - a) >>> (b % w) := by
  simp only [sraE, Nat.shiftRight_eq_div_pow]

theorem vLogic_ready {s : State} (h : VecReady s (sewOf s.cur)) (i : Instr) (f : Nat → Nat → Nat → Nat) (d a : VReg) (b : VSrc) :
    VecWrote s (vLogic i f d a b s) d (sewOf s.cur) (body s)
      (fun j => f (sewOf s.cur) (elt s.cur a (sewOf s.cur) j) (srcElt s (sewOf s.cur) b j)) 0 := by
  simp only [vLogic, guardV_passed h, vecReady_firstDmg h]
  exact runE_eltwise_plain h d _

/-! ### Bits of a mask register -/

theorem mem_bodyList {s : State} {i : Nat} : i ∈ (List.range (vlOf s.cur)).filter (body s) ↔ body s i = true := by
  rw [List.mem_filter, List.mem_range, and_iff_right_iff_imp, body_iff]
  exact fun ⟨_, h, _⟩ => h

section
variable {s : State}

/-- A vector instruction that writes the mask bits of a list and raises `g`. -/
theorem maskWrote_list (hbad : s.cur.kbad = []) (d : KReg) {l : List Nat} (hl : ∀ i ∈ l, i < 512) {on : Nat → Bool}
    (hon : ∀ i, i ∈ l ↔ on i = true) (f : Nat → Bool) (g : Flags) :
    MaskWrote s (retired (fun t => setVstart 0 (orFlags g (writeBits d (l.map fun i => (i, f i)) t))) s) d on f g := by
  have hk (r : KReg) : kreg (retired (fun t => setVstart 0 (orFlags g (writeBits d (l.map fun i => (i, f i)) t))) s).cur r =
      if d ≠ 0 ∧ r = d then (l.map fun i => (i, f i)).foldl (fun x (i, b) => putBit x i b) (kreg s.cur d) else kreg s.cur r := by
    rw [← kreg_setK, ← writeBits_sound hbad]
    simp only [kreg, retired_cur, after_k, setVstart_k, orFlags_k]
  refine ⟨fun j hj => ?_, fun r hr => ?_, ?_⟩
  · rw [hk]
    by_cases hd : d = 0
    · simp [hd]
    · simp only [ne_eq, hd, not_false_eq_true, and_self, if_true, getLsbD_foldl_putBit f _ _ hl hj, true_and, hon]
  · rw [hk, if_neg fun e => hr e.2]
  · simp only [retired, writeBits_sound hbad]
    rw [setK_frame_eq]
    simp [setVstart, orFlags, after, modC]

theorem noEdge_writeBits {t : Thread} (h : NoEdge t) (d : KReg) (l : List (Nat × Bool)) : NoEdge (writeBits d l t) :=
  noEdge_of _ _ h (writeBits_pc ..) (by rw [writeBits_ctl]) (by rw [writeBits_ctl]) (by rw [writeBits_ctl])

/-- VCMP leaves the bits of the body (R156). -/
theorem vcmp_ready (h : VecReady s (sewOf s.cur)) (hvl : vlOf s.cur ≤ 512) {k : Kind} (hk : kindOf s.cur = some k) {c : VCond}
    (hc : isInt s.cur = true ∨ (c ≠ .ltu ∧ c ≠ .geu)) (d : KReg) (a : VReg) (b : VSrc) :
    ∃ u, exec (.vcmp d a b c) s = .next u ∧ MaskWrote s u d (body s)
      (fun j => (vcmpK c k (elt s.cur a (sewOf s.cur) j) (srcElt s (sewOf s.cur) b j)).1)
      (bodyFlags s fun j => (vcmpK c k (elt s.cur a (sewOf s.cur) j) (srcElt s (sewOf s.cur) b j)).2) := by
  have ⟨⟨_, hn⟩, _, hkb, _, hchain, _⟩ := h
  have hok : (!(c == .ltu || c == .geu) || isInt s.cur) = true := by
    obtain hi | ⟨h1, h2⟩ := hc
    · simp [hi]
    · simp [h1, h2]
  simp only [exec_vcmp, execVcmp, hk, Option.isSome_some, hok, Bool.and_self, guardV_passed h, vecReady_firstDmg h]
  rw [runE_ready _ _ _ _ h]
  · refine ⟨_, rfl, ?_⟩
    simp only [actives_body, List.map_map, List.foldl_map, Function.comp_def]
    refine maskWrote_list hkb d (fun i hi => ?_) (fun _ => mem_bodyList) _ _
    obtain ⟨-, hlt, -⟩ := body_iff.mp (mem_bodyList.mp hi)
    exact hlt.trans_le hvl
  · exact noEdge_orFlags _ _ (noEdge_writeBits hn _ _)
  · rw [orFlags_chain, writeBits_chain, hchain]

variable (h : VecReady s 16)
include h

theorem vecReady_overVlx : overVlx s.cur 16 = false := by
  obtain ⟨-, -, -, -, -, hvl, -⟩ := h
  simpa [overVlx] using hvl

/-- A mask logic instruction leaves every bit from VSTART to VL (R157). -/
theorem kLogic_ready (i : Instr) (f : Bool → Bool → Bool) (d a b : KReg) :
    MaskWrote s (kLogic i f d a b s) d (fun j => decide (vstartOf s.cur ≤ j) && decide (j < vlOf s.cur))
      (fun j => f ((kreg s.cur a).getLsbD j) ((kreg s.cur b).getLsbD j)) 0 := by
  have ⟨⟨hp, hn⟩, _, hkb, _, hc, _, hfit⟩ := h
  have hl : ∀ i ∈ (List.range (vlOf s.cur)).filter (vstartOf s.cur ≤ ·), i < 512 := fun i hi => by
    have := List.mem_range.mp (List.mem_filter.mp hi).1
    omega
  have hw := maskWrote_list hkb d hl (on := fun j => decide (vstartOf s.cur ≤ j) && decide (j < vlOf s.cur)) (by simp [and_comm])
    (fun j => f ((kreg s.cur a).getLsbD j) ((kreg s.cur b).getLsbD j)) 0
  simp only [orFlags_zero] at hw
  simp only [kLogic, vecReady_overVlx h, kDmg_sound hkb]
  rwa [if_neg Bool.false_ne_true, finishV_calm _ s hp (noEdge_writeBits hn _ _) (by rw [writeBits_chain, hc])]

/-- A mask instruction with a scalar result leaves that of the bits below VL (R158). -/
theorem kScalar_ready (i : Instr) (f : List Bool → Word) (r : SReg) (a : KReg) :
    kScalar i f r a s = scalarOut r (f ((List.range (vlOf s.cur)).map fun j => (kreg s.cur a).getLsbD j)) 0 s := by
  have ⟨hcalm, _, hkb, _, hc, _⟩ := h
  simp only [kScalar, vecReady_overVlx h, kDmg_sound hkb]
  exact finishV_setS_plain hcalm hc r _

end

/-- The first 1 of a list of bits is the least place that holds one. -/
theorem findIdx?_bits (x : Nat → Bool) (n : Nat) : ((List.range n).map x).findIdx? id = ((List.range n).filter x).head? := by
  induction n with
  | zero => rfl
  | succ n ih =>
    rw [List.range_succ, List.map_append, List.findIdx?_append, ih, List.filter_append, List.head?_append]
    cases x n <;> simp

/-- Settles O22: the bit patterns are one shared shape, the shifts in the words of the library, and so are the mask instructions. -/
theorem vectorLogicAndMasks : Obligations.VectorLogicAndMasks := by
  unfold Obligations.VectorLogicAndMasks
  refine ⟨fun s d a b h => ?_, fun s d a b c k h hvl hk hc => vcmp_ready h hvl hk hc d a b, fun s d a b r h => ?_⟩
  · have wrote (i f) := vLogic_ready h i f d a b
    refine ⟨⟨_, rfl, wrote ..⟩, ⟨_, rfl, wrote ..⟩, ⟨_, rfl, wrote ..⟩, ⟨_, rfl, ?_⟩, ⟨_, rfl, ?_⟩, ⟨_, rfl, ?_⟩⟩
    · exact vecWrote_congr (wrote _ sllE) (fun _ => rfl) fun j _ => sllE_mod ..
    · exact vecWrote_congr (wrote _ srlE) (fun _ => rfl) fun j _ => congrArg (· % _) (srlE_eq ..)
    · exact vecWrote_congr (wrote _ sraE) (fun _ => rfl) fun j _ => congrArg (· % _) (sraE_eq ..)
  · have wrote (i f b) := kLogic_ready h i f d a b
    refine ⟨⟨_, rfl, wrote ..⟩, ⟨_, rfl, wrote ..⟩, ⟨_, rfl, wrote ..⟩, ⟨_, rfl, wrote ..⟩, ?_, ?_⟩
    · rw [exec_kpop, execKpop, kScalar_ready h, List.countP_map, List.countP_eq_length_filter]
      rfl
    · rw [exec_kfirst, execKfirst, kScalar_ready h, findIdx?_bits]
      cases (List.range (vlOf s.cur)).filter fun j => (kreg s.cur a).getLsbD j <;> rfl

end Sys2Proof.Machine
end

section
/-! SUPPORT. VSCAN, the reductions and the moves and conversions in a ready thread (05 R162, R165, R167-R169). -/

namespace Sys2Proof.Machine

open Sys2Proof.Safety

theorem sewOf_cases (t : Thread) : sewOf t = 16 ∨ sewOf t = 32 ∨ sewOf t = 64 := by
  unfold sewOf
  split <;> simp

/-- The kind that VTYPE selects is as wide as its elements (R49). -/
theorem width_of_kindOf {t : Thread} {k : Kind} (h : kindOf t = some k) : k.width = sewOf t := by
  unfold kindOf at h
  obtain hw | hw | hw := sewOf_cases t <;> cases hi : isInt t <;> rw [hw, hi] at h <;> cases h <;> exact hw.symm

/-! ### VSCAN -/

/-- The combination of a list from its first value on (R162). -/
def combined (u : RedOp) (k : Kind) : List Nat → Nat
  | [] => 0
  | x :: l => l.foldl (fun acc y => (redK u k acc y).1) x

theorem combined_append {u : RedOp} {k : Kind} {l : List Nat} (h : l ≠ []) (x : Nat) :
    combined u k (l ++ [x]) = (redK u k (combined u k l) x).1 := by
  cases l with
  | nil => exact absurd rfl h
  | cons y l => simp [combined]

theorem scanFrom_append (u : RedOp) (k : Kind) (acc i x : Nat) (l : List (Nat × Nat)) :
    (scanFrom u k acc (l ++ [(i, x)])).1 = (scanFrom u k acc l).1 ++ [(i, combined u k (acc :: (l.map Prod.snd ++ [x])))] := by
  induction l generalizing acc with
  | nil => rfl
  | cons p l ih =>
    simp only [List.cons_append, scanFrom, ih]
    rfl

theorem scanList_append (u : RedOp) (k : Kind) (i x : Nat) (l : List (Nat × Nat)) :
    (scanList u k (l ++ [(i, x)])).1 = (scanList u k l).1 ++ [(i, combined u k (l.map Prod.snd ++ [x]))] := by
  cases l with
  | nil => rfl
  | cons p l =>
    simp only [List.cons_append, scanList, scanFrom_append]
    rfl

section
variable {t : Thread}

theorem actives_succ (t : Thread) (n : Nat) : actives t 0 (n + 1) = actives t 0 n ++ if governed t n then [n] else [] := by
  simp [actives, List.range_succ, List.filter_append, List.filter_singleton]

/-- No active element between two places, no more of them before the second (R27). -/
theorem actives_gap {lo j : Nat} (h : lo ≤ j) (hg : ∀ m, lo ≤ m → m < j → governed t m = false) : actives t 0 j = actives t 0 lo := by
  induction j, h using Nat.le_induction with
  | base => rfl
  | succ j hj ih =>
    rw [actives_succ, hg j hj j.lt_succ_self, ih fun m hm hm' => hg m hm (hm'.trans j.lt_succ_self)]
    simp

/-- The value of VSCAN at element `j` (R162). -/
def scanAt (t : Thread) (u : RedOp) (k : Kind) (x : Nat → Nat) (j : Nat) : Nat := combined u k ((actives t 0 (j + 1)).map x)

theorem scanList_actives (t : Thread) (u : RedOp) (k : Kind) (x : Nat → Nat) (n : Nat) :
    (scanList u k ((actives t 0 n).map fun i => (i, x i))).1 = (actives t 0 n).map fun i => (i, scanAt t u k x i) := by
  induction n with
  | zero => rfl
  | succ n ih =>
    rw [actives_succ]
    cases hg : governed t n with
    | false => simpa using ih
    | true =>
      simp only [if_true, List.map_append, List.map_cons, List.map_nil, scanList_append, ih, List.map_map, scanAt, actives_succ t n, hg]
      rfl

variable {u : RedOp} {k : Kind} {x : Nat → Nat} {j : Nat} (hj : governed t j = true)
include hj

/-- The first active element stands as it is. -/
theorem scanAt_first (hg : ∀ m, m < j → governed t m = false) : scanAt t u k x j = x j := by
  rw [scanAt, actives_succ, hj, actives_gap (Nat.zero_le j) fun m _ => hg m]
  rfl

/-- A later one is combined with the one before it. -/
theorem scanAt_next {q : Nat} (hq : governed t q = true) (hqj : q < j) (hg : ∀ m, q < m → m < j → governed t m = false) :
    scanAt t u k x j = (redK u k (scanAt t u k x q) (x j)).1 := by
  have hne : (actives t 0 (q + 1)).map x ≠ [] := by simp [actives_succ, hq]
  rw [scanAt, actives_succ, hj, actives_gap hqj hg, if_pos rfl, List.map_append]
  exact combined_append hne _

end

/-! ### The instructions -/

/-- A leaf of a reduction's tree: the element, or the identity where it is not active (R74). -/
def leafK (t : Thread) (a : VReg) (k : Kind) (u : RedOp) (j : Nat) : Nat :=
  if j < vlOf t ∧ governed t j = true then elt t a (sewOf t) j else identityK u k

/-- The tree over the active elements (R167). -/
def treeOf (t : Thread) (a : VReg) (k : Kind) (u : RedOp) : Nat × Flags := reduceK u k ((List.range (vlOf t)).map (leafK t a k u))

/-- The segments of VSEGRED, and the tree over one of them (R168). -/
def segments (t : Thread) : Nat := (vlOf t + 2 ^ segOf t - 1) / 2 ^ segOf t
def segmentOf (t : Thread) (a : VReg) (k : Kind) (u : RedOp) (q : Nat) : Nat × Flags :=
  reduceK u k ((List.range (2 ^ segOf t)).map fun j => leafK t a k u (q * 2 ^ segOf t + j))

/-- There are no more segments than elements. -/
theorem segments_le {t : Thread} (hvl : 0 < vlOf t) : segments t ≤ vlOf t := by
  obtain ⟨m, hm⟩ := Nat.exists_eq_succ_of_ne_zero hvl.ne'
  have := Nat.le_mul_of_pos_left m (Nat.two_pow_pos (segOf t))
  rw [segments, hm]
  generalize 2 ^ segOf t = g at *
  exact Nat.div_le_of_le_mul (by rw [Nat.mul_succ]; omega)

section
variable {s : State} {k : Kind} (h : VecReady s (sewOf s.cur)) (h0 : vstartOf s.cur = 0) (hvl : 0 < vlOf s.cur) (hk : kindOf s.cur = some k)
include h h0 hvl hk

theorem vReduce_ready (i : Instr) (u : RedOp) (d : SReg) (a : VReg) (b : SReg) :
    vReduce i u d a b s = scalarOut d
      (redWord k (redK u k ((reg s b).toNat % 2 ^ sewOf s.cur) (treeOf s.cur a k u).1).1)
      ((treeOf s.cur a k u).2 ||| (redK u k ((reg s b).toNat % 2 ^ sewOf s.cur) (treeOf s.cur a k u).1).2) s := by
  have ⟨hcalm, hv, hkb, _, hc, _⟩ := h
  have hleaf : (List.range (vlOf s.cur)).map (fun j => if governed s.cur j then elt s.cur a (sewOf s.cur) j else identityK u k) =
      (List.range (vlOf s.cur)).map (leafK s.cur a k u) :=
    List.map_congr_left fun j hj => by simp [leafK, List.mem_range.mp hj]
  simp only [vReduce, hk, Option.isSome_some, guardV_passed h, maskDmg_sound hkb, eltsDmg_sound hv, orElseInfo, runW_ready h h0 hvl,
    rs_quiet _ hcalm.1, sreg_eq_reg, hleaf]
  exact finishV_setS hcalm hc d _ _

/-- VSEGRED leaves the tree of each segment that has an element below VL (R168). -/
theorem vsegred_ready (d a : VReg) (u : RedOp) :
    ∃ x, exec (.vsegred d a u) s = .next x ∧
      VecWrote s x d (sewOf s.cur) (fun q => decide (q < segments s.cur)) (fun q => (segmentOf s.cur a k u q).1)
        ((List.range (segments s.cur)).foldl (fun f q => f ||| (segmentOf s.cur a k u q).2) 0) := by
  have ⟨hcalm, hv, hkb, _, hc, _, hfit⟩ := h
  have hleaf (e : Nat) : (if (decide (e < vlOf s.cur) && governed s.cur e) = true then elt s.cur a (sewOf s.cur) e else identityK u k) =
      leafK s.cur a k u e := by simp [leafK]
  have hl : ∀ q ∈ List.range (segments s.cur), sewOf s.cur * q + sewOf s.cur ≤ 8192 := fun q hq =>
    elt_within hfit ((List.mem_range.mp hq).trans_le (segments_le hvl))
  simp only [exec_vsegred, execVsegred, hk, Option.isSome_some, guardV_passed h, maskDmg_sound hkb, eltsDmg_sound hv, orElseInfo,
    runW_ready h h0 hvl, hleaf, List.map_map, List.foldl_map, Function.comp_def]
  exact ⟨_, rfl, finishV_writeElts hcalm hc hv d hl (by simp) (fun q => (segmentOf s.cur a k u q).1) _⟩

/-- VSCAN leaves the combinations up to each active element (R162). -/
theorem vscan_ready (d a : VReg) (u : RedOp) :
    ∃ x f, exec (.vscan d a u) s = .next x ∧
      VecWrote s x d (sewOf s.cur) (acting s) (scanAt s.cur u k (elt s.cur a (sewOf s.cur))) f := by
  have ⟨hcalm, hv, hkb, _, hc, _, hfit⟩ := h
  have hon (i : Nat) : i ∈ actives s.cur 0 (vlOf s.cur) ↔ acting s i = true := by simp [mem_actives, acting_iff]
  simp only [exec_vscan, execVscan, hk, Option.isSome_some, guardV_passed h, maskDmg_sound hkb, eltsDmg_sound hv, orElseInfo,
    runW_ready h h0 hvl, scanList_actives]
  exact ⟨_, _, rfl, finishV_writeElts hcalm hc hv d (fun i hi => elt_within hfit ((mem_actives ..).mp hi).2.1) hon _ _⟩

end

/-- Settles O24: the reductions are one shape, and VSCAN leaves at each active element the combination of those up to it. -/
theorem vectorReductions : Obligations.VectorReductions := by
  unfold Obligations.VectorReductions
  intro s d a r i u k h h0 hvl hk t w leaf tree all wide out g seg n
  have hwide (x : Nat) : redWord k x = wide x := by simp only [redWord, width_of_kindOf hk]; rfl
  have reduced (j u) : vReduce j u r a i s = out u := by
    rw [vReduce_ready h h0 hvl hk, hwide]
    rfl
  obtain ⟨x, f, hx, hwrote⟩ := vscan_ready h h0 hvl hk d a u
  refine ⟨congrArg _ (reduced _ .sum), congrArg _ (reduced _ .max), congrArg _ (reduced _ .min), vsegred_ready h h0 hvl hk d a u,
    x, f, _, hx, hwrote, fun j hj hfirst => ?_, fun j q hj hq hqj hgap => ?_⟩
  · obtain ⟨hlt, hg⟩ := acting_iff.mp hj
    refine scanAt_first hg fun m hm => ?_
    simpa [acting, hm.trans hlt] using hfirst m hm
  · obtain ⟨hlt, hg⟩ := acting_iff.mp hj
    obtain ⟨-, hgq⟩ := acting_iff.mp hq
    refine scanAt_next hg hgq hqj fun m hm hmj => ?_
    simpa [acting, hmj.trans hlt] using hgap m hm hmj

/-! ### Moves and conversions -/

theorem trapWord_eq (cause : Nat) (i : Instr) (s : State) : trapWord cause i s = Safety.trapped cause (wordOf i) 0 s := trap_eq _ _

theorem vcvt_ready {s : State} {c : VConv} (h : VecReady s (max (convKinds c).1.width (convKinds c).2.width)) (d a : VReg) :
    ∃ u, exec (.vcvt d a c) s = .next u ∧ VecWrote s u d (convKinds c).1.width (body s)
      (fun j => (convK (convKinds c).1 (convKinds c).2 (elt s.cur a (convKinds c).2.width j)).1)
      (bodyFlags s fun j => (convK (convKinds c).1 (convKinds c).2 (elt s.cur a (convKinds c).2.width j)).2) := by
  simp only [exec_vcvt, execVcvt, guardV_passed h, vecReady_firstDmg h]
  exact ⟨_, rfl, runE_eltwise h (le_max_left _ _) d _⟩

section
variable {s : State} (r : SReg) (v : VReg) (hs : Calm s)
include hs

theorem vmvsToScalar_calm (hv : s.cur.vbad = []) (hc : s.cur.chain = 0) (hl : lanesOf s.cur ≠ 0) :
    exec (.vmvsToScalar r v) s = .next (scalarOut r (if isInt s.cur then sextNat (sewOf s.cur) (elt s.cur v (sewOf s.cur) 0)
      else BitVec.ofNat 64 (elt s.cur v (sewOf s.cur) 0)) 0 s) := by
  simp only [exec_vmvsToScalar, execVmvsToScalar, hl, eltBad_sound hv, if_false, Bool.false_eq_true]
  exact congrArg _ (finishV_setS_plain hs hc r _)

theorem vmvsToVector_calm (hv : s.cur.vbad = []) (hc : s.cur.chain = 0) (hl : lanesOf s.cur ≠ 0) :
    ∃ u, exec (.vmvsToVector v r) s = .next u ∧ VecWrote s u v (sewOf s.cur) (fun i => i == 0) (fun _ => (reg s r).toNat) 0 := by
  have hfit : ∀ i ∈ [0], sewOf s.cur * i + sewOf s.cur ≤ 8192 := by
    obtain hw | hw | hw := sewOf_cases s.cur <;> simp [hw]
  simp only [exec_vmvsToVector, execVmvsToVector, guardS_quiet _ hs.1, hl, if_false, srcElt, rs_quiet _ hs.1, sreg_eq_reg]
  have hw := finishV_writeElts_plain hs hc hv v hfit (on := fun i => i == 0) (by simp) fun _ => (reg s r).toNat % 2 ^ sewOf s.cur
  exact ⟨_, rfl, vecWrote_congr hw (fun _ => rfl) fun _ _ => Nat.mod_mod ..⟩

end

/-- Settles O25: VMVS writes one register or traps for want of a lane; VCVT is element-wise at the wider of its two widths. -/
theorem vectorMovesAndConversions : Obligations.VectorMovesAndConversions := by
  unfold Obligations.VectorMovesAndConversions
  refine ⟨fun s r v hs hv hc => ⟨fun hl => ?_, fun hl => ⟨?_, ?_⟩⟩, fun s d a c h _ => vcvt_ready h d a⟩
  · exact ⟨vmvsToScalar_calm r v hs hv hc hl, vmvsToVector_calm r v hs hv hc hl⟩
  · rw [exec_vmvsToScalar, execVmvsToScalar, if_pos hl, trapWord_eq]
    rfl
  · rw [exec_vmvsToVector, execVmvsToVector, guardS_quiet _ hs.1, if_pos hl, trapWord_eq]
    rfl

end Sys2Proof.Machine
end

section
/-! SUPPORT. Where a vector instruction traps (05 R142-R151, R166), and what a class-W instruction over an empty vector leaves. -/

namespace Sys2Proof.Machine

open Sys2Proof.Safety

/-! ### The checks before any element -/

section
variable {s : State} (hp : s.cur.pend = []) (i : Instr) (regs : List SReg) (k : State)
include hp

theorem guardV_ill (w : Nat) : guardV i regs false w s k = Safety.trapped 0x01 (wordOf i) 0 s := by
  simp only [guardV, guardS_quiet _ hp, trapWord_eq]
  rfl

theorem guardV_vlx {w : Nat} (hv : grantMax s.cur w < vlOf s.cur) : guardV i regs true w s k = Safety.trapped 0x08 (wordOf i) 0 s := by
  simp only [guardV, guardS_quiet _ hp, trapWord_eq, overVlx, hv]
  rfl

theorem guardV_start {w : Nat} (hv : vlOf s.cur ≤ grantMax s.cur w) : guardV i regs true w s k = k := by
  simp [guardV, guardS_quiet _ hp, overVlx, hv]

end

/-- A class-W instruction that would start inside the vector traps ILL (R146). -/
theorem runW_inside {s : State} (h0 : 0 < vstartOf s.cur) (hv : vstartOf s.cur < vlOf s.cur) (i : Instr) (dmg : Option TrapInfo)
    (run idle : Thread → Thread) : runW i dmg run idle s = Safety.trapped 0x01 (wordOf i) 0 s := by
  have hne : (vstartOf s.cur != 0) = true := by simp [h0.ne']
  simp only [runW, if_neg (Nat.not_le.mpr hv), hne, if_true, trapWord_eq]
  rfl

/-! ### A damaged source (R151) -/

theorem findSome?_of_unique {α β : Type} {f : α → Option β} {l : List α} {a : α} {b : β} (ha : a ∈ l) (hb : f a = some b)
    (hn : ∀ x ∈ l, x ≠ a → f x = none) : l.findSome? f = some b := by
  induction l with
  | nil => cases ha
  | cons x l ih =>
    by_cases hx : x = a
    · rw [List.findSome?_cons, hx, hb]
    · rw [List.findSome?_cons, hn x List.mem_cons_self hx]
      exact ih (List.mem_of_ne_of_mem (Ne.symm hx) ha) fun y hy => hn y (List.mem_cons_of_mem _ hy)

/-- With one damaged byte the element that it lies in meets damage, if it is active, and no other does. -/
theorem dmgAt_byte {t : Thread} (hk : t.kbad = []) {a : VReg} {byte : Nat} (hv : t.vbad = [(a.val, byte)]) (w j : Nat) :
    dmgAt t [(a, w)] [] j = if governed t j = true ∧ 8 * byte / w = j then some (eccV a) else none := by
  cases hg : governed t j <;> by_cases hj : 8 * byte / w = j <;> simp [dmgAt, bitBad, eltBad, hk, hv, hg, hj]

theorem firstDmg_byte {t : Thread} (hk : t.kbad = []) {a : VReg} {byte : Nat} (hv : t.vbad = [(a.val, byte)]) {w lo hi : Nat}
    (hlo : lo ≤ 8 * byte / w) (hhi : 8 * byte / w < hi) (hg : governed t (8 * byte / w) = true) :
    firstDmg t [(a, w)] [] lo hi = some (8 * byte / w, eccV a) := by
  have hmem : 8 * byte / w ∈ (List.range hi).filter (lo ≤ ·) := by simp [hlo, hhi]
  have hfirst := findSome?_of_unique (f := fun i => (dmgAt t [(a, w)] [] i).map fun e => (i, e)) hmem
    (by rw [dmgAt_byte hk hv, if_pos ⟨hg, rfl⟩]; rfl)
    (fun j _ hj => by rw [dmgAt_byte hk hv, if_neg fun e => hj e.2.symm]; rfl)
  simpa only [firstDmg, hv, List.isEmpty_cons, Bool.false_and, Bool.false_eq_true, if_false] using hfirst

/-- An element-wise instruction stops at damage with what it has done so far, and VSTART names the element (R147, R151). -/
theorem runE_damaged {s : State} (he : s.cur.elim = none) (n g : Nat) (e : TrapInfo) (f : Nat → Thread → Thread) :
    runE n (some (g, e)) f s = Safety.trapped e.cause e.eval e.erec (modT (fun t => setVstart g (f g t)) s) := by
  simp only [runE, stopAt, he, Option.map_some, stopBy, trap_eq]

/-- What a trap leaves: its registers, with VSTART, the register files and memory as they were (R139). -/
theorem trapped_leaves (cause : Nat) (eval erec : Word) (s : State) :
    let u := Safety.trapped cause eval erec s
    u.cur.ctl.ecause = BitVec.ofNat 64 cause ∧ u.cur.ctl.eval = eval ∧ u.cur.ctl.vstart = s.cur.ctl.vstart ∧
      u.cur.ctl.epc = wordAddr s.cur.pc ∧ u.cur.v = s.cur.v ∧ u.mem = s.mem ∧ u.cur.s = s.cur.s := by
  unfold Safety.trapped trappedAt
  dsimp only
  split <;> split <;> exact ⟨rfl, rfl, rfl, rfl, rfl, rfl, rfl⟩

theorem elt_of_v {t u : Thread} (h : u.v = t.v) (d : VReg) (w j : Nat) : elt u d w j = elt t d w j := by rw [elt, vreg, h]; rfl

/-- What an element-wise instruction has written below an element of the body (R147). -/
theorem elt_eltwise_below {s : State} {w : Nat} (hfit : w * vlOf s.cur ≤ 8192) {i : Nat} (hi : body s i = true) (d : VReg)
    (f : Nat → Nat × Flags) {j : Nat} (hj : w * j + w ≤ 8192) :
    elt (eltwise d w f i s.cur) d w j = if body s j = true ∧ j < i then (f j).1 % 2 ^ w else elt s.cur d w j := by
  have hmem (j : Nat) : j ∈ actives s.cur (vstartOf s.cur) i ↔ body s j = true ∧ j < i := by
    obtain ⟨-, hlt, -⟩ := body_iff.mp hi
    rw [mem_actives, body_iff]
    exact ⟨fun ⟨hlo, hj, hg⟩ => ⟨⟨hlo, hj.trans hlt, hg⟩, hj⟩, fun ⟨⟨hlo, _, hg⟩, hj⟩ => ⟨hlo, hj, hg⟩⟩
  have hl : ∀ j ∈ actives s.cur (vstartOf s.cur) i, w * j + w ≤ 8192 := fun j hj =>
    have ⟨_, hlt, _⟩ := body_iff.mp ((hmem j).mp hj).1
    elt_within hfit hlt
  simp only [← hmem, ← elt_writeElts d w (fun j => (f j).1) _ s.cur hl j hj]
  simp [eltwise, elt, vreg, List.map_map, Function.comp_def]

theorem vand_damaged {s : State} (hs : Calm s) (hk : s.cur.kbad = []) (he : s.cur.elim = none) {a : VReg} {byte i : Nat}
    (hv : s.cur.vbad = [(a.val, byte)]) (hvl : vlOf s.cur ≤ grantMax s.cur (sewOf s.cur)) (hi : i = 8 * byte / sewOf s.cur)
    (hb : body s i = true) (d : VReg) (r : SReg) :
    exec (.vand d a (.scl r)) s = .next (Safety.trapped 0x19 (BitVec.ofNat 64 (2 ^ 63 + 0x100 + a.val)) 0
      (modT (fun t => setVstart i (eltwise d (sewOf s.cur)
        (fun j => (elt s.cur a (sewOf s.cur) j &&& (reg s r).toNat % 2 ^ sewOf s.cur, 0)) i t)) s)) := by
  subst hi
  obtain ⟨hlo, hhi, hg⟩ := body_iff.mp hb
  have hd := firstDmg_byte hk hv hlo hhi hg
  simp only [exec_vand, execVand, vLogic, guardV_start hs.1 _ _ _ hvl, srcVecs, List.map_cons, List.map_nil, hd, runE_damaged he, srcElt,
    rs_quiet _ hs.1, sreg_eq_reg]
  rfl

/-- Settles O26: the checks in their order, and the one damaged byte is the first damage that the instruction meets. -/
theorem vectorRefusalsAndDamage : Obligations.VectorRefusalsAndDamage := by
  unfold Obligations.VectorRefusalsAndDamage
  refine ⟨fun s d a b x r hp => ?_, fun s d a r i byte hs hk he hv => ?_⟩
  · intro w word
    refine ⟨fun hk => ?_, fun hx => ?_, fun hk => ?_, fun (hv : grantMax s.cur (sewOf s.cur) < vlOf s.cur) => ?_,
      fun (hv : vlOf s.cur ≤ grantMax s.cur (sewOf s.cur)) h0 hin => ?_⟩
    · simp only [exec_vadd, execVadd, exec_vabs, execVabs, vArith, vSign, hk, Option.isSome_none, guardV_ill hp]
      exact ⟨rfl, rfl⟩
    · have hok : (!isInt s.cur && sewOf s.cur != 64) = false := by
        obtain hi | hw := hx
        · simp [hi]
        · simp [show sewOf s.cur = 64 from hw]
      simp only [exec_vexp, execVexp, vUnary, hok, guardV_ill hp]
      rfl
    · have hok : (kselOf s.cur != 0) = false := by simp [hk]
      simp only [exec_vmerge, execVmerge, hok, guardV_ill hp]
      rfl
    · simp only [exec_vand, execVand, vLogic, exec_vperm, execVperm, guardV_vlx hp _ _ _ hv]
      exact ⟨rfl, rfl⟩
    · simp only [exec_vperm, execVperm, exec_vslideup, execVslideup, guardV_start hp _ _ _ hv, runW_inside h0 hin]
      exact ⟨rfl, rfl⟩
  · intro w hvl hfit hi hb
    obtain ⟨hcause, heval, hstart, hepc, hregs, hm, hscalars⟩ := trapped_leaves 0x19 (BitVec.ofNat 64 (2 ^ 63 + 0x100 + a.val)) 0
      (modT (fun t => setVstart i (eltwise d w (fun j => (elt s.cur a w j &&& (reg s r).toNat % 2 ^ w, 0)) i t)) s)
    refine ⟨_, vand_damaged hs hk he hv hvl hi hb d r, hcause, heval, hstart, hepc, fun j hj => ?_, hm, hscalars⟩
    refine (elt_of_v hregs d w j).trans ((elt_eltwise_below hfit hb d _ hj).trans ?_)
    simp only [Nat.and_mod_two_pow, Nat.mod_mod]

/-! ### An empty vector -/

/-- With VSTART = VL = 0 a class-W instruction that has nothing to do notes no value held (R33, R148). -/
theorem runW_empty_vheld {s : State} {w : Nat} (h : VecReady s w) (h0 : vstartOf s.cur = 0) (hv : vlOf s.cur = 0) (i : Instr)
    (dmg : Option TrapInfo) (run : Thread → Thread) : (runW i dmg run id s).cur.vheld = s.cur.vheld := by
  obtain ⟨⟨hp, hn⟩, -, -, -, hc, -⟩ := h
  simp only [runW, h0, hv, le_refl, if_true, finishV_calm id s hp hn hc]
  rfl

/-- Refutes O23: at VL = 0, as in the state after reset, VCOMPRESS writes no element and does not note the value that v_D has held
(R33), where the statement's `VecWrote` has the note grow by it. -/
theorem not_vectorMovementOfElements : ¬ Obligations.VectorMovementOfElements := by
  unfold Obligations.VectorMovementOfElements
  intro claim
  have h : VecReady State.reset (sewOf State.reset.cur) :=
    ⟨⟨rfl, .inr (.inl rfl)⟩, rfl, rfl, rfl, rfl, Nat.zero_le _, by decide⟩
  obtain ⟨⟨u, hu, -, -, hwrote⟩, -⟩ := claim.2 State.reset 0 0 0 0 0 h rfl
  have hnoted : u.cur.vheld = (0, vreg State.reset.cur 0) :: State.reset.cur.vheld := by rw [hwrote]; rfl
  have hkept : u.cur.vheld = State.reset.cur.vheld := by
    simp only [exec_vcompress, execVcompress, guardV_passed h] at hu
    cases hu
    exact runW_empty_vheld h rfl rfl ..
  exact List.cons_ne_self _ _ (hnoted.symm.trans hkept)

end Sys2Proof.Machine
end

section
/-! SUPPORT. The elements of a vector or matrix access: which of them fails first, which reads poison first, and where the others lie
(06 R172-R175, R185, R190). -/

namespace Sys2Proof.Machine

open Sys2Proof.Safety

/-! ### Lists of elements in ascending order -/

/-- The least element of an ascending list with a property is the first that has it. -/
theorem find?_of_least {p : Nat → Bool} {l : List Nat} (hl : l.Pairwise (· < ·)) {g : Nat} (hg : g ∈ l) (hp : p g = true)
    (hmin : ∀ e ∈ l, e < g → p e = false) : l.find? p = some g := by
  induction l with
  | nil => cases hg
  | cons a l ih =>
    obtain ⟨ha, hl⟩ := List.pairwise_cons.mp hl
    rcases List.mem_cons.mp hg with rfl | hg
    · rw [List.find?_cons, hp]
    · rw [List.find?_cons, hmin a List.mem_cons_self (ha g hg)]
      exact ih hl hg fun e he => hmin e (List.mem_cons_of_mem a he)

theorem findSome?_of_least {α : Type} {f : Nat → Option α} {l : List Nat} (hl : l.Pairwise (· < ·)) {g : Nat} {b : α} (hg : g ∈ l)
    (hb : f g = some b) (hmin : ∀ e ∈ l, e < g → f e = none) : l.findSome? f = some b := by
  induction l with
  | nil => cases hg
  | cons a l ih =>
    obtain ⟨ha, hl⟩ := List.pairwise_cons.mp hl
    rcases List.mem_cons.mp hg with rfl | hg
    · rw [List.findSome?_cons, hb]
    · rw [List.findSome?_cons, hmin a List.mem_cons_self (ha g hg)]
      exact ih hl hg fun e he => hmin e (List.mem_cons_of_mem a he)

theorem pairwise_lt_filter_range (p : Nat → Bool) (n : Nat) : ((List.range n).filter p).Pairwise (· < ·) :=
  List.pairwise_lt_range.filter p

/-! ### One element -/

/-- Element `e` of an access with the outcome of its translation. -/
def elemAt (s : State) (f : Fmt) (k : Acc) (item : Nat → Item) (e : Nat) : Elem := ⟨item e, itemPlaces s f k (item e)⟩

theorem elemsOf_eq (s : State) (f : Fmt) (k : Acc) (item : Nat → Item) (lo hi : Nat) :
    elemsOf s f k item lo hi = (actives s.cur lo hi).map (elemAt s f k item) := rfl

/-- An item lies at the places `ls` (R174, R185). -/
def Placed (s : State) (f : Fmt) (k : Acc) (it : Item) (ls : List Loc) : Prop := ∃ c, xlatN s s.cur it.addr (ebytes f) k = .ok (ls, c)

section
variable {s : State} {f : Fmt} {k : Acc} {item : Nat → Item} {e : Nat}

theorem elemBad_placed {ls : List Loc} (h : Placed s f k (item e) ls) : elemBad (elemAt s f k item e) = none := by
  obtain ⟨c, h⟩ := h
  simp only [elemBad, elemAt, itemPlaces, h]

theorem elemLocs_placed {ls : List Loc} (h : Placed s f k (item e) ls) : elemLocs (elemAt s f k item e) = ls := by
  obtain ⟨c, h⟩ := h
  simp only [elemLocs, elemAt, itemPlaces, h]

theorem elemBad_failed {bad : Bad} {a : Word} (h : xlatN s s.cur (item e).addr (ebytes f) k = .error (bad, a)) :
    elemBad (elemAt s f k item e) = some bad := by
  simp only [elemBad, elemAt, itemPlaces, h]

end

/-- Element `e` of every access carries its number. -/
theorem vmItem_e (s : State) (b : SReg) (f : Fmt) (m : VMode) (x : BitVec 6) (e : Nat) : (vmItem s b f m x e).e = e := by cases m <;> rfl
theorem idxItem_e (s : State) (b : SReg) (f : Fmt) (i : VReg) (e : Nat) : (idxItem s b f i e).e = e := rfl

/-- An element has one of the two nibbles of its byte. -/
theorem itemAt_nib (e : Nat) (p : Int) : (itemAt e p).nib < 2 := Nat.mod_lt _ (by decide)
theorem vmItem_nib (s : State) (b : SReg) (f : Fmt) (m : VMode) (x : BitVec 6) (e : Nat) : (vmItem s b f m x e).nib < 2 := by
  cases m <;> exact itemAt_nib _ _
theorem idxItem_nib (s : State) (b : SReg) (f : Fmt) (i : VReg) (e : Nat) : (idxItem s b f i e).nib < 2 := itemAt_nib _ _

/-! ### The elements of an access -/

section
variable {s : State} {f : Fmt} {k : Acc} {item : Nat → Item}

theorem below_map (he : ∀ e, (item e).e = e) (es : List Nat) (g : Nat) : below g (es.map (elemAt s f k item)) = (es.filter (· < g)).map (elemAt s f k item) := by
  rw [below, List.filter_map]
  congr 1
  exact List.filter_congr fun e _ => by simp [elemAt, he]

variable {es : List Nat} {ls : Nat → List Loc}

/-- Where every element has a place none fails (R185). -/
theorem firstFail_none (h : ∀ e ∈ es, Placed s f k (item e) (ls e)) : firstFail (es.map (elemAt s f k item)) = none := by
  rw [firstFail, List.findSome?_eq_none_iff]
  intro x hx
  obtain ⟨e, hmem, rfl⟩ := List.mem_map.mp hx
  rw [elemBad_placed (h e hmem)]
  rfl

/-- The lowest element whose address fails (R185). -/
theorem firstFail_least (hs : es.Pairwise (· < ·)) {g : Nat} {bad : Bad} {a : Word} (hg : g ∈ es)
    (hbad : xlatN s s.cur (item g).addr (ebytes f) k = .error (bad, a)) (h : ∀ e ∈ es, e < g → Placed s f k (item e) (ls e)) :
    firstFail (es.map (elemAt s f k item)) = some (item g, bad) := by
  rw [firstFail, List.findSome?_map]
  refine findSome?_of_least hs hg ?_ fun e hmem hlt => ?_
  · simp only [Function.comp_apply, elemBad_failed hbad, Option.map_some]
    rfl
  · simp only [Function.comp_apply, elemBad_placed (h e hmem hlt), Option.map_none]

theorem any_elemLocs_false {p : Loc → Bool} (h : ∀ e ∈ es, Placed s f k (item e) (ls e) ∧ ∀ l ∈ ls e, p l = false) :
    ∀ e ∈ es, (elemLocs (elemAt s f k item e)).any p = false := by
  intro e hmem
  obtain ⟨hp, hl⟩ := h e hmem
  rw [elemLocs_placed hp]
  simpa using hl

/-- Where every element is clean none reads poison (R190). -/
theorem firstPoison_none {u : State} (h : ∀ e ∈ es, Placed s f k (item e) (ls e) ∧ Clean u (ls e)) :
    firstPoison u (es.map (elemAt s f k item)) = none := by
  rw [firstPoison, Option.map_eq_none_iff, List.find?_eq_none]
  intro x hx
  obtain ⟨e, hmem, rfl⟩ := List.mem_map.mp hx
  simp only [any_elemLocs_false h e hmem, Bool.false_eq_true, not_false_eq_true]

/-- The lowest element that reads poison, and its trap (R190). -/
theorem firstPoison_least (he : ∀ e, (item e).e = e) {u : State} (hs : es.Pairwise (· < ·)) {g : Nat} (hg : g ∈ es)
    (hp : Placed s f k (item g) (ls g)) (hbad : ∃ l ∈ ls g, poisoned u l = true)
    (h : ∀ e ∈ es, e < g → Placed s f k (item e) (ls e) ∧ Clean u (ls e)) :
    firstPoison u (es.map (elemAt s f k item)) = some (g, ⟨cECC, (item g).addr, 0⟩) := by
  have hfind : es.find? ((fun x => (elemLocs x).any (poisoned u)) ∘ elemAt s f k item) = some g := by
    refine find?_of_least hs hg ?_ fun e hmem hlt => ?_
    · rw [Function.comp_apply, elemLocs_placed hp]
      exact List.any_eq_true.mpr hbad
    · obtain ⟨hp, hc⟩ := h e hmem hlt
      rw [Function.comp_apply, elemLocs_placed hp]
      exact List.any_eq_false.mpr fun l hl => by simp [hc l hl]
  rw [firstPoison, List.find?_map, hfind]
  simp only [Option.map_some, elemAt, he]

/-- No element has its home behind a fenced port (R459). -/
theorem anyFenced_false {u : State} (h : ∀ e ∈ es, Placed s f k (item e) (ls e) ∧ ∀ l ∈ ls e, locFenced u l = false) :
    anyFenced u (es.map (elemAt s f k item)) = false := by
  rw [anyFenced, List.any_map, List.any_eq_false]
  intro e hmem
  simp only [Function.comp_apply, any_elemLocs_false h e hmem, Bool.false_eq_true, not_false_eq_true]

end

/-! ### A stop -/

theorem guardFenced_complete {l : List Elem} {s : State} (h : anyFenced s l = false) (k : State) : guardFenced l none s k = k := by
  simp only [guardFenced, h, Bool.false_eq_true, if_false]

theorem guardFenced_stop {l : List Elem} {s : State} {g : Nat} (h : anyFenced s (below g l) = false) (why : Stop) (k : State) :
    guardFenced l (some (g, why)) s k = k := by
  simp only [guardFenced, h, Bool.false_eq_true, if_false]

/-- A thread that no stop names stops at the fault it meets, if any (R147). -/
theorem stopAt_unasked {t : Thread} (h : t.elim = none) (r : StopRule) (lo hi : Nat) (dmg : Option (Nat × TrapInfo)) :
    stopAt t r lo hi dmg = dmg.map fun (i, x) => (i, Stop.trap x) := by
  simp only [stopAt, h]

theorem minStop_none_left (a : Option (Nat × TrapInfo)) : minStop none a = a := by cases a <;> rfl
theorem minStop_none_right (a : Option (Nat × TrapInfo)) : minStop a none = a := by cases a <;> rfl

theorem minStop_first {i j : Nat} (h : i ≤ j) (x y : TrapInfo) : minStop (some (i, x)) (some (j, y)) = some (i, x) := if_pos h

end Sys2Proof.Machine
end

section
/-! SUPPORT. Vector and tile loads in a ready thread: the checks before the first element, the elements that are written, and where a load
stops (06 R172-R176, R180, R186-R190). -/

namespace Sys2Proof.Machine

open Sys2Proof.Safety

/-! ### Memory as a thread with other registers reads it -/

@[simp] theorem byteAt_modT (g : Thread → Thread) (s : State) (l : Loc) : byteAt (modT g s) l = byteAt s l := by cases l <;> rfl
@[simp] theorem poisoned_modT (g : Thread → Thread) (s : State) (l : Loc) : poisoned (modT g s) l = poisoned s l := by cases l <;> rfl
@[simp] theorem locFenced_modT (g : Thread → Thread) (s : State) (l : Loc) : locFenced (modT g s) l = locFenced s l := by cases l <;> rfl

/-- The value of an element is made of its bytes. -/
theorem itemRead_congr {s u : State} {ls : List Loc} (h : ∀ l ∈ ls, byteAt u l = byteAt s l) (f : Fmt) (it : Item) :
    itemRead u f it ls = itemRead s f it ls := by
  simp only [itemRead, readBytes, List.map_congr_left h]

@[simp] theorem itemRead_modT (g : Thread → Thread) (s : State) (f : Fmt) (it : Item) (ls : List Loc) :
    itemRead (modT g s) f it ls = itemRead s f it ls := itemRead_congr (fun l _ => byteAt_modT g s l) f it

/-- Conversions do not look at VSTAT (R56-R58). -/
theorem loadConv_setTrim (b : Bool) (t : Thread) (f : Fmt) (k : Kind) (e x : Nat) : loadConv (setTrim b t) f k e x = loadConv t f k e x := by
  cases f <;> rfl

/-! ### Elements written by a load -/

/-- What a load makes of the memory element that item `e` reads at its places (R176). -/
def loadedAt (s : State) (f : Fmt) (k : Kind) (item : Nat → Item) (ls : Nat → List Loc) (e : Nat) : Nat × Flags :=
  loadConv s.cur f k e (itemRead s f (item e) (ls e))

section
variable {s : State} {f : Fmt} {k : Kind} {acc : Acc} {item : Nat → Item} (he : ∀ e, (item e).e = e) {es : List Nat} {ls : Nat → List Loc}
  {g : Nat} (h : ∀ e ∈ es, e < g → Placed s f acc (item e) (ls e))
include he h

/-- The elements of a list below `g`, loaded (R176). -/
theorem loadElts_map (d : VReg) (t : Thread) : loadElts s d f k (es.map (elemAt s f acc item)) g t =
    orFlags ((es.filter (· < g)).foldl (fun fl e => fl ||| (loadedAt s f k item ls e).2) 0)
      (writeElts d k.width ((es.filter (· < g)).map fun e => (e, (loadedAt s f k item ls e).1)) t) := by
  have hvals : (below g (es.map (elemAt s f acc item))).map (fun x => (x.it.e, loadConv s.cur f k x.it.e (itemRead s f x.it (elemLocs x)))) =
      (es.filter (· < g)).map fun e => (e, loadedAt s f k item ls e) := by
    rw [below_map he, List.map_map]
    refine List.map_congr_left fun e hmem => ?_
    obtain ⟨hmem, hlt⟩ := List.mem_filter.mp hmem
    simp only [Function.comp_apply, elemLocs_placed (h e hmem (of_decide_eq_true hlt))]
    simp only [elemAt, he, loadedAt]
  simp only [below] at hvals
  simp only [loadElts, hvals, List.foldl_map, List.map_map]
  rfl

theorem elt_loadElts (d : VReg) (t : Thread) (hfit : ∀ e ∈ es, k.width * e + k.width ≤ 8192) {j : Nat} (hj : k.width * j + k.width ≤ 8192) :
    elt (loadElts s d f k (es.map (elemAt s f acc item)) g t) d k.width j =
      if j ∈ es ∧ j < g then (loadedAt s f k item ls j).1 % 2 ^ k.width else elt t d k.width j := by
  have helt := elt_writeElts d k.width (fun e => (loadedAt s f k item ls e).1) (es.filter (· < g)) t
    (fun e hmem => hfit e (List.mem_of_mem_filter hmem)) j hj
  simp only [List.mem_filter, decide_eq_true_eq] at helt
  rw [loadElts_map he h]
  exact helt

end

@[simp] theorem loadElts_pc (s : State) (d : VReg) (f : Fmt) (k : Kind) (l : List Elem) (g : Nat) (t : Thread) :
    (loadElts s d f k l g t).pc = t.pc := rfl

theorem loadElts_setTrim (b : Bool) (s : State) (d : VReg) (f : Fmt) (k : Kind) (l : List Elem) (g : Nat) (t : Thread) :
    loadElts (modT (setTrim b) s) d f k l g t = loadElts s d f k l g t := by
  simp only [loadElts, modT_cur, itemRead_modT, loadConv_setTrim]

/-! ### The run of a load -/

section
variable {s : State} {l : List Elem} (hel : s.cur.elim = none)
include hel

/-- A load that meets no fault completes (R176). -/
theorem loadRun_complete (hp : firstPoison s l = none) (hf : anyFenced s l = false) (r : StopRule) (d : VReg) (f : Fmt) (k : Kind) (h : Hint)
    (lo hi : Nat) (fin : (Thread → Thread) → State → State) (stop : Nat → Thread → Thread) :
    loadRun r d f k h l lo hi none fin stop s = afterHint h (elemSectors l) lo s (fin (loadElts s d f k l hi) s) := by
  simp only [loadRun, hp, minStop_none_left, stopAt_unasked hel, Option.map_none, guardFenced_complete hf]

/-- A load that meets a fault has loaded the elements below it and traps (R186, R190). -/
theorem loadRun_stopped {dmg : Option (Nat × TrapInfo)} {g : Nat} {e : TrapInfo} (hbad : minStop dmg (firstPoison s l) = some (g, e))
    (hf : anyFenced s (below g l) = false) (r : StopRule) (d : VReg) (f : Fmt) (k : Kind) (h : Hint) (lo hi : Nat)
    (fin : (Thread → Thread) → State → State) (stop : Nat → Thread → Thread) :
    loadRun r d f k h l lo hi dmg fin stop s = Safety.trapped e.cause e.eval e.erec
      (modT (fun t => keepHint h (elemSectors (below g l)) lo g (stop g (loadElts s d f k l g t))) s) := by
  have hwhy : ¬ (Stop.trap e = .abandon ∧ r.late = true) := fun hw => Stop.noConfusion hw.1
  simp only [loadRun, hbad, stopAt_unasked hel, Option.map_some, guardFenced_stop hf, stopBy, trap_eq, Bool.and_eq_true, decide_eq_true_eq,
    hwhy, if_false, id_eq]

end

/-! Keeping touched sectors is a note of the thread alone (R180). -/

section
variable (h : Hint) (q : List Nat) (lo g : Nat) (t : Thread)
@[simp] theorem keepHint_ctl : (keepHint h q lo g t).ctl = t.ctl := by unfold keepHint; split <;> rfl
@[simp] theorem keepHint_v : (keepHint h q lo g t).v = t.v := by unfold keepHint; split <;> rfl
@[simp] theorem keepHint_pc : (keepHint h q lo g t).pc = t.pc := by unfold keepHint; split <;> rfl
@[simp] theorem keepHint_map : (keepHint h q lo g t).map = t.map := by unfold keepHint; split <;> rfl
@[simp] theorem keepHint_cid : cidOf (keepHint h q lo g t) = cidOf t := by unfold keepHint; split <;> rfl
end

/-! ### What a trap keeps -/

/-- A trap changes no byte, no map entry and no progress of the instruction (R139). -/
theorem trapped_keeps (cause : Nat) (eval erec : Word) (s : State) :
    let u := Safety.trapped cause eval erec s
    u.cur.ctl.eprog = s.cur.ctl.eprog ∧ u.cur.map = s.cur.map ∧ u.cores = s.cores ∧ cidOf u.cur = cidOf s.cur := by
  unfold Safety.trapped trappedAt
  dsimp only
  split <;> split <;> exact ⟨rfl, rfl, rfl, rfl⟩

theorem byteAt_congr {s u : State} (hm : u.mem = s.mem) (hc : u.cores = s.cores) (l : Loc) : byteAt u l = byteAt s l := by
  cases l <;> simp only [byteAt, coreOf, hm, hc]

@[simp] theorem byteAt_trapped (cause : Nat) (eval erec : Word) (s : State) (l : Loc) :
    byteAt (Safety.trapped cause eval erec s) l = byteAt s l := by
  obtain ⟨-, -, -, -, -, hm, -⟩ := trapped_leaves cause eval erec s
  obtain ⟨-, -, hc, -⟩ := trapped_keeps cause eval erec s
  exact byteAt_congr hm hc l

theorem vstartOf_setVstart {g : Nat} (h : g < 512) (t : Thread) : vstartOf (setVstart g t) = g := by
  simp only [vstartOf, setVstart, modC, fld, BitVec.toNat_ofNat]
  omega

theorem eprogOf_setEprog {g : Nat} (h : g < 4096) (t : Thread) : eprogOf (setEprog g t) = g := by
  simp only [eprogOf, setEprog, modC, fld, BitVec.toNat_ofNat]
  omega

/-! ### How an access of a mode starts, completes and records its progress -/

/-- How an access of a mode completes: a tile resets EPROG too (R24, R173). -/
def finishAccess (m : VMode) : (Thread → Thread) → State → State :=
  match m with
  | .tile => finishTile
  | _ => finishV

/-- The register that names the element at which an access of a mode goes on (R173). -/
def setProgress (m : VMode) : Nat → Thread → Thread :=
  match m with
  | .tile => setEprog
  | _ => setVstart
def progressOf (m : VMode) (t : Thread) : Nat :=
  match m with
  | .tile => eprogOf t
  | _ => vstartOf t

/-- The state in which an access begins: a unit or strided load (`load`) sets VSTAT.T to 0 (R186). -/
def begun (m : VMode) (load : Bool) (s : State) : State := if load = true ∧ m ≠ .tile then modT (setTrim false) s else s

/-- Where a load of a mode admits a stop (R193). -/
def loadStops (t : Thread) (m : VMode) : StopRule :=
  match m with
  | .tile => tileRule t
  | _ => loadRule t

@[simp] theorem setProgress_v (m : VMode) (g : Nat) (t : Thread) : (setProgress m g t).v = t.v := by cases m <;> rfl
@[simp] theorem setProgress_pc (m : VMode) (g : Nat) (t : Thread) : (setProgress m g t).pc = t.pc := by cases m <;> rfl

theorem progressOf_single {m : VMode} (hm : m ≠ .tile) (t : Thread) : progressOf m t = vstartOf t := by
  cases m with
  | tile => exact absurd rfl hm
  | unit => rfl
  | strided => rfl

theorem progressOf_setProgress {g : Nat} (h : g < 512) (m : VMode) (t : Thread) : progressOf m (setProgress m g t) = g := by
  cases m with
  | tile => exact eprogOf_setEprog (by omega) t
  | unit => exact vstartOf_setVstart h t
  | strided => exact vstartOf_setVstart h t

/-- What an access of each mode resets (R24, R173, R186). -/
theorem cleared_tile (load : Bool) (s : State) : cleared .tile load s = modT (setEprog 0) s := by
  cases load <;> simp [cleared, onThread, modT, setEprog, modC]

theorem cleared_load {m : VMode} (hm : m ≠ .tile) (s : State) : cleared m true s = modT (setTrim false) s := by
  simp [cleared, onThread, modT, setTrim, modC, hm]

theorem cleared_store {m : VMode} (hm : m ≠ .tile) (s : State) : cleared m false s = s := by
  simp [cleared, onThread, hm]

theorem cleared_begun (m : VMode) (load : Bool) (s : State) : cleared m false (begun m load s) = cleared m load s := by
  unfold begun
  split
  next h => rw [h.1, cleared_load h.2, cleared_store h.2]
  next h => cases load <;> cases m <;> simp_all [cleared]

section
variable (m : VMode) (load : Bool) (s : State)

/-- Beginning an access changes VSTAT alone. -/
theorem begun_cases : begun m load s = s ∨ begun m load s = modT (setTrim false) s := by
  unfold begun
  split
  · exact .inr rfl
  · exact .inl rfl

@[simp] theorem begun_pc : (begun m load s).cur.pc = s.cur.pc := by unfold begun; split <;> rfl
@[simp] theorem begun_v : (begun m load s).cur.v = s.cur.v := by unfold begun; split <;> rfl
@[simp] theorem begun_mem : (begun m load s).mem = s.mem := by unfold begun; split <;> rfl
@[simp] theorem begun_elim : (begun m load s).cur.elim = s.cur.elim := by unfold begun; split <;> rfl
@[simp] theorem begun_touched : (begun m load s).cur.touched = s.cur.touched := by unfold begun; split <;> rfl

theorem firstPoison_begun (l : List Elem) : firstPoison (begun m load s) l = firstPoison s l := by
  have hp : poisoned (modT (setTrim false) s) = poisoned s := funext (poisoned_modT _ s)
  obtain h | h := begun_cases m load s <;> rw [h]
  simp only [firstPoison, hp]

theorem anyFenced_begun (l : List Elem) : anyFenced (begun m load s) l = anyFenced s l := by
  have hf : locFenced (modT (setTrim false) s) = locFenced s := funext (locFenced_modT _ s)
  obtain h | h := begun_cases m load s <;> rw [h]
  simp only [anyFenced, hf]

theorem loadElts_begun (d : VReg) (f : Fmt) (k : Kind) (l : List Elem) (g : Nat) :
    loadElts (begun m load s) d f k l g = loadElts s d f k l g := by
  obtain h | h := begun_cases m load s <;> rw [h]
  exact funext (loadElts_setTrim false s d f k l g)

end

/-- The register indices that take part in an access, in ascending order. -/
def accessList (s : State) (m : VMode) : List Nat := (List.range (countOf s.cur m)).filter (inAccess s m)

theorem inAccess_iff {s : State} {m : VMode} {e : Nat} :
    inAccess s m e = true ↔ firstOf s.cur m ≤ e ∧ e < countOf s.cur m ∧ governed s.cur e = true := by simp [inAccess, and_assoc]

theorem mem_accessList {s : State} {m : VMode} {e : Nat} : e ∈ accessList s m ↔ inAccess s m e = true := by
  simp only [accessList, List.mem_filter, List.mem_range, and_iff_right_iff_imp, inAccess_iff]
  exact fun h => h.2.1

theorem actives_access (s : State) (m : VMode) : actives s.cur (firstOf s.cur m) (countOf s.cur m) = accessList s m := by
  refine List.filter_congr fun e hmem => ?_
  simp only [inAccess, decide_eq_true (List.mem_range.mp hmem), Bool.and_true]

theorem accessList_pairwise (s : State) (m : VMode) : (accessList s m).Pairwise (· < ·) := pairwise_lt_filter_range _ _

end Sys2Proof.Machine
end

section
/-! SUPPORT. VLD and VLDX in a ready thread (06 R172-R176, R180). -/

namespace Sys2Proof.Machine

open Sys2Proof.Safety

/-! ### Readiness -/

/-- The indexed accesses, and the unit and strided ones, are over the elements of the body. -/
theorem memReady_body {s : State} (h : VecReady s (sewOf s.cur)) {m : VMode} (hm : m ≠ .tile) : MemReady s m := by
  cases m with
  | tile => exact absurd rfl hm
  | unit => exact h
  | strided => exact h

theorem inAccess_body {m : VMode} (hm : m ≠ .tile) (s : State) : inAccess s m = body s := by
  cases m with
  | tile => exact absurd rfl hm
  | unit => rfl
  | strided => rfl

section
variable {s : State} {m : VMode} (h : MemReady s m)
include h

theorem memReady_firstDmg (srcs : List (VReg × Nat)) (ks : List KReg) (lo hi : Nat) : firstDmg s.cur srcs ks lo hi = none := by
  obtain ⟨-, hv, hk, -⟩ := h
  exact firstDmg_none _ hv hk ..

/-- The elements of an access fit in a register, which holds 512 at most. -/
theorem access_fits {k : Kind} (hk : kindOf s.cur = some k) {e : Nat} (he : e ∈ accessList s m) : k.width * e + k.width ≤ 8192 := by
  obtain ⟨-, -, -, -, -, -, hfit⟩ := h
  rw [width_of_kindOf hk]
  exact elt_within hfit (inAccess_iff.mp (mem_accessList.mp he)).2.1

theorem access_lt_512 {e : Nat} (he : inAccess s m e = true) : e < 512 := by
  obtain ⟨-, -, -, -, -, -, hfit⟩ := h
  have hlt := (inAccess_iff.mp he).2.1
  obtain hw | hw | hw := sewOf_cases s.cur <;> rw [hw] at hfit <;> omega

/-- The checks before the first element pass (R172, R175). -/
theorem guardMem_ready {k : Kind} (hk : kindOf s.cur = some k) {f : Fmt} (hok : pairOk f (some k) = true) {item : Nat → Item}
    (ha : ∀ e ∈ accessList s m, (item e).addr.toNat % ebytes f = 0) (i : Instr) (regs : List SReg) (run : Kind → State) :
    guardMem i regs f (countOf s.cur m) item (firstOf s.cur m) s run = run k := by
  obtain ⟨⟨hp, -⟩, -, -, -, -, hgrant, -⟩ := h
  have haligned : ((accessList s m).map item).find? (misaligned f) = none := by
    rw [List.find?_eq_none]
    intro x hx
    obtain ⟨e, hmem, rfl⟩ := List.mem_map.mp hx
    simp [misaligned, ha e hmem]
  simp only [guardMem, guardS_quiet _ hp, hk, hok, Bool.not_true, Bool.false_eq_true, if_false, decide_eq_true_eq, Nat.not_lt.mpr hgrant,
    actives_access, haligned]

end

/-! ### A load all of whose elements have a place -/

section
variable {s : State} {m : VMode} (h : MemReady s m) {k : Kind} (hk : kindOf s.cur = some k) {f : Fmt} (hok : pairOk f (some k) = true)
  {ls : Nat → List Loc}
include h hk hok

theorem exec_vld_placed {b : SReg} {x : BitVec 6}
    (hl : ∀ e ∈ accessList s m, (vmItem s b f m x e).addr.toNat % ebytes f = 0 ∧ Placed s f .load (vmItem s b f m x e) (ls e))
    (v : VReg) (i : Hint) : exec (.vld v b f m i x) s = .next (loadRun (loadStops s.cur m) v f k i
      ((accessList s m).map (elemAt s f .load (vmItem s b f m x))) (firstOf s.cur m) (countOf s.cur m) none (finishAccess m) (setProgress m)
      (begun m true s)) := by
  have hfail : firstFail ((accessList s m).map (elemAt s f .load (vmItem s b f m x))) = none := firstFail_none fun e he => (hl e he).2
  simp only [exec_vld, execVld, guardMem_ready h hk hok fun e he => (hl e he).1, elemsOf_eq, actives_access, hfail, memReady_firstDmg h]
  cases m <;> rfl

end

section
variable {s : State} (h : MemReady s .unit) {k : Kind} (hk : kindOf s.cur = some k) {f : Fmt} (hok : pairOk f (some k) = true)
  {ls : Nat → List Loc} {b : SReg} {i : VReg}
include h hk hok

/-- The same checks of an indexed access. -/
theorem guardMem_indexed (ha : ∀ e ∈ accessList s .unit, (idxItem s b f i e).addr.toNat % ebytes f = 0) (j : Instr) (regs : List SReg)
    (run : Kind → State) : guardMem j regs f (vlOf s.cur) (idxItem s b f i) (vstartOf s.cur) s run = run k :=
  guardMem_ready h hk hok ha j regs run

omit h hk hok in
theorem elemsOf_indexed (acc : Acc) : elemsOf s f acc (idxItem s b f i) (vstartOf s.cur) (vlOf s.cur) =
    (accessList s .unit).map (elemAt s f acc (idxItem s b f i)) := by
  rw [elemsOf_eq]
  exact congrArg _ (actives_access s .unit)

omit h hk hok in
/-- An indexed access whose elements all have places raises no gather fault (R188). -/
theorem guardXlat_placed {acc : Acc} (hl : ∀ e ∈ accessList s .unit, Placed s f acc (idxItem s b f i e) (ls e)) (n : Nat) (base : Word)
    (run : State) : guardXlat n base ((accessList s .unit).map (elemAt s f acc (idxItem s b f i))) s run = run := by
  have hecc : ((accessList s .unit).map (elemAt s f acc (idxItem s b f i))).find? (fun x => elemBad x == some .ecc) = none := by
    rw [List.find?_eq_none]
    intro x hx
    obtain ⟨e, hmem, rfl⟩ := List.mem_map.mp hx
    simp [elemBad_placed (hl e hmem)]
  simp only [guardXlat, hecc, firstFail_none hl, Option.isSome_none, Bool.false_eq_true, if_false]

theorem exec_vldx_placed
    (hl : ∀ e ∈ accessList s .unit, (idxItem s b f i e).addr.toNat % ebytes f = 0 ∧ Placed s f .load (idxItem s b f i e) (ls e))
    (v : VReg) (j : Hint) : exec (.vldx v b f j i) s = .next (loadRun { loadRule s.cur with late := v != i } v f k j
      ((accessList s .unit).map (elemAt s f .load (idxItem s b f i))) (firstOf s.cur .unit) (countOf s.cur .unit) none (finishAccess .unit)
      (setProgress .unit) (begun .unit false s)) := by
  simp only [exec_vldx, execVldx, guardMem_indexed h hk hok fun e he => (hl e he).1, elemsOf_indexed, guardXlat_placed fun e he => (hl e he).2,
    memReady_firstDmg h]
  rfl

end

/-- An access completes: VSTART becomes 0, and EPROG where the mode resets it (R24, R173). -/
theorem finishAccess_calm (m : VMode) (f : Thread → Thread) {s : State} (hp : s.cur.pend = []) (hn : NoEdge (f s.cur))
    (hc : (f s.cur).chain = 0) (hf : ∀ t, f (setEprog 0 t) = setEprog 0 (f t)) :
    finishAccess m f s = retired (fun t => setVstart 0 (f t)) (cleared m false s) := by
  cases m with
  | tile =>
    have hfinish := finish_calm 0 (fun t => setVstart 0 (setEprog 0 (f t))) s hp (noEdge_of (f s.cur) _ hn rfl rfl rfl rfl)
    rw [cleared_tile]
    simp only [retired, modT_cur, hf] at hfinish ⊢
    exact hfinish
  | unit =>
    rw [cleared_store (by decide)]
    exact finishV_calm f s hp hn hc
  | strided =>
    rw [cleared_store (by decide)]
    exact finishV_calm f s hp hn hc

/-- A load that completes having written the elements of a list (R24, R173, R186). -/
theorem finishAccess_writeElts {s : State} {m : VMode} (h : MemReady s m) (load : Bool) (d : VReg) (w : Nat) (l : List (Nat × Nat)) (g : Flags) :
    finishAccess m (fun t => orFlags g (writeElts d w l t)) (begun m load s) =
      retired (fun t => setVstart 0 (orFlags g (writeElts d w l t))) (cleared m load s) := by
  obtain ⟨⟨hp, hn⟩, -, -, -, hc, -⟩ := h
  rw [← cleared_begun]
  obtain hb | hb := begun_cases m load s <;> rw [hb]
  · exact finishAccess_calm m (fun t => orFlags g (writeElts d w l t)) hp (noEdge_of s.cur _ hn rfl rfl rfl rfl) hc fun _ => rfl
  · exact finishAccess_calm m (fun t => orFlags g (writeElts d w l t)) hp (noEdge_of s.cur _ hn rfl rfl rfl rfl) hc fun _ => rfl

section
variable {s : State} {m : VMode} (h : MemReady s m) {k : Kind} (hk : kindOf s.cur = some k) {f : Fmt} {ls : Nat → List Loc}
  {item : Nat → Item} (he : ∀ e, (item e).e = e)
  (hl : ∀ e ∈ accessList s m, Accessed s f .load (item e) (ls e) ∧ Clean s (ls e)) (load : Bool)
include h hl

/-- A load that reaches clean bytes alone completes (R176). -/
theorem loadRun_clean (r : StopRule) (d : VReg) (i : Hint) (lo hi : Nat) (fin : (Thread → Thread) → State → State)
    (stop : Nat → Thread → Thread) :
    loadRun r d f k i ((accessList s m).map (elemAt s f .load item)) lo hi none fin stop (begun m load s) =
      afterHint i (elemSectors ((accessList s m).map (elemAt s f .load item))) lo (begun m load s)
        (fin (loadElts s d f k ((accessList s m).map (elemAt s f .load item)) hi) (begun m load s)) := by
  have hel : (begun m load s).cur.elim = none := by
    obtain ⟨-, -, -, hel, -⟩ := h
    rwa [begun_elim]
  rw [loadRun_complete hel, loadElts_begun]
  · rw [firstPoison_begun]
    exact firstPoison_none fun e hmem => ⟨(hl e hmem).1.2.1, (hl e hmem).2⟩
  · rw [anyFenced_begun]
    exact anyFenced_false fun e hmem => ⟨(hl e hmem).1.2.1, (hl e hmem).1.2.2⟩

include hk he

/-- What such a load leaves (R24, R176). -/
theorem vecWrote_finishAccess (d : VReg) : VecWrote (cleared m load s)
    (finishAccess m (loadElts s d f k ((accessList s m).map (elemAt s f .load item)) (countOf s.cur m)) (begun m load s))
    d (sewOf s.cur) (inAccess s m) (fun e => (loadedAt s f k item ls e).1) (accessFlags s m fun e => (loadedAt s f k item ls e).2) := by
  have ⟨_, hbad, _⟩ := h
  have hall : (accessList s m).filter (· < countOf s.cur m) = accessList s m :=
    List.filter_eq_self.mpr fun e hmem => decide_eq_true (inAccess_iff.mp (mem_accessList.mp hmem)).2.1
  have helts : loadElts s d f k ((accessList s m).map (elemAt s f .load item)) (countOf s.cur m) =
      fun t => orFlags (accessFlags s m fun e => (loadedAt s f k item ls e).2)
        (writeElts d k.width ((accessList s m).map fun e => (e, (loadedAt s f k item ls e).1)) t) := by
    funext t
    rw [loadElts_map he (fun e hmem _ => (hl e hmem).1.2.1), hall]
    rfl
  rw [helts, finishAccess_writeElts h, ← width_of_kindOf hk]
  exact vecWrote_writeElts (s := cleared m load s) hbad d (fun e hmem => access_fits h hk hmem) (fun e => mem_accessList) _ _

/-- The hint apart a load leaves what it does without one (R180). -/
theorem hinted_load (d : VReg) (i : Hint) (q : List Nat) (lo : Nat) :
    let u := finishAccess m (loadElts s d f k ((accessList s m).map (elemAt s f .load item)) (countOf s.cur m)) (begun m load s)
    hinted s (afterHint i q lo (begun m load s) u) = u := by
  intro u
  obtain ⟨-, -, hu⟩ := vecWrote_finishAccess h hk he hl load d
  have hmem : u.mem = (begun m load s).mem := by
    rw [show u = _ from hu, begun_mem]
    rfl
  have htouched : u.cur.touched = (begun m load s).cur.touched := by
    rw [show u = _ from hu, begun_touched]
    rfl
  have hstart (x : State) : hinted s x = hinted (begun m load s) x := by simp only [hinted, begun_mem, begun_touched]
  rw [hstart, hinted_afterHint i q lo hmem htouched]

end

/-- Settles O27: with every element placed and clean the list of the elements is that of the access, each load reads them in one run, and
the hint apart what it leaves is those elements. -/
theorem vectorLoads : Obligations.VectorLoads := by
  unfold Obligations.VectorLoads
  intro s v i b f m h x k ls hk hok
  refine ⟨fun hready hl => ?_, fun hready hl => ?_⟩
  · have hl' (e) (hmem : e ∈ accessList s m) := hl e (mem_accessList.mp hmem)
    have hhint (q lo) := hinted_load hready hk (vmItem_e s b f m x) hl' true v h q lo
    refine ⟨_, exec_vld_placed hready hk hok (fun e he => ⟨(hl' e he).1.1, (hl' e he).1.2.1⟩) v h, ?_, fun hh => ?_⟩
    · rw [loadRun_clean hready hl', hhint]
      exact vecWrote_finishAccess hready hk (vmItem_e s b f m x) hl' true v
    · rw [loadRun_clean hready hl', hhint, afterHint_plain hh]
  · have hready' := memReady_body hready (m := .unit) (by decide)
    have hl' (e) (hmem : e ∈ accessList s .unit) := hl e (mem_accessList.mp hmem)
    have hhint (q lo) := hinted_load hready' hk (idxItem_e s b f i) hl' false v h q lo
    refine ⟨_, exec_vldx_placed hready' hk hok (fun e he => ⟨(hl' e he).1.1, (hl' e he).1.2.1⟩) v h, ?_, fun hh => ?_⟩
    · rw [loadRun_clean hready' hl', hhint]
      exact cleared_store (m := .unit) (by decide) s ▸ vecWrote_finishAccess hready' hk (idxItem_e s b f i) hl' false v
    · rw [loadRun_clean hready' hl', hhint, afterHint_plain hh]

end Sys2Proof.Machine
end

section
/-! SUPPORT. Memory after the elements of an access are written in ascending order: an element that no later one overwrites reads back as
it was stored, a nibble of a byte beside the other, and no other byte changes (02 R62; 06 R177). -/

namespace Sys2Proof.Machine

open Sys2Proof.Safety

/-! ### Formats and places -/

theorem ebytes_dvd (f : Fmt) : ebytes f ∣ 32 := by cases f <;> decide
theorem ebytes_nibble {f : Fmt} (h : esz f = 4) : ebytes f = 1 := by simp [ebytes, h]
theorem pow_ebytes {f : Fmt} (h : esz f ≠ 4) : 256 ^ ebytes f = 2 ^ esz f := by cases f <;> simp_all [esz, ebytes]

/-- Places of one element: as many as its bytes, and all different. -/
def Apiece (f : Fmt) (ls : List Loc) : Prop := ls.length = ebytes f ∧ ls.Nodup

theorem apiece_placed {s : State} {f : Fmt} {k : Acc} {it : Item} {ls : List Loc} (ha : it.addr.toNat % ebytes f = 0)
    (h : Placed s f k it ls) : Apiece f ls := by
  obtain ⟨c, h⟩ := h
  obtain ⟨l, rfl⟩ := xlatN_aligned (ebytes_dvd f) ha h
  exact ⟨by simp, List.nodup_range.map fun i j e => locAdd_inj e⟩

theorem apiece_nibble {f : Fmt} {ls : List Loc} (h : Apiece f ls) (hf : esz f = 4) : ∃ l, ls = [l] :=
  List.length_eq_one_iff.mp (h.1.trans (ebytes_nibble hf))

/-! ### A nibble of a byte -/

/-- A byte written under a mask. -/
def maskedByte (b mask v : Byte) : Byte := (b &&& ~~~mask) ||| (v &&& mask)

theorem sixteen_pow (n : Nat) : 16 ^ n = 2 ^ (4 * n) := by rw [pow_mul]; rfl

theorem testBit_nibble (x m i : Nat) : (x / 16 ^ m % 16).testBit i = (decide (i < 4) && x.testBit (4 * m + i)) := by
  rw [sixteen_pow, show 16 = 2 ^ 4 from rfl, Nat.testBit_mod_two_pow, Nat.testBit_div_two_pow, Nat.add_comm]

/-- The mask of nibble `n` has the bits of that nibble. -/
theorem getLsbD_nibbleMask {n : Nat} (hn : n < 2) (i : Nat) :
    (BitVec.ofNat 8 (15 * 16 ^ n)).getLsbD i = decide (4 * n ≤ i ∧ i < 4 * n + 4) := by
  rw [BitVec.getLsbD_ofNat, sixteen_pow, show 15 = 2 ^ 4 - 1 from rfl, Nat.testBit_mul_two_pow, Nat.testBit_two_pow_sub_one, Bool.eq_iff_iff]
  simp only [Bool.and_eq_true, decide_eq_true_eq]
  omega

theorem getLsbD_maskedByte (b : Byte) (x : Nat) {n i : Nat} (hn : n < 2) (hi : i < 8) :
    (maskedByte b (BitVec.ofNat 8 (15 * 16 ^ n)) (BitVec.ofNat 8 (x * 16 ^ n))).getLsbD i =
      if 4 * n ≤ i ∧ i < 4 * n + 4 then x.testBit (i - 4 * n) else b.getLsbD i := by
  have hval : (BitVec.ofNat 8 (x * 16 ^ n)).getLsbD i = (decide (4 * n ≤ i) && x.testBit (i - 4 * n)) := by
    rw [BitVec.getLsbD_ofNat, sixteen_pow, Nat.testBit_mul_two_pow, decide_eq_true hi, Bool.true_and]
  simp only [maskedByte, BitVec.getLsbD_or, BitVec.getLsbD_and, BitVec.getLsbD_not, getLsbD_nibbleMask hn, hval, hi, decide_true, Bool.true_and]
  split
  next h => simp [h.1, h.2]
  next h => simp [h]

/-- A nibble written, and the other one left alone (R62). -/
theorem nibble_maskedByte (b : Byte) (x : Nat) {n m : Nat} (hn : n < 2) (hm : m < 2) :
    (maskedByte b (BitVec.ofNat 8 (15 * 16 ^ n)) (BitVec.ofNat 8 (x * 16 ^ n))).toNat / 16 ^ m % 16 =
      if m = n then x % 16 else b.toNat / 16 ^ m % 16 := by
  refine Nat.eq_of_testBit_eq fun i => ?_
  rw [testBit_nibble, BitVec.testBit_toNat]
  have hx := testBit_nibble x 0 i
  rw [pow_zero, Nat.div_one, Nat.mul_zero, Nat.zero_add] at hx
  by_cases hi : i < 4
  · rw [getLsbD_maskedByte b x hn (by omega), decide_eq_true hi, Bool.true_and]
    by_cases h : m = n
    · rw [if_pos h, if_pos (by omega), hx, decide_eq_true hi, Bool.true_and, h, Nat.add_sub_cancel_left]
    · rw [if_neg h, if_neg (by omega), testBit_nibble, decide_eq_true hi, Bool.true_and, BitVec.testBit_toNat]
  · split <;> simp [hx, testBit_nibble, hi]

theorem byteAt_wr1 (s : State) (w : Wr) (l : Loc) : byteAt (wr1 s w) l =
    if l = w.loc then (if w.mask = 0xFF then w.val else maskedByte (byteAt s l) w.mask w.val) else byteAt s l := by
  rw [wr1, byteAt_putByte]
  split
  next h => rw [h]; rfl
  next h => rfl

/-- What writes leave in a byte depends on the bytes before them alone. -/
theorem byteAt_writeAll_congr {s u : State} (h : ∀ l, byteAt u l = byteAt s l) (ws : List Wr) (l : Loc) :
    byteAt (writeAll ws u) l = byteAt (writeAll ws s) l := by
  rw [byteAt_writeAll, byteAt_writeAll]
  induction ws generalizing s u with
  | nil => exact h l
  | cons w ws ih => exact ih fun q => by rw [byteAt_wr1, byteAt_wr1, h q]

theorem nibbleMask_partial {n : Nat} (hn : n < 2) : BitVec.ofNat 8 (15 * 16 ^ n) ≠ 0xFF := by interval_cases n <;> decide

/-! ### One element -/

theorem loc_of_itemWrite {f : Fmt} {it : Item} {ls : List Loc} {x : Nat} {w : Wr} (h : w ∈ itemWrite f it ls x) : w.loc ∈ ls := by
  unfold itemWrite at h
  split at h
  · obtain ⟨l, hl, rfl⟩ := List.mem_map.mp h
    exact hl
  · obtain ⟨p, hp, rfl⟩ := List.mem_map.mp h
    exact (List.of_mem_zip hp).1

/-- An element reads back as it was stored (R54, R177). -/
theorem itemRead_itemWrite {f : Fmt} {it : Item} {ls : List Loc} (hls : Apiece f ls) (hnib : it.nib < 2) (x : Nat) (s : State) :
    itemRead ((itemWrite f it ls x).foldl wr1 s) f it ls = x % 2 ^ esz f := by
  by_cases hf : esz f = 4
  · obtain ⟨l, rfl⟩ := apiece_nibble hls hf
    have hbyte := nibble_maskedByte (byteAt s l) x hnib hnib
    simp only [if_true] at hbyte
    simp only [itemRead, itemWrite, hf, if_true, readBytes, List.map_cons, List.map_nil, List.foldl_cons, List.foldl_nil, byteAt_wr1,
      nibbleMask_partial hnib, if_false, ofBytes, Nat.mul_zero, Nat.add_zero, hbyte]
    rfl
  · have hbytes := readBytes_written hls.2 ((length_leBytes _ x).trans hls.1.symm) s
    have hread : readBytes ((wrBytes ls (leBytes (ebytes f) x)).foldl wr1 s) ls = leBytes (ebytes f) x :=
      (List.map_congr_left fun l _ => (byteAt_writeAll _ l s).symm).trans hbytes
    simp only [itemRead, itemWrite, hf, if_false, hread, ofBytes_leBytes, pow_ebytes hf]

/-- An element is left alone by one that shares no byte with it, or only a byte of which it has the other nibble (R62). -/
theorem itemRead_itemWrite_apart {f : Fmt} {it it' : Item} {ls ls' : List Loc} (hls : Apiece f ls) (hls' : Apiece f ls') (hnib : it.nib < 2)
    (hnib' : it'.nib < 2) (h : ∀ l ∈ ls, l ∈ ls' → esz f = 4 ∧ it'.nib ≠ it.nib) (x : Nat) (s : State) :
    itemRead ((itemWrite f it' ls' x).foldl wr1 s) f it ls = itemRead s f it ls := by
  by_cases hapart : ∃ l ∈ ls, l ∈ ls'
  · obtain ⟨l, hl, hl'⟩ := hapart
    obtain ⟨hf, hne⟩ := h l hl hl'
    obtain ⟨q, rfl⟩ := apiece_nibble hls hf
    obtain ⟨q', rfl⟩ := apiece_nibble hls' hf
    obtain rfl := List.mem_singleton.mp hl
    obtain rfl := List.mem_singleton.mp hl'
    have hbyte := nibble_maskedByte (byteAt s l) x hnib' hnib
    simp only [hne.symm, if_false] at hbyte
    simp only [itemRead, itemWrite, hf, if_true, readBytes, List.map_cons, List.map_nil, List.foldl_cons, List.foldl_nil, byteAt_wr1,
      nibbleMask_partial hnib', if_false, ofBytes, Nat.mul_zero, Nat.add_zero, hbyte]
  · refine itemRead_congr (fun l hl => byteAt_foldl_wr1 _ l s fun w hw e => hapart ⟨l, hl, ?_⟩) f it
    exact e ▸ loc_of_itemWrite hw

/-! ### The elements of an access -/

/-- The writes of the elements of a list, in its order. -/
def elementWrites (f : Fmt) (item : Nat → Item) (ls : Nat → List Loc) (out : Nat → Nat) (es : List Nat) : List Wr :=
  es.flatMap fun e => itemWrite f (item e) (ls e) (out e)

section
variable {f : Fmt} {item : Nat → Item} {ls : Nat → List Loc} {es : List Nat} (out : Nat → Nat) (s : State)

/-- No byte outside the elements changes (R177). -/
theorem byteAt_elementWrites_other {l : Loc} (h : ∀ e ∈ es, l ∉ ls e) : byteAt (writeAll (elementWrites f item ls out es) s) l = byteAt s l := by
  refine byteAt_writeAll_other _ l s fun w hw hloc => ?_
  obtain ⟨e, he, hw⟩ := List.mem_flatMap.mp hw
  exact h e he (hloc ▸ loc_of_itemWrite hw)

variable (hls : ∀ e ∈ es, Apiece f (ls e)) (hnib : ∀ e, (item e).nib < 2)
include hls hnib

theorem itemRead_elementWrites_apart {e : Nat} (he : Apiece f (ls e))
    (h : ∀ e' ∈ es, ∀ l ∈ ls e, l ∈ ls e' → esz f = 4 ∧ (item e').nib ≠ (item e).nib) :
    itemRead ((elementWrites f item ls out es).foldl wr1 s) f (item e) (ls e) = itemRead s f (item e) (ls e) := by
  induction es generalizing s with
  | nil => rfl
  | cons a es ih =>
    rw [elementWrites, List.flatMap_cons, List.foldl_append]
    refine (ih _ (fun e' he' => hls e' (List.mem_cons_of_mem a he')) fun e' he' => h e' (List.mem_cons_of_mem a he')).trans ?_
    exact itemRead_itemWrite_apart he (hls a List.mem_cons_self) (hnib e) (hnib a) (h a List.mem_cons_self) _ s

/-- An element that no later one overwrites stands in memory as it was stored (R177). -/
theorem itemRead_elementWrites_last (hs : es.Pairwise (· < ·)) {e : Nat} (he : e ∈ es)
    (hlast : ∀ e' ∈ es, e < e' → ∀ l ∈ ls e, l ∈ ls e' → esz f = 4 ∧ (item e').nib ≠ (item e).nib) :
    itemRead (writeAll (elementWrites f item ls out es) s) f (item e) (ls e) = out e % 2 ^ esz f := by
  rw [itemRead_congr fun l _ => byteAt_writeAll _ l s]
  obtain ⟨pre, post, rfl⟩ := List.append_of_mem he
  have hlater : ∀ e' ∈ post, e < e' := (List.pairwise_cons.mp (List.pairwise_append.mp hs).2.1).1
  rw [elementWrites, List.flatMap_append, List.flatMap_cons, List.foldl_append, List.foldl_append]
  refine (itemRead_elementWrites_apart out _ (fun e' he' => hls e' (by simp [he'])) hnib (hls e he)
    fun e' he' => hlast e' (by simp [he']) (hlater e' he')).trans ?_
  exact itemRead_itemWrite (hls e he) (hnib e) _ _

end

end Sys2Proof.Machine
end

section
/-! SUPPORT. VST and VSTX in a ready thread (06 R172-R177). -/

namespace Sys2Proof.Machine

open Sys2Proof.Safety

/-- What a store makes of element `e` of v (R177). -/
def storedAt (s : State) (v : VReg) (f : Fmt) (k : Kind) (e : Nat) : Nat × Flags := storeConv s.cur f k e (elt s.cur v k.width e)

theorem foldl_writes {α : Type} (w : α → List Wr) (g : α → Flags) (l : List α) (ws : List Wr) (fl : Flags) :
    l.foldl (fun p x => (p.1 ++ w x, p.2 ||| g x)) (ws, fl) = (ws ++ l.flatMap w, l.foldl (fun fl x => fl ||| g x) fl) := by
  induction l generalizing ws fl with
  | nil => simp
  | cons a l ih => rw [List.foldl_cons, ih, List.flatMap_cons, List.append_assoc, List.foldl_cons]

/-- The elements of a list below `g`, stored (R177). -/
theorem storeElts_map {s : State} {f : Fmt} {k : Kind} {acc : Acc} {item : Nat → Item} (he : ∀ e, (item e).e = e) {es : List Nat}
    {ls : Nat → List Loc} {g : Nat} (h : ∀ e ∈ es, e < g → Placed s f acc (item e) (ls e)) (u : State) (v : VReg) :
    storeElts u v f k (es.map (elemAt s f acc item)) g =
      (elementWrites f item ls (fun e => (storedAt u v f k e).1) (es.filter (· < g)),
        (es.filter (· < g)).foldl (fun fl e => fl ||| (storedAt u v f k e).2) 0) := by
  have hfold := foldl_writes (fun x : Elem => itemWrite f x.it (elemLocs x) (storedAt u v f k x.it.e).1)
    (fun x => (storedAt u v f k x.it.e).2) (below g (es.map (elemAt s f acc item))) [] 0
  have hwrites : (es.filter (· < g)).flatMap (fun e => itemWrite f (item e) (elemLocs (elemAt s f acc item e)) (storedAt u v f k e).1) =
      elementWrites f item ls (fun e => (storedAt u v f k e).1) (es.filter (· < g)) := by
    refine List.flatMap_congr fun e hmem => ?_
    obtain ⟨hmem, hlt⟩ := List.mem_filter.mp hmem
    rw [elemLocs_placed (h e hmem (of_decide_eq_true hlt))]
  refine Eq.trans hfold ?_
  rw [below_map he, List.flatMap_map, List.foldl_map, List.nil_append, ← hwrites]
  simp only [elemAt, he]

/-! ### The run of a store -/

section
variable {s : State} {l : List Elem} (hel : s.cur.elim = none)
include hel

/-- A store that meets no fault completes (R177). -/
theorem storeRun_complete (hf : anyFenced s l = false) (r : StopRule) (v : VReg) (f : Fmt) (k : Kind) (lo hi : Nat)
    (fin : (Thread → Thread) → State → State) (stop : Nat → Thread → Thread) :
    storeRun r v f k l lo hi none fin stop s = fin (orFlags (storeElts s v f k l hi).2) (writeAll (storeElts s v f k l hi).1 s) := by
  simp only [storeRun, stopAt_unasked hel, Option.map_none, guardFenced_complete hf]

/-- A store that meets a fault has stored the elements below it and traps (R187). -/
theorem storeRun_stopped {g : Nat} {e : TrapInfo} (hf : anyFenced s (below g l) = false) (r : StopRule) (v : VReg) (f : Fmt) (k : Kind)
    (lo hi : Nat) (fin : (Thread → Thread) → State → State) (stop : Nat → Thread → Thread) :
    storeRun r v f k l lo hi (some (g, e)) fin stop s = Safety.trapped e.cause e.eval e.erec
      (writeAll (storeElts s v f k l g).1 (modT (fun t => stop g (orFlags (storeElts s v f k l g).2 t)) s)) := by
  simp only [storeRun, stopAt_unasked hel, Option.map_some, guardFenced_stop hf, stopBy, trap_eq]

end

/-! ### A store all of whose elements have a place -/

/-- Where a store of a mode admits a stop (R193). -/
def storeStops (t : Thread) (m : VMode) : StopRule :=
  match m with
  | .tile => tileRule t
  | _ => groups t

theorem exec_vst_placed {s : State} {m : VMode} (h : MemReady s m) {k : Kind} (hk : kindOf s.cur = some k) {f : Fmt}
    (hok : pairOk f (some k) = true) {ls : Nat → List Loc} {b : SReg} {x : BitVec 6}
    (hl : ∀ e ∈ accessList s m, (vmItem s b f m x e).addr.toNat % ebytes f = 0 ∧ Placed s f .store (vmItem s b f m x e) (ls e))
    (v : VReg) (i : Hint) : exec (.vst v b f m i x) s = .next (storeRun (storeStops s.cur m) v f k
      ((accessList s m).map (elemAt s f .store (vmItem s b f m x))) (firstOf s.cur m) (countOf s.cur m) none (finishAccess m) (setProgress m)
      s) := by
  have hfail : firstFail ((accessList s m).map (elemAt s f .store (vmItem s b f m x))) = none := firstFail_none fun e he => (hl e he).2
  simp only [exec_vst, execVst, guardMem_ready h hk hok fun e he => (hl e he).1, elemsOf_eq, actives_access, hfail, memReady_firstDmg h]
  cases m <;> rfl

theorem exec_vstx_placed {s : State} (h : MemReady s .unit) {k : Kind} (hk : kindOf s.cur = some k) {f : Fmt}
    (hok : pairOk f (some k) = true) {ls : Nat → List Loc} {b : SReg} {i : VReg}
    (hl : ∀ e ∈ accessList s .unit, (idxItem s b f i e).addr.toNat % ebytes f = 0 ∧ Placed s f .store (idxItem s b f i e) (ls e))
    (v : VReg) (j : Hint) : exec (.vstx v b f j i) s = .next (storeRun (groups s.cur) v f k
      ((accessList s .unit).map (elemAt s f .store (idxItem s b f i))) (firstOf s.cur .unit) (countOf s.cur .unit) none (finishAccess .unit)
      (setProgress .unit) s) := by
  simp only [exec_vstx, execVstx, guardMem_indexed h hk hok fun e he => (hl e he).1, elemsOf_indexed, guardXlat_placed fun e he => (hl e he).2,
    memReady_firstDmg h]
  rfl

theorem onlyMemory_cleared {s u : State} (h : OnlyMemory s u) (m : VMode) (load : Bool) : OnlyMemory (cleared m load s) (cleared m load u) := by
  unfold OnlyMemory at *
  rw [h]
  rfl

@[simp] theorem byteAt_cleared (m : VMode) (load : Bool) (s : State) (l : Loc) : byteAt (cleared m load s) l = byteAt s l := by cases l <;> rfl

/-- What a store that reaches all its places leaves (R62, R177). -/
theorem storeRun_reached {s : State} {m : VMode} (h : MemReady s m) (k : Kind) {f : Fmt} {ls : Nat → List Loc} {item : Nat → Item}
    (he : ∀ e, (item e).e = e) (hnib : ∀ e, (item e).nib < 2) (hl : ∀ e, inAccess s m e = true → Accessed s f .store (item e) (ls e))
    (r : StopRule) (v : VReg) (lo : Nat) (stop : Nat → Thread → Thread) :
    let u := storeRun r v f k ((accessList s m).map (elemAt s f .store item)) lo (countOf s.cur m) none (finishAccess m) stop s
    OnlyBytes (cleared m false s) u (fun t => { t with ctl := { t.ctl with
      vstart := 0, fflags := t.ctl.fflags ||| (accessFlags s m fun e => (storedAt s v f k e).2).zeroExtend 64 } }) ∧
    (∀ e, inAccess s m e = true → LastWriter (inAccess s m) f item ls e →
      itemRead u f (item e) (ls e) = (storedAt s v f k e).1 % 2 ^ esz f) ∧
    (∀ l, (∀ e, inAccess s m e = true → l ∉ ls e) → byteAt u l = byteAt s l) := by
  have ⟨⟨hp, hn⟩, _, _, hel, hc, _⟩ := h
  have hplaced (e) (hmem : e ∈ accessList s m) := hl e (mem_accessList.mp hmem)
  have hfence : anyFenced s ((accessList s m).map (elemAt s f .store item)) = false :=
    anyFenced_false fun e hmem => ⟨(hplaced e hmem).2.1, (hplaced e hmem).2.2⟩
  have hall : (accessList s m).filter (· < countOf s.cur m) = accessList s m :=
    List.filter_eq_self.mpr fun e hmem => decide_eq_true (inAccess_iff.mp (mem_accessList.mp hmem)).2.1
  intro u
  have hu : u = retired (fun t => setVstart 0 (orFlags (accessFlags s m fun e => (storedAt s v f k e).2) t))
      (cleared m false (writeAll (elementWrites f item ls (fun e => (storedAt s v f k e).1) (accessList s m)) s)) := by
    simp only [u, storeRun_complete hel hfence, storeElts_map he fun e hmem _ => (hplaced e hmem).2.1, hall]
    refine finishAccess_calm m _ ?_ ?_ ?_ fun _ => rfl
    · rw [writeAll_cur]; exact hp
    · rw [writeAll_cur]; exact noEdge_orFlags _ _ hn
    · rw [writeAll_cur]; exact hc
  have hbyte (l : Loc) : byteAt u l = byteAt (writeAll (elementWrites f item ls (fun e => (storedAt s v f k e).1) (accessList s m)) s) l := by
    rw [hu, byteAt_retired, byteAt_cleared]
  refine ⟨?_, fun e hacc hlast => ?_, fun l hother => ?_⟩
  · rw [hu]
    exact onlyBytes_retired (onlyMemory_cleared (onlyMemory_writeAll _ s) m false) _
  · rw [itemRead_congr fun l _ => hbyte l]
    exact itemRead_elementWrites_last _ s (fun e hmem => apiece_placed (hplaced e hmem).1 (hplaced e hmem).2.1) hnib (accessList_pairwise s m)
      (mem_accessList.mpr hacc) fun e' hmem => hlast e' (mem_accessList.mp hmem)
  · rw [hbyte]
    exact byteAt_elementWrites_other _ s fun e hmem => hother e (mem_accessList.mp hmem)

/-- Settles O28: the writes of the elements go to memory in ascending order, and the last that reaches a byte or nibble stands. -/
theorem vectorStores : Obligations.VectorStores := by
  unfold Obligations.VectorStores
  intro s v i b f m h x k ls hk hok
  refine ⟨fun hready hl => ?_, fun hready hl => ?_⟩
  · have hplaced (e) (hmem : e ∈ accessList s m) := hl e (mem_accessList.mp hmem)
    exact ⟨_, exec_vst_placed hready hk hok (fun e he => ⟨(hplaced e he).1, (hplaced e he).2.1⟩) v h,
      storeRun_reached hready k (vmItem_e s b f m x) (vmItem_nib s b f m x) hl _ v _ _⟩
  · have hready' := memReady_body hready (m := .unit) (by decide)
    have hplaced (e) (hmem : e ∈ accessList s .unit) := hl e (mem_accessList.mp hmem)
    have hstored := storeRun_reached hready' k (idxItem_e s b f i) (idxItem_nib s b f i) hl (groups s.cur) v (firstOf s.cur .unit)
      (setProgress .unit)
    rw [cleared_store (by decide)] at hstored
    exact ⟨_, exec_vstx_placed hready' hk hok (fun e he => ⟨(hplaced e he).1, (hplaced e he).2.1⟩) v h, hstored⟩

end Sys2Proof.Machine
end

section
/-! SUPPORT. Where a vector or tile load or store stops, and what it has done: at the lowest element that fails, at the row that holds it, or
at poison (06 R185-R187, R189, R190). -/

namespace Sys2Proof.Machine

open Sys2Proof.Safety

/-! ### What a stopped access leaves -/

/-- What the trap of an access leaves: its registers, its progress `q`, and EPC at the access (R139, R173). -/
def TrappedAt (m : VMode) (cause : Nat) (eval : Word) (q : Nat) (s u : State) : Prop :=
  u.cur.ctl.ecause = BitVec.ofNat 64 cause ∧ u.cur.ctl.eval = eval ∧ u.cur.ctl.epc = wordAddr s.cur.pc ∧ progressOf m u.cur = q

theorem trappedAt_setProgress {s x : State} {m : VMode} {q : Nat} {t : Thread} (hq : progressOf m (setProgress m q t) = q)
    (hpc : x.cur.pc = s.cur.pc) (hx : x.cur.ctl = (setProgress m q t).ctl) (cause : Nat) (eval erec : Word) :
    TrappedAt m cause eval q s (Safety.trapped cause eval erec x) := by
  obtain ⟨hcause, heval, hstart, hepc, -⟩ := trapped_leaves cause eval erec x
  obtain ⟨hprog, -⟩ := trapped_keeps cause eval erec x
  refine ⟨hcause, heval, hepc.trans (congrArg wordAddr hpc), ?_⟩
  rw [← hq]
  cases m with
  | tile => simp only [progressOf, eprogOf, hprog, hx]
  | unit => simp only [progressOf, vstartOf, hstart, hx]
  | strided => simp only [progressOf, vstartOf, hstart, hx]

section
variable {s : State} {f : Fmt} {ls : Nat → List Loc} {item : Nat → Item} (he : ∀ e, (item e).e = e) {q : Nat} {es : List Nat} {acc : Acc}
  (hl : ∀ e ∈ es, e < q → Placed s f acc (item e) (ls e) ∧ ∀ l ∈ ls e, locFenced s l = false)
include he hl

theorem anyFenced_below : anyFenced s (below q (es.map (elemAt s f acc item))) = false := by
  rw [below_map he]
  exact anyFenced_false fun e hmem => hl e (List.mem_of_mem_filter hmem) (of_decide_eq_true (List.mem_filter.mp hmem).2)

variable {m : VMode} (h : MemReady s m) (hq : q < 512) (hes : ∀ e ∈ es, e ∈ accessList s m)
include h hq hes

/-- A load that stops at `q` has written the elements below it, and no memory (R176, R190). -/
theorem loadRun_trapped {k : Kind} (hk : kindOf s.cur = some k) {dmg : Option (Nat × TrapInfo)}
    {info : TrapInfo} (hbad : minStop dmg (firstPoison s (es.map (elemAt s f acc item))) = some (q, info)) (load : Bool) (r : StopRule) (d : VReg)
    (i : Hint) (lo hi : Nat) (fin : (Thread → Thread) → State → State) :
    let u := loadRun r d f k i (es.map (elemAt s f acc item)) lo hi dmg fin (setProgress m) (begun m load s)
    TrappedAt m info.cause info.eval q s u ∧ u.mem = s.mem ∧ ∀ j, sewOf s.cur * j + sewOf s.cur ≤ 8192 → elt u.cur d (sewOf s.cur) j =
      if j ∈ es ∧ j < q then (loadedAt s f k item ls j).1 % 2 ^ sewOf s.cur else elt s.cur d (sewOf s.cur) j := by
  have hel : (begun m load s).cur.elim = none := by
    obtain ⟨-, -, -, hel, -⟩ := h
    rwa [begun_elim]
  intro u
  have hu : u = _ := loadRun_stopped hel (by rw [firstPoison_begun]; exact hbad) (by rw [anyFenced_begun]; exact anyFenced_below he hl)
    r d f k i lo hi fin (setProgress m)
  rw [loadElts_begun] at hu
  rw [hu]
  obtain ⟨-, -, -, -, hv, hmem, -⟩ := trapped_leaves info.cause info.eval info.erec (modT (fun t =>
    keepHint i (elemSectors (below q (es.map (elemAt s f acc item)))) lo q
      (setProgress m q (loadElts s d f k (es.map (elemAt s f acc item)) q t))) (begun m load s))
  refine ⟨trappedAt_setProgress (progressOf_setProgress hq m _) (by simp) (by rw [modT_cur, keepHint_ctl]) _ _ _, by simpa using hmem, fun j hj => ?_⟩
  rw [modT_cur, keepHint_v, setProgress_v] at hv
  rw [← width_of_kindOf hk] at hj ⊢
  rw [elt_of_v hv, elt_loadElts he (fun e hmem hlt => (hl e hmem hlt).1) d _ (fun e hmem => access_fits h hk (hes e hmem)) hj,
    elt_of_v (begun_v m load s)]

omit hes in
/-- A store that stops at `q` has stored the elements below it and nothing else (R177, R187). -/
theorem storeRun_trapped (k : Kind) (hs : es.Pairwise (· < ·)) (ha : ∀ e ∈ es, e < q → (item e).addr.toNat % ebytes f = 0)
    (hnib : ∀ e, (item e).nib < 2) (info : TrapInfo) (r : StopRule) (v : VReg) (lo hi : Nat) (fin : (Thread → Thread) → State → State) :
    let u := storeRun r v f k (es.map (elemAt s f acc item)) lo hi (some (q, info)) fin (setProgress m) s
    TrappedAt m info.cause info.eval q s u ∧
    (∀ l, (∀ e ∈ es, e < q → l ∉ ls e) → byteAt u l = byteAt s l) ∧
    (∀ e ∈ es, e < q → LastWriter (fun e' => decide (e' ∈ es) && decide (e' < q)) f item ls e →
      itemRead u f (item e) (ls e) = (storedAt s v f k e).1 % 2 ^ esz f) := by
  obtain ⟨-, -, -, hel, -⟩ := h
  intro u
  have hu : u = _ := storeRun_stopped hel (anyFenced_below he hl) r v f k lo hi fin (setProgress m)
  rw [storeElts_map he fun e hmem hlt => (hl e hmem hlt).1] at hu
  have hbyte (l : Loc) : byteAt u l =
      byteAt (writeAll (elementWrites f item ls (fun e => (storedAt s v f k e).1) (es.filter (· < q))) s) l := by
    rw [hu, byteAt_trapped]
    exact byteAt_writeAll_congr (byteAt_modT _ s) _ l
  have hbelow {e : Nat} : e ∈ es.filter (· < q) ↔ e ∈ es ∧ e < q := by simp
  refine ⟨?_, fun l hother => ?_, fun e hmem hlt hlast => ?_⟩
  · rw [hu]
    exact trappedAt_setProgress (progressOf_setProgress hq m _) (by simp) (by rw [writeAll_cur, modT_cur]) _ _ _
  · rw [hbyte]
    exact byteAt_elementWrites_other _ s fun e he => hother e (hbelow.mp he).1 (hbelow.mp he).2
  · rw [itemRead_congr fun l _ => hbyte l]
    refine itemRead_elementWrites_last _ s (fun e he => ?_) hnib (hs.filter _) (hbelow.mpr ⟨hmem, hlt⟩) fun e' he' => hlast e' ?_
    · obtain ⟨hmem, hlt⟩ := hbelow.mp he
      exact apiece_placed (ha e hmem hlt) (hl e hmem hlt).1
    · simpa using hbelow.mp he'

end

/-! ### Which fault is taken -/

/-- The trap of a failing element is ADDR or, where it has no translation, that of its access (R186, R187, R189). -/
theorem badTrap_eq {bad : Bad} (h : bad ≠ .ecc) (miss : Nat) (a : Word) : badTrap miss bad a = ⟨if bad = .addr then 0x05 else miss, a, 0⟩ := by
  cases bad with
  | addr => rfl
  | miss => rfl
  | ecc => exact absurd rfl h

/-- Where an access whose lowest failing element is `g` stops: there, or at the first element of its row (R187, R189). -/
def failStop (t : Thread) (m : VMode) (g : Nat) : Nat :=
  match m with
  | .tile => g / vlOf t * vlOf t
  | _ => g

theorem failStop_le (t : Thread) (m : VMode) (g : Nat) : failStop t m g ≤ g := by
  cases m with
  | tile => exact Nat.div_mul_le_self g _
  | unit => exact le_rfl
  | strided => exact le_rfl

theorem failStop_single {m : VMode} (hm : m ≠ .tile) (t : Thread) (g : Nat) : failStop t m g = g := by
  cases m with
  | tile => exact absurd rfl hm
  | unit => rfl
  | strided => rfl

theorem head?_of_least {es : List Nat} (hs : es.Pairwise (· < ·)) {g : Nat} (hg : g ∈ es) (h : ∀ e ∈ es, ¬ e < g) : es.head? = some g := by
  cases es with
  | nil => cases hg
  | cons a es =>
    rcases List.mem_cons.mp hg with rfl | hmem
    · rfl
    · exact absurd ((List.pairwise_cons.mp hs).1 g hmem) (h a List.mem_cons_self)

/-- An ascending list begins with `g` where `g` is the least of it. -/
theorem head?_ne_of_lower {es : List Nat} (hs : es.Pairwise (· < ·)) {g e : Nat} (he : e ∈ es) (hlt : e < g) : es.head? ≠ some g := by
  intro hhead
  obtain ⟨tail, rfl⟩ := List.head?_eq_some_iff.mp hhead
  rcases List.mem_cons.mp he with rfl | hmem
  · exact lt_irrefl _ hlt
  · exact lt_asymm hlt ((List.pairwise_cons.mp hs).1 e hmem)

theorem head?_elements {s : State} {f : Fmt} {acc : Acc} {item : Nat → Item} (he : ∀ e, (item e).e = e) (es : List Nat) :
    (es.map (elemAt s f acc item)).head?.map (·.it.e) = es.head? := by
  rw [List.head?_map, Option.map_map, show (fun x : Elem => x.it.e) ∘ elemAt s f acc item = id from funext he, Option.map_id, id]

section
variable {s : State} {m : VMode} (h : MemReady s m) {k : Kind} (hk : kindOf s.cur = some k) {f : Fmt} (hok : pairOk f (some k) = true)
  {ls : Nat → List Loc} {b : SReg} {x : BitVec 6}
  (ha : ∀ e ∈ accessList s m, (vmItem s b f m x e).addr.toNat % ebytes f = 0)
  {g : Nat} (hg : g ∈ accessList s m) {bad : Bad} {a : Word} (hbad : bad ≠ .ecc)
include h hk hok ha hg hbad

section
variable (hfail : xlatN s s.cur (vmItem s b f m x g).addr (ebytes f) .load = .error (bad, a))
  (hl : ∀ e ∈ accessList s m, e < g → Placed s f .load (vmItem s b f m x e) (ls e))
include hfail hl

/-- A unit or strided load is trimmed at its lowest failing element, if it performs one below it (R186). -/
theorem exec_vld_trimmed (hm : m ≠ .tile) (hfirst : ∃ e ∈ accessList s m, e < g) (v : VReg) (i : Hint) :
    exec (.vld v b f m i x) s = .next (loadRun (loadRule s.cur) v f k i
      (below g ((accessList s m).map (elemAt s f .load (vmItem s b f m x)))) (firstOf s.cur m) g none
      (fun r => finishV (fun t => setTrim true (setVl g (r t)))) setVstart (begun m true s)) := by
  have hleast := firstFail_least (accessList_pairwise s m) hg hfail hl
  have hhead : (accessList s m).head? ≠ some g := by
    obtain ⟨e, he, hlt⟩ := hfirst
    exact head?_ne_of_lower (accessList_pairwise s m) he hlt
  simp only [exec_vld, execVld, guardMem_ready h hk hok ha, elemsOf_eq, actives_access, hleast, memReady_firstDmg h,
    head?_elements (vmItem_e s b f m x), vmItem_e, hhead, hbad, decide_false, Bool.or_false, Bool.false_eq_true, if_false]
  cases m with
  | tile => exact absurd rfl hm
  | unit => rfl
  | strided => rfl

omit hl in
/-- A unit or strided load whose first active element fails traps there (R186). -/
theorem exec_vld_first (hm : m ≠ .tile) (hfirst : ∀ e ∈ accessList s m, ¬ e < g) (v : VReg) (i : Hint) :
    exec (.vld v b f m i x) s = .next (Safety.trapped (if bad = .addr then 0x05 else 0x10) (vmItem s b f m x g).addr 0 (cleared m true s)) := by
  have hleast := firstFail_least (ls := fun _ => []) (accessList_pairwise s m) hg hfail fun e he hlt => absurd hlt (hfirst e he)
  have hhead := head?_of_least (accessList_pairwise s m) hg hfirst
  have ⟨_, _, _, hel, _⟩ := h
  have hstop (r : StopRule) (lo hi : Nat) : stopAt (modT (setTrim false) s).cur r lo hi none = none := stopAt_unasked hel ..
  simp only [exec_vld, execVld, guardMem_ready h hk hok ha, elemsOf_eq, actives_access, hleast, memReady_firstDmg h,
    head?_elements (vmItem_e s b f m x), vmItem_e, hhead, hbad, decide_true, Bool.true_or, if_true, failAt, hstop, Option.isSome_none,
    Bool.false_eq_true, if_false, failInfo, badTrap_eq hbad, trap_eq, cleared_load hm]
  cases m with
  | tile => exact absurd rfl hm
  | unit => rfl
  | strided => rfl

/-- A tile load performs the rows below that of its lowest failing element (R189). -/
theorem exec_vld_row (hm : m = .tile) (v : VReg) (i : Hint) :
    exec (.vld v b f m i x) s = .next (loadRun (tileRule s.cur) v f k i
      (below (failStop s.cur m g) ((accessList s m).map (elemAt s f .load (vmItem s b f m x)))) (firstOf s.cur m) (countOf s.cur m)
      (some (failStop s.cur m g, ⟨if bad = .addr then 0x05 else 0x13, (vmItem s b f m x g).addr, 0⟩)) (finishAccess m) (setProgress m)
      (begun m true s)) := by
  subst hm
  have hleast := firstFail_least (accessList_pairwise s .tile) hg hfail hl
  simp only [exec_vld, execVld, guardMem_ready h hk hok ha, elemsOf_eq, actives_access, hleast, memReady_firstDmg h, vmItem_e, failInfo,
    badTrap_eq hbad, minStop_none_left]
  rfl

end

/-- A store stops at its lowest failing element, a tile store at the row of that (R187, R189). -/
theorem exec_vst_fails (hfail : xlatN s s.cur (vmItem s b f m x g).addr (ebytes f) .store = .error (bad, a))
    (hl : ∀ e ∈ accessList s m, e < g → Placed s f .store (vmItem s b f m x e) (ls e)) (v : VReg) (i : Hint) :
    exec (.vst v b f m i x) s = .next (storeRun (storeStops s.cur m) v f k
      (below (failStop s.cur m g) ((accessList s m).map (elemAt s f .store (vmItem s b f m x)))) (firstOf s.cur m) (countOf s.cur m)
      (some (failStop s.cur m g, ⟨if bad = .addr then 0x05 else if m = .tile then 0x13 else 0x11, (vmItem s b f m x g).addr, 0⟩))
      (finishAccess m) (setProgress m) s) := by
  have hleast := firstFail_least (accessList_pairwise s m) hg hfail hl
  simp only [exec_vst, execVst, guardMem_ready h hk hok ha, elemsOf_eq, actives_access, hleast, memReady_firstDmg h, failInfo,
    minStop_none_left]
  cases m <;> simp only [hbad, if_false, badTrap_eq hbad, vmItem_e] <;> rfl

end

end Sys2Proof.Machine
end

section
/-! SUPPORT. The gather fault of an indexed access and its record (06 R188; 13 R353). -/

namespace Sys2Proof.Machine

open Sys2Proof.Safety

theorem length_gatherRecord (acc : Nat) (l : List Elem) : (gatherRecord acc l).length = 256 := by
  simp [gatherRecord, List.length_flatMap]

/-- The record goes to the thread's frame, and nowhere else. -/
def RecordOnly (s u : State) : Prop :=
  u.cur = s.cur ∧ u.others = s.others ∧ u.cores = s.cores ∧ u.pkg = s.pkg ∧
    ∀ pa, (∀ q, framePa s (s.cur.frame * 65536 + 0x40) = some q → pa < q ∨ q + 256 ≤ pa) → readPhys u pa = readPhys s pa

theorem recordOnly_writeRecord {bs : List Byte} (hlen : bs.length = 256) (s : State) : RecordOnly s (writeRecord bs s) := by
  unfold writeRecord
  cases hq : framePa s (s.cur.frame * 65536 + 0x40) with
  | none => exact ⟨rfl, rfl, rfl, rfl, fun _ _ => rfl⟩
  | some q =>
    have hmem := onlyMemory_writeAll (wrBytes (physLocs q bs.length) bs) s
    have hothers : (writeAll (wrBytes (physLocs q bs.length) bs) s).others = s.others := by rw [hmem]
    have hpkg : (writeAll (wrBytes (physLocs q bs.length) bs) s).pkg = s.pkg := by rw [hmem]
    refine ⟨writeAll_cur _ s, hothers, cores_writeAll _ s fun w hw => ?_, hpkg, fun pa hpa => ?_⟩
    · obtain ⟨p, hp, rfl⟩ := List.mem_map.mp hw
      obtain ⟨i, -, hi⟩ := List.mem_map.mp (List.of_mem_zip hp).1
      exact ⟨q + i, hi.symm⟩
    · refine byteAt_wrBytes_other (fun hmem => ?_) bs s
      obtain ⟨i, hi, he⟩ := List.mem_map.mp hmem
      have hlt := List.mem_range.mp hi
      have hpa := hpa q hq
      cases he
      omega

section
variable {s : State} {f : Fmt} {acc : Acc} {item : Nat → Item} {es : List Nat} {g : Nat} {bad : Bad} {a : Word}
  (hg : g ∈ es) (hbad : xlatN s s.cur (item g).addr (ebytes f) acc = .error (bad, a))
include hg hbad

theorem firstFail_isSome : (firstFail (es.map (elemAt s f acc item))).isSome = true := by
  rw [firstFail, List.findSome?_isSome_iff]
  exact ⟨_, List.mem_map_of_mem hg, by rw [elemBad_failed hbad]; rfl⟩

/-- A gather or scatter with a failing element traps PFGA with its record, before any element (R188). -/
theorem guardXlat_fails (hecc : ∀ e ∈ es, ∀ y, xlatN s s.cur (item e).addr (ebytes f) acc ≠ .error (.ecc, y)) (n : Nat) (base : Word)
    (run : State) : guardXlat n base (es.map (elemAt s f acc item)) s run =
      Safety.trapped 0x12 base (erecOf s.cur) (writeRecord (gatherRecord n (es.map (elemAt s f acc item))) s) := by
  have hnone : (es.map (elemAt s f acc item)).find? (fun x => elemBad x == some .ecc) = none := by
    rw [List.find?_eq_none]
    intro x hx
    obtain ⟨e, hmem, rfl⟩ := List.mem_map.mp hx
    have hne := hecc e hmem
    cases hx : xlatN s s.cur (item e).addr (ebytes f) acc with
    | ok p => simp [elemBad_placed ⟨p.2, hx⟩]
    | error p =>
      obtain ⟨b, y⟩ := p
      have hb : b ≠ .ecc := fun hb => hne y (hb ▸ hx)
      simp [elemBad_failed hx, hb]
  simp only [guardXlat, hnone, firstFail_isSome hg hbad, if_true, trap_eq]
  rfl

end

section
variable {s : State} (h : MemReady s .unit) {k : Kind} (hk : kindOf s.cur = some k) {f : Fmt} (hok : pairOk f (some k) = true)
  {b : SReg} {i : VReg} (ha : ∀ e ∈ accessList s .unit, (idxItem s b f i e).addr.toNat % ebytes f = 0)
  {g : Nat} (hg : g ∈ accessList s .unit) {bad : Bad} {a : Word}
include h hk hok ha hg

theorem exec_vldx_fails (hbad : xlatN s s.cur (idxItem s b f i g).addr (ebytes f) .load = .error (bad, a))
    (hecc : ∀ e ∈ accessList s .unit, ∀ y, xlatN s s.cur (idxItem s b f i e).addr (ebytes f) .load ≠ .error (.ecc, y)) (v : VReg) (j : Hint) :
    ∃ u, exec (.vldx v b f j i) s = .next (Safety.trapped 0x12 (reg s b) (erecOf s.cur) u) ∧ RecordOnly s u := by
  have ⟨⟨hp, _⟩, _⟩ := h
  refine ⟨writeRecord (gatherRecord 0 ((accessList s .unit).map (elemAt s f .load (idxItem s b f i)))) s, ?_,
    recordOnly_writeRecord (length_gatherRecord 0 _) s⟩
  simp only [exec_vldx, execVldx, guardMem_indexed h hk hok ha, elemsOf_indexed, guardXlat_fails hg hbad hecc, rs_quiet _ hp, sreg_eq_reg]

theorem exec_vstx_fails (hbad : xlatN s s.cur (idxItem s b f i g).addr (ebytes f) .store = .error (bad, a))
    (hecc : ∀ e ∈ accessList s .unit, ∀ y, xlatN s s.cur (idxItem s b f i e).addr (ebytes f) .store ≠ .error (.ecc, y)) (v : VReg) (j : Hint) :
    ∃ u, exec (.vstx v b f j i) s = .next (Safety.trapped 0x12 (reg s b) (erecOf s.cur) u) ∧ RecordOnly s u := by
  have ⟨⟨hp, _⟩, _⟩ := h
  refine ⟨writeRecord (gatherRecord 1 ((accessList s .unit).map (elemAt s f .store (idxItem s b f i)))) s, ?_,
    recordOnly_writeRecord (length_gatherRecord 1 _) s⟩
  simp only [exec_vstx, execVstx, guardMem_indexed h hk hok ha, elemsOf_indexed, guardXlat_fails hg hbad hecc, rs_quiet _ hp, sreg_eq_reg]

end

end Sys2Proof.Machine
end

section
/-! SUPPORT. A rounded single-precision number is a pattern of 32 bits, and a sum of elements an element (02 R52, R63; 05 R152). -/

namespace Sys2Proof.Machine

open Sys2Proof.Safety

/-- A magnitude in units that leave it at most `p` bits rounds to at most 2^p of them (R63). -/
theorem roundUnits_le (md : Rm) (neg : Bool) {m p : Nat} {e q : Int} (hm : m ≠ 0) (hq : topExp m e - p < q) :
    (roundUnits md neg m e q).1 ≤ 2 ^ p := by
  have hlt : m < 2 ^ (Nat.log2 m + 1) := (Nat.log2_lt hm).mp (Nat.lt_succ_self _)
  unfold topExp at hq
  unfold roundUnits
  split
  next h =>
    calc m * 2 ^ (e - q).toNat ≤ 2 ^ (Nat.log2 m + 1) * 2 ^ (e - q).toNat := Nat.mul_le_mul_right _ hlt.le
      _ = 2 ^ (Nat.log2 m + 1 + (e - q).toNat) := (pow_add ..).symm
      _ ≤ 2 ^ p := Nat.pow_le_pow_right (by decide) (by omega)
  next h =>
    have hdiv : m / 2 ^ (q - e).toNat < 2 ^ p := by
      refine Nat.div_lt_of_lt_mul (hlt.trans_le ?_)
      rw [← pow_add]
      exact Nat.pow_le_pow_right (by decide) (by omega)
    dsimp only
    split <;> omega

theorem roundTo_lt {f : FForm} (hp : 0 < f.p) (md : Rm) (neg : Bool) {m : Nat} (hm : m ≠ 0) (e : Int) : (roundTo f md neg m e).1 < 2 ^ f.p := by
  have hle := roundUnits_le md neg (p := f.p) (e := e) (q := max (topExp m e) f.emin - (f.p - 1)) hm (by omega)
  have hpow : 2 ^ (f.p - 1) < 2 ^ f.p := Nat.pow_lt_pow_right (by decide) (by omega)
  unfold roundTo
  dsimp only
  split
  next h => exact hpow
  next h => exact lt_of_le_of_ne hle h

/-- Units below 2^24 that do not overflow make a pattern of 31 bits beside the sign. -/
theorem packUnits_form32_lt (neg : Bool) {u : Nat} {q : Int} (hu : u < 2 ^ 24) (hq : q + Nat.log2 u ≤ 127) :
    packUnits form32 neg u q < 2 ^ 32 := by
  have hs := Bool.toNat_lt neg
  unfold packUnits
  split
  next h =>
    simp only [form32] at h ⊢
    omega
  next h =>
    simp only [form32] at h ⊢
    have hlog : 23 ≤ Nat.log2 u := (Nat.le_log2 (by omega)).mpr (by omega)
    have hfield : (q + ((24 : Nat) - 1) - -126 + 1).toNat ≤ 254 := by omega
    have hfield' := Nat.mul_le_mul_right (2 ^ 23) hfield
    omega

theorem packNum_form32_lt (v : Num) : (packNum form32 .rne v).1 < 2 ^ 32 := by
  cases v with
  | nan => decide
  | inf s => cases s <;> decide
  | fin s m e =>
    simp only [packNum, packFin]
    split
    · cases s <;> decide
    next hm =>
      have hlt := roundTo_lt (f := form32) (by decide) .rne s hm e
      split
      next h => cases s <;> decide
      next h => exact packUnits_form32_lt s hlt (not_lt.mp h)

/-- A sum of elements of a kind that VAMOADD takes has the width of the kind (R291). -/
theorem arith_add_lt {k : Kind} (hk : k = .fp32 ∨ isFloat k = false) (a b : Nat) : (arith .add k a b 0).1 < 2 ^ k.width := by
  obtain rfl | hk := hk
  · exact packNum_form32_lt _
  · rw [arith_add_int hk]
    exact Nat.mod_lt _ (Nat.two_pow_pos _)

end Sys2Proof.Machine
end

section
/-! SUPPORT. VAMOADD where an element fails, names device I/O or reads poison (10 R291). -/

namespace Sys2Proof.Machine

open Sys2Proof.Safety

/-! ### The run of a VAMOADD -/

/-- The formats that VAMOADD takes, each with its own VTYPE (R291). -/
def VamoPair (f : Fmt) (k : Kind) : Prop := (f, k) = (.fp32, .fp32) ∨ (f, k) = (.int32, .i32) ∨ (f, k) = (.int64, .i64)

section
variable {f : Fmt} {k : Kind} (h : VamoPair f k)
include h

theorem vamoPair_ok : vamoOk f (some k) = true ∧ pairOk f (some k) = true := by
  obtain h | h | h := h <;> cases h <;> exact ⟨rfl, rfl⟩

theorem vamoPair_bytes : k.width / 8 = ebytes f ∧ 256 ^ ebytes f = 2 ^ k.width := by
  obtain h | h | h := h <;> cases h <;> exact ⟨rfl, rfl⟩

theorem vamoPair_sum_lt (a b : Nat) : (arith .add k a b 0).1 < 2 ^ k.width := by
  obtain h | h | h := h <;> cases h
  · exact arith_add_lt (.inl rfl) a b
  · exact arith_add_lt (.inr rfl) a b
  · exact arith_add_lt (.inr rfl) a b

end

/-- An element on a page of CLASS device-io (R291). -/
def isDevice (x : Elem) : Bool :=
  match x.out with
  | .ok (_, cls) => cls == 3
  | .error _ => false

/-- What a VAMOADD does once its elements are translated. -/
def vamoRun (v : VReg) (k : Kind) (sew : Nat) (i : VReg) (l : List Elem) (s : State) : State :=
  match l.find? isDevice with
  | some x => trap ⟨cADDR, x.it.addr, 0⟩ s
  | none =>
    match stopAt s.cur (groups s.cur) (vstartOf s.cur) (vlOf s.cur) (minStop
        (minStop (firstDmg s.cur [(i, sew), (v, k.width)] [] (vstartOf s.cur) (vlOf s.cur)) (firstPoison s l)) (firstFenced s l)) with
    | none => finishV (orFlags (vamoElts v k l (vlOf s.cur) s).2) (vamoElts v k l (vlOf s.cur) s).1
    | some (g, why) =>
      stopBy why (modT (fun t => setVstart g (orFlags (vamoElts v k l g s).2 t)) (vamoLost v k l g why s (vamoElts v k l g s).1))

theorem exec_vamoadd_checked {s : State} (h : MemReady s .unit) {f : Fmt} {k : Kind} (hk : kindOf s.cur = some k) (hpair : VamoPair f k)
    {b : SReg} {i : VReg} (ha : ∀ e ∈ accessList s .unit, (idxItem s b f i e).addr.toNat % ebytes f = 0) (v : VReg) (c : Scope) (aq rl : Bool) :
    exec (.vamoadd v b f c aq rl i) s = .next (guardXlat 2 (reg s b) ((accessList s .unit).map (elemAt s f .store (idxItem s b f i))) s
      (vamoRun v k (sewOf s.cur) i ((accessList s .unit).map (elemAt s f .store (idxItem s b f i))) s)) := by
  obtain ⟨hvamo, hok⟩ := vamoPair_ok hpair
  have ⟨⟨hp, _⟩, _⟩ := h
  simp only [exec_vamoadd, execVamoadd, hk, hvamo, Bool.not_true, Bool.false_eq_true, if_false, guardMem_indexed h hk hok ha, elemsOf_indexed,
    rs_quiet _ hp, sreg_eq_reg]
  rfl

/-- An element that lies on a page of class `c`. -/
theorem isDevice_placed {s : State} {f : Fmt} {acc : Acc} {item : Nat → Item} {e c : Nat} {ls : List Loc}
    (h : xlatN s s.cur (item e).addr (ebytes f) acc = .ok (ls, c)) : isDevice (elemAt s f acc item e) = (c == 3) := by
  simp only [isDevice, elemAt, itemPlaces, h]

/-- A VAMOADD that names a device-io page traps before any element (R291). -/
theorem vamoRun_device {s : State} {f : Fmt} {item : Nat → Item} {es : List Nat} (hs : es.Pairwise (· < ·)) {ls : Nat → List Loc} {g : Nat}
    (hg : g ∈ es) (hdev : xlatN s s.cur (item g).addr (ebytes f) .store = .ok (ls g, 3))
    (hl : ∀ e ∈ es, e < g → ∃ c, c ≠ 3 ∧ xlatN s s.cur (item e).addr (ebytes f) .store = .ok (ls e, c)) (v : VReg) (k : Kind) (sew : Nat)
    (i : VReg) : vamoRun v k sew i (es.map (elemAt s f .store item)) s = Safety.trapped 0x05 (item g).addr 0 s := by
  have hfind : (es.map (elemAt s f .store item)).find? isDevice = some (elemAt s f .store item g) := by
    rw [List.find?_map, find?_of_least hs hg]
    · rfl
    · rw [Function.comp_apply, isDevice_placed hdev]
      rfl
    · intro e hmem hlt
      obtain ⟨c, hc, hx⟩ := hl e hmem hlt
      rw [Function.comp_apply, isDevice_placed hx]
      exact beq_false_of_ne hc
  simp only [vamoRun, hfind, trap_eq]
  rfl

/-- Below the first element that reads poison no home is lost, so that the poison is met first (R291). -/
theorem minStop_firstFenced {s : State} (hel : s.cur.elim = none) {f : Fmt} {acc : Acc} {item : Nat → Item} (he : ∀ e, (item e).e = e)
    {es : List Nat} {ls : Nat → List Loc} {g : Nat} (hl : ∀ e ∈ es, e < g → Placed s f acc (item e) (ls e) ∧ ∀ l ∈ ls e, locFenced s l = false)
    (info : TrapInfo) :
    minStop (some (g, info)) (firstFenced s (es.map (elemAt s f acc item))) = some (g, info) := by
  unfold firstFenced
  cases hfind : (es.map (elemAt s f acc item)).find? (fun x => (elemLocs x).any (homeLost s fun g => decide (g ≤ x.it.e))) with
  | none => rfl
  | some x =>
    obtain ⟨e, hmem, rfl⟩ := List.mem_map.mp (List.mem_of_find?_eq_some hfind)
    have hlost := List.find?_some hfind
    have hge : g ≤ e := by
      by_contra hlt
      obtain ⟨hp, hf⟩ := hl e hmem (not_le.mp hlt)
      rw [elemLocs_placed hp] at hlost
      obtain ⟨l, hmem, hlost⟩ := List.any_eq_true.mp hlost
      simp [homeLost, hf l hmem, replyLost, hel] at hlost
    rw [Option.map_some]
    exact minStop_first (by rw [elemAt, he]; exact hge) _ _

/-! ### The elements performed -/

theorem foldl_fst {α σ : Type} (r : α → σ → σ × Flags) (l : List α) (s : σ) (fl : Flags) :
    (l.foldl (fun p x => ((r x p.1).1, p.2 ||| (r x p.1).2)) (s, fl)).1 = l.foldl (fun s x => (r x s).1) s := by
  induction l generalizing s fl with
  | nil => rfl
  | cons a l ih => rw [List.foldl_cons, ih, List.foldl_cons]

/-- Element `e` of v added to the word at its places (R291). -/
def addAt (v : VReg) (k : Kind) (ls : Nat → List Loc) (s : State) (e : Nat) : State :=
  writeAll (wrBytes (ls e) (leBytes (k.width / 8) (arith .add k (valueAt s (ls e)) (elt s.cur v k.width e) 0).1)) s

theorem vamoElts_map {s : State} {f : Fmt} {acc : Acc} {item : Nat → Item} (he : ∀ e, (item e).e = e) {es : List Nat} {ls : Nat → List Loc}
    {g : Nat} (hl : ∀ e ∈ es, e < g → Placed s f acc (item e) (ls e)) (v : VReg) (k : Kind) (u : State) :
    (vamoElts v k (es.map (elemAt s f acc item)) g u).1 = (es.filter (· < g)).foldl (addAt v k ls) u := by
  refine (foldl_fst (vamoElt v k) (below g (es.map (elemAt s f acc item))) u 0).trans ?_
  rw [below_map he, List.foldl_map]
  refine List.foldl_ext _ _ _ fun y e hmem => ?_
  obtain ⟨hmem, hlt⟩ := List.mem_filter.mp hmem
  have hlocs := elemLocs_placed (hl e hmem (of_decide_eq_true hlt))
  simp only [vamoElt, hlocs, addAt, valueAt, readBytes]
  simp only [elemAt, he]

section
variable {v : VReg} {k : Kind} {ls : Nat → List Loc}

theorem foldl_addAt_cur (es : List Nat) (s : State) : (es.foldl (addAt v k ls) s).cur = s.cur := by
  induction es generalizing s with
  | nil => rfl
  | cons e es ih => rw [List.foldl_cons, ih, addAt, writeAll_cur]

theorem byteAt_foldl_addAt {es : List Nat} {l : Loc} (h : ∀ e ∈ es, l ∉ ls e) (s : State) : byteAt (es.foldl (addAt v k ls) s) l = byteAt s l := by
  induction es generalizing s with
  | nil => rfl
  | cons e es ih =>
    rw [List.foldl_cons, ih fun e' he' => h e' (List.mem_cons_of_mem e he')]
    exact byteAt_wrBytes_other (h e List.mem_cons_self) _ s

theorem valueAt_congr {s u : State} {q : List Loc} (h : ∀ l ∈ q, byteAt u l = byteAt s l) : valueAt u q = valueAt s q := by
  rw [valueAt, valueAt, List.map_congr_left h]

/-- With elements that share no byte each word holds the sum with its element (R291). -/
theorem valueAt_foldl_addAt {f : Fmt} (hpair : VamoPair f k) {es : List Nat} (hnd : es.Nodup) (hls : ∀ e ∈ es, Apiece f (ls e))
    (hapart : ∀ e ∈ es, ∀ e' ∈ es, e ≠ e' → ∀ l ∈ ls e, l ∉ ls e') {e : Nat} (he : e ∈ es) (s : State) :
    valueAt (es.foldl (addAt v k ls) s) (ls e) = (arith .add k (valueAt s (ls e)) (elt s.cur v k.width e) 0).1 := by
  obtain ⟨hwidth, hpow⟩ := vamoPair_bytes hpair
  obtain ⟨pre, post, rfl⟩ := List.append_of_mem he
  have hne : ∀ e' ∈ pre ++ post, e ≠ e' := fun e' he' heq => by
    subst heq
    exact (List.nodup_middle.mp hnd |> List.nodup_cons.mp).1 he'
  have hother (e') (he' : e' ∈ pre ++ post) : ∀ l ∈ ls e, l ∉ ls e' :=
    hapart e he e' (by rcases List.mem_append.mp he' with h | h <;> simp [h]) (hne e' he')
  rw [List.foldl_append, List.foldl_cons]
  set x := pre.foldl (addAt v k ls) s with hx
  have hbefore : valueAt x (ls e) = valueAt s (ls e) :=
    valueAt_congr fun l hl => byteAt_foldl_addAt (fun e' he' => hother e' (List.mem_append_left _ he') l hl) s
  have hcur : x.cur = s.cur := foldl_addAt_cur pre s
  have hafter : valueAt (post.foldl (addAt v k ls) (addAt v k ls x e)) (ls e) = valueAt (addAt v k ls x e) (ls e) :=
    valueAt_congr fun l hl => byteAt_foldl_addAt (fun e' he' => hother e' (List.mem_append_right _ he') l hl) _
  obtain ⟨hlen, hnodup⟩ := hls e he
  have hread := readBytes_written hnodup (bs := leBytes (k.width / 8) (arith .add k (valueAt x (ls e)) (elt x.cur v k.width e) 0).1)
    ((length_leBytes _ _).trans (hwidth.trans hlen.symm)) x
  rw [readBytes] at hread
  rw [hafter, addAt, valueAt, hread, ofBytes_leBytes, hwidth, hpow, Nat.mod_eq_of_lt (vamoPair_sum_lt hpair _ _), hbefore, hcur]

end

/-- A VAMOADD that reads poison has performed the elements below it and no other (R291). -/
theorem vamoRun_poisoned {s : State} (h : MemReady s .unit) {f : Fmt} {k : Kind} {item : Nat → Item} (he : ∀ e, (item e).e = e)
    {ls : Nat → List Loc} {g : Nat} (hg : g ∈ accessList s .unit)
    (hclass : ∀ e ∈ accessList s .unit, ∃ c, c ≠ 3 ∧ xlatN s s.cur (item e).addr (ebytes f) .store = .ok (ls e, c))
    (hl : ∀ e ∈ accessList s .unit, e < g → (∀ l ∈ ls e, locFenced s l = false) ∧ Clean s (ls e))
    (hbad : ∃ l ∈ ls g, poisoned s l = true) (v i : VReg) (sew : Nat) :
    ∃ fl, vamoRun v k sew i ((accessList s .unit).map (elemAt s f .store item)) s = Safety.trapped 0x19 (item g).addr 0
      (modT (fun t => setVstart g (orFlags fl t)) (((accessList s .unit).filter (· < g)).foldl (addAt v k ls) s)) := by
  have hplaced (e) (hmem : e ∈ accessList s .unit) : Placed s f .store (item e) (ls e) := by
    obtain ⟨c, -, hx⟩ := hclass e hmem
    exact ⟨c, hx⟩
  have hnone : ((accessList s .unit).map (elemAt s f .store item)).find? isDevice = none := by
    rw [List.find?_eq_none]
    intro x hx
    obtain ⟨e, hmem, rfl⟩ := List.mem_map.mp hx
    obtain ⟨c, hc, hx⟩ := hclass e hmem
    simp [isDevice_placed hx, hc]
  have hpoison := firstPoison_least he (u := s) (accessList_pairwise s .unit) hg (hplaced g hg) hbad
    fun e hmem hlt => ⟨hplaced e hmem, (hl e hmem hlt).2⟩
  have ⟨_, _, _, hel, _⟩ := h
  have hstop := minStop_firstFenced hel he (fun e hmem hlt => ⟨hplaced e hmem, (hl e hmem hlt).1⟩) ⟨cECC, (item g).addr, 0⟩
  refine ⟨(vamoElts v k ((accessList s .unit).map (elemAt s f .store item)) g s).2, ?_⟩
  have hlost (x : State) : vamoLost v k ((accessList s .unit).map (elemAt s f .store item)) g (.trap ⟨cECC, (item g).addr, 0⟩) s x = x := by
    unfold vamoLost
    split
    · next heq _ =>
      cases heq
      rfl
    · rfl
  rw [← vamoElts_map he fun e hmem _ => hplaced e hmem]
  simp only [vamoRun, hnone, memReady_firstDmg h, minStop_none_left, hpoison, hstop, stopAt_unasked hel, Option.map_some, hlost, stopBy, trap_eq]
  rfl

end Sys2Proof.Machine
end

section
/-! SUPPORT. A map step leaves the thread as it was but for the map itself (07 R200-R206). -/

namespace Sys2Proof.Machine

open Sys2Proof.Safety

/-! ### Writes to memory and to a core -/

theorem foldl_cur {α : Type} {r : State → α → State} (h : ∀ s x, (r s x).cur = s.cur) (l : List α) (s : State) :
    (l.foldl r s).cur = s.cur := by
  induction l generalizing s with
  | nil => rfl
  | cons x l ih => rw [List.foldl_cons, ih, h]

@[simp] theorem poisonSector_cur (q : Loc) (s : State) : (poisonSector q s).cur = s.cur := by cases q <;> rfl

@[simp] theorem wrPhys_cur (pa n x : Nat) (s : State) : (wrPhys pa n x s).cur = s.cur := by
  unfold wrPhys plainSectors
  split <;> exact writeAll_cur _ s

@[simp] theorem frameWr_cur (frame off n x : Nat) (s : State) : (frameWr frame off n x s).cur = s.cur := by
  unfold frameWr
  split
  · exact wrPhys_cur _ _ _ s
  · rfl

@[simp] theorem postFault_cur (ws : List Word) (s : State) : (postFault ws s).cur = s.cur := rfl

@[simp] theorem hdrWr_cur (cid w n x : Nat) (s : State) : (hdrWr cid w n x s).cur = s.cur := writeAll_cur _ s
@[simp] theorem flagsWr_cur (cid w : Nat) (f : Word) (s : State) : (flagsWr cid w f s).cur = s.cur := hdrWr_cur ..
@[simp] theorem noteHeader_cur (cid w : Nat) (s : State) : (noteHeader cid w s).cur = s.cur := rfl

@[simp] theorem intoSlot_cur (cid slot : Nat) (f : Core → Core) (s : State) : (intoSlot cid slot f s).cur = s.cur := by
  unfold intoSlot
  split <;> rfl

@[simp] theorem noteTile_cur (s0 : State) (pg a : Word) (s : State) : (noteTile s0 pg a s).cur = s.cur := by
  obtain ⟨g, p, h⟩ := noteTile_units s0 pg a s
  rw [h]

@[simp] theorem tileIn_cur (cid slot : Nat) (ls : List Loc) (s : State) : (tileIn cid slot ls s).cur = s.cur := rfl

@[simp] theorem tileOut_cur (cid slot : Nat) (ls : List Loc) (s : State) : (tileOut cid slot ls s).cur = s.cur := by
  refine (foldl_cur (fun s e => ?_) _ _).trans (writeAll_cur _ s)
  split
  · exact poisonSector_cur _ s
  · rfl

/-! ### Records -/

@[simp] theorem owesTail_cur (cid : Nat) (s : State) : (owesTail cid s).cur = s.cur := by
  unfold owesTail
  split <;> rfl

@[simp] theorem putRecs_cur (cid owe : Nat) (who : Option Nat) (rs data : List (BitVec 128)) (s : State) :
    (putRecs cid owe who rs data s).cur = s.cur := by
  unfold putRecs
  dsimp only
  split
  · exact owesTail_cur ..
  · split
    · exact owesTail_cur ..
    · split <;> rfl

@[simp] theorem mapPoint_cur (t : Thread) (ev reg src slot : Nat) (foreign : Bool) (s : State) :
    (mapPoint t ev reg src slot foreign s).cur = s.cur := by
  unfold mapPoint
  split
  · rfl
  · exact putRecs_cur ..

@[simp] theorem mapSpan_cur (t : Thread) (spill : Bool) (reg slot : Nat) (foreign : Bool) (ls : List Loc) (s : State) :
    (mapSpan t spill reg slot foreign ls s).cur = s.cur := by
  unfold mapSpan
  dsimp only
  rw [modCore_cur]
  split
  · exact putRecs_cur ..
  · rfl

/-! ### The movements of a map step -/

@[simp] theorem resetMerge_cur (cid w : Nat) (s : State) : (resetMerge cid w s).cur = s.cur :=
  (foldl_cur (fun s _ => hdrWr_cur _ _ _ _ s) _ _).trans (intoSlot_cur ..)

@[simp] theorem unbind_cur (cid slot : Nat) (s : State) : (unbind cid slot s).cur = s.cur := by
  unfold unbind
  dsimp only
  split
  · rfl
  · split
    · split <;> simp
    · simp

@[simp] theorem lostSpill_cur (frame reg : Nat) (addr : Word) (s : State) : (lostSpill frame reg addr s).cur = s.cur := by
  simp only [lostSpill, postFault_cur, frameWr_cur]

@[simp] theorem foreignOut_cur (who : Option Thread) (cid slot : Nat) (s : State) : (foreignOut who cid slot s).cur = s.cur := by
  unfold foreignOut
  dsimp only
  split
  · rfl
  · split
    · simp
    · split
      · split <;> simp
      · simp

theorem applyMv_cur (s : State) (v : Mv) : (applyMv s v).cur = s.cur := by
  cases v with
  | alloc r k zero => cases zero <;> simp [applyMv]
  | fill r src k => simp only [applyMv]; split <;> simp
  | spill r k land =>
    simp only [applyMv]
    split
    · rw [unbind_cur]
      split <;> simp
    · split <;> simp
  | evict r k land => cases land <;> simp [applyMv]
  | drop r k land => cases land <;> simp [applyMv]
  | retag d r k => exact mapPoint_cur ..
  | bind r k => exact mapPoint_cur ..
  | foreignOut k => exact foreignOut_cur ..

/-- A map step changes the map of its thread and nothing else there (R200). -/
theorem applyPlan_cur (p : MapPlan) (s : State) : (applyPlan p s).cur = { s.cur with map := p.map } := by
  rw [applyPlan, modT_cur, foldl_cur applyMv_cur]

end Sys2Proof.Machine
end

section
/-! SUPPORT. The map step of an instruction that writes a register, and the elements of a register's value (07 R194, R199-R201, R216). -/

namespace Sys2Proof.Machine

open Sys2Proof.Safety

/-! ### The operand of a map step holds a slot -/

@[simp] theorem entryOf_setEntry (r : Nat) (e : Entry) (m : NMap MapEntry) : entryOf (setEntry r e m) r = e := by
  rw [entryOf, setEntry, tget_tset_same]

@[simp] theorem entryOf_setAge (r age pos : Nat) (m : NMap MapEntry) : entryOf (setAge r age pos m) r = entryOf m r := by
  rw [entryOf, setAge, tget_tset_same, entryOf]

theorem slotOf_resident {m : NMap MapEntry} {r k : Nat} {d l : Bool} (h : entryOf m r = .resident k d l) : slotOf m r = some (k, d, l) := by
  rw [slotOf, h]

/-- A resident register that is written stays in its slot. -/
theorem slotOf_markDirty {m : NMap MapEntry} {r k : Nat} {d l : Bool} (h : entryOf m r = .resident k d l) :
    slotOf (markDirty r m) r = some (k, true, l) := by
  rw [markDirty, h]
  exact slotOf_resident (entryOf_setEntry r _ m)

/-- An operand that is written leaves its map step in a slot (R199, R200). -/
theorem mapOperand_slot {lo hi age pos r : Nat} {operands : List Nat} {a : MAcc} (ha : a = .full ∨ a = .partial') {p q : MapPlan}
    (h : mapOperand lo hi age operands pos r a p = some q) : ∃ x, slotOf q.map r = some x := by
  have slot {m : NMap MapEntry} {k : Nat} {d l : Bool} (hm : entryOf m r = .resident k d l) :
      ∃ x, slotOf (markDirty r (setAge r age pos m)) r = some x := ⟨_, slotOf_markDirty ((entryOf_setAge r age pos m).trans hm)⟩
  have taken {c : Option (Nat × MapPlan)} {F : Nat × MapPlan → MapPlan} (h : c.map F = some q) (hF : ∀ y, ∃ x, slotOf (F y).map r = some x) :
      ∃ x, slotOf q.map r = some x := by
    obtain ⟨y, -, rfl⟩ := Option.map_eq_some_iff.mp h
    exact hF y
  obtain rfl | rfl := ha
  · cases hr : entryOf p.map r <;> simp only [mapOperand, hr, reduceCtorEq, if_false] at h
    case resident => exact Option.some.inj h ▸ slot hr
    all_goals exact taken h fun y => slot (entryOf_setEntry r _ y.2.map)
  · cases hr : entryOf p.map r <;> simp only [mapOperand, hr, reduceCtorEq, if_false] at h
    case resident => exact Option.some.inj h ▸ slot hr
    all_goals exact taken h fun y => slot (entryOf_setEntry r _ y.2.map)

theorem planOf_slot {s : State} {m : Nat} {a : MAcc} (ha : a = .full ∨ a = .partial') {p : MapPlan} (h : planOf s [(m, a)] = some p) :
    ∃ x, slotOf p.map m = some x := by
  simp only [planOf, mapOperands] at h
  split at h
  · next hq =>
    obtain rfl := Option.some.inj h
    exact mapOperand_slot ha hq
  · cases h

/-! ### The map step -/

theorem any_fols_false {t : Thread} {rs : List Nat} (hf : ∀ f ∈ t.fols, folReg f ∉ rs) : (t.fols.any fun f => rs.contains (folReg f)) = false := by
  rw [List.any_eq_false]
  intro f hmem
  simpa using hf f hmem

section
variable {s u : State} {ops : List (Nat × MAcc)} (h : Mapped s ops u)
include h

theorem mapped_cur : ∃ map, u.cur = { s.cur with map := map } := by
  obtain ⟨-, p, -, -, -, rfl⟩ := h
  exact ⟨p.map, applyPlan_cur p s⟩

/-- The map step of an instruction goes on in the state it leaves (R200, R301, R302). -/
theorem mapStep_mapped (i : Instr) (k : State → State) : mapStep i ops s k = k u := by
  obtain ⟨⟨hfree, hclear⟩, p, hplan, htiles, hmoves, rfl⟩ := h
  have hbad : (s.cur.folBad.find? fun (r, _) => (ops.map (·.1)).contains r) = none := by
    rw [List.find?_eq_none]
    intro x hx
    simpa using hclear x hx
  have hfols : (s.cur.fols.any fun f => (ops.map (·.1)).contains (folReg f)) = false := any_fols_false hfree
  have hvictims : (s.cur.fols.any fun f => (p.moves.flatMap mvReg).contains (folReg f)) = false := any_fols_false hmoves
  simp only [mapStep, guardFol, hbad, hfols, mapPlan, hplan, htiles, hvictims, Bool.false_eq_true, if_false]

end

theorem mapped_slot {s u : State} {m : Nat} {a : MAcc} (ha : a = .full ∨ a = .partial') (h : Mapped s [(m, a)] u) :
    ∃ x, slotOf u.cur.map m = some x := by
  obtain ⟨-, p, hplan, -, -, rfl⟩ := h
  rw [applyPlan_cur]
  exact planOf_slot ha hplan

/-! ### Elements of a value -/

/-- Digit `i` of the number whose digits to the base 2 ^ 32 are those of a list. -/
theorem digit_foldr (f : Nat → F32) {l : List Nat} {i : Nat} (hi : i < l.length) :
    l.foldr (fun e n => (f e).toNat + 2 ^ 32 * n) 0 / 2 ^ (32 * i) % 2 ^ 32 = (f l[i]).toNat := by
  induction l generalizing i with
  | nil => exact absurd hi (Nat.not_lt_zero i)
  | cons a l ih =>
    have ha := (f a).isLt
    rw [List.foldr_cons]
    cases i with
    | zero => rw [Nat.mul_zero, pow_zero, Nat.div_one, Nat.add_mul_mod_self_left, Nat.mod_eq_of_lt ha, List.getElem_cons_zero]
    | succ i =>
      rw [Nat.mul_succ, Nat.add_comm (32 * i), pow_add, ← Nat.div_div_eq_div_mul, Nat.add_mul_div_left _ _ (by decide), Nat.div_eq_of_lt ha,
        Nat.zero_add, ih (Nat.lt_of_succ_lt_succ hi), List.getElem_cons_succ]

/-- Element `e` of a tile made from its elements (R194). -/
theorem tileElt_tileMk (f : Nat → F32) {e : Nat} (he : e < 4096) : tileElt (tileMk f) e = f e := by
  have hlen : e < (List.range 4096).length := by rwa [List.length_range]
  have hdigit := digit_foldr f hlen
  rw [List.getElem_range] at hdigit
  refine BitVec.eq_of_getLsbD_eq fun i hi => ?_
  rw [← BitVec.testBit_toNat (f e), ← hdigit, Nat.testBit_mod_two_pow, Nat.testBit_div_two_pow, tileElt, BitVec.getLsbD_extractLsb', tileMk,
    BitVec.getLsbD_ofNat, decide_eq_true hi, Bool.true_and, Bool.true_and, decide_eq_true (by omega), Bool.true_and, Nat.add_comm]

/-! ### Elements of a register -/

theorem mval_congr {s u : State} (hmap : u.cur.map = s.cur.map) (hcid : cidOf u.cur = cidOf s.cur) (hcores : u.cores = s.cores) (r : Nat) :
    mval u r = mval s r := by
  simp only [mval, hmap, hcid, coreOf, hcores]

@[simp] theorem tileOf_clearSlotBad (slot : Nat) (p : Nat → Bool) (c : Core) (k : Nat) : tileOf (clearSlotBad slot p c) k = tileOf c k := rfl

theorem mval_slot {s : State} {r k : Nat} {d l : Bool} (h : slotOf s.cur.map r = some (k, d, l)) : mval s r = tileOf (coreOf s (cidOf s.cur)) k := by
  simp only [mval, h]

/-- The tile of a register with the elements `es` of it replaced. -/
def tileSet (es : Nat → Bool) (f : Nat → F32) (x : Tile) : Tile := tileMk fun e => if es e then f e else tileElt x e

theorem mwrite_slot {s : State} {r k : Nat} {d l : Bool} (h : slotOf s.cur.map r = some (k, d, l)) (es : Nat → Bool) (f : Nat → F32) :
    mwrite r es f s = modCore (cidOf s.cur) (fun c => clearSlotBad k es (setTile k (tileSet es f (tileOf c k)) c)) s := by
  simp only [mwrite, h, tileSet]

theorem mval_mwrite {s : State} {r k : Nat} {d l : Bool} (h : slotOf s.cur.map r = some (k, d, l)) (es : Nat → Bool) (f : Nat → F32) :
    mval (mwrite r es f s) r = tileSet es f (mval s r) := by
  rw [mwrite_slot h, mval_slot h, mval_slot (by rwa [modCore_cur]), modCore_cur, coreOf_modCore, if_pos rfl, tileOf_clearSlotBad,
    tileOf_setTile, if_pos rfl]

/-- The elements written, and those that are not (R216). -/
theorem mat_mwrite {s : State} {m : MReg} {x : Nat × Bool × Bool} (hm : slotOf s.cur.map m = some x) (es : Nat → Bool) (f : Nat → F32)
    {i j : Nat} (hi : 64 * i + j < 4096) :
    mat (mwrite m es f s) m i j = if es (64 * i + j) then f (64 * i + j) else mat s m i j := by
  obtain ⟨k, d, l⟩ := x
  rw [mat, mval_mwrite hm, tileSet, tileElt_tileMk _ hi, mat]

@[simp] theorem mwrite_cur (r : Nat) (es : Nat → Bool) (f : Nat → F32) (s : State) : (mwrite r es f s).cur = s.cur := by
  unfold mwrite
  split <;> rfl

@[simp] theorem mwrite_mem (r : Nat) (es : Nat → Bool) (f : Nat → F32) (s : State) : (mwrite r es f s).mem = s.mem := by
  unfold mwrite
  split <;> rfl

end Sys2Proof.Machine
end

section
/-! SUPPORT. MLD and MST at the lowest element that fails or reads poison (07 R215-R217). -/

namespace Sys2Proof.Machine

open Sys2Proof.Safety

/-! ### The elements of a shape -/

/-- Element `e` of an MLD or MST: its address (R215). -/
def shapeItem (s : State) (b x : SReg) (e : Nat) : Item := mldItem (reg s b) s.cur.ctl.vpitch (reg s x) (colsOf s.cur) e

/-- The elements that an MLD or MST performs, in row order (R173, R215). -/
def shapeList (t : Thread) : List Nat := (List.range (rowsOf t * colsOf t)).filter (eprogOf t ≤ ·)

theorem mem_shapeList {t : Thread} {e : Nat} : e ∈ shapeList t ↔ eprogOf t ≤ e ∧ e < rowsOf t * colsOf t := by
  simp [shapeList, and_comm]

theorem shapeList_pairwise (t : Thread) : (shapeList t).Pairwise (· < ·) := pairwise_lt_filter_range _ _

theorem filter_shapeList {t : Thread} {q : Nat} (hq : q ≤ rowsOf t * colsOf t) :
    (shapeList t).filter (· < q) = List.range' (eprogOf t) (q - eprogOf t) := by
  refine List.Pairwise.eq_of_mem_iff ((shapeList_pairwise t).filter _) (List.pairwise_lt_range' ..) fun e => ?_
  simp only [List.mem_filter, mem_shapeList, decide_eq_true_eq, List.mem_range'_1]
  omega

/-- A legal shape has at most 4096 elements (R22). -/
theorem shape_le {t : Thread} (h : LegalShape t) : rowsOf t * colsOf t ≤ 4096 := by
  obtain ⟨-, hr, -, hc⟩ := h
  exact Nat.mul_le_mul hr hc

theorem shape_lt {s : State} {i j : Nat} (h : shape s i j = true) : i * colsOf s.cur + j < rowsOf s.cur * colsOf s.cur := by
  simp only [shape, Bool.and_eq_true, decide_eq_true_eq] at h
  calc i * colsOf s.cur + j < (i + 1) * colsOf s.cur := by rw [Nat.succ_mul]; omega
    _ ≤ rowsOf s.cur * colsOf s.cur := Nat.mul_le_mul_right _ h.1

/-! ### Rows -/

section
variable {u : State} {f : Fmt} {k : Acc} {item : Nat → Item} {es : List Nat} {ls : Nat → List Loc} (c : Nat)

theorem rows_placed (h : ∀ e ∈ es, Placed u f k (item e) (ls e)) :
    rowStop c (es.map (elemAt u f k item)) = none ∧ rowsBelow c (es.map (elemAt u f k item)) = es.map (elemAt u f k item) := by
  have hstop : rowStop c (es.map (elemAt u f k item)) = none := by rw [rowStop, firstFail_none h, Option.map_none]
  exact ⟨hstop, by rw [rowsBelow, hstop]⟩

/-- The lowest failing element stops the access at its row (R217). -/
theorem rows_failed (he : ∀ e, (item e).e = e) (hs : es.Pairwise (· < ·)) {g : Nat} {bad : Bad} {a : Word} (hbad : bad ≠ .ecc) (hg : g ∈ es)
    (hfail : xlatN u u.cur (item g).addr (ebytes f) k = .error (bad, a)) (h : ∀ e ∈ es, e < g → Placed u f k (item e) (ls e)) :
    rowStop c (es.map (elemAt u f k item)) = some (g / c * c, ⟨if bad = .addr then 0x05 else 0x13, (item g).addr, 0⟩) ∧
      rowsBelow c (es.map (elemAt u f k item)) = (es.filter (· < g / c * c)).map (elemAt u f k item) := by
  have hstop : rowStop c (es.map (elemAt u f k item)) = some (g / c * c, ⟨if bad = .addr then 0x05 else 0x13, (item g).addr, 0⟩) := by
    simp only [rowStop, firstFail_least hs hg hfail h, Option.map_some, failInfo, badTrap_eq hbad, he]
    rfl
  exact ⟨hstop, by rw [rowsBelow, hstop, ← below_map he]⟩

end

/-! ### The instructions after their map step -/

/-- What an MLD of a thread does with its elements once its register is in a slot. -/
def mldRun (m : MReg) (h : Hint) (f : MFmt) (t : Thread) (l : List Elem) (s : State) : State :=
  let c := colsOf t
  let stop := stopAt t { every := c } (eprogOf t) (rowsOf t * c) (minStop (rowStop c l) (firstPoison s (rowsBelow c l)))
  guardFenced (rowsBelow c l) stop s (match stop with
    | none => afterHint h (elemSectors l) (eprogOf t) s
      (finish 0 (fun t => setVstart 0 (setEprog 0 t)) (mldWrite m f (rowsOf t) c (eprogOf t) (rowsOf t * c) (eprogOf t == 0) l s))
    | some (g, why) =>
      stopBy why (modT (fun t' => keepHint h (elemSectors (below g l)) (eprogOf t) g (setEprog g t'))
        (mldWrite m f (rowsOf t) c (eprogOf t) g (eprogOf t == 0) l s)))

/-- The writes and flags of the elements of an MST below `g` (R216). -/
def mstOut (m c : Nat) (f : MFmt) (l : List Elem) (g : Nat) (s : State) : List Wr × Flags :=
  (below g l).foldl (fun (ws, fl) x =>
    let (y, h) := mstValue f (tileElt (mval s m) (64 * (x.it.e / c) + x.it.e % c))
    (ws ++ wrBytes (elemLocs x) (leBytes (ebytes (mfmtOf f)) y), fl ||| h)) ([], 0)

/-- What an MST of a thread does with its elements after its map step. -/
def mstRun (m : MReg) (last : Bool) (f : MFmt) (t : Thread) (l : List Elem) (s : State) : State :=
  let c := colsOf t
  let bad := (shapeList t).find? fun e => (mBad s m (· == 64 * (e / c) + e % c)).isSome
  let stop := stopAt t { every := c } (eprogOf t) (rowsOf t * c) (minStop (rowStop c l) (bad.map fun e => (e, eccM m)))
  guardFenced (rowsBelow c l) stop s (match stop with
    | none =>
      let (ws, fl) := mstOut m c f l (rowsOf t * c) s
      let s := writeAll ws s
      finish 0 (fun t => setVstart 0 (setEprog 0 (orFlags fl t))) (if last then dropRegs [m] s else s)
    | some (g, why) =>
      let (ws, fl) := mstOut m c f l g s
      stopBy why (modT (fun t => setEprog g (orFlags fl t)) (writeAll ws s)))

section
variable {s : State} (hcalm : Calm s) (hshape : LegalShape s.cur) {b x : SReg} {f : MFmt}
  (ha : ∀ e, e < rowsOf s.cur * colsOf s.cur → (shapeItem s b x e).addr.toNat % ebytes (mfmtOf f) = 0)

include ha in
theorem mMisaligned_none : mMisaligned f (shapeItem s b x) (rowsOf s.cur * colsOf s.cur) = none := by
  rw [mMisaligned, List.find?_eq_none]
  intro it hit
  obtain ⟨e, he, rfl⟩ := List.mem_map.mp hit
  simp [misaligned, ha e (List.mem_range.mp he)]

include hcalm hshape ha

theorem exec_mld_mapped {u : State} {m : MReg} (hmap : Mapped s [(m, if eprogOf s.cur = 0 then .full else .partial')] u) (h : Hint) :
    exec (.mld m b x h f) s = .next (mldRun m h f s.cur ((shapeList s.cur).map (elemAt u (mfmtOf f) .load (shapeItem s b x))) u) := by
  obtain ⟨-, -, hc, -⟩ := hshape
  have hnone := mMisaligned_none ha
  have hitem : mldItem (reg s b) s.cur.ctl.vpitch (reg s x) (colsOf s.cur) = shapeItem s b x := rfl
  simp only [exec_mld, execMld, guardS_quiet _ hcalm.1, rs_quiet _ hcalm.1, sreg_eq_reg, Nat.max_eq_right hc, hitem, hnone,
    mapStep_mapped hmap]
  rfl

theorem exec_mst_mapped {u : State} {m : MReg} (hmap : Mapped s [(m, .read)] u) (last : Bool) (h : Hint) :
    exec (.mst m b x last h f) s =
      .next (mstRun m last f s.cur ((shapeList s.cur).map (elemAt u (mfmtOf f) .store (shapeItem s b x))) u) := by
  obtain ⟨-, -, hc, -⟩ := hshape
  have hnone := mMisaligned_none ha
  have hitem : mldItem (reg s b) s.cur.ctl.vpitch (reg s x) (colsOf s.cur) = shapeItem s b x := rfl
  simp only [exec_mst, execMst, guardS_quiet _ hcalm.1, rs_quiet _ hcalm.1, sreg_eq_reg, Nat.max_eq_right hc, hitem, hnone,
    mapStep_mapped hmap]
  rfl

end

/-! ### A stopped MLD -/

theorem mldRun_stopped {t : Thread} (hel : t.elim = none) {l : List Elem} {u : State} {q : Nat} {info : TrapInfo}
    (hstop : minStop (rowStop (colsOf t) l) (firstPoison u (rowsBelow (colsOf t) l)) = some (q, info))
    (hf : anyFenced u (below q (rowsBelow (colsOf t) l)) = false) (m : MReg) (h : Hint) (f : MFmt) :
    mldRun m h f t l u = Safety.trapped info.cause info.eval info.erec
      (modT (fun t' => keepHint h (elemSectors (below q l)) (eprogOf t) q (setEprog q t'))
        (mldWrite m f (rowsOf t) (colsOf t) (eprogOf t) q (eprogOf t == 0) l u)) := by
  simp only [mldRun, hstop, stopAt_unasked hel, Option.map_some, guardFenced_stop hf, stopBy, trap_eq]

/-- The values of the elements that an MLD has loaded (R216). -/
theorem mldValues {u : State} {f : MFmt} {item : Nat → Item} (he : ∀ e, (item e).e = e) {t : Thread} {ls : Nat → List Loc} {q : Nat}
    (hq : q ≤ rowsOf t * colsOf t) (hl : ∀ e ∈ shapeList t, e < q → Placed u (mfmtOf f) .load (item e) (ls e)) {e : Nat} (hlo : eprogOf t ≤ e)
    (hlt : e < q) :
    ((below q ((shapeList t).map (elemAt u (mfmtOf f) .load item))).map fun x =>
      mldValue f (ofBytes (readBytes u (elemLocs x)))).toArray.getD (e - eprogOf t) 0 = mldValue f (valueAt u (ls e)) := by
  have hplaced := hl e (mem_shapeList.mpr ⟨hlo, hlt.trans_le hq⟩) hlt
  rw [below_map he, filter_shapeList hq]
  simp only [List.map_map, Array.getD_eq_getD_getElem?, List.getElem?_toArray, List.getElem?_map]
  rw [List.getElem?_range' (by omega)]
  simp only [Option.map_some, Option.getD_some, Function.comp_apply, Nat.one_mul, Nat.add_sub_cancel' hlo, elemLocs_placed hplaced]
  rfl

/-- The elements of the shape that an MLD has written below `q`, and no other (R216, R217). -/
theorem mat_mldWrite {u : State} {m : MReg} {y : Nat × Bool × Bool} (hm : slotOf u.cur.map m = some y) {f : MFmt} {item : Nat → Item}
    (he : ∀ e, (item e).e = e) {t : Thread} (hshape : LegalShape t) {ls : Nat → List Loc} {q : Nat} (hq : q ≤ rowsOf t * colsOf t)
    (hl : ∀ e ∈ shapeList t, e < q → Placed u (mfmtOf f) .load (item e) (ls e)) (full : Bool) {i j : Nat} (hi : i < rowsOf t)
    (hj : j < colsOf t) :
    mat (mldWrite m f (rowsOf t) (colsOf t) (eprogOf t) q full ((shapeList t).map (elemAt u (mfmtOf f) .load item)) u) m i j =
      if eprogOf t ≤ i * colsOf t + j ∧ i * colsOf t + j < q then mldValue f (valueAt u (ls (i * colsOf t + j))) else mat u m i j := by
  obtain ⟨-, hr, -, hc⟩ := hshape
  have hrow : (64 * i + j) / 64 = i := by omega
  have hcol : (64 * i + j) % 64 = j := by omega
  rw [mldWrite, mat_mwrite hm _ _ (by omega)]
  simp only [hrow, hcol, hi, hj, decide_true, Bool.and_self, Bool.not_true, Bool.false_eq_true, if_false, Bool.and_eq_true, decide_eq_true_eq]
  split
  · next h => exact mldValues he hq hl h.1 h.2
  · rfl

theorem mldWrite_cur (m : Nat) (f : MFmt) (rows cols lo g : Nat) (full : Bool) (l : List Elem) (s : State) :
    (mldWrite m f rows cols lo g full l s).cur = s.cur := mwrite_cur ..

theorem mldWrite_mem (m : Nat) (f : MFmt) (rows cols lo g : Nat) (full : Bool) (l : List Elem) (s : State) :
    (mldWrite m f rows cols lo g full l s).mem = s.mem := mwrite_mem ..

/-- What an MLD that stops at `q` leaves (R190, R217). -/
theorem mldRun_trapped {s u : State} (hel : s.cur.elim = none) (hshape : LegalShape s.cur)
    (hpc : u.cur.pc = s.cur.pc) {m : MReg} {z : Nat × Bool × Bool} (hm : slotOf u.cur.map m = some z) {f : MFmt}
    {item : Nat → Item} (he : ∀ e, (item e).e = e) {ls : Nat → List Loc} {q : Nat} (hq : q < rowsOf s.cur * colsOf s.cur)
    (hl : ∀ e ∈ shapeList s.cur, e < q → Placed u (mfmtOf f) .load (item e) (ls e)) {info : TrapInfo}
    (hstop : minStop (rowStop (colsOf s.cur) ((shapeList s.cur).map (elemAt u (mfmtOf f) .load item)))
      (firstPoison u (rowsBelow (colsOf s.cur) ((shapeList s.cur).map (elemAt u (mfmtOf f) .load item)))) = some (q, info))
    (hf : anyFenced u (below q (rowsBelow (colsOf s.cur) ((shapeList s.cur).map (elemAt u (mfmtOf f) .load item)))) = false) (h : Hint) :
    let y := mldRun m h f s.cur ((shapeList s.cur).map (elemAt u (mfmtOf f) .load item)) u
    TrappedAt .tile info.cause info.eval q s y ∧ y.mem = u.mem ∧ ∀ i j, shape s i j = true → mat y m i j =
      if eprogOf s.cur ≤ i * colsOf s.cur + j ∧ i * colsOf s.cur + j < q then mldValue f (valueAt u (ls (i * colsOf s.cur + j)))
      else mat u m i j := by
  have hle := shape_le hshape
  intro y
  rw [show y = _ from mldRun_stopped hel hstop hf m h f]
  set w := mldWrite m f (rowsOf s.cur) (colsOf s.cur) (eprogOf s.cur) q (eprogOf s.cur == 0)
    ((shapeList s.cur).map (elemAt u (mfmtOf f) .load item)) u
  have hcur : w.cur = u.cur := mldWrite_cur ..
  obtain ⟨-, -, -, -, -, hmem, -⟩ := trapped_leaves info.cause info.eval info.erec (modT (fun t' => keepHint h
    (elemSectors (below q ((shapeList s.cur).map (elemAt u (mfmtOf f) .load item)))) (eprogOf s.cur) q (setEprog q t')) w)
  obtain ⟨-, hmap, hcores, hcid⟩ := trapped_keeps info.cause info.eval info.erec (modT (fun t' => keepHint h
    (elemSectors (below q ((shapeList s.cur).map (elemAt u (mfmtOf f) .load item)))) (eprogOf s.cur) q (setEprog q t')) w)
  refine ⟨?_, hmem.trans (mldWrite_mem ..), fun i j hij => ?_⟩
  · refine trappedAt_setProgress (m := .tile) (q := q) (eprogOf_setEprog (by omega) w.cur) ?_ ?_ _ _ _
    · rw [modT_cur, keepHint_pc]
      exact (congrArg Thread.pc hcur).trans hpc
    · rw [modT_cur, keepHint_ctl]
      rfl
  · simp only [shape, Bool.and_eq_true, decide_eq_true_eq] at hij
    rw [modT_cur, keepHint_map] at hmap
    rw [modT_cur, keepHint_cid] at hcid
    rw [mat, mval_congr hmap hcid hcores, ← mat_mldWrite hm he hshape hq.le hl _ hij.1 hij.2]
    rfl

/-! ### A stopped MST -/

theorem mstRun_stopped {t : Thread} (hel : t.elim = none) {l : List Elem} {u : State} {q : Nat} {info : TrapInfo} {m : MReg}
    (hgood : ∀ e ∈ shapeList t, mBad u m (· == 64 * (e / colsOf t) + e % colsOf t) = none) (hstop : rowStop (colsOf t) l = some (q, info))
    (hf : anyFenced u (below q (rowsBelow (colsOf t) l)) = false) (last : Bool) (f : MFmt) :
    mstRun m last f t l u = Safety.trapped info.cause info.eval info.erec
      (modT (fun t' => setEprog q (orFlags (mstOut m (colsOf t) f l q u).2 t')) (writeAll (mstOut m (colsOf t) f l q u).1 u)) := by
  have hnone : ((shapeList t).find? fun e => (mBad u m (· == 64 * (e / colsOf t) + e % colsOf t)).isSome) = none := by
    rw [List.find?_eq_none]
    intro e he
    simp [hgood e he]
  simp only [mstRun, hnone, Option.map_none, minStop_none_right, hstop, stopAt_unasked hel, Option.map_some, guardFenced_stop hf, stopBy, trap_eq]

/-- The value that an MST stores of element `e` (R216). -/
def mstStored (u : State) (m : MReg) (c : Nat) (f : MFmt) (e : Nat) : Nat := (mstValue f (mat u m (e / c) (e % c))).1

theorem mstValue_lt (f : MFmt) (y : F32) : (mstValue f y).1 < 2 ^ esz (mfmtOf f) := by
  cases f
  · exact y.isLt
  · exact BitVec.isLt _

theorem mstOut_map {u : State} {f : MFmt} {acc : Acc} {item : Nat → Item} (he : ∀ e, (item e).e = e) {es : List Nat} {ls : Nat → List Loc}
    {q : Nat} (h : ∀ e ∈ es, e < q → Placed u (mfmtOf f) acc (item e) (ls e)) (m : MReg) (c : Nat) :
    (mstOut m c f (es.map (elemAt u (mfmtOf f) acc item)) q u).1 =
      elementWrites (mfmtOf f) item ls (mstStored u m c f) (es.filter (· < q)) := by
  have hfold := foldl_writes (fun x : Elem => itemWrite (mfmtOf f) x.it (elemLocs x) (mstStored u m c f x.it.e))
    (fun x => (mstValue f (mat u m (x.it.e / c) (x.it.e % c))).2) (below q (es.map (elemAt u (mfmtOf f) acc item))) [] 0
  have hwrites : (es.filter (· < q)).flatMap (fun e => itemWrite (mfmtOf f) (item e) (elemLocs (elemAt u (mfmtOf f) acc item e))
      (mstStored u m c f e)) = elementWrites (mfmtOf f) item ls (mstStored u m c f) (es.filter (· < q)) := by
    refine List.flatMap_congr fun e hmem => ?_
    obtain ⟨hmem, hlt⟩ := List.mem_filter.mp hmem
    rw [elemLocs_placed (h e hmem (of_decide_eq_true hlt))]
  refine (congrArg Prod.fst (Eq.trans ?_ hfold)).trans ?_
  · cases f <;> rfl
  · rw [below_map he, List.flatMap_map, List.nil_append, ← hwrites]
    simp only [elemAt, he]

theorem itemRead_wide (u : State) (f : MFmt) (it : Item) (ls : List Loc) : itemRead u (mfmtOf f) it ls = valueAt u ls := by
  cases f <;> rfl

/-- What an MST that stops at `q` leaves (R217). -/
theorem mstRun_trapped {s u : State} (hel : s.cur.elim = none) (hshape : LegalShape s.cur) (hpc : u.cur.pc = s.cur.pc) {m : MReg} {f : MFmt}
    {item : Nat → Item} (he : ∀ e, (item e).e = e) (hnib : ∀ e, (item e).nib < 2) {ls : Nat → List Loc} {q : Nat}
    (hq : q < rowsOf s.cur * colsOf s.cur)
    (hl : ∀ e ∈ shapeList s.cur, e < q → Placed u (mfmtOf f) .store (item e) (ls e) ∧ (item e).addr.toNat % ebytes (mfmtOf f) = 0)
    {info : TrapInfo} (hstop : rowStop (colsOf s.cur) ((shapeList s.cur).map (elemAt u (mfmtOf f) .store item)) = some (q, info))
    (hgood : ∀ e ∈ shapeList s.cur, mBad u m (· == 64 * (e / colsOf s.cur) + e % colsOf s.cur) = none)
    (hf : anyFenced u (below q (rowsBelow (colsOf s.cur) ((shapeList s.cur).map (elemAt u (mfmtOf f) .store item)))) = false) (last : Bool) :
    let y := mstRun m last f s.cur ((shapeList s.cur).map (elemAt u (mfmtOf f) .store item)) u
    TrappedAt .tile info.cause info.eval q s y ∧
    (∀ e ∈ shapeList s.cur, e < q → (∀ e' ∈ shapeList s.cur, e' < q → e < e' → ∀ l ∈ ls e, l ∉ ls e') →
      valueAt y (ls e) = mstStored u m (colsOf s.cur) f e) ∧
    (∀ l, (∀ e ∈ shapeList s.cur, e < q → l ∉ ls e) → byteAt y l = byteAt u l) := by
  have hle := shape_le hshape
  have hbelow {e : Nat} : e ∈ (shapeList s.cur).filter (· < q) ↔ e ∈ shapeList s.cur ∧ e < q := by simp
  intro y
  have hy : y = _ := mstRun_stopped hel hgood hstop hf last f
  rw [mstOut_map he (fun e hmem hlt => (hl e hmem hlt).1)] at hy
  have hbyte (l : Loc) : byteAt y l =
      byteAt (writeAll (elementWrites (mfmtOf f) item ls (mstStored u m (colsOf s.cur) f) ((shapeList s.cur).filter (· < q))) u) l := by
    rw [hy, byteAt_trapped, byteAt_modT]
  refine ⟨?_, fun e hmem hlt hlast => ?_, fun l hother => ?_⟩
  · rw [hy]
    refine trappedAt_setProgress (m := .tile) (q := q) (eprogOf_setEprog (by omega) _) ?_ rfl _ _ _
    rw [modT_cur, writeAll_cur]
    exact hpc
  · rw [← itemRead_wide y f (item e), itemRead_congr fun l _ => hbyte l,
      itemRead_elementWrites_last _ u (fun e he => ?_) hnib ((shapeList_pairwise _).filter _) (hbelow.mpr ⟨hmem, hlt⟩)
        fun e' he' hlt' l hl hl' => absurd hl' (hlast e' (hbelow.mp he').1 (hbelow.mp he').2 hlt' l hl)]
    · exact Nat.mod_eq_of_lt (mstValue_lt f _)
    · obtain ⟨hmem, hlt⟩ := hbelow.mp he
      exact apiece_placed (hl e hmem hlt).2 (hl e hmem hlt).1
  · rw [hbyte]
    exact byteAt_elementWrites_other _ u fun e he => hother e (hbelow.mp he).1 (hbelow.mp he).2

end Sys2Proof.Machine
end

section
/-! SUPPORT. A load trimmed at its lowest failing element (06 R186). -/

namespace Sys2Proof.Machine

open Sys2Proof.Safety

/-- Apart from memory and the note of touched sectors the last-use hint changes nothing (R180). -/
theorem afterHint_keeps (h : Hint) (q : List Nat) (lo : Nat) (s u : State) :
    (afterHint h q lo s u).cur.ctl = u.cur.ctl ∧ (afterHint h q lo s u).cur.pc = u.cur.pc ∧ (afterHint h q lo s u).cur.v = u.cur.v := by
  unfold afterHint
  split
  · obtain ⟨m, e⟩ := dropSectors_mem (touchedAt s.cur lo ++ q).eraseDups u
    rw [e]
    exact ⟨rfl, rfl, rfl⟩
  · exact ⟨rfl, rfl, rfl⟩

theorem mem_retired (f : Thread → Thread) (s : State) : (retired f s).mem = s.mem := rfl

theorem vlOf_setVl {g : Nat} (h : g < 1024) (t : Thread) : vlOf (setVl g t) = g := by
  simp only [vlOf, setVl, modC, fld, BitVec.toNat_ofNat]
  omega

/-- What a trimmed load does to its thread (R24, R186). -/
def trimmedBy (g : Nat) (load : Thread → Thread) (t : Thread) : Thread := setVstart 0 (setTrim true (setVl g (load t)))

theorem trimmedBy_ctl {g : Nat} (hg : g < 1024) (load : Thread → Thread) (t : Thread) :
    vlOf (trimmedBy g load t) = g ∧ fld (trimmedBy g load t).ctl.vstat 1 1 = 1 ∧ vstartOf (trimmedBy g load t) = 0 :=
  ⟨vlOf_setVl hg (load t), fld_setFld_same _ (by decide) 1, vstartOf_setVstart (by decide) _⟩

@[simp] theorem trimmedBy_pc (g : Nat) (load : Thread → Thread) (t : Thread) : (trimmedBy g load t).pc = (load t).pc := rfl
@[simp] theorem trimmedBy_v (g : Nat) (load : Thread → Thread) (t : Thread) : (trimmedBy g load t).v = (load t).v := rfl

@[simp] theorem setTrim_chain (b : Bool) (t : Thread) : (setTrim b t).chain = t.chain := rfl
theorem noEdge_setTrim (b : Bool) {t : Thread} (h : NoEdge t) : NoEdge (setTrim b t) := noEdge_of t _ h rfl rfl rfl rfl
theorem noEdge_setVl (g : Nat) {t : Thread} (h : NoEdge t) : NoEdge (setVl g t) := noEdge_of t _ h rfl rfl rfl rfl

section
variable (s : State) (d : VReg) (f : Fmt) (k : Kind) (l : List Elem) (g : Nat) {t : Thread}
@[simp] theorem loadElts_chain : (loadElts s d f k l g t).chain = t.chain := rfl
theorem noEdge_loadElts (h : NoEdge t) : NoEdge (loadElts s d f k l g t) := noEdge_of t _ h rfl rfl rfl rfl
end

section
variable {s : State} {m : VMode} (h : MemReady s m) (hm : m ≠ .tile) {k : Kind} {f : Fmt} {item : Nat → Item} (he : ∀ e, (item e).e = e)
  {ls : Nat → List Loc} {g : Nat} (hl : ∀ e ∈ accessList s m, e < g → Accessed s f .load (item e) (ls e) ∧ Clean s (ls e))
include h hm he hl

/-- A trimmed load completes on the elements below the one that fails (R186). -/
theorem loadRun_trimmed_eq (r : StopRule) (v : VReg) (i : Hint) (lo : Nat) (stop : Nat → Thread → Thread) :
    ∃ q, loadRun r v f k i (below g ((accessList s m).map (elemAt s f .load item))) lo g none
      (fun load => finishV fun t => setTrim true (setVl g (load t))) stop (begun m true s) =
      afterHint i q lo (begun m true s)
        (retired (trimmedBy g (loadElts s v f k (((accessList s m).filter (· < g)).map (elemAt s f .load item)) g)) (begun m true s)) := by
  have ⟨⟨hp, hn⟩, _, _, hel, hc, _⟩ := h
  have hb : begun m true s = modT (setTrim false) s := if_pos ⟨rfl, hm⟩
  have hplaced (e) (hmem : e ∈ (accessList s m).filter (· < g)) :=
    hl e (List.mem_of_mem_filter hmem) (of_decide_eq_true (List.mem_filter.mp hmem).2)
  have hpoison : firstPoison (begun m true s) (((accessList s m).filter (· < g)).map (elemAt s f .load item)) = none := by
    rw [firstPoison_begun]
    exact firstPoison_none fun e hmem => ⟨(hplaced e hmem).1.2.1, (hplaced e hmem).2⟩
  have hfence : anyFenced (begun m true s) (((accessList s m).filter (· < g)).map (elemAt s f .load item)) = false := by
    rw [anyFenced_begun]
    exact anyFenced_false fun e hmem => ⟨(hplaced e hmem).1.2.1, (hplaced e hmem).1.2.2⟩
  refine ⟨elemSectors (((accessList s m).filter (· < g)).map (elemAt s f .load item)), ?_⟩
  rw [below_map he, loadRun_complete (by rwa [begun_elim]) hpoison hfence, loadElts_begun, hb]
  refine congrArg _ (finishV_calm _ _ hp (noEdge_setTrim _ (noEdge_setVl _ (noEdge_loadElts _ _ _ _ _ _ (noEdge_setTrim _ hn)))) ?_)
  rwa [setTrim_chain, setVl_chain, loadElts_chain, modT_cur, setTrim_chain]

/-- The elements below the one that fails are loaded, and VL and VSTAT.T show where the load was trimmed (R186). -/
theorem loadRun_trimmed (hk : kindOf s.cur = some k) (hg : g < 1024) (r : StopRule) (v : VReg) (i : Hint) (lo : Nat)
    (stop : Nat → Thread → Thread) :
    let u := loadRun r v f k i (below g ((accessList s m).map (elemAt s f .load item))) lo g none
      (fun load => finishV fun t => setTrim true (setVl g (load t))) stop (begun m true s)
    vlOf u.cur = g ∧ fld u.cur.ctl.vstat 1 1 = 1 ∧ vstartOf u.cur = 0 ∧ u.cur.pc = s.cur.pc + 4 ∧ (i.val ≠ 3 → u.mem = s.mem) ∧
    ∀ j, sewOf s.cur * j + sewOf s.cur ≤ 8192 → elt u.cur v (sewOf s.cur) j = if j ∈ accessList s m ∧ j < g then
      (loadedAt s f k item ls j).1 % 2 ^ sewOf s.cur else elt s.cur v (sewOf s.cur) j := by
  obtain ⟨q, hu⟩ := loadRun_trimmed_eq h hm he hl (k := k) r v i lo stop
  intro u
  rw [show u = _ from hu]
  set load := loadElts s v f k (((accessList s m).filter (· < g)).map (elemAt s f .load item)) g with hload
  obtain ⟨hctl, hpc, hv⟩ := afterHint_keeps i q lo (begun m true s) (retired (trimmedBy g load) (begun m true s))
  rw [retired_cur] at hctl hpc hv
  obtain ⟨hvl, htrim, hstart⟩ := trimmedBy_ctl hg load (begun m true s).cur
  refine ⟨?_, ?_, ?_, ?_, fun hh => ?_, fun j hj => ?_⟩
  · rwa [vlOf, hctl]
  · rwa [hctl]
  · rwa [vstartOf, hctl]
  · rw [hpc, after_pc, trimmedBy_pc, hload, loadElts_pc, begun_pc]
  · rw [afterHint_plain hh]
    exact (mem_retired _ _).trans (begun_mem m true s)
  · rw [← width_of_kindOf hk] at hj ⊢
    have helt := elt_loadElts he (fun e hmem hlt => (hl e (List.mem_of_mem_filter hmem) hlt).1.2.1) v (begun m true s).cur
      (fun e hmem => access_fits h hk (List.mem_of_mem_filter hmem)) hj (g := g) (es := (accessList s m).filter (· < g))
    simp only [List.mem_filter, decide_eq_true_eq, and_assoc, and_self] at helt
    rw [after_v, trimmedBy_v] at hv
    rw [elt_of_v hv, hload, helt, elt_of_v (begun_v m true s)]

end

end Sys2Proof.Machine
end

section
/-! SUPPORT. A failing or poisoned element of a vector, tile or matrix access (06 R185-R190; 07 R217; 10 R291). -/

namespace Sys2Proof.Machine

open Sys2Proof.Safety

/-! ### Stores and tile loads that fail -/

section
variable {s : State} {m : VMode} (h : MemReady s m) {k : Kind} (hk : kindOf s.cur = some k) {f : Fmt} (hok : pairOk f (some k) = true)
  {ls : Nat → List Loc} {b : SReg} {x : BitVec 6}
  (ha : ∀ e ∈ accessList s m, (vmItem s b f m x e).addr.toNat % ebytes f = 0)
  {g : Nat} (hg : g ∈ accessList s m) {bad : Bad} {a : Word} (hbad : bad ≠ .ecc)
  (hfence : ∀ e ∈ accessList s m, e < failStop s.cur m g → ∀ l ∈ ls e, locFenced s l = false)
include h hg

theorem failStop_lt_512 : failStop s.cur m g < 512 :=
  (failStop_le s.cur m g).trans_lt (access_lt_512 h (mem_accessList.mp hg))

include hk hok ha hbad hfence

/-- A store that fails has stored the elements below its stop and nothing else (R187, R189). -/
theorem exec_vst_stopped (hfail : xlatN s s.cur (vmItem s b f m x g).addr (ebytes f) .store = .error (bad, a))
    (hl : ∀ e ∈ accessList s m, e < g → Placed s f .store (vmItem s b f m x e) (ls e)) (v : VReg) (i : Hint) :
    ∃ u, exec (.vst v b f m i x) s = .next u ∧
      TrappedAt m (if bad = .addr then 0x05 else if m = .tile then 0x13 else 0x11) (vmItem s b f m x g).addr (failStop s.cur m g) s u ∧
      (∀ l, (∀ e, inAccess s m e = true → e < failStop s.cur m g → l ∉ ls e) → byteAt u l = byteAt s l) ∧
      (∀ e, inAccess s m e = true → e < failStop s.cur m g →
        LastWriter (fun e' => inAccess s m e' && decide (e' < failStop s.cur m g)) f (vmItem s b f m x) ls e →
        itemRead u f (vmItem s b f m x e) (ls e) = (storedAt s v f k e).1 % 2 ^ esz f) := by
  have hbelow {e : Nat} : e ∈ (accessList s m).filter (· < failStop s.cur m g) ↔ inAccess s m e = true ∧ e < failStop s.cur m g := by
    simp [mem_accessList]
  have hrun := storeRun_trapped (vmItem_e s b f m x) (es := (accessList s m).filter (· < failStop s.cur m g)) (acc := .store)
    (fun e hmem hlt => ⟨hl e (List.mem_of_mem_filter hmem) (hlt.trans_le (failStop_le s.cur m g)),
      hfence e (List.mem_of_mem_filter hmem) hlt⟩) h (failStop_lt_512 h hg) k ((accessList_pairwise s m).filter _)
    (fun e hmem _ => ha e (List.mem_of_mem_filter hmem)) (vmItem_nib s b f m x)
    ⟨if bad = .addr then 0x05 else if m = .tile then 0x13 else 0x11, (vmItem s b f m x g).addr, 0⟩ (storeStops s.cur m) v (firstOf s.cur m)
    (countOf s.cur m) (finishAccess m)
  refine ⟨_, exec_vst_fails h hk hok ha hg hbad hfail hl v i, ?_⟩
  rw [below_map (vmItem_e s b f m x)]
  obtain ⟨htrap, hother, hlast⟩ := hrun
  refine ⟨htrap, fun l hl => hother l fun e he => hl e (hbelow.mp he).1, fun e hacc hlt hw => hlast e (hbelow.mpr ⟨hacc, hlt⟩) hlt fun e' he' => hw e' ?_⟩
  simp only [Bool.and_eq_true, decide_eq_true_eq] at he' ⊢
  exact hbelow.mp he'.1

/-- A tile load that fails has loaded the rows below that of the failing element (R189). -/
theorem exec_vld_row_stopped (hm : m = .tile) (hfail : xlatN s s.cur (vmItem s b f m x g).addr (ebytes f) .load = .error (bad, a))
    (hl : ∀ e ∈ accessList s m, e < g → Placed s f .load (vmItem s b f m x e) (ls e))
    (hclean : ∀ e ∈ accessList s m, e < failStop s.cur m g → Clean s (ls e)) (v : VReg) (i : Hint) :
    ∃ u, exec (.vld v b f m i x) s = .next u ∧
      TrappedAt m (if bad = .addr then 0x05 else 0x13) (vmItem s b f m x g).addr (failStop s.cur m g) s u ∧ u.mem = s.mem ∧
      ∀ j, sewOf s.cur * j + sewOf s.cur ≤ 8192 → elt u.cur v (sewOf s.cur) j = if inAccess s m j = true ∧ j < failStop s.cur m g then
        (loadedAt s f k (vmItem s b f m x) ls j).1 % 2 ^ sewOf s.cur else elt s.cur v (sewOf s.cur) j := by
  have hplaced (e) (hmem : e ∈ (accessList s m).filter (· < failStop s.cur m g)) (hlt : e < failStop s.cur m g) :
      Placed s f .load (vmItem s b f m x e) (ls e) :=
    hl e (List.mem_of_mem_filter hmem) (hlt.trans_le (failStop_le s.cur m g))
  have hpoison : firstPoison s (((accessList s m).filter (· < failStop s.cur m g)).map (elemAt s f .load (vmItem s b f m x))) = none := by
    refine firstPoison_none (ls := ls) fun e hmem => ?_
    have hlt : e < failStop s.cur m g := of_decide_eq_true (List.mem_filter.mp hmem).2
    exact ⟨hplaced e hmem hlt, hclean e (List.mem_of_mem_filter hmem) hlt⟩
  have hrun := loadRun_trapped (vmItem_e s b f m x) (fun e hmem hlt => ⟨hplaced e hmem hlt, hfence e (List.mem_of_mem_filter hmem) hlt⟩) h
    (failStop_lt_512 h hg) (fun e hmem => List.mem_of_mem_filter hmem) hk (info := ⟨if bad = .addr then 0x05 else 0x13, (vmItem s b f m x g).addr, 0⟩)
    (by rw [hpoison, minStop_none_right]) true (tileRule s.cur) v i (firstOf s.cur m) (countOf s.cur m) (finishAccess m)
  refine ⟨_, exec_vld_row h hk hok ha hg hbad hfail hl hm v i, ?_⟩
  rw [below_map (vmItem_e s b f m x)]
  simp only [List.mem_filter, decide_eq_true_eq, and_assoc, and_self, mem_accessList] at hrun
  exact hrun

end

/-! ### Loads that read poison -/

section
variable {s : State} {m : VMode} (h : MemReady s m) {k : Kind} (hk : kindOf s.cur = some k) {f : Fmt}
  {ls : Nat → List Loc} {item : Nat → Item} (he : ∀ e, (item e).e = e) {g : Nat} (hg : g ∈ accessList s m)
  (hp : ∃ l ∈ ls g, poisoned s l = true) (hl : ∀ e ∈ accessList s m, Accessed s f .load (item e) (ls e) ∧ (e < g → Clean s (ls e)))
include h hk he hg hp hl

/-- A load whose lowest poisoned element is `g` has written the elements below it (R190). -/
theorem loadRun_poisoned (load : Bool) (r : StopRule) (v : VReg) (i : Hint) (lo hi : Nat) (fin : (Thread → Thread) → State → State) :
    let u := loadRun r v f k i ((accessList s m).map (elemAt s f .load item)) lo hi none fin (setProgress m) (begun m load s)
    TrappedAt m 0x19 (item g).addr g s u ∧ u.mem = s.mem ∧ ∀ j, sewOf s.cur * j + sewOf s.cur ≤ 8192 → elt u.cur v (sewOf s.cur) j =
      if inAccess s m j = true ∧ j < g then (loadedAt s f k item ls j).1 % 2 ^ sewOf s.cur else elt s.cur v (sewOf s.cur) j := by
  have hpoison := firstPoison_least he (u := s) (accessList_pairwise s m) hg (hl g hg).1.2.1 hp
    fun e hmem hlt => ⟨(hl e hmem).1.2.1, (hl e hmem).2 hlt⟩
  have hrun := loadRun_trapped he (fun e hmem _ => (hl e hmem).1.2) h (access_lt_512 h (mem_accessList.mp hg)) (fun e hmem => hmem) hk
    ((minStop_none_left _).trans hpoison) load r v i lo hi fin
  simp only [mem_accessList] at hrun
  exact hrun

end

section
variable {s : State} {k : Kind} (hk : kindOf s.cur = some k) {f : Fmt} (hok : pairOk f (some k) = true) {ls : Nat → List Loc} {b : SReg} {g : Nat}
  (hp : ∃ l ∈ ls g, poisoned s l = true)
include hk hok hp

theorem exec_vld_poisoned {m : VMode} (h : MemReady s m) {x : BitVec 6} (hg : g ∈ accessList s m)
    (hl : ∀ e ∈ accessList s m, Accessed s f .load (vmItem s b f m x e) (ls e) ∧ (e < g → Clean s (ls e))) (v : VReg) (i : Hint) :
    ∃ u, exec (.vld v b f m i x) s = .next u ∧ TrappedAt m 0x19 (vmItem s b f m x g).addr g s u ∧ u.mem = s.mem ∧
      ∀ j, sewOf s.cur * j + sewOf s.cur ≤ 8192 → elt u.cur v (sewOf s.cur) j = if inAccess s m j = true ∧ j < g then
        (loadedAt s f k (vmItem s b f m x) ls j).1 % 2 ^ sewOf s.cur else elt s.cur v (sewOf s.cur) j :=
  ⟨_, exec_vld_placed h hk hok (fun e he => ⟨(hl e he).1.1, (hl e he).1.2.1⟩) v i,
    loadRun_poisoned h hk (vmItem_e s b f m x) hg hp hl true _ v i _ _ _⟩

theorem exec_vldx_poisoned (h : MemReady s .unit) {i : VReg} (hg : g ∈ accessList s .unit)
    (hl : ∀ e ∈ accessList s .unit, Accessed s f .load (idxItem s b f i e) (ls e) ∧ (e < g → Clean s (ls e))) (v : VReg) (j : Hint) :
    ∃ u, exec (.vldx v b f j i) s = .next u ∧ TrappedAt .unit 0x19 (idxItem s b f i g).addr g s u ∧ u.mem = s.mem ∧
      ∀ j, sewOf s.cur * j + sewOf s.cur ≤ 8192 → elt u.cur v (sewOf s.cur) j = if inAccess s .unit j = true ∧ j < g then
        (loadedAt s f k (idxItem s b f i) ls j).1 % 2 ^ sewOf s.cur else elt s.cur v (sewOf s.cur) j :=
  ⟨_, exec_vldx_placed h hk hok (fun e he => ⟨(hl e he).1.1, (hl e he).1.2.1⟩) v j,
    loadRun_poisoned h hk (idxItem_e s b f i) hg hp hl false _ v j _ _ _⟩

end

/-! ### VAMOADD -/

theorem trappedAt_setVstart {s x : State} {g : Nat} (hg : g < 512) (fl : Flags) (hx : x.cur.pc = s.cur.pc) (cause : Nat) (eval : Word) :
    TrappedAt .unit cause eval g s (Safety.trapped cause eval 0 (modT (fun t => setVstart g (orFlags fl t)) x)) :=
  trappedAt_setProgress (x := modT (fun t => setVstart g (orFlags fl t)) x) (m := .unit) (t := orFlags fl x.cur) (vstartOf_setVstart hg _) hx
    rfl cause eval 0

/-- A VAMOADD that reads poison at `g` has added the elements below it, each once where no two share a byte (R291). -/
theorem vamoRun_poisoned_leaves {s : State} (h : MemReady s .unit) {f : Fmt} {k : Kind} (hpair : VamoPair f k) {item : Nat → Item}
    (he : ∀ e, (item e).e = e) {ls : Nat → List Loc} {g : Nat} (hg : g ∈ accessList s .unit)
    (ha : ∀ e ∈ accessList s .unit, (item e).addr.toNat % ebytes f = 0)
    (hclass : ∀ e ∈ accessList s .unit, ∃ c, c ≠ 3 ∧ xlatN s s.cur (item e).addr (ebytes f) .store = .ok (ls e, c))
    (hl : ∀ e ∈ accessList s .unit, e < g → (∀ l ∈ ls e, locFenced s l = false) ∧ Clean s (ls e))
    (hbad : ∃ l ∈ ls g, poisoned s l = true) (v i : VReg) (sew : Nat) :
    let u := vamoRun v k sew i ((accessList s .unit).map (elemAt s f .store item)) s
    TrappedAt .unit 0x19 (item g).addr g s u ∧
    (∀ l, (∀ e ∈ accessList s .unit, e < g → l ∉ ls e) → byteAt u l = byteAt s l) ∧
    ((∀ e ∈ accessList s .unit, ∀ e' ∈ accessList s .unit, e ≠ e' → ∀ l ∈ ls e, l ∉ ls e') → ∀ e ∈ accessList s .unit, e < g →
      valueAt u (ls e) = (arith .add k (valueAt s (ls e)) (elt s.cur v k.width e) 0).1) := by
  obtain ⟨fl, hrun⟩ := vamoRun_poisoned h (k := k) he hg hclass hl hbad v i sew
  intro u
  rw [show u = _ from hrun]
  have hbyte (l : Loc) : byteAt (Safety.trapped 0x19 (item g).addr 0 (modT (fun t => setVstart g (orFlags fl t))
      (((accessList s .unit).filter (· < g)).foldl (addAt v k ls) s))) l =
      byteAt (((accessList s .unit).filter (· < g)).foldl (addAt v k ls) s) l := by rw [byteAt_trapped, byteAt_modT]
  refine ⟨?_, fun l hother => ?_, fun hapart e hmem hlt => ?_⟩
  · exact trappedAt_setVstart (access_lt_512 h (mem_accessList.mp hg)) fl (congrArg Thread.pc (foldl_addAt_cur _ s)) _ _
  · rw [hbyte, byteAt_foldl_addAt fun e hmem => hother e (List.mem_of_mem_filter hmem) (of_decide_eq_true (List.mem_filter.mp hmem).2)]
  · rw [valueAt_congr fun l _ => hbyte l]
    refine valueAt_foldl_addAt hpair ((accessList_pairwise s .unit).filter _ |>.imp (fun hlt => hlt.ne)) (fun e hmem => ?_)
      (fun e hmem e' hmem' => hapart e (List.mem_of_mem_filter hmem) e' (List.mem_of_mem_filter hmem'))
      (List.mem_filter.mpr ⟨hmem, decide_eq_true hlt⟩) s
    obtain ⟨c, -, hx⟩ := hclass e (List.mem_of_mem_filter hmem)
    exact apiece_placed (ha e (List.mem_of_mem_filter hmem)) ⟨c, hx⟩

end Sys2Proof.Machine
end

section
/-! SUPPORT. A matrix access that fails or reads poison (07 R217), and the settling of the vector and tile faults (06 R185-R190). -/

namespace Sys2Proof.Machine

open Sys2Proof.Safety

theorem mldValue_eq (f : MFmt) (x : Nat) : mldValue f x =
    if f = .bf16 then (to32 .rne (numB16 ((BitVec.ofNat 32 x).truncate 16), 0)).1 else BitVec.ofNat 32 x := by
  cases f
  · rfl
  · have hlow : (BitVec.ofNat 32 x).truncate 16 = BitVec.ofNat 16 x := BitVec.setWidth_ofNat_of_le (by decide) x
    rw [if_pos rfl, hlow]
    rfl

theorem mstStored_eq (u : State) (m : MReg) (c : Nat) (f : MFmt) (e : Nat) : mstStored u m c f e =
    if f = .bf16 then (toB16 .rne (num32 (mat u m (e / c) (e % c)), 0)).1.toNat else (mat u m (e / c) (e % c)).toNat := by
  cases f <;> rfl

section
variable {s u : State} (hcalm : Calm s) (hel : s.cur.elim = none) (hshape : LegalShape s.cur) {b x : SReg} {f : MFmt}
  (ha : ∀ e, e < rowsOf s.cur * colsOf s.cur → (shapeItem s b x e).addr.toNat % ebytes (mfmtOf f) = 0) {m : MReg} {ls : Nat → List Loc} {g : Nat}
  (hg : g ∈ shapeList s.cur)
include hcalm hel hshape ha hg

section
variable (hmap : Mapped s [(m, if eprogOf s.cur = 0 then .full else .partial')] u)
include hmap

omit hcalm hel hshape ha hg in
theorem mapped_writes : u.cur.pc = s.cur.pc ∧ ∃ z, slotOf u.cur.map m = some z := by
  obtain ⟨map, hu⟩ := mapped_cur hmap
  refine ⟨by rw [hu], mapped_slot ?_ hmap⟩
  split
  · exact .inl rfl
  · exact .inr rfl

/-- An MLD that fails has loaded the rows below that of the failing element (R217). -/
theorem exec_mld_fails {bad : Bad} {a : Word} (hbad : bad ≠ .ecc)
    (hfail : xlatN u u.cur (shapeItem s b x g).addr (ebytes (mfmtOf f)) .load = .error (bad, a))
    (hl : ∀ e ∈ shapeList s.cur, e < g → Placed u (mfmtOf f) .load (shapeItem s b x e) (ls e))
    (hclean : ∀ e ∈ shapeList s.cur, e < g / colsOf s.cur * colsOf s.cur → (∀ l ∈ ls e, locFenced u l = false) ∧ Clean u (ls e)) (h : Hint) :
    ∃ y, exec (.mld m b x h f) s = .next y ∧
      TrappedAt .tile (if bad = .addr then 0x05 else 0x13) (shapeItem s b x g).addr (g / colsOf s.cur * colsOf s.cur) s y ∧
      y.mem = u.mem ∧ ∀ i j, shape s i j = true → mat y m i j =
        if eprogOf s.cur ≤ i * colsOf s.cur + j ∧ i * colsOf s.cur + j < g / colsOf s.cur * colsOf s.cur then
          mldValue f (valueAt u (ls (i * colsOf s.cur + j))) else mat u m i j := by
  obtain ⟨hpc, z, hz⟩ := mapped_writes hmap
  have hle : g / colsOf s.cur * colsOf s.cur ≤ g := Nat.div_mul_le_self g _
  have hlt := (mem_shapeList.mp hg).2
  obtain ⟨hstop, hbelow⟩ := rows_failed (colsOf s.cur) (fun _ => rfl) (shapeList_pairwise s.cur) hbad hg hfail hl
  have hplaced (e) (hmem : e ∈ shapeList s.cur) (h : e < g / colsOf s.cur * colsOf s.cur) := hl e hmem (h.trans_le hle)
  have hpoison : firstPoison u (rowsBelow (colsOf s.cur) ((shapeList s.cur).map (elemAt u (mfmtOf f) .load (shapeItem s b x)))) = none := by
    rw [hbelow]
    refine firstPoison_none (ls := ls) fun e hmem => ?_
    obtain ⟨hmem, h⟩ := List.mem_filter.mp hmem
    exact ⟨hplaced e hmem (of_decide_eq_true h), (hclean e hmem (of_decide_eq_true h)).2⟩
  have hfence : anyFenced u (below (g / colsOf s.cur * colsOf s.cur)
      (rowsBelow (colsOf s.cur) ((shapeList s.cur).map (elemAt u (mfmtOf f) .load (shapeItem s b x))))) = false := by
    rw [hbelow]
    exact anyFenced_below (fun _ => rfl) (ls := ls) fun e hmem h =>
      ⟨hplaced e (List.mem_of_mem_filter hmem) h, (hclean e (List.mem_of_mem_filter hmem) h).1⟩
  exact ⟨_, exec_mld_mapped hcalm hshape ha hmap h, mldRun_trapped hel hshape hpc hz (fun _ => rfl) (hle.trans_lt hlt) hplaced
    (by rw [hstop, hpoison, minStop_none_right]) hfence h⟩

/-- An MLD that reads poison has loaded the elements below it (R217). -/
theorem exec_mld_poisoned (hp : ∃ l ∈ ls g, poisoned u l = true)
    (hl : ∀ e ∈ shapeList s.cur, Accessed u (mfmtOf f) .load (shapeItem s b x e) (ls e) ∧ (e < g → Clean u (ls e))) (h : Hint) :
    ∃ y, exec (.mld m b x h f) s = .next y ∧ TrappedAt .tile 0x19 (shapeItem s b x g).addr g s y ∧
      y.mem = u.mem ∧ ∀ i j, shape s i j = true → mat y m i j =
        if eprogOf s.cur ≤ i * colsOf s.cur + j ∧ i * colsOf s.cur + j < g then mldValue f (valueAt u (ls (i * colsOf s.cur + j)))
        else mat u m i j := by
  obtain ⟨hpc, z, hz⟩ := mapped_writes hmap
  have hlt := (mem_shapeList.mp hg).2
  have hplaced (e) (hmem : e ∈ shapeList s.cur) : Placed u (mfmtOf f) .load (shapeItem s b x e) (ls e) := (hl e hmem).1.2.1
  obtain ⟨hstop, hbelow⟩ := rows_placed (colsOf s.cur) hplaced
  have hpoison := firstPoison_least (fun _ => rfl) (u := u) (shapeList_pairwise s.cur) hg (hplaced g hg) hp
    fun e hmem h => ⟨hplaced e hmem, (hl e hmem).2 h⟩
  have hfence : anyFenced u (below g (rowsBelow (colsOf s.cur) ((shapeList s.cur).map (elemAt u (mfmtOf f) .load (shapeItem s b x))))) = false := by
    rw [hbelow]
    exact anyFenced_below (fun _ => rfl) fun e hmem _ => (hl e hmem).1.2
  exact ⟨_, exec_mld_mapped hcalm hshape ha hmap h, mldRun_trapped hel hshape hpc hz (fun _ => rfl) hlt (fun e hmem _ => hplaced e hmem)
    (by rw [hstop, hbelow, minStop_none_left, hpoison]) hfence h⟩

end

/-- An MST that fails has stored the rows below that of the failing element (R217). -/
theorem exec_mst_fails (hmap : Mapped s [(m, .read)] u) {bad : Bad} {a : Word} (hbad : bad ≠ .ecc)
    (hfail : xlatN u u.cur (shapeItem s b x g).addr (ebytes (mfmtOf f)) .store = .error (bad, a))
    (hl : ∀ e ∈ shapeList s.cur, e < g → Placed u (mfmtOf f) .store (shapeItem s b x e) (ls e))
    (hfence : ∀ e ∈ shapeList s.cur, e < g / colsOf s.cur * colsOf s.cur → ∀ l ∈ ls e, locFenced u l = false)
    (hgood : ∀ e ∈ shapeList s.cur, mBad u m (· == 64 * (e / colsOf s.cur) + e % colsOf s.cur) = none) (last : Bool) (h : Hint) :
    ∃ y, exec (.mst m b x last h f) s = .next y ∧
      TrappedAt .tile (if bad = .addr then 0x05 else 0x13) (shapeItem s b x g).addr (g / colsOf s.cur * colsOf s.cur) s y ∧
      (∀ e ∈ shapeList s.cur, e < g / colsOf s.cur * colsOf s.cur →
        (∀ e' ∈ shapeList s.cur, e' < g / colsOf s.cur * colsOf s.cur → e < e' → ∀ l ∈ ls e, l ∉ ls e') →
        valueAt y (ls e) = mstStored u m (colsOf s.cur) f e) ∧
      (∀ l, (∀ e ∈ shapeList s.cur, e < g / colsOf s.cur * colsOf s.cur → l ∉ ls e) → byteAt y l = byteAt u l) := by
  obtain ⟨map, hu⟩ := mapped_cur hmap
  have hle : g / colsOf s.cur * colsOf s.cur ≤ g := Nat.div_mul_le_self g _
  have hlt := (mem_shapeList.mp hg).2
  obtain ⟨hstop, hbelow⟩ := rows_failed (colsOf s.cur) (fun _ => rfl) (shapeList_pairwise s.cur) hbad hg hfail hl
  have hplaced (e) (hmem : e ∈ shapeList s.cur) (h : e < g / colsOf s.cur * colsOf s.cur) := hl e hmem (h.trans_le hle)
  have hfence' : anyFenced u (below (g / colsOf s.cur * colsOf s.cur)
      (rowsBelow (colsOf s.cur) ((shapeList s.cur).map (elemAt u (mfmtOf f) .store (shapeItem s b x))))) = false := by
    rw [hbelow]
    exact anyFenced_below (fun _ => rfl) fun e hmem h =>
      ⟨hplaced e (List.mem_of_mem_filter hmem) h, hfence e (List.mem_of_mem_filter hmem) h⟩
  exact ⟨_, exec_mst_mapped hcalm hshape ha hmap last h, mstRun_trapped hel hshape (by rw [hu]) (fun _ => rfl) (fun _ => Nat.zero_lt_two)
    (hle.trans_lt hlt) (fun e hmem h => ⟨hplaced e hmem h, ha e (mem_shapeList.mp hmem).2⟩) hstop hgood hfence' last⟩

end

end Sys2Proof.Machine
end

section
/-! The faults of vector, tile and matrix accesses, family by family (06 R185-R190; 07 R217; 10 R291). -/

namespace Sys2Proof.Machine

open Sys2Proof.Safety

/-- Settles O29: the list of the elements of an access is ascending, so that its lowest element that fails or reads poison is the first of the
list that does, and the access stops there having run through those before it. -/
theorem vectorAccessFaults : Obligations.VectorAccessFaults := by
  unfold Obligations.VectorAccessFaults
  refine ⟨⟨?_, ?_⟩, ⟨?_, ?_⟩, ?_⟩
  · -- Unit, strided and indexed accesses with a failing element (R185-R188).
    intro s v i b f m h x k ls g a bad hk hok hm hbad hvec hg
    have hready := memReady_body hvec hm
    have hindexed := memReady_body hvec (m := .unit) (by decide)
    have hmem (e : Nat) : e ∈ accessList s m ↔ body s e = true := by rw [mem_accessList, inAccess_body hm]
    have hmem' (e : Nat) : e ∈ accessList s .unit ↔ body s e = true := mem_accessList
    have hstop := failStop_single hm s.cur g
    refine ⟨fun ha hfail hl => ⟨fun ⟨e, he, hlt⟩ => ?_, fun hfirst => ?_⟩, fun ha hfail hl => ?_, fun ha hecc => ⟨fun hfail => ?_, fun hfail => ?_⟩⟩
    · simp only [← hmem] at ha hl he hg ⊢
      exact ⟨_, exec_vld_trimmed hready hk hok ha hg hbad hfail (fun e he hlt => (hl e he hlt).1.2.1) hm ⟨e, he, hlt⟩ v h,
        loadRun_trimmed hready hm (vmItem_e s b f m x) hl hk (by have := access_lt_512 hready (mem_accessList.mp hg); omega) _ v h _ _⟩
    · simp only [← hmem] at ha hg
      exact exec_vld_first hready hk hok ha hg hbad hfail hm
        (fun e he hlt => absurd ((hmem e).mp he) (by simp [hfirst e hlt])) v h
    · rw [← hmem] at hg
      obtain ⟨u, hexec, ⟨hcause, heval, hepc, hstart⟩, hother, hlast⟩ := exec_vst_stopped hready hk hok (fun e he => ha e ((hmem e).mp he)) hg
        hbad (ls := ls) (fun e he hlt => (hl e ((hmem e).mp he) (hstop ▸ hlt)).2.2) hfail (fun e he hlt => (hl e ((hmem e).mp he) hlt).2.1) v h
      rw [if_neg hm] at hcause
      rw [progressOf_single hm, hstop] at hstart
      rw [inAccess_body hm, hstop] at hother hlast
      exact ⟨u, hexec, hcause, heval, hepc, hstart, hother, hlast⟩
    · exact exec_vldx_fails hindexed hk hok (fun e he => ha e ((hmem' e).mp he)) ((hmem' g).mpr hg) hfail
        (fun e he => hecc _ e ((hmem' e).mp he)) v h
    · exact exec_vstx_fails hindexed hk hok (fun e he => ha e ((hmem' e).mp he)) ((hmem' g).mpr hg) hfail
        (fun e he => hecc _ e ((hmem' e).mp he)) v h
  · -- Tile accesses with a failing element (R189).
    intro s v b f h x k ls g a bad hk hok hbad hready hg w item on r faulted ha hfence
    have hmem (e : Nat) : e ∈ accessList s .tile ↔ on e = true := mem_accessList
    refine ⟨fun hfail hl hclean => ?_, fun hfail hl => ?_⟩
    · exact exec_vld_row_stopped hready hk hok (fun e he => ha e ((hmem e).mp he)) ((hmem g).mpr hg) hbad
        (fun e he => hfence e ((hmem e).mp he)) rfl hfail (fun e he => hl e ((hmem e).mp he)) (fun e he => hclean e ((hmem e).mp he)) v h
    · exact exec_vst_stopped hready hk hok (fun e he => ha e ((hmem e).mp he)) ((hmem g).mpr hg) hbad
        (fun e he => hfence e ((hmem e).mp he)) hfail (fun e he => hl e ((hmem e).mp he)) v h
  · -- Loads that read poison (R190).
    intro s v i b f m h x k ls g hk hok
    refine ⟨fun hready ⟨hg, hp, hl⟩ => ?_, fun hvec ⟨hg, hp, hl⟩ => ?_⟩
    · obtain ⟨u, hexec, ⟨hcause, heval, hepc, hprog⟩, hmem, helts⟩ := exec_vld_poisoned hk hok hp hready (mem_accessList.mpr hg)
        (fun e he => hl e (mem_accessList.mp he)) v h
      refine ⟨u, hexec, ⟨hcause, heval, hepc, hmem, helts⟩, ?_⟩
      cases m <;> exact hprog
    · obtain ⟨u, hexec, ⟨hcause, heval, hepc, hprog⟩, hmem, helts⟩ := exec_vldx_poisoned hk hok hp (memReady_body hvec (by decide))
        (mem_accessList.mpr hg) (fun e he => hl e (mem_accessList.mp he)) v h
      exact ⟨u, hexec, ⟨hcause, heval, hepc, hmem, helts⟩, hprog⟩
  · -- VAMOADD (R188, R190, R291).
    intro s v i b f c aq rl k ls g a bad hk hpair hvec hg item reached ha
    have hready := memReady_body hvec (m := .unit) (by decide)
    have hmem (e : Nat) : e ∈ accessList s .unit ↔ body s e = true := mem_accessList
    simp only [← hmem] at ha hg ⊢
    rw [exec_vamoadd_checked hready hk hpair ha]
    refine ⟨fun hecc hfail => ?_, fun hall hlow hdev => ?_, fun hall hl hp => ?_⟩
    · rw [guardXlat_fails hg hfail hecc]
      exact ⟨_, rfl, recordOnly_writeRecord (length_gatherRecord 2 _) s⟩
    · rw [guardXlat_placed (ls := ls) fun e he => let ⟨q, _, hq⟩ := hall e he; ⟨q, hq⟩]
      obtain ⟨_, rfl, hdev⟩ := hdev
      rw [vamoRun_device (accessList_pairwise s .unit) hg hdev hlow]
    · rw [guardXlat_placed (ls := ls) fun e he => let ⟨q, _, hq⟩ := hall e he; ⟨q, hq⟩]
      obtain ⟨⟨hcause, heval, hepc, hprog⟩, hother, hsums⟩ := vamoRun_poisoned_leaves hready hpair (idxItem_e s b f i) hg ha hall hl hp v i
        (sewOf s.cur)
      exact ⟨_, rfl, hcause, heval, hepc, hprog, hother, fun hapart => hsums fun e he e' he' => hapart e e' he he'⟩
  · -- MLD and MST (R217).
    intro s u m b x l h f ls g a bad hcalm hel hshape hbad c n lo item acted wide loaded stored r trapsAt below cause hg ha
    have hmem (e : Nat) : e ∈ shapeList s.cur ↔ acted e = true := by simp [mem_shapeList, acted, lo, n, c]
    have hvalues (e : Nat) : loaded e = mldValue f (valueAt u (ls e)) := (mldValue_eq f _).symm
    have hcond {i j : Nat} (hij : shape s i j = true) (q : Nat) :
        (lo ≤ i * c + j ∧ i * c + j < q) ↔ (acted (i * c + j) = true ∧ i * c + j < q) := by
      rw [← hmem, mem_shapeList, and_iff_left (shape_lt hij)]
    refine ⟨fun hmap => ⟨fun hfail hl hclean => ?_, fun hp hl => ?_⟩, fun hmap hfail hl hfence hgood => ?_⟩
    · obtain ⟨y, hexec, htrap, hmemory, helts⟩ := exec_mld_fails hcalm hel hshape ha ((hmem g).mpr hg) hmap hbad hfail
        (fun e he => hl e ((hmem e).mp he)) (fun e he => hclean e ((hmem e).mp he)) h
      refine ⟨y, hexec, htrap, hmemory, fun i j hij => ?_⟩
      rw [helts i j hij, hvalues]
      exact if_congr (hcond hij r) rfl rfl
    · obtain ⟨y, hexec, htrap, hmemory, helts⟩ := exec_mld_poisoned hcalm hel hshape ha ((hmem g).mpr hg) hmap hp
        (fun e he => hl e ((hmem e).mp he)) h
      refine ⟨y, hexec, htrap, hmemory, fun i j hij => ?_⟩
      rw [helts i j hij, hvalues]
      exact if_congr (hcond hij g) rfl rfl
    · obtain ⟨y, hexec, htrap, hlast, hother⟩ := exec_mst_fails hcalm hel hshape ha ((hmem g).mpr hg) hmap hbad hfail
        (fun e he => hl e ((hmem e).mp he)) (fun e he => hfence e ((hmem e).mp he)) (fun e he => hgood e ((hmem e).mp he)) l h
      simp only [hmem] at hlast hother
      exact ⟨y, hexec, htrap, fun e he hlt hapart => (hlast e he hlt hapart).trans (mstStored_eq u m c f e), hother⟩

end Sys2Proof.Machine
end

section
/-! SUPPORT. The operands of a map step end in slots, and no other register gains one (07 R199-R203, R219). -/

namespace Sys2Proof.Machine

open Sys2Proof.Safety

/-! ### Entries of the map -/

theorem entryOf_setEntry_other {q r : Nat} (h : q ≠ r) (e : Entry) (m : NMap MapEntry) : entryOf (setEntry r e m) q = entryOf m q := by
  rw [entryOf, setEntry, tget_tset_other _ _ _ _ _ h, entryOf]

theorem entryOf_setAge_any (q r age pos : Nat) (m : NMap MapEntry) : entryOf (setAge r age pos m) q = entryOf m q := by
  by_cases h : q = r
  · rw [h, entryOf_setAge]
  · rw [entryOf, setAge, tget_tset_other _ _ _ _ _ h, entryOf]

@[simp] theorem entryOf_terase_same (r : Nat) (m : NMap MapEntry) : entryOf (terase m r) r = .zero := by rw [entryOf, tget_terase_same]

theorem entryOf_terase_other {q r : Nat} (h : q ≠ r) (m : NMap MapEntry) : entryOf (terase m r) q = entryOf m q := by
  rw [entryOf, tget_terase_other _ _ _ _ h, entryOf]

theorem slotOf_congr {m m' : NMap MapEntry} {q r : Nat} (h : entryOf m q = entryOf m' r) : slotOf m q = slotOf m' r := by
  rw [slotOf, slotOf, h]

theorem slotOf_setEntry_backed {m : NMap MapEntry} {q : Nat} (h : slotOf m q = none) (r : Nat) : slotOf (setEntry r .backed m) q = none := by
  by_cases hqr : q = r
  · rw [hqr, slotOf, entryOf_setEntry]
  · rwa [slotOf_congr (entryOf_setEntry_other hqr _ m)]

theorem isResident_iff {m : NMap MapEntry} {r : Nat} : isResident m r = true ↔ ∃ x, slotOf m r = some x := Option.isSome_iff_exists

theorem slotOf_some_iff {m : NMap MapEntry} {r k : Nat} {d l : Bool} : slotOf m r = some (k, d, l) ↔ entryOf m r = .resident k d l := by
  refine ⟨fun h => ?_, slotOf_resident⟩
  unfold slotOf at h
  split at h
  · next he =>
    obtain ⟨rfl, rfl, rfl⟩ := Option.some.inj h
    exact he
  · cases h

/-! ### The victims of a map step -/

/-- Victims go back to their backing tiles, and no register gains a slot (R200). -/
theorem evictUntil_slot {lo hi n k q : Nat} {l : List HeldSlot} {p p' : MapPlan} (h : evictUntil lo hi n l p = some (k, p'))
    (hq : slotOf p.map q = none) : slotOf p'.map q = none := by
  induction n generalizing l p with
  | zero => cases h
  | succ n ih =>
    unfold evictUntil at h
    split at h
    · cases h
    · dsimp only at h
      split at h
      · exact ih h (slotOf_setEntry_backed hq _)
      · obtain ⟨-, rfl⟩ := h
        exact slotOf_setEntry_backed hq _

theorem chooseSlot_slot {lo hi k q : Nat} {operands : List Nat} {p p' : MapPlan} (h : chooseSlot lo hi operands p = some (k, p'))
    (hq : slotOf p.map q = none) : slotOf p'.map q = none := by
  unfold chooseSlot at h
  dsimp only at h
  split at h
  · obtain ⟨-, rfl⟩ := h
    exact hq
  · split at h
    · obtain ⟨-, rfl⟩ := h
      exact hq
    · split at h
      · exact evictUntil_slot h hq
      · cases h

/-! ### One operand -/

/-- The recency of an operand, and the mark of one that is written (R200). -/
def touchPlan (age pos r : Nat) (a : MAcc) (p : MapPlan) : MapPlan :=
  { p with map := if a = .read then setAge r age pos p.map else markDirty r (setAge r age pos p.map) }

/-- Slot `k` given to an operand by the movement `v` (R200). -/
def takePlan (age pos r : Nat) (a : MAcc) (d : Bool) (v : Nat → Mv) (k : Nat) (p : MapPlan) : MapPlan :=
  touchPlan age pos r a { p with map := setEntry r (.resident k d false) p.map, moves := p.moves ++ [v k] }

theorem slotOf_touchPlan {age pos r k : Nat} {a : MAcc} {p : MapPlan} {d l : Bool} (h : entryOf p.map r = .resident k d l) :
    ∃ d', slotOf (touchPlan age pos r a p).map r = some (k, d', l) := by
  rw [← entryOf_setAge r age pos p.map] at h
  unfold touchPlan
  split
  · exact ⟨d, slotOf_resident h⟩
  · exact ⟨true, slotOf_markDirty h⟩

theorem slotOf_takePlan (age pos r : Nat) (a : MAcc) (d : Bool) (v : Nat → Mv) (k : Nat) (p : MapPlan) :
    ∃ d', slotOf (takePlan age pos r a d v k p).map r = some (k, d', false) :=
  slotOf_touchPlan (d := d) (entryOf_setEntry r (.resident k d false) p.map)

/-- Marking a register leaves the slots of the others. -/
theorem slotOf_touchPlan_other {q r : Nat} (h : q ≠ r) (age pos : Nat) (a : MAcc) (p : MapPlan) :
    slotOf (touchPlan age pos r a p).map q = slotOf p.map q := by
  have hage : entryOf (setAge r age pos p.map) q = entryOf p.map q := entryOf_setAge_any q r age pos p.map
  unfold touchPlan
  split
  · exact slotOf_congr hage
  · refine slotOf_congr (Eq.trans ?_ hage)
    unfold markDirty
    split
    · exact entryOf_setEntry_other h (.resident _ true _) (setAge r age pos p.map)
    · rfl

/-- What one operand of a map step does: nothing (a ZERO register that is read), its recency alone (a hit; a fill into the slot it holds for
MMOV), or it takes a slot (R200). -/
theorem mapOperand_cases {lo hi age pos r : Nat} {operands : List Nat} {a : MAcc} {p q : MapPlan}
    (h : mapOperand lo hi age operands pos r a p = some q) :
    (a = .read ∧ entryOf p.map r = .zero ∧ q = p) ∨
    (∃ k d l, entryOf p.map r = .resident k d l ∧ ∃ vs, (∀ src, a = .fillFrom src → vs = [.fill r src k]) ∧
      q = touchPlan age pos r a { p with moves := p.moves ++ vs }) ∨
    (∃ k p' d v, chooseSlot lo hi operands p = some (k, p') ∧ (∀ src, a = .fillFrom src → v = .fill r src) ∧
      q = takePlan age pos r a d v k p') := by
  unfold mapOperand at h
  dsimp only at h
  split at h
  case h_1 src k d l he =>
    exact .inr (.inl ⟨k, d, l, he, [.fill r src k], fun src' e => by cases e; rfl, (Option.some.inj h).symm⟩)
  case h_2 _ src _ =>
    obtain ⟨⟨k, p'⟩, hx, rfl⟩ := Option.map_eq_some_iff.mp h
    exact .inr (.inr ⟨k, p', true, .fill r src, hx, fun src' e => by cases e; rfl, rfl⟩)
  case h_3 k d l hno he =>
    refine .inr (.inl ⟨k, d, l, he, [], fun src e => absurd e (hno src), ?_⟩)
    simpa [touchPlan] using (Option.some.inj h).symm
  case h_4 he => exact .inl ⟨rfl, he, (Option.some.inj h).symm⟩
  case h_5 =>
    obtain ⟨⟨k, p'⟩, hx, rfl⟩ := Option.map_eq_some_iff.mp h
    exact .inr (.inr ⟨k, p', true, fun k => .alloc r k false, hx, fun src e => MAcc.noConfusion e, rfl⟩)
  case h_6 hno _ _ _ =>
    obtain ⟨⟨k, p'⟩, hx, rfl⟩ := Option.map_eq_some_iff.mp h
    exact .inr (.inr ⟨k, p', true, fun k => .alloc r k true, hx, fun src e => absurd e (hno src), rfl⟩)
  case h_7 hno _ _ =>
    obtain ⟨⟨k, p'⟩, hx, rfl⟩ := Option.map_eq_some_iff.mp h
    exact .inr (.inr ⟨k, p', false, fun k => .fill r r k, hx, fun src e => absurd e (hno src), rfl⟩)

/-- An operand that is written, or read while it has a value in memory, leaves its map step in a slot (R199, R200). -/
theorem mapOperand_resident {lo hi age pos r : Nat} {operands : List Nat} {a : MAcc} {p q : MapPlan}
    (h : mapOperand lo hi age operands pos r a p = some q) (ha : a = .read → entryOf p.map r ≠ .zero) : ∃ x, slotOf q.map r = some x := by
  obtain ⟨hread, hzero, -⟩ | ⟨k, d, l, he, vs, -, rfl⟩ | ⟨k, p', d, v, -, -, rfl⟩ := mapOperand_cases h
  · exact absurd hzero (ha hread)
  · obtain ⟨d', hs⟩ := slotOf_touchPlan (age := age) (pos := pos) (a := a) (p := { p with moves := p.moves ++ vs }) he
    exact ⟨_, hs⟩
  · obtain ⟨d', hs⟩ := slotOf_takePlan age pos r a d v k p'
    exact ⟨_, hs⟩

/-- A register that is not the operand gains no slot (R200). -/
theorem mapOperand_other {lo hi age pos r q : Nat} {operands : List Nat} {a : MAcc} {p p' : MapPlan}
    (h : mapOperand lo hi age operands pos r a p = some p') (hqr : q ≠ r) (hq : slotOf p.map q = none) : slotOf p'.map q = none := by
  obtain ⟨-, -, rfl⟩ | ⟨k, d, l, he, vs, -, rfl⟩ | ⟨k, p₁, d, v, hx, -, rfl⟩ := mapOperand_cases h
  · exact hq
  · exact (slotOf_touchPlan_other hqr age pos a _).trans hq
  · refine (slotOf_touchPlan_other hqr age pos a _).trans ?_
    rw [slotOf_congr (entryOf_setEntry_other hqr (.resident k d false) p₁.map)]
    exact chooseSlot_slot hx hq

/-- The slot that the last movement fills is the operand's (R219). -/
theorem mapOperand_fillFrom {lo hi age pos r src : Nat} {operands : List Nat} {p q : MapPlan}
    (h : mapOperand lo hi age operands pos r (.fillFrom src) p = some q) :
    ∃ k vs, q.moves = vs ++ [.fill r src k] ∧ ∃ d l, slotOf q.map r = some (k, d, l) := by
  obtain ⟨hread, -⟩ | ⟨k, d, l, he, vs, hv, rfl⟩ | ⟨k, p', d, v, -, hv, rfl⟩ := mapOperand_cases h
  · cases hread
  · obtain ⟨d', hs⟩ := slotOf_touchPlan (age := age) (pos := pos) (a := .fillFrom src) (p := { p with moves := p.moves ++ vs }) he
    exact ⟨k, p.moves, by rw [← hv src rfl]; rfl, d', l, hs⟩
  · obtain ⟨d', hs⟩ := slotOf_takePlan age pos r (.fillFrom src) d v k p'
    exact ⟨k, p'.moves, by rw [hv src rfl]; rfl, d', false, hs⟩

/-! ### The plan of a map step -/

theorem planOf_one {s : State} {r : Nat} {a : MAcc} {p : MapPlan} (h : planOf s [(r, a)] = some p) :
    ∃ lo hi, mapOperand lo hi s.cur.issued [r] 0 r a (startPlan s) = some p := by
  simp only [planOf, mapOperands] at h
  split at h
  · next hq =>
    obtain rfl := Option.some.inj h
    exact ⟨_, _, hq⟩
  · cases h

theorem planOf_two {s : State} {q r : Nat} {a b : MAcc} {p : MapPlan} (h : planOf s [(q, a), (r, b)] = some p) :
    ∃ lo hi p', mapOperand lo hi s.cur.issued [q, r] 0 q a (startPlan s) = some p' ∧
      mapOperand lo hi s.cur.issued [q, r] 1 r b p' = some p := by
  simp only [planOf, mapOperands] at h
  split at h
  · next p' hp' =>
    split at h
    · next hq =>
      obtain rfl := Option.some.inj h
      exact ⟨_, _, p', hp', hq⟩
    · cases h
  · cases h

/-- A register that is written is in a slot after the map step, whatever other register is read with it (R199, R200). -/
theorem mapped_resident {s u : State} {r : Nat} {a : MAcc} (ha : a ≠ .read) (h : Mapped s [(r, a)] u) : ∃ x, slotOf u.cur.map r = some x := by
  obtain ⟨-, p, hplan, -, -, rfl⟩ := h
  obtain ⟨lo, hi, hop⟩ := planOf_one hplan
  rw [applyPlan_cur]
  exact mapOperand_resident hop fun e => absurd e ha

theorem mapped_resident_second {s u : State} {q r : Nat} {a b : MAcc} (hb : b ≠ .read) (h : Mapped s [(q, a), (r, b)] u) :
    ∃ x, slotOf u.cur.map r = some x := by
  obtain ⟨-, p, hplan, -, -, rfl⟩ := h
  obtain ⟨lo, hi, p', -, hop⟩ := planOf_two hplan
  rw [applyPlan_cur]
  exact mapOperand_resident hop fun e => absurd e hb

end Sys2Proof.Machine
end

section
/-! SUPPORT. What the movements of a map step leave of memory and of the matrix stores (07 R194, R200-R203, R212). -/

namespace Sys2Proof.Machine

open Sys2Proof.Safety

/-! ### Steps that leave every byte alone -/

/-- From `s` to `u` no byte of memory and no slot of a core changes. -/
def SameData (s u : State) : Prop := u.mem = s.mem ∧ ∀ cid, (coreOf u cid).tiles = (coreOf s cid).tiles

theorem SameData.refl (s : State) : SameData s s := ⟨rfl, fun _ => rfl⟩

theorem SameData.trans {s u v : State} (h : SameData s u) (h' : SameData u v) : SameData s v :=
  ⟨h'.1.trans h.1, fun cid => (h'.2 cid).trans (h.2 cid)⟩

theorem SameData.of_cores {s u : State} (hmem : u.mem = s.mem) (hcores : u.cores = s.cores) : SameData s u :=
  ⟨hmem, fun cid => by rw [coreOf, coreOf, hcores]⟩

theorem SameData.tile {s u : State} (h : SameData s u) (cid k : Nat) : tileOf (coreOf u cid) k = tileOf (coreOf s cid) k := by
  rw [tileOf, tileOf, h.2 cid]

theorem SameData.byte {s u : State} (h : SameData s u) (l : Loc) : byteAt u l = byteAt s l := by
  cases l with
  | phys pa => rw [byteAt, byteAt, h.1]
  | store cid b => rw [byteAt, byteAt, h.tile]

theorem sameData_setCore {s : State} {cid : Nat} {c : Core} (h : c.tiles = (coreOf s cid).tiles) : SameData s (setCore cid c s) := by
  refine ⟨rfl, fun k => ?_⟩
  rw [coreOf_setCore]
  split
  · next hk => rw [h, hk]
  · rfl

theorem sameData_modCore {s : State} {cid : Nat} {f : Core → Core} (h : ∀ c, (f c).tiles = c.tiles) : SameData s (modCore cid f s) :=
  sameData_setCore (h _)

theorem sameData_withWork (w : List Instr) (s : State) : SameData s { s with work := w } := .of_cores rfl rfl

theorem sameData_owesTail (cid : Nat) (s : State) : SameData s (owesTail cid s) := by
  unfold owesTail
  split
  · exact .refl s
  · exact .of_cores rfl rfl

theorem sameData_putRecs (cid owe : Nat) (who : Option Nat) (rs data : List (BitVec 128)) (s : State) :
    SameData s (putRecs cid owe who rs data s) := by
  unfold putRecs
  dsimp only
  split
  · exact SameData.trans (sameData_setCore (cid := cid) (by rfl)) (sameData_owesTail cid _)
  · split
    · exact SameData.trans (sameData_setCore (cid := cid) (by rfl)) (sameData_owesTail cid _)
    · split
      · exact .refl s
      · exact sameData_setCore rfl

theorem sameData_mapPoint (t : Thread) (ev reg src slot : Nat) (foreign : Bool) (s : State) :
    SameData s (mapPoint t ev reg src slot foreign s) := by
  unfold mapPoint
  split
  · exact .refl s
  · exact sameData_putRecs ..

/-- The begin record of a FILL or SPILL, where its thread traces map events (R397). -/
def spanRecord (t : Thread) (spill : Bool) (reg slot : Nat) (foreign : Bool) (s : State) : State :=
  if wbit t.ctl.trctl 7 then putRecs (cidOf t) 1 none
    [mkRec (recWord0 7 0 t.ctx (deltaOf s (coreOf s (cidOf t)) 0) t.seq)
      ((inSup t).toNat * 2 ^ 38 + mapInfo (if spill then 2 else 1) reg 0 slot foreign)] [] s
  else s

/-- Beside that record a FILL or SPILL that begins notes its transfer and the work of completing it. -/
theorem mapSpan_eq (t : Thread) (spill : Bool) (reg slot : Nat) (foreign : Bool) (ls : List Loc) (s : State) :
    ∃ (x : Core → List Xfer) (w : List Instr), mapSpan t spill reg slot foreign ls s =
      { modCore (cidOf t) (fun c => { c with xfers := x c }) (spanRecord t spill reg slot foreign s) with work := w } :=
  ⟨_, _, rfl⟩

theorem sameData_mapSpan (t : Thread) (spill : Bool) (reg slot : Nat) (foreign : Bool) (ls : List Loc) (s : State) :
    SameData s (mapSpan t spill reg slot foreign ls s) := by
  have hrecord : SameData s (spanRecord t spill reg slot foreign s) := by
    unfold spanRecord
    split
    · exact sameData_putRecs ..
    · exact .refl s
  obtain ⟨x, w, h⟩ := mapSpan_eq t spill reg slot foreign ls s
  rw [h]
  exact (hrecord.trans (sameData_modCore (cid := cidOf t) fun c => by rfl)).trans (sameData_withWork _ _)

theorem sameData_noteTile (s0 : State) (pg a : Word) (s : State) : SameData s (noteTile s0 pg a s) := by
  obtain ⟨g, p, h⟩ := noteTile_units s0 pg a s
  rw [h]
  exact .of_cores rfl rfl

theorem sameData_poisonSector (q : Loc) (s : State) : SameData s (poisonSector q s) := by
  cases q with
  | phys k => exact .of_cores rfl rfl
  | store cid k => exact sameData_setCore rfl

theorem sameData_modT (f : Thread → Thread) (s : State) : SameData s (modT f s) := .of_cores rfl rfl

/-! ### Translation does not look at the cores -/

/-- A state with other cores and other work due: all that the record of a map event may change (R202, R397). -/
def withCores (c : NMap Core) (w : List Instr) (s : State) : State := { s with cores := c, work := w }

section
variable (c : NMap Core) (w : List Instr) (s : State)

theorem rdPhys_withCores (pa n : Nat) : rdPhys (withCores c w s) pa n = rdPhys s pa n := by
  refine congrArg ofBytes (List.map_congr_left fun l hl => ?_)
  obtain ⟨i, -, rfl⟩ := List.mem_map.mp hl
  rfl

theorem rdWord_withCores (pa : Nat) : rdWord (withCores c w s) pa = rdWord s pa := by
  rw [rdWord, rdPhys_withCores, rdWord]

theorem badPhys_withCores (pa n : Nat) : badPhys (withCores c w s) pa n = badPhys s pa n := by
  unfold badPhys physLocs
  rw [List.any_map, List.any_map]
  rfl

theorem pteAt_withCores (was : List (Nat × Word)) (ea : Nat) : pteAt (withCores c w s) was ea = pteAt s was ea := by
  simp only [pteAt, rdWord_withCores]

theorem leafOk_withCores (e : Word) (lev a : Nat) : leafOk (withCores c w s) e lev a = leafOk s e lev a := rfl

theorem leafL1_withCores (was : List (Nat × Word)) (ea : Nat) (e : Word) (a : Nat) : leafL1 (withCores c w s) was ea e a = leafL1 s was ea e a := by
  simp only [leafL1, pteAt_withCores, badPhys_withCores, leafOk_withCores]
  rfl

theorem walkFrom_withCores (was : List (Nat × Word)) (a lev base : Nat) : walkFrom (withCores c w s) was a lev base = walkFrom s was a lev base := by
  induction lev generalizing base with
  | zero => rfl
  | succ l ih =>
    simp only [walkFrom, pteAt_withCores, badPhys_withCores, leafOk_withCores, leafL1_withCores, ih]
    rfl

theorem walkWas_withCores (was : List (Nat × Word)) (g : Word) (a : Nat) : walkWas (withCores c w s) was g a = walkWas s was g a :=
  walkFrom_withCores ..

theorem heldLeaves_withCores (g : Word) (a : Nat) (l : List Past) (was : List (Nat × Word)) (found : List Leaf) :
    heldLeaves (withCores c w s) g a was found l = heldLeaves s g a was found l := by
  induction l generalizing was found with
  | nil => rfl
  | cons x l ih => cases x <;> simp only [heldLeaves, walkWas_withCores, ih]

theorem walk_withCores (g : Word) (a : Nat) : walk (withCores c w s) g a = walk s g a := by
  simp only [walk, tlbLeaves, walkWas_withCores, heldLeaves_withCores]
  rfl

theorem gangNext_withCores (u g n a : Nat) : gangNext (withCores c w s) u g n a = gangNext s u g n a := by
  induction n generalizing a with
  | zero => rfl
  | succ n ih =>
    simp only [gangNext, ih]
    rfl

theorem arranged_withCores (l : Leaf) (i : Nat) : arranged (withCores c w s) l i = arranged s l i := by
  simp only [arranged, gangMove, gangNext_withCores]
  rfl

theorem backPage_withCores (b : Bool) (g a : Word) : backPage (withCores c w s) b g a = backPage s b g a := by
  simp only [backPage, walk_withCores, leafLocs, funext (arranged_withCores c w s _)]

theorem backPlaces_withCores (b : Bool) (g a : Word) : backPlaces (withCores c w s) b g a = backPlaces s b g a := by
  simp only [backPlaces, backPage_withCores]

end
theorem putRecs_withCores (cid owe : Nat) (who : Option Nat) (rs data : List (BitVec 128)) (s : State) :
    ∃ c w, putRecs cid owe who rs data s = withCores c w s := by
  have tail (r : Core) : ∃ c w, owesTail cid (setCore cid r s) = withCores c w s := by
    unfold owesTail
    split <;> exact ⟨_, _, rfl⟩
  unfold putRecs
  dsimp only
  split
  · exact tail _
  · split
    · exact tail _
    · split <;> exact ⟨_, _, rfl⟩

theorem mapSpan_withCores (t : Thread) (spill : Bool) (reg slot : Nat) (foreign : Bool) (ls : List Loc) (s : State) :
    ∃ c w, mapSpan t spill reg slot foreign ls s = withCores c w s := by
  have hrecord : ∃ c w, spanRecord t spill reg slot foreign s = withCores c w s := by
    unfold spanRecord
    split
    · exact putRecs_withCores ..
    · exact ⟨s.cores, s.work, rfl⟩
  obtain ⟨c, w, hw⟩ := hrecord
  obtain ⟨x, w', h⟩ := mapSpan_eq t spill reg slot foreign ls s
  rw [h, hw]
  exact ⟨_, _, rfl⟩

/-! ### Memory apart from the stores -/

theorem byteAt_phys_of_mem {s u : State} (h : u.mem = s.mem) (pa : Nat) : byteAt u (.phys pa) = byteAt s (.phys pa) := by
  rw [byteAt, byteAt, h]

theorem putByte_store_mem (cid j : Nat) (b : Byte) (s : State) : (putByte (.store cid j) b s).mem = s.mem := rfl

/-- Writes to the stores of cores leave memory alone. -/
theorem writeAll_store_mem {ws : List Wr} (h : ∀ w ∈ ws, ∃ cid j, w.loc = .store cid j) (s : State) : (writeAll ws s).mem = s.mem := by
  have writes : ∀ (l : List Wr) (s : State), (∀ w ∈ l, ∃ cid j, w.loc = .store cid j) → (l.foldl wr1 s).mem = s.mem := by
    intro l
    induction l with
    | nil => exact fun _ _ => rfl
    | cons w l ih =>
      intro s hl
      obtain ⟨cid, j, hw⟩ := hl w List.mem_cons_self
      rw [List.foldl_cons, ih _ fun w hw => hl w (List.mem_cons_of_mem _ hw), wr1, hw, putByte_store_mem]
  have clears : ∀ (l : List Loc) (s : State), (l.foldl (fun s q => clearSector q s) s).mem = s.mem := by
    intro l
    induction l with
    | nil => exact fun _ => rfl
    | cons q l ih => exact fun s => by rw [List.foldl_cons, ih, clearSector_mem]
  exact (clears _ _).trans (writes ws s h)

@[simp] theorem hdrWr_mem (cid w n x : Nat) (s : State) : (hdrWr cid w n x s).mem = s.mem := by
  refine writeAll_store_mem (fun y hy => ?_) s
  obtain ⟨⟨l, b⟩, hx, rfl⟩ := List.mem_map.mp hy
  obtain ⟨i, -, rfl⟩ := List.mem_map.mp (List.of_mem_zip hx).1
  exact ⟨cid, w + i, rfl⟩

@[simp] theorem flagsWr_mem (cid w : Nat) (f : Word) (s : State) : (flagsWr cid w f s).mem = s.mem := hdrWr_mem ..
@[simp] theorem noteHeader_mem (cid w : Nat) (s : State) : (noteHeader cid w s).mem = s.mem := rfl

@[simp] theorem intoSlot_mem (cid slot : Nat) (f : Core → Core) (s : State) : (intoSlot cid slot f s).mem = s.mem := by
  unfold intoSlot
  split <;> rfl

@[simp] theorem resetMerge_mem (cid w : Nat) (s : State) : (resetMerge cid w s).mem = s.mem := by
  have heads : ∀ (l : List Nat) (s : State), (l.foldl (fun s h => hdrWr cid (w + 64 + 8 * h) 8 0x00000000FF800000 s) s).mem = s.mem := by
    intro l
    induction l with
    | nil => exact fun _ => rfl
    | cons h l ih => exact fun s => by rw [List.foldl_cons, ih, hdrWr_mem]
  exact (heads _ _).trans (intoSlot_mem ..)

/-- A landing slot that leaves its register changes no byte of memory (R313). -/
@[simp] theorem unbind_mem (cid slot : Nat) (s : State) : (unbind cid slot s).mem = s.mem := by
  unfold unbind
  dsimp only
  split
  · rfl
  · split
    · split <;> simp
    · simp

/-! ### Tiles written back and loaded -/

theorem backPage_length {s : State} {w : Bool} {g a : Word} {page : List Loc} (h : backPage s w g a = .ok page) : page.length = 4096 := by
  unfold backPage at h
  split at h
  · cases h
  · split at h
    · cases h
    · split at h
      · obtain rfl := Except.ok.inj h
        rw [leafLocs, List.length_map, List.length_range]
      · cases h

/-- A backing tile has 16,384 bytes (R194). -/
theorem backPlaces_length {s : State} {w : Bool} {g a : Word} {ls : List Loc} (h : backPlaces s w g a = .ok ls) : ls.length = 16384 := by
  suffices H : ∀ (ps : List Nat) (acc : Except (Bad × Word) (List Loc)) (ls : List Loc),
      ps.foldl (fun acc p => match acc with
        | .error e => .error e
        | .ok ls => match backPage s w g (a + BitVec.ofNat 64 (4096 * p)) with
          | .ok page => .ok (ls ++ page)
          | .error b => .error (b, a + BitVec.ofNat 64 (4096 * p))) acc = .ok ls →
      ∃ ls₀, acc = .ok ls₀ ∧ ls.length = ls₀.length + 4096 * ps.length by
    obtain ⟨ls₀, h₀, hlen⟩ := H (List.range 4) (.ok []) ls h
    obtain rfl := Except.ok.inj h₀
    exact hlen
  intro ps
  induction ps with
  | nil => exact fun acc ls h => ⟨ls, h, rfl⟩
  | cons p ps ih =>
    intro acc ls h
    rw [List.foldl_cons] at h
    obtain ⟨ls₁, h₁, hlen⟩ := ih _ ls h
    split at h₁
    · cases h₁
    · next ls₀ =>
      split at h₁
      · next page hpage =>
        obtain rfl := Except.ok.inj h₁
        refine ⟨ls₀, rfl, ?_⟩
        rw [hlen, List.length_append, backPage_length hpage, List.length_cons]
        omega
      · cases h₁

theorem ofNat_tile_byte (x : Tile) (j : Nat) : BitVec.ofNat 8 (x.toNat / 256 ^ j) = tileByte x j := by
  refine BitVec.eq_of_getLsbD_eq fun i hi => ?_
  rw [BitVec.getLsbD_ofNat, show 256 = 2 ^ 8 from rfl, ← pow_mul, Nat.testBit_div_two_pow, tileByte, BitVec.getLsbD_extractLsb',
    BitVec.testBit_toNat, Nat.add_comm]

/-- A tile written back stands in memory byte by byte (R194). -/
theorem byteAt_tileOut {cid slot : Nat} {ls : List Loc} {s : State} (hlen : ls.length = 16384) (hn : ls.Nodup) {j : Nat} (hj : j < ls.length) :
    byteAt (tileOut cid slot ls s) ls[j] = tileByte (tileOf (coreOf s cid) slot) j := by
  have poisons : ∀ (es : List Nat) (s : State), SameData s (es.foldl (fun s e => match ls[4 * e]? with
      | some l => poisonSector (sectorOf l) s
      | none => s) s) := by
    intro es
    induction es with
    | nil => exact .refl
    | cons e es ih =>
      intro s
      rw [List.foldl_cons]
      refine SameData.trans ?_ (ih _)
      split
      · exact sameData_poisonSector _ s
      · exact .refl s
  have hbytes : j < (leBytes Config.slotBytes (tileOf (coreOf s cid) slot).toNat).length := by
    rwa [length_leBytes, show Config.slotBytes = 16384 from rfl, ← hlen]
  refine ((poisons _ _).byte _).trans ?_
  rw [byteAt_writeAll_bytes ls _ s hn j hj hbytes, getElem_leBytes, ofNat_tile_byte]

theorem tileOf_withBad (c : Core) (b : List Nat) (k : Nat) : tileOf { c with bad := b } k = tileOf c k := rfl

/-- A tile loaded from memory, byte by byte (R194). -/
theorem tileByte_tileIn {cid slot : Nat} {ls : List Loc} {s : State} (hlen : ls.length = 16384) {j : Nat} (hj : j < ls.length) :
    tileByte (tileOf (coreOf (tileIn cid slot ls s) cid) slot) j = byteAt s ls[j] := by
  have htile : tileOf (coreOf (tileIn cid slot ls s) cid) slot = BitVec.ofNat 131072 (ofBytes (readBytes s ls)) := by
    simp only [tileIn, coreOf_modCore, if_true, tileOf_withBad, tileOf_clearSlotBad, tileOf_setTile]
  have hread : (readBytes s ls).length = 16384 := by rw [readBytes, List.length_map, hlen]
  have hbyte : BitVec.ofNat 8 (ofBytes (readBytes s ls) / 256 ^ j) = byteAt s ls[j] := by
    rw [ofBytes_div, readBytes, List.getD_eq_getElem _ _ (by rwa [List.length_map]), List.getElem_map]
  rw [htile, ← hbyte, tileByte]
  refine BitVec.eq_of_getLsbD_eq fun i hi => ?_
  rw [BitVec.getLsbD_extractLsb', BitVec.getLsbD_ofNat, BitVec.getLsbD_ofNat, show 256 = 2 ^ 8 from rfl, ← pow_mul, Nat.testBit_div_two_pow,
    decide_eq_true (by omega : 8 * j + i < 131072), Bool.true_and, Nat.add_comm]

/-! ### The movements -/

/-- A dirty slot that is written back leaves its tile in the register's backing bytes (R202). -/
theorem byteAt_spill {s : State} {r k : Nat} {ls : List Loc} (h : backPlaces s true s.cur.ctl.pgroot (backAddr s.cur r) = .ok ls) (hn : ls.Nodup)
    (land : Bool) {j : Nat} (hj : j < ls.length) :
    byteAt (applyMv s (.spill r k land)) ls[j] = tileByte (tileOf (coreOf s (cidOf s.cur)) k) j := by
  have hspan := sameData_mapSpan s.cur true r k false ls s
  have hout := byteAt_tileOut (cid := cidOf s.cur) (slot := k) (s := mapSpan s.cur true r k false ls s) (backPlaces_length h) hn hj
  have hnote := (sameData_noteTile (mapSpan s.cur true r k false ls s) s.cur.ctl.pgroot (backAddr s.cur r)
    (tileOut (cidOf s.cur) k ls (mapSpan s.cur true r k false ls s))).byte ls[j]
  rw [hout, hspan.tile] at hnote
  have hplaces : backPlaces (mapSpan s.cur true r k false ls s) true s.cur.ctl.pgroot (backAddr s.cur r) = .ok ls := by
    obtain ⟨c, w, hw⟩ := mapSpan_withCores s.cur true r k false ls s
    rw [hw, backPlaces_withCores, h]
  simp only [applyMv, h, Except.toOption, Option.getD_some, hplaces]
  split
  · obtain ⟨pa, hpa⟩ := backPlaces_phys h ls[j] (List.getElem_mem hj)
    rw [← hnote, hpa]
    exact byteAt_phys_of_mem (unbind_mem ..) pa
  · exact hnote

/-- A slot that is filled holds the backing tile (R194, R202). -/
theorem tileByte_fill {s : State} {r src k : Nat} {ls : List Loc} (h : backPlaces s false s.cur.ctl.pgroot (backAddr s.cur src) = .ok ls)
    {j : Nat} (hj : j < ls.length) :
    tileByte (tileOf (coreOf (applyMv s (.fill r src k)) (cidOf s.cur)) k) j = byteAt s ls[j] := by
  simp only [applyMv, h]
  rw [(sameData_mapSpan s.cur false r k false ls (tileIn (cidOf s.cur) k ls s)).tile]
  exact tileByte_tileIn (backPlaces_length h) hj

theorem sameData_drop (s : State) (r k : Nat) : SameData s (applyMv s (.drop r k false)) := sameData_mapPoint ..
theorem sameData_retag (s : State) (d r k : Nat) : SameData s (applyMv s (.retag d r k)) := sameData_mapPoint ..

end Sys2Proof.Machine
end

section
/-! SUPPORT. Matrix instructions in a calm thread: their guards pass, and they complete having written elements of one register
(07 R200, R208-R213). -/

namespace Sys2Proof.Machine

open Sys2Proof.Safety

/-! ### Guards that pass -/

theorem guardFol_clear {s : State} {rs : List Nat} (h : FolClear s rs) (k : State) : guardFol rs s k = k := by
  obtain ⟨hfree, hclear⟩ := h
  have hbad : (s.cur.folBad.find? fun (r, _) => rs.contains r) = none := by
    rw [List.find?_eq_none]
    intro x hx
    simpa using hclear x hx
  simp only [guardFol, hbad, any_fols_false hfree, Bool.false_eq_true, if_false]

theorem mapPlan_applied {s : State} {p : MapPlan} (htiles : checkTiles s (ownTiles p.moves) = none) (hfree : FolFree s (p.moves.flatMap mvReg))
    (i : Instr) (k : State → State) : mapPlan i (some p) s k = k (applyPlan p s) := by
  simp only [mapPlan, htiles, any_fols_false hfree, Bool.false_eq_true, if_false]

theorem guardMat_good {s : State} {r : Nat} {es : Nat → Bool} (h : mBad s r es = none) (k : State) : guardMat r es s k = k := by
  simp only [guardMat, h]

theorem guardVec_good {s : State} (h : s.cur.vbad = []) (l : List (VReg × Nat)) (k : State) : guardVec l s k = k := by
  have hnone : (l.find? fun (r, n) => s.cur.vbad.any fun (q, j) => q == r.val && decide (j < n)) = none := by
    rw [List.find?_eq_none]
    intro x _
    simp [h]
  simp only [guardVec, hnone]

theorem guardSpan_fits {s : State} {w n : Nat} (hl : 0 < lanesOf s.cur) (hn : n ≤ vlmax s.cur w) (i : Instr) (k : State) :
    guardSpan i w n s k = k := by
  have hlanes : lanesOf s.cur ≠ 0 := hl.ne'
  simp [guardSpan, hlanes, Nat.not_lt.mpr hn]

/-! ### Completion -/

/-- A thread is as calm as another that differs from it in the register map alone. -/
theorem calm_withMap {s u : State} (hs : Calm s) {map : NMap MapEntry} (hu : u.cur = { s.cur with map := map }) : Calm u := by
  unfold Calm
  rw [hu]
  exact hs

theorem calm_applyPlan {s : State} (hs : Calm s) (p : MapPlan) : Calm (applyPlan p s) := calm_withMap hs (applyPlan_cur p s)

theorem calm_mapped {s u : State} {ops : List (Nat × MAcc)} (hs : Calm s) (h : Mapped s ops u) : Calm u := by
  obtain ⟨map, hu⟩ := mapped_cur h
  exact calm_withMap hs hu

/-- An effect on control registers that name no loop level and no mode: flags and progress. -/
def CtlNote (f : Thread → Thread) : Prop :=
  ∀ t, ∃ c : Ctl, f t = { t with ctl := c } ∧ c.estat = t.ctl.estat ∧ c.ldepth = t.ctl.ldepth ∧ c.lend = t.ctl.lend

theorem CtlNote.id : CtlNote id := fun t => ⟨t.ctl, rfl, rfl, rfl, rfl⟩
theorem CtlNote.orFlags (g : Flags) : CtlNote (orFlags g) := fun _ => ⟨_, rfl, rfl, rfl, rfl⟩

theorem finish_ctlNote {f : Thread → Thread} (hf : CtlNote f) {s : State} (hs : Calm s) : finish 0 f s = retired f s := by
  obtain ⟨c, he, hestat, hdepth, hlend⟩ := hf s.cur
  refine finish_calm 0 f s hs.1 ?_
  rw [he]
  exact noEdge_of s.cur _ hs.2 rfl hestat hdepth hlend

/-- The value of a register after an instruction that completes with such an effect. -/
theorem mat_retired {f : Thread → Thread} (hf : CtlNote f) (s : State) (m : MReg) (i j : Nat) : mat (retired f s) m i j = mat s m i j := by
  obtain ⟨c, he, -⟩ := hf s.cur
  have hmap : (retired f s).cur.map = s.cur.map := by rw [show (retired f s).cur.map = (f s.cur).map from rfl, he]
  have hcid : cidOf (retired f s).cur = cidOf s.cur := by rw [show cidOf (retired f s).cur = cidOf (f s.cur) from rfl, he]; rfl
  rw [mat, mat, mval_congr hmap hcid rfl]

theorem coreOf_mwrite {s : State} {r k : Nat} {d l : Bool} (h : slotOf s.cur.map r = some (k, d, l)) (es : Nat → Bool) (g : Nat → F32) (c : Nat) :
    coreOf (mwrite r es g s) c = if c = cidOf s.cur then clearSlotBad k es (setTile k (tileSet es g (tileOf (coreOf s c) k)) (coreOf s c))
      else coreOf s c := by
  rw [mwrite_slot h, coreOf_modCore]
  split
  · next hc => rw [hc]
  · rfl

/-- A slot written changes no more of its core than tiles and damage. -/
theorem writtenSlot_frame (k k' : Nat) (p : Nat → Bool) (x : Tile) (c : Core) : clearSlotBad k p (setTile k' x c) =
    { c with tiles := (clearSlotBad k p (setTile k' x c)).tiles, bad := (clearSlotBad k p (setTile k' x c)).bad } := rfl

/-- What an instruction leaves that writes elements `es` of a register in a slot and completes (R209, R212). -/
theorem matWrote_mwrite {s : State} {m : MReg} {x : Nat × Bool × Bool} (hm : slotOf s.cur.map m = some x) {f : Thread → Thread} (hf : CtlNote f)
    {es : Nat → Bool} {g : Nat → F32} {on : Nat → Nat → Bool} {val : Nat → Nat → F32} (hon : ∀ i j, i < 64 → j < 64 → es (64 * i + j) = on i j)
    (hval : ∀ i j, i < 64 → j < 64 → on i j = true → g (64 * i + j) = val i j) : MatWrote s (retired f (mwrite m es g s)) m on val f := by
  obtain ⟨k, d, l⟩ := x
  have hcores (c : Nat) : coreOf (retired f (mwrite m es g s)) c = coreOf (mwrite m es g s) c := rfl
  refine ⟨fun i j hi hj => ?_, fun c k' hk' => ?_, fun c => ?_, ?_⟩
  · rw [mat_retired hf, mat_mwrite hm es g (by omega), hon i j hi hj]
    split
    · next h => exact hval i j hi hj h
    · rfl
  · rw [hcores, coreOf_mwrite hm]
    split
    · next hc =>
      have hne : k' ≠ k := fun e => hk' hc d l (e ▸ hm)
      rw [tileOf_clearSlotBad, tileOf_setTile, if_neg hne]
    · rfl
  · rw [hcores, coreOf_mwrite hm]
    split
    · exact writtenSlot_frame ..
    · rfl
  · rw [mwrite_slot hm]
    rfl

/-- The same of one that writes nothing. -/
theorem matWrote_nothing (s : State) (m : MReg) {f : Thread → Thread} (hf : CtlNote f) (on : Nat → Nat → Bool) :
    MatWrote s (retired f s) m on (mat s m) f :=
  ⟨fun i j _ _ => by rw [mat_retired hf, ite_self], fun _ _ _ => rfl, fun _ => rfl, rfl⟩

end Sys2Proof.Machine
end

section
/-! SUPPORT. The outer products and MMAS (02 R70, R71; 07 R209, R213, R214). -/

namespace Sys2Proof.Machine

open Sys2Proof.Safety

/-! ### Elements of a shape in row order -/

/-- Rows of equal length laid end to end. -/
theorem flatMap_range_map {α : Type} (r c : Nat) (g : Nat → Nat → α) :
    ((List.range r).flatMap fun i => (List.range c).map (g i)) = (List.range (r * c)).map fun e => g (e / c) (e % c) := by
  induction r with
  | zero => simp
  | succ r ih =>
    rw [List.range_succ, List.flatMap_append, ih, Nat.succ_mul, List.range_add, List.map_append, List.flatMap_singleton, List.map_map]
    congr 1
    refine List.map_congr_left fun j hj => ?_
    have hj := List.mem_range.mp hj
    rw [Function.comp_apply, Nat.mul_comm r c, Nat.mul_add_div (by omega), Nat.div_eq_of_lt hj, Nat.add_zero, Nat.mul_add_mod, Nat.mod_eq_of_lt hj]

theorem rowMajor_lt {r c i j : Nat} (hi : i < r) (hj : j < c) : i * c + j < r * c :=
  calc i * c + j < (i + 1) * c := by rw [Nat.succ_mul]; omega
    _ ≤ r * c := Nat.mul_le_mul_right _ hi

theorem getD_map_range {α : Type} (g : Nat → α) {n i : Nat} (hi : i < n) (d : α) : ((List.range n).map g).toArray.getD i d = g i := by
  simp [hi]

/-- Element (i, j) of rows laid end to end. -/
theorem getD_rows {α : Type} {r c i j : Nat} (g : Nat → Nat → α) (hi : i < r) (hj : j < c) (d : α) :
    ((List.range r).flatMap fun i => (List.range c).map (g i)).toArray.getD (i * c + j) d = g i j := by
  rw [flatMap_range_map, getD_map_range _ (rowMajor_lt hi hj), Nat.mul_comm i c, Nat.mul_add_div (by omega), Nat.div_eq_of_lt hj, Nat.add_zero,
    Nat.mul_add_mod, Nat.mod_eq_of_lt hj]

theorem shapeOut_congr {t : Thread} {f f' : Nat → Nat → R32} (h : ∀ i j, i < rowsOf t → j < colsOf t → f i j = f' i j) :
    shapeOut t f = shapeOut t f' :=
  List.flatMap_congr fun i hi => List.map_congr_left fun j hj => by rw [h i j (List.mem_range.mp hi) (List.mem_range.mp hj)]

/-- The flags of a shape's elements (R67). -/
theorem outFlags_shapeOut (s : State) (f : Nat → Nat → R32) : outFlags (shapeOut s.cur f) = shapeFlags s fun i j => (f i j).2 := by
  have hflags : ((List.range (rowsOf s.cur)).flatMap fun i => (List.range (colsOf s.cur)).map fun j => (f i j).2) =
      (shapeOut s.cur f).map fun x => x.2.2 := by
    simp only [shapeOut, List.map_flatMap, List.map_map]
    rfl
  rw [shapeFlags, hflags, List.foldl_map, outFlags]

theorem shape_iff {s : State} {i j : Nat} : shape s i j = true ↔ i < rowsOf s.cur ∧ j < colsOf s.cur := by simp [shape]

theorem inShape_eq {s : State} {t : Thread} (ht : t.ctl = s.cur.ctl) {i j : Nat} (hj : j < 64) : inShape t (64 * i + j) = shape s i j := by
  have hrow : (64 * i + j) / 64 = i := by omega
  have hcol : (64 * i + j) % 64 = j := by omega
  rw [inShape, shape, hrow, hcol, rowsOf, colsOf, rowsOf, colsOf, ht]

theorem mapped_ctl {s u : State} {ops : List (Nat × MAcc)} (h : Mapped s ops u) : u.cur.ctl = s.cur.ctl := by
  obtain ⟨map, hu⟩ := mapped_cur h
  rw [hu]

/-! ### Outer products -/

theorem bf16At_map (g : Nat → Nat) {n i : Nat} (hi : i < n) : bf16At ((List.range n).map g).toArray i = numB16 (BitVec.ofNat 16 (g i)) := by
  rw [bf16At, getD_map_range g hi]

section
variable {s u : State} {m : MReg} (hmap : Mapped s [(m, .readWrite)] u) (hbad : mBad u m (inShape s.cur) = none)
include hmap

/-- The elements of the shape written after a map step, with their flags (R209). -/
theorem matWrote_shapeWrite (hshape : LegalShape s.cur) (f : Nat → Nat → R32) :
    MatWrote u (retired (orFlags (outFlags (shapeOut s.cur f))) (shapeWrite m (shapeOut s.cur f) u)) m (shape s) (fun i j => (f i j).1)
      (flagged (shapeFlags s fun i j => (f i j).2)) := by
  obtain ⟨-, -, hc, -⟩ := hshape
  obtain ⟨x, hm⟩ := mapped_resident (by simp) hmap
  have hctl := mapped_ctl hmap
  have hcols : max 1 (colsOf u.cur) = colsOf s.cur := by rw [colsOf, hctl]; exact Nat.max_eq_right hc
  rw [outFlags_shapeOut]
  refine matWrote_mwrite hm (.orFlags _) (fun i j hi hj => inShape_eq hctl hj) fun i j hi hj hij => ?_
  obtain ⟨hi, hj'⟩ := shape_iff.mp hij
  have hvals : (shapeOut s.cur f).map (fun x => x.2.1) =
      (List.range (rowsOf s.cur)).flatMap fun i => (List.range (colsOf s.cur)).map fun j => (f i j).1 := by
    simp only [shapeOut, List.map_flatMap, List.map_map]
    rfl
  have hrow : (64 * i + j) / 64 = i := by omega
  have hcol : (64 * i + j) % 64 = j := by omega
  rw [hcols, hrow, hcol, hvals, getD_rows (fun i j => (f i j).1) hi hj']

include hbad

/-- An outer product: its checks and its map step pass, and the elements of the shape are written (R209, R210, R212, R213). -/
theorem outer_wrote (hshape : LegalShape s.cur) {w n : Nat} (h : SpanReady s w n) (i : Instr) (l : List (VReg × Nat))
    {out : State → List (Nat × R32)} {f : Nat → Nat → R32} (hout : out u = shapeOut s.cur f) :
    MatWrote u (guardSpan i w n s (mapStep i [(m, .readWrite)] s fun y => guardVec l y (guardMat m (inShape s.cur) y
      (finish 0 (orFlags (outFlags (out y))) (shapeWrite m (out y) y))))) m (shape s) (fun i j => (f i j).1)
      (flagged (shapeFlags s fun i j => (f i j).2)) := by
  obtain ⟨hcalm, hvbad, hlanes, hspan⟩ := h
  have hsound : u.cur.vbad = [] := by
    obtain ⟨map, hu⟩ := mapped_cur hmap
    rw [hu]
    exact hvbad
  have hcalm' : Calm (shapeWrite m (out u) u) := by
    unfold Calm
    rw [shapeWrite, mwrite_cur]
    exact calm_mapped hcalm hmap
  rw [guardSpan_fits hlanes hspan, mapStep_mapped hmap, guardVec_good hsound, guardMat_good hbad, finish_ctlNote (.orFlags _) hcalm', hout]
  exact matWrote_shapeWrite hmap hshape f

/-- MOPA.B and MOPS.B (R70, R213). -/
theorem mopB_wrote (hshape : LegalShape s.cur) (h : SpanReady s 16 (4 * max (rowsOf s.cur) (colsOf s.cur))) (i : Instr) (sub : Bool) (a b : VReg) :
    let f (i j : Nat) : R32 := mac32 (mat u m i j) ((List.range 4).map fun k =>
      mulNum (numB16 (BitVec.ofNat 16 (elt s.cur a 16 (4 * i + k)))) (numB16 (BitVec.ofNat 16 (elt s.cur b 16 (4 * j + k))))) sub
    MatWrote u (mopB i sub m a b s) m (shape s) (fun i j => (f i j).1) (flagged (shapeFlags s fun i j => (f i j).2)) := by
  intro f
  refine outer_wrote (out := fun y => rank4 s.cur (mval y m) (vecElts s.cur a 16 (4 * rowsOf s.cur)) (vecElts s.cur b 16 (4 * colsOf s.cur)) sub)
    hmap hbad hshape h i [(a, 8 * rowsOf s.cur), (b, 8 * colsOf s.cur)] (shapeOut_congr fun i j hi hj => ?_)
  refine congrArg (mac32 _ · sub) (List.map_congr_left fun k hk => ?_)
  have hk := List.mem_range.mp hk
  rw [vecElts, vecElts, bf16At_map _ (by omega), bf16At_map _ (by omega)]

/-- MOPA.F and MOPS.F (R71, R213). -/
theorem mopF_wrote (hshape : LegalShape s.cur) (h : SpanReady s 32 (max (rowsOf s.cur) (colsOf s.cur))) (i : Instr) (sub : Bool) (a b : VReg) :
    let f32 (v : VReg) (n : Nat) := num32 (BitVec.ofNat 32 (elt s.cur v 32 n))
    let f (i j : Nat) : R32 := to32 .rne (fmaNum .rne (if sub then negNum (f32 a i) else f32 a i) (f32 b j) (num32 (mat u m i j)))
    MatWrote u (mopF i sub m a b s) m (shape s) (fun i j => (f i j).1) (flagged (shapeFlags s fun i j => (f i j).2)) := by
  intro f32 f
  unfold mopF
  dsimp only
  refine outer_wrote hmap hbad hshape h i [(a, 4 * rowsOf s.cur), (b, 4 * colsOf s.cur)] (shapeOut_congr fun i j hi hj => ?_)
  rw [vecElts, vecElts, getD_map_range _ hi, getD_map_range _ hj]
  rfl

end

/-! ### MMAS -/

/-- Element (i, j) of an accumulator after rank-4 step `k` of an MMAS (R70, R214). -/
def mmasStep (s : State) (g : MmasArgs) (z : Nat → Nat → F32) (k i j : Nat) : R32 :=
  mac32 (z i j) ((List.range 4).map fun n => mulNum
    (numB16 (scratch16 s (g.base + k * g.rpitch + 2 * (4 * i + n))))
    (numB16 (scratch16 s (g.base + g.tpitch + k * g.rpitch + 2 * (4 * j + n))))) false

/-- An accumulator `z` after the steps from `lo` up to `k` (R71). -/
def accAfter (s : State) (g : MmasArgs) (z : Nat → Nat → F32) (lo k : Nat) : Nat → Nat → F32 :=
  (List.range' lo (k - lo)).foldl (fun z k i j => (mmasStep s g z k i j).1) z

theorem accAfter_start (s : State) (g : MmasArgs) (z : Nat → Nat → F32) (lo : Nat) : accAfter s g z lo lo = z := by
  rw [accAfter, Nat.sub_self]
  rfl

theorem accAfter_succ (s : State) (g : MmasArgs) (z : Nat → Nat → F32) {lo k : Nat} (h : lo ≤ k) (i j : Nat) :
    accAfter s g z lo (k + 1) i j = (mmasStep s g (accAfter s g z lo k) k i j).1 := by
  have hlen : k + 1 - lo = (k - lo) + 1 := by omega
  rw [accAfter, hlen, List.range'_concat, List.foldl_append, Nat.one_mul, Nat.add_sub_cancel' h]
  rfl

/-- Element 64 i + j of an array, as a matrix. -/
def gridOf (x : Array F32) (i j : Nat) : F32 := x.getD (64 * i + j) 0

/-- The elements that a step writes, with their flags. -/
def mmasOut (s : State) (g : MmasArgs) (x : Array F32) (k : Nat) : List (Nat × R32) :=
  (List.range g.rows).flatMap fun i => (List.range g.cols).map fun j => (64 * i + j, mmasStep s g (gridOf x) k i j)

def setAll (l : List (Nat × R32)) (x : Array F32) : Array F32 := l.foldl (fun x p => x.setIfInBounds p.1 p.2.1) x

theorem size_setAll (l : List (Nat × R32)) (x : Array F32) : (setAll l x).size = x.size := by
  induction l generalizing x with
  | nil => rfl
  | cons p l ih => exact (ih _).trans Array.size_setIfInBounds

/-- An element that every write of it gives the same value has that value, if one writes it or it stood there before. -/
theorem getD_setAll {l : List (Nat × R32)} {e : Nat} {v : F32} (hv : ∀ p ∈ l, p.1 = e → p.2.1 = v) {x : Array F32} (he : e < x.size)
    (h : (∃ p ∈ l, p.1 = e) ∨ x.getD e 0 = v) : (setAll l x).getD e 0 = v := by
  induction l generalizing x with
  | nil =>
    obtain ⟨p, hp, -⟩ | h := h
    · cases hp
    · exact h
  | cons p l ih =>
    refine ih (fun q hq => hv q (List.mem_cons_of_mem p hq)) (x := x.setIfInBounds p.1 p.2.1) (by simpa using he) ?_
    by_cases hpe : p.1 = e
    · refine .inr ?_
      rw [← hv p List.mem_cons_self hpe, hpe]
      simp [he]
    · obtain ⟨q, hq, hqe⟩ | h := h
      · obtain rfl | hq := List.mem_cons.mp hq
        · exact absurd hqe hpe
        · exact .inl ⟨q, hq, hqe⟩
      · refine .inr ?_
        rw [← h]
        simp [hpe]

/-- A step gives every element of the shape its new value. -/
theorem getD_mmasOut {s : State} {g : MmasArgs} (hr : g.rows ≤ 64) (hc : g.cols ≤ 64) {x : Array F32} (hx : x.size = 4096) (k : Nat) {i j : Nat}
    (hi : i < g.rows) (hj : j < g.cols) : gridOf (setAll (mmasOut s g x k) x) i j = (mmasStep s g (gridOf x) k i j).1 := by
  refine getD_setAll (fun p hp hpe => ?_) (by omega) (.inl ⟨(64 * i + j, mmasStep s g (gridOf x) k i j), ?_, rfl⟩)
  · obtain ⟨i', -, hp⟩ := List.mem_flatMap.mp hp
    obtain ⟨j', hj', rfl⟩ := List.mem_map.mp hp
    have hj' := List.mem_range.mp hj'
    obtain rfl : i' = i := by dsimp only at hpe; omega
    obtain rfl : j' = j := by dsimp only at hpe; omega
    rfl
  · exact List.mem_flatMap.mpr ⟨i, List.mem_range.mpr hi, List.mem_map.mpr ⟨j, List.mem_range.mpr hj, rfl⟩⟩

theorem mmasSteps_succ (s : State) (t : Thread) (g : MmasArgs) (n k : Nat) (x : Array F32) (fl : Flags) :
    mmasSteps s t (cidOf s.cur) g (n + 1) k (x, fl) =
      mmasSteps s t (cidOf s.cur) g n (k + 1) (setAll (mmasOut s g x k) x, fl ||| outFlags (mmasOut s g x k)) := by
  have panel (o : Nat) {c i : Nat} (hi : i < c) : bf16At ((List.range c).map fun e =>
      ofBytes (readBytes s [scratchLoc s (cidOf s.cur) (o + 2 * e), scratchLoc s (cidOf s.cur) (o + 2 * e + 1)])).toArray i =
      numB16 (scratch16 s (o + 2 * i)) := bf16At_map _ hi
  have hout : ((List.range g.rows).flatMap fun i => (List.range g.cols).map fun j => (64 * i + j,
      mac32 (x.getD (64 * i + j) 0) ((List.range 4).map fun n => mulNum
        (bf16At ((List.range (8 * g.rows / 2)).map fun e => ofBytes (readBytes s [scratchLoc s (cidOf s.cur) (g.base + k * g.rpitch + 2 * e),
          scratchLoc s (cidOf s.cur) (g.base + k * g.rpitch + 2 * e + 1)])).toArray (4 * i + n))
        (bf16At ((List.range (8 * g.cols / 2)).map fun e => ofBytes (readBytes s
          [scratchLoc s (cidOf s.cur) (g.base + g.tpitch + k * g.rpitch + 2 * e),
          scratchLoc s (cidOf s.cur) (g.base + g.tpitch + k * g.rpitch + 2 * e + 1)])).toArray (4 * j + n))) false)) = mmasOut s g x k := by
    refine List.flatMap_congr fun i hi => List.map_congr_left fun j hj => ?_
    have hi := List.mem_range.mp hi
    have hj := List.mem_range.mp hj
    refine congrArg (fun l => (64 * i + j, mac32 (gridOf x i j) l false)) (List.map_congr_left fun n hn => ?_)
    have hn := List.mem_range.mp hn
    rw [panel _ (by omega), panel _ (by omega)]
  rw [mmasSteps, ← hout]
  rfl

/-- The elements of the shape after the steps of an MMAS (R71). -/
theorem mmasSteps_elts {s : State} {g : MmasArgs} (hr : g.rows ≤ 64) (hc : g.cols ≤ 64) (t : Thread) (n k : Nat) {x : Array F32}
    (hx : x.size = 4096) (fl : Flags) {z : Nat → Nat → F32} (hz : ∀ i j, i < g.rows → j < g.cols → gridOf x i j = z i j) {i j : Nat}
    (hi : i < g.rows) (hj : j < g.cols) :
    gridOf (mmasSteps s t (cidOf s.cur) g n k (x, fl)).1 i j = (List.range' k n).foldl (fun z k i j => (mmasStep s g z k i j).1) z i j := by
  induction n generalizing k x fl z with
  | zero => exact hz i j hi hj
  | succ n ih =>
    rw [mmasSteps_succ, List.range'_succ, List.foldl_cons]
    refine ih (k + 1) ((size_setAll _ x).trans hx) _ fun i j hi hj => ?_
    rw [getD_mmasOut hr hc hx k hi hj, mmasStep, hz i j hi hj, mmasStep]

/-- What the steps of an MMAS leave (R71, R214). -/
theorem mmasRun_wrote {s : State} {m : MReg} {x : Nat × Bool × Bool} (hm : slotOf s.cur.map m = some x) {g : MmasArgs} (hr : g.rows ≤ 64)
    (hc : g.cols ≤ 64) (lo hi : Nat) {f : Thread → Thread} (hf : CtlNote f) :
    MatWrote s (retired f (mmasRun m g lo hi s).1) m (fun i j => decide (i < g.rows) && decide (j < g.cols)) (accAfter s g (mat s m) lo hi) f := by
  unfold mmasRun
  split
  · next hle =>
    rw [accAfter, Nat.sub_eq_zero_of_le hle]
    exact matWrote_nothing s m hf _
  · refine matWrote_mwrite hm hf (fun i j _ hj => ?_) fun i j _ _ hon => ?_
    · have hrow : (64 * i + j) / 64 = i := by omega
      have hcol : (64 * i + j) % 64 = j := by omega
      rw [hrow, hcol]
    · simp only [Bool.and_eq_true, decide_eq_true_eq] at hon
      refine mmasSteps_elts hr hc s.cur (hi - lo) lo (by rw [List.size_toArray, List.length_map, List.length_range]) 0 (fun i j hi hj => ?_)
        hon.1 hon.2
      rw [gridOf, getD_map_range _ (by omega), mat]

section
variable {s u : State} (hcalm : Calm s) (hel : s.cur.elim = none) (hshape : LegalShape s.cur) {m : MReg} {a b : SReg}
  (hres : mmasReserved (reg s a) (reg s b) = false)
  (hcheck : mmasCheck s (mmasArgs s.cur.ctl.mshape (reg s a) (reg s b)) (fld s.cur.ctl.mstart 0 7)
    (max (fld s.cur.ctl.mstart 0 7) (stepsOf s.cur)) = none)
  (hmap : Mapped s [(m, .readWrite)] u) (hbad : mBad u m (inShape s.cur) = none)
  (hclean : ∀ k, fld s.cur.ctl.mstart 0 7 ≤ k → k < max (fld s.cur.ctl.mstart 0 7) (stepsOf s.cur) →
    mmasPoison u (cidOf s.cur) (mmasArgs s.cur.ctl.mshape (reg s a) (reg s b)) k = none)
include hcalm hel hres hcheck hmap hbad hclean

/-- An MMAS whose checks pass and that meets no damage completes (R214). -/
theorem exec_mmas_complete : ∃ run : State × Flags,
    run = mmasRun m (mmasArgs s.cur.ctl.mshape (reg s a) (reg s b)) (fld s.cur.ctl.mstart 0 7)
      (max (fld s.cur.ctl.mstart 0 7) (stepsOf s.cur)) u ∧
    exec (.mmas m a b) s = .next (finish 0 (fun t => setMstart 0 (orFlags run.2 t)) run.1) := by
  have hpoison : ((List.range (max (fld s.cur.ctl.mstart 0 7) (stepsOf s.cur))).filter (fld s.cur.ctl.mstart 0 7 ≤ ·)).findSome? (fun k =>
      (mmasPoison u (cidOf s.cur) (mmasArgs s.cur.ctl.mshape (reg s a) (reg s b)) k).map fun o =>
        (k, (⟨cECC, BitVec.ofNat 64 (Config.scratchOwn + o), 0⟩ : TrapInfo))) = none := by
    rw [List.findSome?_eq_none_iff]
    intro k hk
    obtain ⟨hlt, hle⟩ := List.mem_filter.mp hk
    rw [hclean k (of_decide_eq_true hle) (List.mem_range.mp hlt), Option.map_none]
  refine ⟨_, rfl, ?_⟩
  simp only [exec_mmas, execMmas, guardS_quiet _ hcalm.1, rs_quiet _ hcalm.1, sreg_eq_reg, hres, hcheck, mapStep_mapped hmap, hbad,
    Option.map_none, ite_self, hpoison, minStop_none_left, stopAt_unasked hel, Bool.false_eq_true, if_false]

include hshape

/-- MMAS accumulates the steps from MSTART up to K and leaves MSTART 0 (R71, R214). -/
theorem exec_mmas_wrote : ∃ (x : State) (fl : Flags), exec (.mmas m a b) s = .next x ∧
    MatWrote u x m (shape s) (accAfter u (mmasArgs s.cur.ctl.mshape (reg s a) (reg s b)) (mat u m) (fld s.cur.ctl.mstart 0 7)
      (max (fld s.cur.ctl.mstart 0 7) (stepsOf s.cur))) (fun t => setMstart 0 (orFlags fl t)) := by
  obtain ⟨run, hrun, hexec⟩ := exec_mmas_complete hcalm hel hres hcheck hmap hbad hclean
  obtain ⟨-, hr, -, hc⟩ := hshape
  obtain ⟨y, hm⟩ := mapped_resident (by simp) hmap
  have hnote : CtlNote fun t => setMstart 0 (orFlags run.2 t) := fun _ => ⟨_, rfl, rfl, rfl, rfl⟩
  have hcalm' : Calm run.1 := by
    have hcur : run.1.cur = u.cur := by
      rw [hrun, mmasRun]
      split
      · rfl
      · exact mwrite_cur ..
    unfold Calm
    rw [hcur]
    exact calm_mapped hcalm hmap
  refine ⟨_, run.2, hexec, ?_⟩
  rw [finish_ctlNote hnote hcalm', hrun]
  exact mmasRun_wrote hm hr hc _ _ (hrun ▸ hnote)

end

/-- Settles O32: the four outer products write the shape's elements after their map step, and an MMAS performs its rank-4 steps on them one
after the other. -/
theorem outerProducts : Obligations.OuterProducts := by
  unfold Obligations.OuterProducts
  refine ⟨fun s u m a b hshape hmap hbad => ⟨fun h => ?_, fun h => ?_⟩, ?_⟩
  · exact ⟨⟨_, exec_mopaB .., mopB_wrote hmap hbad hshape h _ false a b⟩, ⟨_, exec_mopsB .., mopB_wrote hmap hbad hshape h _ true a b⟩⟩
  · exact ⟨⟨_, exec_mopaF .., mopF_wrote hmap hbad hshape h _ false a b⟩, ⟨_, exec_mopsF .., mopF_wrote hmap hbad hshape h _ true a b⟩⟩
  · intro s u m a b hcalm hel hshape g lo hi hres hcheck hmap hbad hclean
    obtain ⟨x, fl, hexec, hwrote⟩ := exec_mmas_wrote hcalm hel hshape hres hcheck hmap hbad hclean
    refine ⟨x, accAfter u g (mat u m) lo, fl, hexec, accAfter_start .., fun k i j hk _ _ _ => ?_, hwrote⟩
    rw [accAfter_succ _ _ _ hk, mmasStep]

end Sys2Proof.Machine
end

section
/-! SUPPORT. The instructions on the register map (07 R200-R204, R219). -/

namespace Sys2Proof.Machine

open Sys2Proof.Safety

/-! ### Registers that become ZERO -/

theorem entryOf_dropPlan (r : Nat) (p : MapPlan) : entryOf (dropPlan r p).map r = .zero := entryOf_terase_same r p.map

section
variable {s : State} (hs : Calm s)
include hs

theorem finish_applyPlan (p : MapPlan) : finish 0 id (applyPlan p s) = retired id (applyPlan p s) := finish_ctlNote .id (calm_applyPlan hs p)

theorem finish_dropRegs (r : Nat) : finish 0 id (dropRegs [r] s) = retired id (dropRegs [r] s) := finish_applyPlan hs _

/-- MZERO of a shape smaller than the register (R209, R219). -/
theorem exec_mzero_wrote {u : State} {m : MReg} (hfull : rowsOf s.cur ≠ 64 ∨ colsOf s.cur ≠ 64) (hmap : Mapped s [(m, .partial')] u) :
    ∃ x, exec (.mzero m) s = .next x ∧ MatWrote u x m (shape s) (fun _ _ => 0) id := by
  obtain ⟨y, hm⟩ := mapped_resident (by simp) hmap
  have hcalm : Calm (mwrite m (inShape s.cur) (fun _ => 0) u) := by
    unfold Calm
    rw [mwrite_cur]
    exact calm_mapped hs hmap
  have hpart : (decide (rowsOf s.cur = 64) && decide (colsOf s.cur = 64)) = false := by
    obtain h | h := hfull <;> simp [h]
  refine ⟨retired id (mwrite m (inShape s.cur) (fun _ => 0) u), ?_,
    matWrote_mwrite hm .id (fun i j hi hj => inShape_eq rfl hj) fun _ _ _ _ _ => rfl⟩
  simp only [exec_mzero, execMzero, hpart, Bool.false_eq_true, if_false, mapStep_mapped hmap, finish_ctlNote .id hcalm]

end

theorem entryOf_dropRegs (r : Nat) (s : State) : entryOf (dropRegs [r] s).cur.map r = .zero := by
  rw [dropRegs, applyPlan_cur]
  exact entryOf_dropPlan r (startPlan s)

theorem SameData.applyPlan {s : State} {p : MapPlan} (h : SameData s (p.moves.foldl applyMv s)) : SameData s (applyPlan p s) :=
  h.trans (sameData_modT _ _)

/-! ### MMOV -/

/-- What the map becomes when a slot passes to another register (R219). -/
theorem retagPlan_map {d n k age : Nat} {e l : Bool} {p : MapPlan} (hn : slotOf p.map n = some (k, e, l)) :
    (retagPlan d n p age).map = setAge d age 1 (setEntry d (.resident k true l) (terase p.map n)) := by
  cases hd : slotOf p.map d <;> simp only [retagPlan, hn, hd]

/-- The events of that: the slot of the register written is dropped, where it has one, and the other passes to it. -/
theorem retagPlan_moves {d n k age : Nat} {e l : Bool} {p : MapPlan} (hn : slotOf p.map n = some (k, e, l)) :
    (retagPlan d n p age).moves = p.moves ++ ((slotOf p.map d).map fun x => .drop d x.1 x.2.2).toList ++ [.retag d n k] := by
  cases hd : slotOf p.map d <;> simp [retagPlan, hn, hd]

/-- Where the register written holds no landing slot, no byte moves (R219). -/
theorem sameData_retagPlan {s : State} {d n k age : Nat} {e l : Bool} (hn : slotOf s.cur.map n = some (k, e, l))
    (hd : ∀ q e, slotOf s.cur.map d ≠ some (q, e, true)) : SameData s (applyPlan (retagPlan d n (startPlan s) age) s) := by
  refine SameData.applyPlan ?_
  rw [retagPlan_moves hn]
  cases hslot : slotOf (startPlan s).map d with
  | none => exact sameData_retag s d n k
  | some x =>
    obtain ⟨q, e', land⟩ := x
    obtain rfl : land = false := by
      cases land with
      | false => rfl
      | true => exact absurd hslot (hd q e')
    exact (sameData_drop s d q).trans (sameData_retag _ d n k)

section
variable {s : State} (hs : Calm s) {m n : MReg} (hmn : m ≠ n) (hclear : FolClear s [n.val, m.val])
include hs hmn hclear

theorem exec_mmov_zero (hn : entryOf s.cur.map n = .zero) (l : Bool) : exec (.mmov m n l) s = .next (retired id (dropRegs [m.val] s)) := by
  simp only [exec_mmov, execMmov, hmn, if_false, guardFol_clear hclear, hn, finish_dropRegs hs]

/-- MMOV with L of a register in a slot (R203, R219). -/
theorem exec_mmov_retag {k : Nat} {d l : Bool} (hn : slotOf s.cur.map n = some (k, d, l)) :
    ∃ x, exec (.mmov m n true) s = .next x ∧ entryOf x.cur.map n = .zero ∧ slotOf x.cur.map m = some (k, true, l) ∧
      ((∀ q e, slotOf s.cur.map m ≠ some (q, e, true)) → ∀ i j, i < 64 → j < 64 → mat x m i j = mat s n i j) := by
  have hne : n.val ≠ m.val := fun e => hmn (Fin.ext e.symm)
  have hmap : (applyPlan (retagPlan m n (startPlan s) s.cur.issued) s).cur.map =
      setAge m s.cur.issued 1 (setEntry m (.resident k true l) (terase s.cur.map n)) := by
    rw [applyPlan_cur]
    exact retagPlan_map hn
  have hslot : slotOf (applyPlan (retagPlan m n (startPlan s) s.cur.issued) s).cur.map m = some (k, true, l) := by
    rw [hmap]
    exact slotOf_resident ((entryOf_setAge ..).trans (entryOf_setEntry ..))
  refine ⟨retired id (applyPlan (retagPlan m n (startPlan s) s.cur.issued) s), ?_, ?_, hslot, fun hland i j _ _ => ?_⟩
  · simp only [exec_mmov, execMmov, hmn, if_false, guardFol_clear hclear, slotOf_some_iff.mp hn, finish_applyPlan hs]
  · refine Eq.trans (congrArg (entryOf · n) hmap) ?_
    rw [entryOf_setAge_any, entryOf_setEntry_other hne, entryOf_terase_same]
  · have hcid : cidOf (applyPlan (retagPlan m n (startPlan s) s.cur.issued) s).cur = cidOf s.cur := by
      rw [applyPlan_cur]
      rfl
    rw [mat_retired .id, mat, mat, mval_slot hslot, mval_slot hn, hcid, (sameData_retagPlan hn hland).tile]

/-- MMOV without L copies the register (R219). -/
theorem exec_mmov_copy {u : State} (hn : entryOf s.cur.map n ≠ .zero) (hmap : Mapped s [(n, .read), (m, .full)] u)
    (hgood : mBad u n (fun _ => true) = none) :
    ∃ x, exec (.mmov m n false) s = .next x ∧ MatWrote u x m (fun _ _ => true) (mat u n) id := by
  obtain ⟨y, hm⟩ := mapped_resident_second (by simp) hmap
  have hcalm : Calm (mwrite m (fun _ => true) (tileElt (mval u n)) u) := by
    unfold Calm
    rw [mwrite_cur]
    exact calm_mapped hs hmap
  refine ⟨retired id (mwrite m (fun _ => true) (tileElt (mval u n)) u), ?_,
    matWrote_mwrite hm .id (fun _ _ _ _ => rfl) fun _ _ _ _ _ => rfl⟩
  cases he : entryOf s.cur.map n with
  | zero => exact absurd he hn
  | backed =>
    simp only [exec_mmov, execMmov, hmn, if_false, guardFol_clear hclear, he, mapStep_mapped hmap, guardMat_good hgood, finish_ctlNote .id hcalm]
  | resident k d l =>
    simp only [exec_mmov, execMmov, hmn, if_false, guardFol_clear hclear, he, mapStep_mapped hmap, guardMat_good hgood, finish_ctlNote .id hcalm]

/-- MMOV with L of a register in memory (R203, R219). -/
theorem exec_mmov_fill (hn : entryOf s.cur.map n = .backed) {p : MapPlan} (hp : planOf s [(m, .fillFrom n)] = some p)
    (htiles : checkTiles s (ownTiles (dropPlan n p).moves) = none) (hfree : FolFree s ((dropPlan n p).moves.flatMap mvReg)) :
    ∃ x, exec (.mmov m n true) s = .next x ∧ entryOf x.cur.map n = .zero ∧ isResident x.cur.map m = true ∧
      ∀ k ls, p.moves = [.fill m.val n.val k] → backPlaces s false s.cur.ctl.pgroot (backAddr s.cur n) = .ok ls →
        ∀ j (hj : j < ls.length), tileByte (mval x m) j = byteAt s ls[j] := by
  have hne : n.val ≠ m.val := fun e => hmn (Fin.ext e.symm)
  obtain ⟨lo, hi, hop⟩ := planOf_one hp
  obtain ⟨k', vs, hlast, d, l, hslot⟩ := mapOperand_fillFrom hop
  have hcur : (applyPlan (dropPlan n p) s).cur = { s.cur with map := terase p.map n } := applyPlan_cur _ s
  have hslot' : slotOf (applyPlan (dropPlan n p) s).cur.map m = some (k', d, l) := by
    rw [hcur, ← hslot]
    exact slotOf_congr (entryOf_terase_other hne.symm p.map)
  refine ⟨retired id (applyPlan (dropPlan n p) s), ?_, ?_, isResident_iff.mpr ⟨_, hslot'⟩, fun k ls hmoves hls j hj => ?_⟩
  · simp only [exec_mmov, execMmov, hmn, if_false, guardFol_clear hclear, hn, hp, Option.map_some, mapPlan_applied htiles hfree,
      finish_applyPlan hs]
  · exact (congrArg (fun t => entryOf t.map n) hcur).trans (entryOf_terase_same _ _)
  · have hgone : slotOf p.map n = none := mapOperand_other hop hne (by rw [slotOf, startPlan, hn])
    have hk : k' = k := by
      rw [hmoves] at hlast
      obtain ⟨-, hlast⟩ := List.append_inj' (s₁ := []) hlast rfl
      simpa using hlast.symm
    have hfill : (dropPlan n p).moves = [.fill m.val n.val k] := by
      simp only [dropPlan, hgone, List.append_nil, hmoves]
    have hval : mval (applyPlan (dropPlan n p) s) m = tileOf (coreOf (applyMv s (.fill m.val n.val k)) (cidOf s.cur)) k := by
      rw [mval_slot hslot', hcur, hk, applyPlan, hfill]
      rfl
    exact hval ▸ tileByte_fill hls hj

end

/-! ### MPREF -/

section
variable {s : State} (hs : Calm s) {m : MReg}
include hs

theorem exec_mpref_applied {p : MapPlan} (hp : planOf s [(m, .read)] = some p) (htiles : checkTiles s (ownTiles p.moves) = none)
    (hfree : FolFree s (m.val :: p.moves.flatMap mvReg)) : exec (.mpref m) s = .next (retired id (applyPlan p s)) := by
  simp only [exec_mpref, execMpref, hp, htiles, Option.isSome_none, Bool.false_eq_true, if_false, any_fols_false hfree, finish_applyPlan hs]

/-- A prefetch whose map step fails a check is cancelled (R219). -/
theorem exec_mpref_cancelled (h : planOf s [(m, .read)] = none ∨
    ∃ p, planOf s [(m, .read)] = some p ∧ (checkTiles s (ownTiles p.moves)).isSome = true) : exec (.mpref m) s = .next (retired id s) := by
  obtain hp | ⟨p, hp, htiles⟩ := h
  · simp only [exec_mpref, execMpref, hp, finish_id_calm hs]
  · simp only [exec_mpref, execMpref, hp, htiles, if_true, finish_id_calm hs]

end

theorem mpref_resident {s : State} {m : MReg} {p : MapPlan} (hp : planOf s [(m, .read)] = some p) (hm : entryOf s.cur.map m = .backed) :
    isResident (applyPlan p s).cur.map m = true := by
  obtain ⟨lo, hi, hop⟩ := planOf_one hp
  rw [applyPlan_cur, isResident_iff]
  exact mapOperand_resident hop fun _ => by rw [startPlan, hm]; exact Entry.noConfusion

/-! ### MFLUSH and MFLUSHALL -/

/-- The movement by which a register leaves its slot (R219). -/
def flushMv (h : HeldSlot) : Mv := if h.dirty then .spill h.reg h.slot h.land else .evict h.reg h.slot h.land

theorem flushReg_eq (p : MapPlan) (h : HeldSlot) :
    flushReg p h = { p with map := setEntry h.reg .backed p.map, moves := p.moves ++ [flushMv h] } := rfl

theorem foldl_flushReg (held : List HeldSlot) (p : MapPlan) : held.foldl flushReg p =
    { p with map := held.foldl (fun x h => setEntry h.reg .backed x) p.map, moves := p.moves ++ held.map flushMv } := by
  induction held generalizing p with
  | nil => simp
  | cons h held ih => rw [List.foldl_cons, ih, flushReg_eq, List.map_cons, List.foldl_cons, List.append_assoc, List.singleton_append]

/-- A register in a slot is among those held. -/
theorem mem_heldSlots {map : NMap MapEntry} {r : Nat} {x : Nat × Bool × Bool} (h : slotOf map r = some x) : ∃ y ∈ heldSlots map, y.reg = r := by
  obtain ⟨k, d, l⟩ := x
  rw [slotOf_some_iff] at h
  induction map with
  | nil => cases h
  | cons p map ih =>
    obtain ⟨q, e⟩ := p
    by_cases hq : q = r
    · have he : e.entry = .resident k d l := by rwa [entryOf, tget, if_pos hq] at h
      exact ⟨⟨q, k, d, l, e.age, e.pos⟩, List.mem_filterMap.mpr ⟨(q, e), List.mem_cons_self, by simp only [he]⟩, hq⟩
    · obtain ⟨y, hy, hr⟩ := ih (by rwa [entryOf, tget, if_neg hq] at h)
      obtain ⟨z, hz, hzy⟩ := List.mem_filterMap.mp hy
      exact ⟨y, List.mem_filterMap.mpr ⟨z, List.mem_cons_of_mem _ hz, hzy⟩, hr⟩

/-- After every register of a list has left its slot, one that had a slot and is in the list has none. -/
theorem slotOf_flushed {held : List HeldSlot} {map : NMap MapEntry} {r : Nat} (h : ∀ x, slotOf map r = some x → ∃ y ∈ held, y.reg = r) :
    slotOf (held.foldl (fun x h => setEntry h.reg .backed x) map) r = none := by
  induction held generalizing map with
  | nil =>
    cases hr : slotOf map r with
    | none => exact hr
    | some x =>
      obtain ⟨y, hy, -⟩ := h x hr
      cases hy
  | cons z held ih =>
    refine ih fun x hx => ?_
    by_cases hr : r = z.reg
    · rw [hr, slotOf, entryOf_setEntry] at hx
      cases hx
    · rw [slotOf_congr (entryOf_setEntry_other hr .backed map)] at hx
      obtain ⟨y, hy, hyr⟩ := h x hx
      obtain rfl | hy := List.mem_cons.mp hy
      · exact absurd hyr.symm hr
      · exact ⟨y, hy, hyr⟩

/-- No register holds a slot once all that are held have left theirs (R219). -/
theorem isResident_flushed (s : State) (r : Nat) : isResident ((heldSlots s.cur.map).foldl flushReg (startPlan s)).map r = false := by
  rw [foldl_flushReg, isResident]
  exact Option.isSome_eq_false_iff.mpr (Option.isNone_iff_eq_none.mpr (slotOf_flushed fun x hx => mem_heldSlots hx))

section
variable {s : State} (hs : Calm s)
include hs

theorem exec_mflush_nothing {m : MReg} (hclear : FolClear s [m.val]) (h : ∀ h ∈ heldSlots s.cur.map, h.reg ≠ m.val) :
    exec (.mflush m) s = .next (retired id s) := by
  have hnone : (heldSlots s.cur.map).filter (·.reg == m.val) = [] := List.filter_eq_nil_iff.mpr fun x hx => by simpa using h x hx
  have happ : mapPlan (.mflush m) (some (startPlan s)) s (fun s => finish 0 id s) = finish 0 id (applyPlan (startPlan s) s) :=
    mapPlan_applied (p := startPlan s) (by simp [startPlan, ownTiles, checkTiles]) (fun f _ hf => by simp [startPlan] at hf) _ _
  simp only [exec_mflush, execMflush, guardFol_clear hclear, hnone, List.foldl_nil, happ]
  exact congrArg Host.Outcome.next (finish_id_calm hs 0)

/-- MFLUSH writes its register's tile back where it is dirty (R219). -/
theorem exec_mflush_one {m : MReg} (hclear : FolClear s [m.val]) {h : HeldSlot} {ls : List Loc}
    (hh : (heldSlots s.cur.map).filter (·.reg == m.val) = [h]) (hls : backPlaces s true s.cur.ctl.pgroot (backAddr s.cur m) = .ok ls)
    (hn : ls.Nodup) (hf : ∀ l ∈ ls, locFenced s l = false) :
    ∃ x, exec (.mflush m) s = .next x ∧ entryOf x.cur.map m = .backed ∧
      (h.dirty = true → ∀ j (hj : j < ls.length), byteAt x ls[j] = tileByte (tileOf (coreOf s (cidOf s.cur)) h.slot) j) := by
  have ⟨hfree, _⟩ := hclear
  have hreg : h.reg = m.val := by
    have hmem : h ∈ (heldSlots s.cur.map).filter (·.reg == m.val) := hh ▸ List.mem_singleton_self h
    simpa using (List.mem_filter.mp hmem).2
  have htiles : checkTiles s (ownTiles [flushMv h]) = none := by
    unfold flushMv
    split
    · rw [hreg]
      exact checkTiles_one s true m ls hls hf
    · simp [ownTiles, checkTiles]
  have hmoves : [flushMv h].flatMap mvReg = [m.val] := by
    unfold flushMv
    split <;> simp [mvReg, hreg]
  have happ : mapPlan (.mflush m) (some (flushReg (startPlan s) h)) s (fun s => finish 0 id s) = finish 0 id (applyPlan (flushReg (startPlan s) h) s) :=
    mapPlan_applied (p := flushReg (startPlan s) h) htiles (by rw [flushReg_eq]; exact hmoves ▸ hfree) _ _
  refine ⟨retired id (applyPlan (flushReg (startPlan s) h) s), ?_, ?_, fun hd j hj => ?_⟩
  · simp only [exec_mflush, execMflush, guardFol_clear hclear, hh, List.foldl_cons, List.foldl_nil, happ, finish_applyPlan hs]
  · refine (congrArg (fun t => entryOf t.map m) (applyPlan_cur (flushReg (startPlan s) h) s)).trans ?_
    rw [flushReg_eq, hreg]
    exact entryOf_setEntry m.val .backed s.cur.map
  · have hspill : flushMv h = .spill m.val h.slot h.land := by rw [flushMv, if_pos hd, hreg]
    rw [byteAt_retired, ← byteAt_spill hls hn h.land hj, applyPlan, byteAt_modT, flushReg_eq, hspill]
    rfl

/-- MFLUSHALL, its checks passed (R202, R219). -/
theorem exec_mflushall_checked (hfols : s.cur.fols = []) (hbad : s.cur.folBad = []) (hel : s.cur.elim = none)
    (htiles : checkTiles s (ownTiles ((heldSlots s.cur.map).map flushMv)) = none) :
    let y := applyPlan ((heldSlots s.cur.map).foldl flushReg (startPlan s)) s
    exec .mflushall s = .next (if spilling y y.cur then waiting .mflushall y else retired id y) := by
  have htiles' : checkTiles s (ownTiles ((heldSlots s.cur.map).foldl flushReg (startPlan s)).moves) = none := by
    rw [foldl_flushReg]
    exact htiles
  simp only [exec_mflushall, execMflushall, hbad, hfols, List.isEmpty_nil, Bool.not_true, Bool.false_eq_true, if_false, htiles',
    stopAt_unasked hel, Option.map_none, finish_applyPlan hs]
  rfl

end

/-- Settles O33: each map instruction applies its plan once its checks pass; what the plan leaves is read off its map and its movements. -/
theorem mapInstructions : Obligations.MapInstructions := by
  unfold Obligations.MapInstructions
  intro s u m n hs zeroed
  refine ⟨fun hclear => ⟨⟨?_, entryOf_dropRegs m s⟩, fun hr hc => ?_⟩, exec_mzero_wrote hs, ?_, ?_, fun hmn hclear => ⟨?_, ?_, ?_, ?_⟩,
    fun p hp htiles hfree => ⟨exec_mpref_applied hs hp htiles hfree, mpref_resident hp⟩, exec_mpref_cancelled hs,
    fun hclear => ⟨exec_mflush_nothing hs hclear, fun h ls hh hls hn hf => exec_mflush_one hs hclear hh hls hn hf⟩,
    fun x r k land ls hls hn j hj => byteAt_spill hls hn land hj, ?_⟩
  · simp only [exec_mdead, execMdead, guardFol_clear hclear, finish_dropRegs hs]
  · simp only [exec_mzero, execMzero, hr, hc, decide_true, Bool.and_self, if_true, guardFol_clear hclear, finish_dropRegs hs]
  · simp only [exec_mmov, execMmov, if_true, Bool.false_eq_true, if_false, finish_id_calm hs]
  · simp only [exec_mmov, execMmov, if_true, trapWord_eq]
    rfl
  · exact fun hn l => exec_mmov_zero hs hmn hclear hn l
  · exact fun k d l hn => exec_mmov_retag hs hmn hclear hn
  · exact fun hn hmap hgood => exec_mmov_copy hs hmn hclear hn hmap hgood
  · exact fun hn p hp htiles hfree => exec_mmov_fill hs hmn hclear hn hp htiles hfree
  · intro held out p x y hfols hbad hel htiles
    have hy : applyPlan p s = y := by
      have hp : p = _ := foldl_flushReg held (startPlan s)
      have hmoves : p.moves = held.map out := by rw [hp]; rfl
      rw [applyPlan, hmoves]
      rfl
    have hexec := exec_mflushall_checked hs hfols hbad hel htiles
    rw [show applyPlan ((heldSlots s.cur.map).foldl flushReg (startPlan s)) s = y from hy] at hexec
    refine ⟨isResident_flushed s, fun hdone => ?_, fun hspill => ?_, fun hheld hdone => ?_, fun h ls hh hd hls hn j hj => ?_⟩
    · rw [hexec, hdone]
      rfl
    · rw [hexec, hspill]
      rfl
    · have hsame : y = s := by
        rw [← hy, show p = startPlan s by simp only [p, hheld, List.foldl_nil]]
        rfl
      rw [hexec, hsame, hdone]
      rfl
    · have hx : x = applyMv s (.spill h.reg h.slot h.land) := by
        simp only [x, hh, List.map_cons, List.map_nil, List.foldl_cons, List.foldl_nil, out, hd, if_true]
      exact (byteAt_modT (fun t => { t with map := p.map }) x ls[j]).trans (hx ▸ byteAt_spill hls hn h.land hj)

end Sys2Proof.Machine
end

section
/-! SUPPORT. MLD and MST that reach every element, and moves between rows or columns and vectors (07 R215-R218, R220). -/

namespace Sys2Proof.Machine

open Sys2Proof.Safety

/-! ### MLD -/

section
variable {s u : State} (hel : s.cur.elim = none) {m : MReg} {f : MFmt} {item : Nat → Item}
  (he : ∀ e, (item e).e = e) {ls : Nat → List Loc}

section
variable (hl : ∀ e ∈ shapeList s.cur, Accessed u (mfmtOf f) .load (item e) (ls e) ∧ Clean u (ls e))
include hl

theorem placed_of_reached : ∀ e ∈ shapeList s.cur, Placed u (mfmtOf f) .load (item e) (ls e) := by
  intro e hmem
  obtain ⟨⟨-, hplace, -⟩, -⟩ := hl e hmem
  exact hplace

include hel in
/-- An MLD that reaches clean bytes alone completes (R216). -/
theorem mldRun_clean (h : Hint) : mldRun m h f s.cur ((shapeList s.cur).map (elemAt u (mfmtOf f) .load item)) u =
    afterHint h (elemSectors ((shapeList s.cur).map (elemAt u (mfmtOf f) .load item))) (eprogOf s.cur) u
      (finish 0 (fun t => setVstart 0 (setEprog 0 t)) (mldWrite m f (rowsOf s.cur) (colsOf s.cur) (eprogOf s.cur)
        (rowsOf s.cur * colsOf s.cur) (eprogOf s.cur == 0) ((shapeList s.cur).map (elemAt u (mfmtOf f) .load item)) u)) := by
  have hplaced := placed_of_reached hl
  obtain ⟨hstop, hbelow⟩ := rows_placed (colsOf s.cur) hplaced
  have hpoison : firstPoison u ((shapeList s.cur).map (elemAt u (mfmtOf f) .load item)) = none :=
    firstPoison_none (ls := ls) fun e hmem => ⟨hplaced e hmem, (hl e hmem).2⟩
  have hfence : anyFenced u ((shapeList s.cur).map (elemAt u (mfmtOf f) .load item)) = false := anyFenced_false (ls := ls) fun e hmem => by
    obtain ⟨⟨-, hplace, hfence⟩, -⟩ := hl e hmem
    exact ⟨hplace, hfence⟩
  simp only [mldRun, hbelow, hstop, hpoison, minStop_none_left, stopAt_unasked hel, Option.map_none, guardFenced_complete hfence]

include he in
/-- The register after the elements from EPROG on have been loaded, and +0 written outside the shape where the load began at 0 (R216). -/
theorem matWrote_mldWrite {x : Nat × Bool × Bool} (hm : slotOf u.cur.map m = some x) {g : Thread → Thread}
    (hg : CtlNote g) :
    MatWrote u (retired g (mldWrite m f (rowsOf s.cur) (colsOf s.cur) (eprogOf s.cur) (rowsOf s.cur * colsOf s.cur) (eprogOf s.cur == 0)
      ((shapeList s.cur).map (elemAt u (mfmtOf f) .load item)) u)) m
      (fun i j => if shape s i j then decide (eprogOf s.cur ≤ i * colsOf s.cur + j) &&
        decide (i * colsOf s.cur + j < rowsOf s.cur * colsOf s.cur) else eprogOf s.cur == 0)
      (fun i j => if shape s i j then mldValue f (valueAt u (ls (i * colsOf s.cur + j))) else 0) g := by
  have hplaced := placed_of_reached hl
  have hrow {i j : Nat} (hj : j < 64) : (64 * i + j) / 64 = i := by omega
  have hcol {i j : Nat} (hj : j < 64) : (64 * i + j) % 64 = j := by omega
  refine matWrote_mwrite hm hg (fun i j _ hj => ?_) fun i j _ hj hon => ?_
  · simp only [hrow hj, hcol hj]
    cases hij : shape s i j with
    | false => exact if_pos (by rw [← shape, hij]; rfl)
    | true => exact if_neg (by rw [← shape, hij]; exact Bool.false_ne_true)
  · simp only [hrow hj, hcol hj]
    cases hij : shape s i j with
    | false => exact if_pos (by rw [← shape, hij]; rfl)
    | true =>
      rw [hij, if_pos rfl, Bool.and_eq_true, decide_eq_true_eq, decide_eq_true_eq] at hon
      refine (if_neg (by rw [← shape, hij]; exact Bool.false_ne_true)).trans ?_
      exact mldValues he le_rfl (fun e hmem _ => hplaced e hmem) hon.1 hon.2

end

end

theorem ctlNote_progress (g : Flags) : CtlNote fun t => setVstart 0 (setEprog 0 (orFlags g t)) := fun _ => ⟨_, rfl, rfl, rfl, rfl⟩

theorem retired_mem (f : Thread → Thread) (s : State) : (retired f s).mem = s.mem := rfl

theorem touched_retired {f : Thread → Thread} (hf : CtlNote f) (s : State) : (retired f s).cur.touched = s.cur.touched := by
  obtain ⟨c, he, -⟩ := hf s.cur
  rw [show (retired f s).cur.touched = (f s.cur).touched from rfl, he]

/-- An MLD that completes in `w`: the hint apart, EPROG and VSTART become 0 (R24, R180, R216). -/
theorem hinted_complete {u w : State} (hcalm : Calm u) (hcur : w.cur = u.cur) (hmem : w.mem = u.mem) (h : Hint) (q : List Nat) (lo : Nat) :
    let y := afterHint h q lo u (finish 0 (fun t => setVstart 0 (setEprog 0 t)) w)
    (h.val ≠ 3 → y = hinted u y) ∧ hinted u y = retired (fun t => setVstart 0 (setEprog 0 (orFlags 0 t))) w := by
  have hcalm' : Calm w := by
    unfold Calm
    rwa [hcur]
  have hrun : finish 0 (fun t => setVstart 0 (setEprog 0 t)) w = retired (fun t => setVstart 0 (setEprog 0 (orFlags 0 t))) w := by
    rw [← finish_ctlNote (ctlNote_progress 0) hcalm']
    simp only [orFlags_zero]
  have hhint := hinted_afterHint h q lo ((retired_mem _ w).trans hmem)
    ((touched_retired (ctlNote_progress 0) w).trans (congrArg Thread.touched hcur))
  rw [hrun]
  refine ⟨fun hh => ?_, hhint⟩
  rw [hhint, afterHint_plain hh]

/-- MLD, where every element from EPROG on is reached and clean (R215, R216). -/
theorem exec_mld_wrote {s u : State} (hcalm : Calm s) (hel : s.cur.elim = none) (hshape : LegalShape s.cur) {m : MReg} {b x : SReg} {f : MFmt}
    {ls : Nat → List Loc} (ha : ∀ e, e < rowsOf s.cur * colsOf s.cur → (shapeItem s b x e).addr.toNat % ebytes (mfmtOf f) = 0)
    (hmap : Mapped s [(m, if eprogOf s.cur = 0 then .full else .partial')] u)
    (hl : ∀ e ∈ shapeList s.cur, Accessed u (mfmtOf f) .load (shapeItem s b x e) (ls e) ∧ Clean u (ls e)) (h : Hint) :
    ∃ y, exec (.mld m b x h f) s = .next y ∧ (h.val ≠ 3 → y = hinted u y) ∧ MatWrote u (hinted u y) m
      (fun i j => if shape s i j then decide (eprogOf s.cur ≤ i * colsOf s.cur + j) &&
        decide (i * colsOf s.cur + j < rowsOf s.cur * colsOf s.cur) else eprogOf s.cur == 0)
      (fun i j => if shape s i j then mldValue f (valueAt u (ls (i * colsOf s.cur + j))) else 0)
      (fun t => setVstart 0 (setEprog 0 (orFlags 0 t))) := by
  obtain ⟨-, z, hz⟩ := mapped_writes hmap
  refine ⟨_, exec_mld_mapped hcalm hshape ha hmap h, ?_⟩
  rw [mldRun_clean hel hl h]
  obtain ⟨hplain, hhint⟩ := hinted_complete (calm_mapped hcalm hmap) (mldWrite_cur ..) (mldWrite_mem ..) h
    (elemSectors ((shapeList s.cur).map (elemAt u (mfmtOf f) .load (shapeItem s b x)))) (eprogOf s.cur)
  refine ⟨hplain, ?_⟩
  rw [hhint]
  exact matWrote_mldWrite (fun _ => rfl) hl hz (ctlNote_progress 0)

/-! ### MST -/

theorem calm_lastUse {s : State} (hs : Calm s) (l : Bool) (m : MReg) : Calm (lastUse l m s) := by
  unfold lastUse
  split
  · exact calm_applyPlan hs _
  · exact hs

/-- MST, where every element from EPROG on is reached and undamaged (R203, R215, R216). -/
theorem exec_mst_wrote {s u : State} (hcalm : Calm s) (hel : s.cur.elim = none) (hshape : LegalShape s.cur) {m : MReg} {b x : SReg} {f : MFmt}
    {ls : Nat → List Loc} (ha : ∀ e, e < rowsOf s.cur * colsOf s.cur → (shapeItem s b x e).addr.toNat % ebytes (mfmtOf f) = 0)
    (hmap : Mapped s [(m, .read)] u) (hl : ∀ e ∈ shapeList s.cur, Accessed u (mfmtOf f) .store (shapeItem s b x e) (ls e))
    (hgood : ∀ e ∈ shapeList s.cur, mBad u m (· == 64 * (e / colsOf s.cur) + e % colsOf s.cur) = none) (last : Bool) (h : Hint) :
    ∃ y fl, exec (.mst m b x last h f) s = .next (retired (fun t => setVstart 0 (setEprog 0 (orFlags fl t))) (lastUse last m y)) ∧
      OnlyMemory u y ∧
      (∀ e ∈ shapeList s.cur, (∀ e' ∈ shapeList s.cur, e < e' → ∀ l ∈ ls e, l ∉ ls e') → valueAt y (ls e) = mstStored u m (colsOf s.cur) f e) ∧
      (∀ l, (∀ e ∈ shapeList s.cur, l ∉ ls e) → byteAt y l = byteAt u l) := by
  have hplaced (e) (hmem : e ∈ shapeList s.cur) : Placed u (mfmtOf f) .store (shapeItem s b x e) (ls e) := by
    obtain ⟨-, hplace, -⟩ := hl e hmem
    exact hplace
  have hfence : anyFenced u ((shapeList s.cur).map (elemAt u (mfmtOf f) .store (shapeItem s b x))) = false :=
    anyFenced_false (ls := ls) fun e hmem => (hl e hmem).2
  have hsound : ((shapeList s.cur).find? fun e => (mBad u m (· == 64 * (e / colsOf s.cur) + e % colsOf s.cur)).isSome) = none := by
    rw [List.find?_eq_none]
    intro e hmem
    simp [hgood e hmem]
  have hall : (shapeList s.cur).filter (· < rowsOf s.cur * colsOf s.cur) = shapeList s.cur :=
    List.filter_eq_self.mpr fun e hmem => decide_eq_true (mem_shapeList.mp hmem).2
  have hwrites := mstOut_map (f := f) (item := shapeItem s b x) (fun _ => rfl) (fun e hmem _ => hplaced e hmem) (q := rowsOf s.cur * colsOf s.cur) m
    (colsOf s.cur)
  rw [hall] at hwrites
  obtain ⟨hstop, hbelow⟩ := rows_placed (colsOf s.cur) hplaced
  set out := mstOut m (colsOf s.cur) f ((shapeList s.cur).map (elemAt u (mfmtOf f) .store (shapeItem s b x))) (rowsOf s.cur * colsOf s.cur) u
    with hout
  have hcalm' : Calm (writeAll out.1 u) := by
    unfold Calm
    rw [writeAll_cur]
    exact calm_mapped hcalm hmap
  refine ⟨writeAll out.1 u, out.2, ?_, onlyMemory_writeAll .., fun e hmem hlast => ?_, fun l hother => ?_⟩
  · rw [exec_mst_mapped hcalm hshape ha hmap last h, ← finish_ctlNote (ctlNote_progress out.2) (calm_lastUse hcalm' last m)]
    simp only [mstRun, hbelow, hstop, hsound, Option.map_none, minStop_none_right, stopAt_unasked hel, guardFenced_complete hfence, ← hout, lastUse]
  · rw [hwrites, ← itemRead_wide _ f (shapeItem s b x e),
      itemRead_elementWrites_last _ u (fun e he => apiece_placed (ha e (mem_shapeList.mp he).2) (hplaced e he)) (fun _ => Nat.zero_lt_two)
        (shapeList_pairwise _) hmem fun e' he' hlt l hl hl' => absurd hl' (hlast e' he' hlt l hl)]
    exact Nat.mod_eq_of_lt (mstValue_lt f _)
  · rw [hwrites]
    exact byteAt_elementWrites_other _ u hother

/-! ### Rows and column groups -/

/-- What an instruction leaves that writes the first `n` elements of width `w` of v and ORs flags, in a thread that differs from that of `s`
in its map alone. -/
def SpanWrote (s z y : State) (v : VReg) (w n : Nat) (val : Nat → Nat) (g : Flags) : Prop :=
  (∀ j, w * j + w ≤ 8192 → elt y.cur v w j = if j < n then val j % 2 ^ w else elt s.cur v w j) ∧
  (∀ q, q ≠ v → vreg y.cur q = vreg s.cur q) ∧
  y = retired (fun t => flagged g { t with v := y.cur.v, vheld := (v.val, vreg s.cur v) :: t.vheld }) z

theorem spanWrote_finish {s z : State} (hs : Calm s) (hbad : s.cur.vbad = []) (hz : ∃ map, z.cur = { s.cur with map := map }) (v : VReg)
    {w n : Nat} (hn : w * n ≤ 8192) (val : Nat → Nat) (g : Flags) :
    SpanWrote s z (finish 0 (fun t => orFlags g (writeElts v w ((List.range n).map fun j => (j, val j)) t)) z) v w n val g := by
  obtain ⟨map, hz⟩ := hz
  have hcalm := calm_withMap hs hz
  have hfit : ∀ i ∈ List.range n, w * i + w ≤ 8192 := fun i hi => elt_within hn (List.mem_range.mp hi)
  have hv (q : VReg) : vreg z.cur q = vreg s.cur q := by rw [hz]; rfl
  rw [finish_calm 0 _ z hcalm.1 (noEdge_of z.cur _ hcalm.2 rfl rfl rfl rfl)]
  refine ⟨fun j hj => ?_, fun q hq => ?_, ?_⟩
  · have helt := elt_writeElts v w val (List.range n) z.cur hfit j hj
    have hold : elt z.cur v w j = elt s.cur v w j := congrArg (eltAt · w j) (hv v)
    simp only [List.mem_range, hold] at helt
    exact helt
  · exact (vreg_writeElts_other v q w _ z.cur hq).trans (hv q)
  · have hvbad : z.cur.vbad = [] := by rw [hz]; exact hbad
    rw [← hv v]
    simp [retired, flagged, orFlags, modC, writeElts, setV, vreg, hvbad, after]

theorem lastUse_cur {s y : State} (hy : ∃ map, y.cur = { s.cur with map := map }) (l : Bool) (m : MReg) :
    ∃ map, (lastUse l m y).cur = { s.cur with map := map } := by
  obtain ⟨map, hy⟩ := hy
  unfold lastUse
  split
  · exact ⟨(dropPlan m (startPlan y)).map, by rw [dropRegs, applyPlan_cur, hy]; rfl⟩
  · exact ⟨map, hy⟩

section
variable {s u : State} (hs : Calm s) (hbad : s.cur.vbad = []) (hlanes : 0 < lanesOf s.cur) (hshape : LegalShape s.cur) {m : MReg} {x : SReg}
include hs hbad hlanes hshape

/-- MROW (R218). -/
theorem exec_mrow_wrote (hr : (reg s x).toNat < 64) (hspan : colsOf s.cur ≤ vlmax s.cur 32) (hmap : Mapped s [(m, .read)] u)
    (hgood : mBad u m (fun e => e / 64 == (reg s x).toNat && decide (e % 64 < colsOf s.cur)) = none) (v : VReg) (l : Bool) :
    ∃ y, exec (.mrow m v x l) s = .next y ∧
      SpanWrote s (lastUse l m u) y v 32 (colsOf s.cur) (fun j => (mat u m (reg s x).toNat j).toNat) 0 := by
  obtain ⟨-, -, -, hc⟩ := hshape
  refine ⟨_, ?_, spanWrote_finish hs hbad (lastUse_cur (mapped_cur hmap) l m) v (by omega) _ 0⟩
  simp only [exec_mrow, execMrow, guardS_quiet _ hs.1, rs_quiet _ hs.1, sreg_eq_reg, Nat.not_lt.mpr (Nat.le_of_lt_succ hr), if_false,
    guardSpan_fits hlanes hspan, mapStep_mapped hmap, guardMat_good hgood, orFlags_zero]
  rfl

/-- MCOL4 (R69, R218). -/
theorem exec_mcol4_wrote (hr : (reg s x).toNat < 16) (hspan : 4 * rowsOf s.cur ≤ vlmax s.cur 16) (hmap : Mapped s [(m, .read)] u)
    (hgood : mBad u m (fun e => decide (e / 64 < rowsOf s.cur) && e % 64 / 4 == (reg s x).toNat) = none) (v : VReg) (l : Bool) :
    let out (e : Nat) := toB16 .rne (num32 (mat u m (e / 4) (4 * (reg s x).toNat + e % 4)), 0)
    ∃ y, exec (.mcol4 m v x l) s = .next y ∧
      SpanWrote s (lastUse l m u) y v 16 (4 * rowsOf s.cur) (fun e => (out e).1.toNat)
        ((List.range (4 * rowsOf s.cur)).foldl (fun g e => g ||| (out e).2) 0) := by
  obtain ⟨-, hrows, -⟩ := hshape
  intro out
  have hassoc (e : Nat) : tileElt (mval u m) (64 * (e / 4) + 4 * (reg s x).toNat + e % 4) = mat u m (e / 4) (4 * (reg s x).toNat + e % 4) := by
    rw [mat, Nat.add_assoc]
  refine ⟨_, ?_, spanWrote_finish hs hbad (lastUse_cur (mapped_cur hmap) l m) v (by omega) _ _⟩
  simp only [exec_mcol4, execMcol4, guardS_quiet _ hs.1, rs_quiet _ hs.1, sreg_eq_reg, Nat.not_lt.mpr (Nat.le_of_lt_succ hr), if_false,
    guardSpan_fits hlanes hspan, mapStep_mapped hmap, guardMat_good hgood, List.foldl_map, List.map_map, Function.comp_def, hassoc]
  rfl

omit hshape in
/-- MWROW (R218). -/
theorem exec_mwrow_wrote (hr : (reg s x).toNat < 64) (hspan : colsOf s.cur ≤ vlmax s.cur 32) (hmap : Mapped s [(m, .partial')] u) (v : VReg) :
    ∃ y, exec (.mwrow m v x) s = .next y ∧ MatWrote u y m (fun i j => i == (reg s x).toNat && decide (j < colsOf s.cur))
      (fun _ j => BitVec.ofNat 32 (elt s.cur v 32 j)) id := by
  obtain ⟨z, hm⟩ := mapped_resident (by simp) hmap
  obtain ⟨map, hu⟩ := mapped_cur hmap
  have hsound : u.cur.vbad = [] := by rw [hu]; exact hbad
  have hcalm : Calm (mwrite m (fun e => e / 64 == (reg s x).toNat && decide (e % 64 < colsOf s.cur))
      (fun e => BitVec.ofNat 32 (elt s.cur v 32 (e % 64))) u) := by
    unfold Calm
    rw [mwrite_cur]
    exact calm_mapped hs hmap
  have hrow {i j : Nat} (hj : j < 64) : (64 * i + j) / 64 = i := by omega
  have hcol {i j : Nat} (hj : j < 64) : (64 * i + j) % 64 = j := by omega
  refine ⟨retired id (mwrite m (fun e => e / 64 == (reg s x).toNat && decide (e % 64 < colsOf s.cur))
    (fun e => BitVec.ofNat 32 (elt s.cur v 32 (e % 64))) u), ?_, matWrote_mwrite hm .id (fun i j _ hj => ?_) fun i j _ hj _ => ?_⟩
  · simp only [exec_mwrow, execMwrow, guardS_quiet _ hs.1, rs_quiet _ hs.1, sreg_eq_reg, Nat.not_lt.mpr (Nat.le_of_lt_succ hr), if_false,
      guardSpan_fits hlanes hspan, mapStep_mapped hmap, guardVec_good hsound, finish_ctlNote .id hcalm]
  · rw [hrow hj, hcol hj]
  · rw [hcol hj]

end

/-! ### MSTAT -/

/-- The number of an entry's state (R220). -/
theorem state_mstatWord (s : State) (m : Nat) : fld (mstatWord s m) 0 8 = match entryOf s.cur.map m with
    | .zero => 0
    | .backed => 1
    | .resident _ dirty _ => if dirty then 3 else 2 := by
  have low (free part slot st : Nat) (h : st < 4) : fld (BitVec.ofNat 64 (free * 2 ^ 32 + part * 2 ^ 16 + slot * 256 + st)) 0 8 = st := by
    rw [fld, BitVec.toNat_ofNat]
    omega
  unfold mstatWord
  dsimp only
  cases entryOf s.cur.map m with
  | zero => exact low _ _ 0 0 (by decide)
  | backed => exact low _ _ 0 1 (by decide)
  | resident k dirty last =>
    cases dirty
    · exact low _ _ k 2 (by decide)
    · exact low _ _ k 3 (by decide)

/-- Settles O34: after the map step an MLD writes the shape from its elements, an MST its elements from the shape; a row or column group
goes to the first elements of a vector register, and a row comes from them. -/
theorem tilesAndRows : Obligations.TilesAndRows := by
  unfold Obligations.TilesAndRows
  refine ⟨?_, ?_⟩
  · intro s u m b x l h f ls hs hel hshape c n lo item acted wide loaded stored done ha
    have hmem (e : Nat) : e ∈ shapeList s.cur ↔ acted e = true := by simp [mem_shapeList, acted, lo, n, c]
    refine ⟨fun hmap hl => ?_, fun hmap hl hgood => ?_⟩
    · obtain ⟨y, hexec, hplain, hwrote⟩ := exec_mld_wrote hs hel hshape ha hmap (fun e he => hl e ((hmem e).mp he)) h
      have hloaded (e : Nat) : mldValue f (valueAt u (ls e)) = loaded e := mldValue_eq f _
      simp only [hloaded] at hwrote
      exact ⟨y, hexec, hplain, hwrote⟩
    · obtain ⟨y, fl, hexec, honly, hlast, hother⟩ := exec_mst_wrote hs hel hshape ha hmap (fun e he => hl e ((hmem e).mp he))
        (fun e he => hgood e ((hmem e).mp he)) l h
      simp only [hmem] at hlast hother
      refine ⟨y, fl, hexec, honly, fun e he hapart => ?_, hother⟩
      rw [hlast e he hapart, mstStored_eq]
      cases f <;> rfl
  · intro s u m v x d l hs hshape hbad hlanes r rows cols vecs
    refine ⟨fun hr hspan hmap hgood => exec_mrow_wrote hs hbad hlanes hshape hr hspan hmap hgood v l,
      fun hr hspan hmap hgood => exec_mcol4_wrote hs hbad hlanes hshape hr hspan hmap hgood v l,
      fun hr hspan hmap => exec_mwrow_wrote hs hbad hlanes hr hspan hmap v, ?_, state_mstatWord s m⟩
    rw [exec_mstat, execMstat, finish_setS _ _ _ _ hs]

end Sys2Proof.Machine
end

section
/-! SUPPORT. The online-softmax registers, and ATSC of an attention group that meets no stop (08 R224-R228, R232). -/

namespace Sys2Proof.Machine

open Sys2Proof.Safety

/-! ### Online-softmax registers -/

section
variable {s : State} (hs : Calm s)
include hs

/-- An instruction completes where its effect moves neither the PC nor what decides whether a level ends there. -/
theorem finish_keeping {f : Thread → Thread} (hpc : (f s.cur).pc = s.cur.pc) (hctl : (f s.cur).ctl = s.cur.ctl) (w : Nat) :
    finish w f s = retired f s :=
  finish_calm w f s hs.1 (noEdge_of _ _ hs.2 hpc (by rw [hctl]) (by rw [hctl]) (by rw [hctl]))

theorem exec_osget_calm (r : SReg) (o : OReg) (w : Stall) : exec (.osget r o w) s = .next (retired (put r (oreg s.cur o)) s) :=
  congrArg Host.Outcome.next (finish_setS_after w r (fun t => oreg t o) id s hs.1 hs.1 hs.2)

theorem finish_setO (o : OReg) (x : Word) (w : Nat) : finish w (setO o x) s = retired (setO o x) s := finish_keeping hs rfl rfl w

theorem exec_osput_calm (r : SReg) (o : OReg) (w : Stall) : exec (.osput r o w) s = .next (retired (setO o (reg s r)) s) := by
  rw [exec_osput, execOsput, guardS_quiet _ hs.1, rs_quiet _ hs.1, sreg_eq_reg, finish_setO hs]

theorem exec_oszero_calm (o : OReg) (w : Stall) : exec (.oszero o w) s = .next (retired (setO o 0x00000000FF800000) s) := by
  rw [exec_oszero, execOszero, finish_setO hs]

end

/-! ### Heads that meet no damage and no stop -/

/-- A register without damage has none among any of its elements. -/
theorem mBad_sound {s : State} {r : Nat} (h : mBad s r (fun _ => true) = none) (es : Nat → Bool) : mBad s r es = none := by
  unfold mBad at *
  split
  · next hr =>
    simp only [hr, List.find?_eq_none] at h ⊢
    exact fun x hx => absurd trivial (h x hx)
  · rfl

/-- The mask, the query, the size and the key row of a head are undamaged (R232). -/
theorem headDamage_sound {s : State} (hv : s.cur.vbad = []) (hk : s.cur.kbad = []) {m : MReg} (hm : mBad s m (fun _ => true) = none)
    (a : VReg) (z : Option VReg) (g d n h : Nat) : headDamage s m a z g d n h = none := by
  have hbit (k : KReg) : bitBad s.cur k = fun _ => false := by funext i; simp [bitBad, hk]
  have helt (r : VReg) : eltBad s.cur r 32 = fun _ => false := funext fun i => eltBad_sound hv r 32 i
  cases z <;> simp [headDamage, hbit, helt, mBad_sound hm]

/-- So are its value rows and its output row. -/
theorem outDamage_sound {s : State} {am an : MReg} (hm : mBad s am (fun _ => true) = none) (hn : mBad s an (fun _ => true) = none)
    (g d n h : Nat) (r : HeadOut) : outDamage s am an g d n h r = none := by
  simp [outDamage, mBad_sound hm, mBad_sound hn]

theorem groupLimit_unasked {t : Thread} (h : t.elim = none) (g v0 n : Nat) : groupLimit t g v0 n = none := by simp only [groupLimit, h]

/-! ### The scores of a group -/

/-- The score of element `e` in a state whose thread computes it from a key tile (R227, R228). -/
def scoreAt (s : State) (a : VReg) (b : SReg) (z : Option VReg) (key : Tile) (e : Nat) : R32 :=
  if body s e then
    scoreOf (vecElts s.cur a 32 (segments s.cur * colsOf s.cur)) key ((reg s b).truncate 32) (z.map fun z => BitVec.ofNat 32 (elt s.cur z 32 e))
      (e / 2 ^ segOf s.cur) (colsOf s.cur) e
  else (ninf32, 0)

/-- The scores of the heads from `k` on follow one another. -/
theorem flatMap_heads {α : Type} (g k n : Nat) (f : Nat → α) :
    ((List.range' k n).flatMap fun h => (List.range' (h * g) g).map f) = (List.range' (k * g) (n * g)).map f := by
  induction n generalizing k with
  | zero => simp
  | succ n ih =>
    rw [List.range'_succ, List.flatMap_cons, ih, ← List.map_append, Nat.succ_mul, Nat.succ_mul, List.range'_append_1, Nat.add_comm g]

/-- The scores that a group leaves are those of R228 from its first element on. -/
theorem groupScores_scoreAt (s u : State) (m : MReg) (a : VReg) (b : SReg) (z : Option VReg) :
    GroupScores s u m a b z ((List.range' (vstartOf s.cur) (segments s.cur * 2 ^ segOf s.cur - vstartOf s.cur)).map
      fun e => (scoreAt s a b z (mval u m) e).1) := by
  refine ⟨by rw [List.length_map, List.length_range']; rfl, fun e hlo hhi => ?_⟩
  have hin : e - vstartOf s.cur < segments s.cur * 2 ^ segOf s.cur - vstartOf s.cur := Nat.sub_lt_sub_right hlo hhi
  rw [List.getD_eq_getElem _ _ (by rwa [List.length_map, List.length_range']), List.getElem_map, List.getElem_range'_1, Nat.add_sub_cancel' hlo,
    scoreAt]
  split <;> rfl

/-- The group that an ATSC begins, with its scores (R226). -/
def startedGroup (t : Thread) (m : MReg) (w1 w2 : Nat) (l : List R32) : Group :=
  ⟨t.pc, m.val, w1, w2, vstartOf t / 2 ^ segOf t, segments t, segments t, .request, l.map (·.1), [], outFlags (l.map fun r => (0, r))⟩

/-- What an ATSC needs to begin a group that performs all its heads (R226, R227, R232). -/
structure GroupReady (s u : State) (m am an : MReg) (f : OReg) : Prop where
  calm : Calm s
  unasked : s.cur.elim = none
  vector : s.cur.vbad = []
  mask : s.cur.kbad = []
  started : vstartOf s.cur < vlOf s.cur
  lanes : 0 < lanesOf s.cur
  length : vlOf s.cur ≤ 64
  query : segments s.cur * colsOf s.cur ≤ vlmax s.cur 32
  heads : f.val + segments s.cur ≤ 8
  aligned : vstartOf s.cur % 2 ^ segOf s.cur = 0
  mapped : Mapped s [(m, .read), (an, .read), (am, .readWrite)] u
  sound : Sound u [m.val, an.val, am.val]

/-- A first element that begins a head below VL begins one of the heads. -/
theorem firstHead_lt {t : Thread} (hlt : vstartOf t < vlOf t) (hg : vstartOf t % 2 ^ segOf t = 0) : vstartOf t / 2 ^ segOf t < segments t := by
  have hpos : 0 < 2 ^ segOf t := Nat.two_pow_pos _
  have hmul := Nat.div_mul_cancel (Nat.dvd_of_mod_eq_zero hg)
  refine (Nat.le_div_iff_mul_le hpos).mpr ?_
  rw [Nat.succ_mul, hmul]
  omega

/-- ATSC performs all heads of its group (R226-R228). -/
theorem atsc_ready {s u : State} {m am an : MReg} {f : OReg} (h : GroupReady s u m am an f) {i : Instr} {w1 w2 : Nat} {a : VReg} {b : SReg}
    {z : Option VReg} (hform : formGroup (own i) m s = .ok (w1, w2, f, am, an)) (hz : z.isSome = true → vlOf s.cur ≤ vlmax s.cur 32) :
    atsc i m a b z s = retired (fun t => { t with grp := some (startedGroup s.cur m w1 w2
      ((List.range' (vstartOf s.cur) (segments s.cur * 2 ^ segOf s.cur - vstartOf s.cur)).map (scoreAt s a b z (mval u m)))) }) u := by
  obtain ⟨hs, hel, hv, hk, hlt, hlanes, hlen, hspan, hheads, hg, hmap, hsound⟩ := h
  obtain ⟨map, hu⟩ := mapped_cur hmap
  have hcalm := calm_mapped hs hmap
  have hfirst := firstHead_lt hlt hg
  have hel' : u.cur.elim = none := by rw [hu]; exact hel
  have hvb : u.cur.vbad = [] := by rw [hu]; exact hv
  have hkb : u.cur.kbad = [] := by rw [hu]; exact hk
  have hm := hsound m.val (by simp)
  have hn := hsound an.val (by simp)
  have ham := hsound am.val (by simp)
  have hvlx : (lanesOf s.cur = 0 || decide (64 < vlOf s.cur) || decide (vlmax s.cur 32 < segments s.cur * colsOf s.cur) ||
      (z.isSome && decide (vlmax s.cur 32 < vlOf s.cur))) = false := by
    cases hzs : z.isSome with
    | false => simp; omega
    | true => have := hz hzs; simp; omega
  have hill : (decide (7 < f.val + segments s.cur - 1) || vstartOf s.cur % 2 ^ segOf s.cur != 0) = false := by simp [hg]; omega
  have hform' : formGroup (wordOf i) m s = .ok (w1, w2, f, am, an) := hform
  have hheadsOf : (vlOf s.cur + 2 ^ segOf s.cur - 1) / 2 ^ segOf s.cur = segments s.cur := rfl
  have hscalar : rs 0 u b = reg s b := by rw [rs_quiet _ hcalm.1, sreg, hu]; rfl
  have hscore (e : Nat) : (if (decide (vstartOf s.cur ≤ e) && decide (e < vlOf s.cur) && governed u.cur e) = true then
      scoreOf (vecElts u.cur a 32 (segments s.cur * colsOf s.cur)) (mval u m) ((rs 0 u b).truncate 32)
        (z.map fun z => BitVec.ofNat 32 (elt u.cur z 32 e)) (e / 2 ^ segOf s.cur) (colsOf s.cur) e
      else (ninf32, 0)) = scoreAt s a b z (mval u m) e := by
    rw [hscalar, scoreAt, body, hu]
    rfl
  have hundamaged (l : List Nat) : l.findSome? (fun _ => (none : Option (Nat × TrapInfo))) = none := List.findSome?_eq_none_iff.mpr fun _ _ => rfl
  have hall : vstartOf s.cur / 2 ^ segOf s.cur * 2 ^ segOf s.cur = vstartOf s.cur := Nat.div_mul_cancel (Nat.dvd_of_mod_eq_zero hg)
  simp only [atsc, guardS_quiet _ hs.1, hform', Nat.not_le.mpr hlt, hheadsOf, hvlx, hill, if_false, Bool.false_eq_true, mapStep_mapped hmap,
    headDamage_sound hvb hkb hm, outDamage_sound ham hn, groupLimit_unasked hel', Option.map_none, hundamaged, hfirst.ne', Nat.lt_irrefl,
    decide_false, Bool.and_false, Bool.or_false, hscore, flatMap_heads, Nat.sub_mul, hall]
  exact finish_keeping hcalm rfl rfl 0

end Sys2Proof.Machine
end

section
/-! SUPPORT. ATEX and ATAC of an attention group (08 R226, R229-R232). -/

namespace Sys2Proof.Machine

open Sys2Proof.Safety

/-! ### ATEX -/

theorem oreg_setO (d r : OReg) (x : Word) (t : Thread) : oreg (setO d x t) r = if r = d then x else oreg t r := by
  by_cases h : r = d
  · subst h
    simp [oreg, setO]
  · have hne : d.val ≠ r.val := fun e => h (Fin.ext e.symm)
    rw [if_neg h]
    exact Vector.getElem_set_ne d.isLt r.isLt hne

theorem vnth_oreg (t : Thread) (r : OReg) : vnth t.o 0 r.val = oreg t r := dif_pos r.isLt

/-- What ATEX makes of the head whose o-register is `q`, from its `g` scores (R229). -/
def headAt (t : Thread) (g : Nat) (l : List F32) (q : Nat) : Word × HeadOut × Flags := atexHead (vnth t.o 0 q) (l.take g)

theorem headAt_setO {d : OReg} {q : Nat} (h : q ≠ d.val) (x : Word) (t : Thread) (g : Nat) (l : List F32) :
    headAt (setO d x t) g l q = headAt t g l q := by
  have hsame : vnth (t.o.set d x) 0 q = vnth t.o 0 q := by
    unfold vnth
    split
    · exact Vector.getElem_set_ne _ _ (Ne.symm h)
    · rfl
  exact congrArg (fun y => atexHead y (l.take g)) hsame

/-- ATEX performs its first head, then the others. -/
theorem atexHeads_succ {f h : Nat} (hq : f + h < 8) (g n : Nat) (l : List F32) (t : Thread) :
    atexHeads f g (n + 1) h l t =
      let y := headAt t g l (f + h)
      let z := atexHeads f g n (h + 1) (l.drop g) (setO ⟨f + h, hq⟩ y.1 t)
      (z.1, y.2.1 :: z.2.1, y.2.2 ||| z.2.2) := by
  have hreg : (⟨(f + h) % 8, Nat.mod_lt _ (by decide)⟩ : OReg) = ⟨f + h, hq⟩ := Fin.ext (Nat.mod_eq_of_lt hq)
  have hold : vnth t.o 0 (f + h) = oreg t ⟨f + h, hq⟩ := vnth_oreg t ⟨f + h, hq⟩
  simp only [atexHeads, hreg, headAt, hold]

/-- The o-registers after ATEX on `n` heads from register `f + h` on. -/
theorem oreg_atexHeads {f g n h : Nat} (hfit : f + h + n ≤ 8) (l : List F32) (t : Thread) (r : OReg) :
    oreg (atexHeads f g n h l t).1 r =
      if f + h ≤ r.val ∧ r.val < f + h + n then (headAt t g (l.drop ((r.val - f - h) * g)) r.val).1 else oreg t r := by
  induction n generalizing h l t with
  | zero => exact (if_neg (by omega)).symm
  | succ n ih =>
    have hq : f + h < 8 := by omega
    rw [atexHeads_succ hq, ih (h := h + 1) (by omega)]
    by_cases hr : r.val = f + h
    · obtain rfl : r = ⟨f + h, hq⟩ := Fin.ext hr
      rw [if_neg (by omega), if_pos (by omega), oreg_setO, if_pos rfl]
      simp
    · have hne : r ≠ ⟨f + h, hq⟩ := fun e => hr (congrArg Fin.val e)
      rw [headAt_setO hr, oreg_setO, if_neg hne, List.drop_drop]
      by_cases hin : f + (h + 1) ≤ r.val ∧ r.val < f + (h + 1) + n
      · have hrank : r.val - f - h = r.val - f - (h + 1) + 1 := by omega
        rw [if_pos hin, if_pos (by omega), hrank, Nat.succ_mul, Nat.add_comm g]
      · rw [if_neg hin, if_neg (by omega)]

/-- What ATEX delivers of `n` heads. -/
theorem outs_atexHeads {f g n h : Nat} (hfit : f + h + n ≤ 8) (l : List F32) (t : Thread) :
    (atexHeads f g n h l t).2.1 = (List.range n).map fun k => (headAt t g (l.drop (k * g)) (f + h + k)).2.1 := by
  induction n generalizing h l t with
  | zero => rfl
  | succ n ih =>
    have hq : f + h < 8 := by omega
    rw [atexHeads_succ hq, List.range_succ_eq_map, List.map_cons, List.map_map]
    refine congrArg₂ List.cons (by simp) ?_
    rw [ih (h := h + 1) (by omega)]
    refine List.map_congr_left fun k _ => ?_
    have hne : f + (h + 1) + k ≠ f + h := by omega
    have hnext : f + (h + 1) + k = f + h + (k + 1) := by omega
    rw [Function.comp_apply, headAt_setO (d := ⟨f + h, hq⟩) hne, List.drop_drop, hnext, Nat.succ_mul, Nat.add_comm g]

/-- ATEX changes only o-registers of its thread. -/
theorem atexHeads_frame (f g n h : Nat) (l : List F32) (t : Thread) :
    (atexHeads f g n h l t).1 = { t with o := (atexHeads f g n h l t).1.o } := by
  induction n generalizing h l t with
  | zero => rfl
  | succ n ih => exact ih (h + 1) (l.drop g) _

section
variable {s : State} (hs : Calm s) {p : Group} (hp : s.cur.grp = some p) {o : OReg}
include hs hp

/-- ATEX on the heads of its group (R229). -/
theorem exec_atex_group (hpc : s.cur.pc = p.addr + 4) (hfirst : p.first ≤ p.last) (hfit : o.val + p.last ≤ 8) :
    let head (k : Nat) := headAt s.cur (2 ^ segOf s.cur) (p.scores.drop (k * 2 ^ segOf s.cur)) (o.val + p.first + k)
    ∃ y fl, exec (.atex o) s = .next y ∧
      (∀ r : OReg, oreg y.cur r = if o.val + p.first ≤ r.val ∧ r.val < o.val + p.last then (head (r.val - o.val - p.first)).1 else oreg s.cur r) ∧
      y = retired (fun t => { t with o := y.cur.o, grp := some { p with
        heads := (List.range (p.last - p.first)).map fun k => (head k).2.1, flags := p.flags ||| fl } }) s := by
  intro head
  have hspan : o.val + p.first + (p.last - p.first) ≤ 8 := by omega
  set out := atexHeads o.val (2 ^ segOf s.cur) (p.last - p.first) p.first p.scores s.cur with hout
  have houts : out.2.1 = (List.range (p.last - p.first)).map fun k => (head k).2.1 := outs_atexHeads hspan p.scores s.cur
  have hframe : out.1 = { s.cur with o := out.1.o } := atexHeads_frame ..
  have hexec : exec (.atex o) s = .next (retired (fun t => { t with o := out.1.o, grp := some { p with
      heads := (List.range (p.last - p.first)).map fun k => (head k).2.1, flags := p.flags ||| out.2.2 } }) s) := by
    simp only [exec_atex, execAtex, hp, hpc, bne_self_eq_false, Bool.false_eq_true, if_false]
    refine congrArg Host.Outcome.next ((finish_congr (f := fun t => { t with o := out.1.o, grp := some { p with
      heads := (List.range (p.last - p.first)).map fun k => (head k).2.1, flags := p.flags ||| out.2.2 } }) hs.1 ?_ 0).trans
      (finish_keeping hs rfl rfl 0))
    simp only [← hout, ← houts]
    rw [hframe]
  refine ⟨_, out.2.2, hexec, fun r => ?_, rfl⟩
  have hreg : oreg out.1 r = _ := oreg_atexHeads hspan p.scores s.cur r
  refine Eq.trans (b := oreg out.1 r) rfl (hreg.trans ?_)
  by_cases hin : o.val + p.first ≤ r.val ∧ r.val < o.val + p.last
  · have hrank : o.val + p.first + (r.val - o.val - p.first) = r.val := by omega
    rw [if_pos hin, if_pos (by omega)]
    simp only [head, hrank]
  · rw [if_neg hin, if_neg (by omega)]

end

/-! ### ATAC -/

/-- The elements of a register that a list names replaced by the values it gives them; an empty list leaves the state as it is. -/
def rowsWritten (m : MReg) (out : List (Nat × R32)) (s : State) : State :=
  if out.isEmpty then s
  else mwrite m (fun e => out.any fun (k, _) => k == e) (fun e => ((out.find? fun (k, _) => k == e).map (·.2.1)).getD 0) s

@[simp] theorem rowsWritten_cur (m : MReg) (out : List (Nat × R32)) (s : State) : (rowsWritten m out s).cur = s.cur := by
  unfold rowsWritten
  split
  · rfl
  · exact mwrite_cur ..

theorem rowsWritten_frame (m : MReg) (out : List (Nat × R32)) (s : State) : rowsWritten m out s = { s with cores := (rowsWritten m out s).cores } := by
  unfold rowsWritten
  split
  · rfl
  · unfold mwrite
    split <;> rfl

/-- An element that a list names, with one value, has that value. -/
theorem mat_rowsWritten_named {s : State} {m : MReg} {x : Nat × Bool × Bool} (hm : slotOf s.cur.map m = some x) {out : List (Nat × R32)} {i j : Nat}
    (hi : i < 64) (hj : j < 64) {y : R32} (hin : (64 * i + j, y) ∈ out) (hone : ∀ p ∈ out, p.1 = 64 * i + j → p.2 = y) :
    mat (rowsWritten m out s) m i j = y.1 := by
  have hany : (out.any fun (k, _) => k == 64 * i + j) = true := List.any_eq_true.mpr ⟨_, hin, beq_self_eq_true _⟩
  have hempty : out.isEmpty = false := by
    cases out with
    | nil => cases hin
    | cons _ _ => rfl
  rw [rowsWritten, hempty, if_neg Bool.false_ne_true, mat_mwrite hm _ _ (by omega), hany, if_pos rfl]
  cases hfind : out.find? fun (k, _) => k == 64 * i + j with
  | none => exact absurd (beq_self_eq_true _) (List.find?_eq_none.mp hfind _ hin)
  | some p => exact congrArg Prod.fst (hone p (List.mem_of_find?_eq_some hfind) (by simpa using List.find?_some hfind))

/-- One that no entry names keeps its value. -/
theorem mat_rowsWritten_other {s : State} {m : MReg} {x : Nat × Bool × Bool} (hm : slotOf s.cur.map m = some x) {out : List (Nat × R32)} {i j : Nat}
    (hi : i < 64) (hj : j < 64) (hno : ∀ p ∈ out, p.1 ≠ 64 * i + j) : mat (rowsWritten m out s) m i j = mat s m i j := by
  have hany : (out.any fun (k, _) => k == 64 * i + j) = false := List.any_eq_false.mpr fun p hp => by simpa using hno p hp
  unfold rowsWritten
  split
  · rfl
  · rw [mat_mwrite hm _ _ (by omega), hany, if_neg Bool.false_ne_true]

/-- The output rows list the elements of each head that is not skipped (R230). -/
theorem mem_atacRows {g n d first : Nat} {v o : Tile} {hs : List HeadOut} {p : Nat × R32} : p ∈ atacRows g n d first v o hs ↔
    ∃ k r c, hs[k]? = some r ∧ r.skip = false ∧ c < d ∧
      p = (64 * (first + k) + c, atacElt g n v r (first + k) c (tileElt o (64 * (first + k) + c))) := by
  rw [atacRows, List.mem_flatMap]
  constructor
  · rintro ⟨⟨r, k⟩, hk, hp⟩
    have hk := List.mk_mem_zipIdx_iff_getElem?.mp hk
    cases hskip : r.skip with
    | true => simp [hskip] at hp
    | false =>
      simp only [hskip, Bool.false_eq_true, if_false] at hp
      obtain ⟨c, hc, rfl⟩ := List.mem_map.mp hp
      exact ⟨k, r, c, hk, hskip, List.mem_range.mp hc, rfl⟩
  · rintro ⟨k, r, c, hk, hskip, hc, rfl⟩
    refine ⟨(r, k), List.mk_mem_zipIdx_iff_getElem?.mpr hk, ?_⟩
    simp only [hskip, Bool.false_eq_true, if_false]
    exact List.mem_map.mpr ⟨c, List.mem_range.mpr hc, rfl⟩

/-- The rows of a register after ATAC on the heads from `first` on (R230). -/
theorem mat_atacRows {s : State} {m : MReg} {x : Nat × Bool × Bool} (hm : slotOf s.cur.map m = some x) {g n d first : Nat} (hd : d ≤ 64) (v : Tile)
    {hs : List HeadOut} (i j : Nat) (hi : i < 64) (hj : j < 64) :
    mat (rowsWritten m (atacRows g n d first v (mval s m) hs) s) m i j =
      match hs[i - first]? with
      | none => mat s m i j
      | some r => if first ≤ i ∧ j < d ∧ r.skip = false then (atacElt g n v r i j (mat s m i j)).1 else mat s m i j := by
  have hplace {k c : Nat} (hc : c < d) (he : 64 * (first + k) + c = 64 * i + j) : first + k = i ∧ c = j := by omega
  have other (hno : ∀ r, hs[i - first]? = some r → ¬ (first ≤ i ∧ j < d ∧ r.skip = false)) :
      mat (rowsWritten m (atacRows g n d first v (mval s m) hs) s) m i j = mat s m i j := by
    refine mat_rowsWritten_other hm hi hj fun p hp he => ?_
    obtain ⟨k, r, c, hk, hskip, hc, rfl⟩ := mem_atacRows.mp hp
    obtain ⟨rfl, rfl⟩ := hplace hc he
    exact hno r (by rwa [Nat.add_sub_cancel_left]) ⟨Nat.le_add_right .., hc, hskip⟩
  cases hr : hs[i - first]? with
  | none => exact other fun r h => by rw [hr] at h; cases h
  | some r =>
    dsimp only
    split
    · next hin =>
      obtain ⟨hfirst, hj', hskip⟩ := hin
      refine mat_rowsWritten_named hm hi hj (mem_atacRows.mpr ⟨i - first, r, j, hr, hskip, hj', ?_⟩) fun p hp he => ?_
      · rw [Nat.add_sub_cancel' hfirst, mat]
      · obtain ⟨k, r', c, hk, -, hc, rfl⟩ := mem_atacRows.mp hp
        obtain ⟨rfl, rfl⟩ := hplace hc he
        rw [Nat.add_sub_cancel_left, hk] at hr
        rw [Option.some.inj hr, mat]
    · next hin => exact other fun r' h => by rw [hr] at h; rwa [← Option.some.inj h]

/-- The output rows of a group that ATAC ends. -/
def groupRows (s : State) (m an : MReg) (p : Group) : List (Nat × R32) :=
  atacRows (2 ^ segOf s.cur) (vlOf s.cur) (colsOf s.cur) p.first (mval s an) (mval s m) p.heads

/-- Of an effect only what it makes of the thread in focus counts. -/
theorem modT_eq_onThread {f g : Thread → Thread} {s : State} (h : f s.cur = g s.cur) : modT f s = onThread g s := by rw [modT, onThread, h]

section
variable {s : State} {p : Group} (hp : s.cur.grp = some p) (hpc : s.cur.pc = p.addr + 8) (m an : MReg) (l : Bool) (o : OReg)
include hp hpc

/-- ATAC of a group that has performed all its heads completes (R231). -/
theorem exec_atac_last (hs : Calm s) (h : p.total ≤ p.last) : exec (.atac m an l o) s =
    .next (retired (groupEnd 0 (p.flags ||| outFlags (groupRows s m an p))) (if l = true ∧ 0 < p.total
      then dropRegs [an.val] (rowsWritten m (groupRows s m an p) s) else rowsWritten m (groupRows s m an p) s)) := by
  have hcalm : Calm (if l = true ∧ 0 < p.total then dropRegs [an.val] (rowsWritten m (groupRows s m an p) s)
      else rowsWritten m (groupRows s m an p) s) := by
    have hrows : Calm (rowsWritten m (groupRows s m an p) s) := by rwa [Calm, rowsWritten_cur]
    split
    · exact calm_applyPlan hrows _
    · exact hrows
  rw [← finish_calm 0 _ _ hcalm.1 (noEdge_of _ (groupEnd 0 _ _) hcalm.2 rfl rfl rfl rfl)]
  simp only [exec_atac, execAtac, hp, hpc, bne_self_eq_false, Bool.false_eq_true, if_false, Nat.not_lt.mpr h, Bool.and_eq_true, decide_eq_true_eq]
  rfl

/-- ATAC of a group that stops before its last head leaves the thread at its ATSC, VSTART at that head, and stops (R232). -/
theorem exec_atac_stops (h : p.last < p.total) : exec (.atac m an l o) s =
    .next (stopBy p.stop (onThread (fun t => { groupEnd (p.last * 2 ^ segOf s.cur) (p.flags ||| outFlags (groupRows s m an p)) t with pc := p.addr })
      (rowsWritten m (groupRows s m an p) s))) := by
  simp only [exec_atac, execAtac, hp, hpc, bne_self_eq_false, Bool.false_eq_true, if_false, h, if_true]
  exact congrArg (fun x => Host.Outcome.next (stopBy p.stop x))
    (modT_eq_onThread (s := rowsWritten m (groupRows s m an p) s) (by rw [rowsWritten_cur]; rfl))

end

theorem stopBy_request (f : Thread → Thread) (s : State) : stopBy .request (onThread f s) = stopped f s := rfl

theorem stopBy_trap (e : TrapInfo) (s : State) : stopBy (.trap e) s = Safety.trapped e.cause e.eval e.erec s := trap_eq e s

/-! ### Members that no group is at -/

/-- A member of a group traps ILL where the thread is in no group, or not at that member (R226). -/
def OutOfGroup (s : State) (n : Word) : Prop := s.cur.grp = none ∨ ∃ q, s.cur.grp = some q ∧ s.cur.pc ≠ q.addr + n

theorem exec_atex_alone {s : State} (h : OutOfGroup s 4) (o : OReg) : exec (.atex o) s = .next (Safety.trapped 0x01 (own (.atex o)) 0 s) := by
  rw [exec_atex, execAtex]
  obtain hg | ⟨q, hg, hpc⟩ := h
  · simp only [hg, trapWord_eq]
    rfl
  · simp only [hg, bne_iff_ne.mpr hpc, if_true, trapWord_eq]
    rfl

theorem exec_atac_alone {s : State} (h : OutOfGroup s 8) (m an : MReg) (l : Bool) (o : OReg) :
    exec (.atac m an l o) s = .next (Safety.trapped 0x01 (own (.atac m an l o)) 0 s) := by
  rw [exec_atac, execAtac]
  obtain hg | ⟨q, hg, hpc⟩ := h
  · simp only [hg, trapWord_eq]
    rfl
  · simp only [hg, bne_iff_ne.mpr hpc, if_true, trapWord_eq]
    rfl

/-- Settles O35: the o-register instructions by their one write; ATSC by its checks, its map step and the scores in order; ATEX head by head;
ATAC by the elements its rows list. -/
theorem attention : Obligations.Attention := by
  unfold Obligations.Attention
  refine ⟨fun s r o w hs => ⟨exec_osget_calm hs r o w, exec_osput_calm hs r o w, exec_oszero_calm hs o w⟩, ?_⟩
  intro s u m am an a z b o f l w1 w2 p hs hshape hel hv hk t n g nh d started whole
  refine ⟨fun hlt hlanes hlen hspan hheads hg hmap hsound => ?_, fun hp hpc hfirst hfit => ?_, fun hp hpc hres _ => ?_,
    fun h => exec_atex_alone h o, fun h => exec_atac_alone h m an l o⟩
  · have hready : GroupReady s u m am an f := ⟨hs, hel, hv, hk, hlt, hlanes, hlen, hspan, hheads, hg, hmap, hsound⟩
    have begun (z : Option VReg) {y : State} (hy : y = retired (fun t => { t with grp := some (startedGroup s.cur m w1 w2
        ((List.range' (vstartOf s.cur) (segments s.cur * 2 ^ segOf s.cur - vstartOf s.cur)).map (scoreAt s a b z (mval u m)))) }) u) :
        ∃ q, started whole y ∧ y.cur.grp = some q ∧ GroupScores s u m a b z q.scores := by
      subst hy
      refine ⟨_, ⟨_, _, rfl⟩, rfl, ?_⟩
      rw [startedGroup, List.map_map]
      exact groupScores_scoreAt s u m a b z
    refine ⟨fun hform => ?_, fun hz hform => ?_⟩
    · obtain ⟨q, hq⟩ := begun none (atsc_ready hready hform (fun h => by cases h))
      exact ⟨_, q, rfl, hq⟩
    · obtain ⟨q, hq⟩ := begun (some z) (atsc_ready hready hform fun _ => hz)
      exact ⟨_, q, rfl, hq⟩
  · exact exec_atex_group hs hp hpc hfirst hfit
  · obtain ⟨x, hm⟩ := isResident_iff.mp hres
    obtain ⟨-, -, -, hcols⟩ := hshape
    refine ⟨rowsWritten m (groupRows s m an p) s, p.flags ||| outFlags (groupRows s m an p), mat_atacRows hm hcols _,
      rowsWritten_frame .., exec_atac_last hp hpc m an l o hs, fun h hstop => ?_, fun i h hstop => ?_⟩
    · rw [exec_atac_stops hp hpc m an l o h, hstop, stopBy_request]
    · rw [exec_atac_stops hp hpc m an l o h, hstop, stopBy_trap]

end Sys2Proof.Machine
end

section
/-! SUPPORT. VTOPK: the rank order of the active elements (08 R235). -/

namespace Sys2Proof.Machine

open Sys2Proof.Safety

/-! ### Insertion in rank order -/

/-- Index `i` is ranked above `j`: its integer is greater, or the same at a lower index (R235). -/
def Outranks (k : Kind) (v : Nat → Nat) (i j : Nat) : Prop := intK k (v j) < intK k (v i) ∨ (intK k (v j) = intK k (v i) ∧ i < j)

/-- The indices of a list, each inserted after those that it does not beat. -/
def ranking (k : Kind) (v : Nat → Nat) (l : List Nat) : List Nat := l.foldl (fun l i => topInsert k v i l) []

theorem foldl_topInsert (k : Kind) (v : Nat → Nat) (l : List Nat) : l.foldl (fun l i => topInsert k v i l) [] = ranking k v l := rfl

section
variable {k : Kind} {v : Nat → Nat}

theorem topInsert_perm (i : Nat) (l : List Nat) : (topInsert k v i l).Perm (i :: l) := by
  induction l with
  | nil => exact .refl _
  | cons j l ih =>
    unfold topInsert
    split
    · exact .refl _
    · exact (ih.cons j).trans (.swap i j l)

theorem ranking_concat (l : List Nat) (i : Nat) : ranking k v (l ++ [i]) = topInsert k v i (ranking k v l) := by
  rw [ranking, List.foldl_append]
  rfl

theorem ranking_perm (l : List Nat) : (ranking k v l).Perm l := by
  induction l using List.reverseRecOn with
  | nil => exact .refl _
  | append_singleton l i ih =>
    rw [ranking_concat]
    exact (topInsert_perm i _).trans ((ih.cons i).trans (List.perm_append_singleton i l).symm)

variable (hk : isFloat k = false)
include hk

theorem beats_int (x y : Nat) : beats k x y = true ↔ intK k y < intK k x := by simp [beats, hk]

/-- An index above all of a ranked list goes to its rank. -/
theorem topInsert_ranked {l : List Nat} {i : Nat} (hl : l.Pairwise (Outranks k v)) (hi : ∀ j ∈ l, j < i) :
    (topInsert k v i l).Pairwise (Outranks k v) := by
  induction l with
  | nil => exact List.pairwise_singleton _ i
  | cons j l ih =>
    obtain ⟨hj, hl'⟩ := List.pairwise_cons.mp hl
    unfold topInsert
    split
    · next hbeats =>
      have hij := (beats_int hk _ _).mp hbeats
      refine List.pairwise_cons.mpr ⟨fun q hq => .inl ?_, hl⟩
      obtain rfl | hq := List.mem_cons.mp hq
      · exact hij
      · obtain h | ⟨h, -⟩ := hj q hq
        · exact h.trans hij
        · exact h ▸ hij
    · next hbeats =>
      have hij : intK k (v i) ≤ intK k (v j) := not_lt.mp fun h => hbeats ((beats_int hk _ _).mpr h)
      refine List.pairwise_cons.mpr ⟨fun q hq => ?_, ih hl' fun q hq => hi q (List.mem_cons_of_mem j hq)⟩
      obtain rfl | hq := List.mem_cons.mp ((topInsert_perm i l).mem_iff.mp hq)
      · exact hij.lt_or_eq.imp_right fun h => ⟨h, hi j List.mem_cons_self⟩
      · exact hj q hq

theorem ranking_ranked {l : List Nat} (hl : l.Pairwise (· < ·)) : (ranking k v l).Pairwise (Outranks k v) := by
  induction l using List.reverseRecOn with
  | nil => exact .nil
  | append_singleton l i ih =>
    obtain ⟨hl', -, hi⟩ := List.pairwise_append.mp hl
    rw [ranking_concat]
    exact topInsert_ranked hk (ih hl') fun j hj => hi j ((ranking_perm l).mem_iff.mp hj) i (List.mem_singleton_self i)

/-- An index of the list that is not among the first `r + 1` of its ranking is outranked by the one of rank `r`. -/
theorem outranked_of_later {l : List Nat} (hl : l.Pairwise (· < ·)) {r i : Nat} (hr : r < (ranking k v l).length) (hi : i ∈ l)
    (hlater : i ∉ (ranking k v l).take r) (hne : i ≠ (ranking k v l)[r]) : Outranks k v (ranking k v l)[r] i := by
  obtain ⟨q, hq, rfl⟩ := List.getElem_of_mem ((ranking_perm (k := k) (v := v) l).mem_iff.mpr hi)
  have hrq : r < q := by
    obtain h | rfl | h := Nat.lt_trichotomy r q
    · exact h
    · exact absurd rfl hne
    · exact absurd (List.mem_take_iff_getElem.mpr ⟨q, by omega, rfl⟩) hlater
  exact List.pairwise_iff_getElem.mp (ranking_ranked hk hl) r q hr hq hrq

end

/-! ### The instruction -/

/-- Indices paired with their ranks. -/
theorem zipIdx_swap (l : List Nat) : l.zipIdx.map (fun (i, r) => (r, i)) = (List.range l.length).map fun r => (r, l.getD r 0) := by
  refine List.ext_getElem (by simp) fun r h1 h2 => ?_
  have hr : r < l.length := by simpa using h2
  simp [hr]

/-- The ranks of the active elements, of which VTOPK lists as many as its scalar asks for. -/
def topOrder (s : State) (a : VReg) (b : SReg) (k : Kind) : List Nat :=
  (ranking k (elt s.cur a (sewOf s.cur)) ((List.range (vlOf s.cur)).filter (acting s))).take (reg s b).toNat

theorem topOrder_length (s : State) (a : VReg) (b : SReg) (k : Kind) :
    (topOrder s a b k).length = min ((List.range (vlOf s.cur)).filter (acting s)).length (reg s b).toNat := by
  rw [topOrder, List.length_take, (ranking_perm _).length_eq, Nat.min_comm]

/-- VTOPK from element 0 lists that order from element 0 on (R235). -/
theorem vtopk_ready {s : State} (h : VecReady s (sewOf s.cur)) (h0 : vstartOf s.cur = 0) (hvl : 0 < vlOf s.cur) {k : Kind}
    (hk : kindOf s.cur = some k) (d a : VReg) (b : SReg) : ∃ u, exec (.vtopk d a b) s = .next u ∧
      VecWrote s u d (sewOf s.cur) (fun r => decide (r < (topOrder s a b k).length)) (fun r => (topOrder s a b k).getD r 0) 0 := by
  have ⟨hcalm, hv, hkb, _, hc, _, hfit⟩ := h
  have hactive : actives s.cur 0 (vlOf s.cur) = (List.range (vlOf s.cur)).filter (acting s) :=
    List.filter_congr fun i hi => by simp [acting, List.mem_range.mp hi]
  have horder : (ranking k (elt s.cur a (sewOf s.cur)) ((List.range (vlOf s.cur)).filter (acting s))).take
      (min (ranking k (elt s.cur a (sewOf s.cur)) ((List.range (vlOf s.cur)).filter (acting s))).length (reg s b).toNat) = topOrder s a b k := by
    rw [Nat.min_comm, ← List.take_eq_take_min, topOrder]
  have hl : ∀ r ∈ List.range (topOrder s a b k).length, sewOf s.cur * r + sewOf s.cur ≤ 8192 := fun r hr => by
    have hr := List.mem_range.mp hr
    have hlen := (List.length_filter_le (acting s) (List.range (vlOf s.cur)))
    rw [topOrder_length] at hr
    rw [List.length_range] at hlen
    exact elt_within hfit (by omega)
  simp only [exec_vtopk, execVtopk, hk, Option.isSome_some, guardV_passed h, maskDmg_sound hkb, eltsDmg_sound hv, orElseInfo,
    runW_ready h h0 hvl, rs_quiet _ hcalm.1, sreg_eq_reg, hactive, foldl_topInsert, horder, zipIdx_swap]
  exact ⟨_, rfl, finishV_writeElts_plain hcalm hc hv d hl (by simp) _⟩

/-- Of integers the listed ones are the greatest, and equal ones come by rising index (R235). -/
theorem topOrder_ranks {s : State} {k : Kind} (hk : isFloat k = false) (a : VReg) (b : SReg) {r i : Nat} (hr : r < (topOrder s a b k).length)
    (hi : i ∈ (List.range (vlOf s.cur)).filter (acting s)) (hlater : i ∉ (topOrder s a b k).take r) (hne : i ≠ (topOrder s a b k).getD r 0) :
    Outranks k (elt s.cur a (sewOf s.cur)) ((topOrder s a b k).getD r 0) i := by
  rw [List.getD_eq_getElem _ _ hr] at hne ⊢
  unfold topOrder at hr hlater hne ⊢
  have hr' := hr
  rw [List.length_take] at hr'
  rw [List.take_take, Nat.min_eq_left (by omega)] at hlater
  rw [List.getElem_take] at hne ⊢
  exact outranked_of_later hk (pairwise_lt_filter_range _ _) (by omega) hi hlater hne

end Sys2Proof.Machine
end

section
/-! SUPPORT. The bytes that a TMATCH stores: the places of a map's words, and what stands in its fields after the stores (08 R236-R238). -/

namespace Sys2Proof.Machine

open Sys2Proof.Safety

/-! ### The places of a map's words -/

/-- The bytes that a heap store reaches have a place each. -/
theorem heapPlaces_length {s : State} {x ea : Word} {n : Nat} {k : Acc} {ls : List Loc} (hn : n ∣ 32) (h : heapPlaces s x ea n k = .ok ls) :
    ls.length = n := by
  unfold heapPlaces placesOf at h
  split at h
  · cases h
  next l cls hplaces =>
    split at hplaces
    · cases hplaces
    split at hplaces
    · cases hplaces
    next halign =>
      split at hplaces
      · cases hplaces
      next hx =>
        obtain rfl := Except.ok.inj hplaces
        obtain ⟨q, rfl⟩ := xlatN_aligned hn (by simpa using halign) hx
        split at h
        · cases h
        split at h
        · cases h
        obtain rfl := Except.ok.inj h
        rw [List.length_map, List.length_range]

/-- A word of a map that TMATCH does not store to (R236). -/
def skipped (k : Nat) : Bool := decide (k < 2) || decide (k = 3)

/-- The places of word `k` of the map at `a`: none of a word that TMATCH does not store to. -/
def wordPlaces (s : State) (x : Word) (a k : Nat) : Except TrapInfo (List Loc) :=
  if skipped k then .ok [] else heapPlaces s x (BitVec.ofNat 64 (a + 8 * k)) 8 .store

/-- The places found so far, with those of the next word. -/
def pushPlaces (s : State) (x : Word) (a : Nat) (acc : Except TrapInfo (List (List Loc))) (k : Nat) : Except TrapInfo (List (List Loc)) :=
  match acc with
  | .error e => .error e
  | .ok ls => if skipped k then .ok (ls ++ [[]])
    else match heapPlaces s x (BitVec.ofNat 64 (a + 8 * k)) 8 .store with
      | .error e => .error e
      | .ok l => .ok (ls ++ [l])

theorem matchPlaces_eq (s : State) (x : Word) (a : Nat) : matchPlaces s x a = (List.range 44).foldl (pushPlaces s x a) (.ok []) := rfl

section
variable {s : State} {x : Word} {a : Nat}

theorem pushPlaces_error (e : TrapInfo) (ks : List Nat) : ks.foldl (pushPlaces s x a) (.error e) = .error e := by
  induction ks with
  | nil => rfl
  | cons k ks ih => exact ih

theorem pushPlaces_ok (ls : List (List Loc)) (k : Nat) :
    (∃ e, pushPlaces s x a (.ok ls) k = .error e) ∨ ∃ l, wordPlaces s x a k = .ok l ∧ pushPlaces s x a (.ok ls) k = .ok (ls ++ [l]) := by
  unfold pushPlaces wordPlaces
  cases skipped k with
  | true => exact .inr ⟨[], rfl, rfl⟩
  | false =>
    cases heapPlaces s x (BitVec.ofNat 64 (a + 8 * k)) 8 .store with
    | error e => exact .inl ⟨e, rfl⟩
    | ok l => exact .inr ⟨l, rfl, rfl⟩

/-- Where all words have places, they are listed in order. -/
theorem pushPlaces_all {ks : List Nat} {acc ls : List (List Loc)} (h : ks.foldl (pushPlaces s x a) (.ok acc) = .ok ls) :
    ∃ ps, ls = acc ++ ps ∧ List.Forall₂ (fun k p => wordPlaces s x a k = .ok p) ks ps := by
  induction ks generalizing acc with
  | nil => exact ⟨[], by rw [List.append_nil, Except.ok.inj h], .nil⟩
  | cons k ks ih =>
    rw [List.foldl_cons] at h
    obtain ⟨e, he⟩ | ⟨l, hl, hok⟩ := pushPlaces_ok (s := s) (x := x) (a := a) acc k
    · rw [he, pushPlaces_error] at h
      cases h
    · rw [hok] at h
      obtain ⟨ps, rfl, hps⟩ := ih h
      exact ⟨l :: ps, by rw [List.append_assoc, List.singleton_append], .cons hl hps⟩

theorem wordPlaces_length {k : Nat} {l : List Loc} (h : wordPlaces s x a k = .ok l) : l.length = if skipped k then 0 else 8 := by
  unfold wordPlaces at h
  split at h
  · next hk => rw [if_pos hk, ← Except.ok.inj h, List.length_nil]
  · next hk => rw [if_neg hk, heapPlaces_length (by decide) h]

theorem wordPlaces_lengths {ks : List Nat} {ps : List (List Loc)} (h : List.Forall₂ (fun k p => wordPlaces s x a k = .ok p) ks ps) :
    ps.map List.length = ks.map fun k => if skipped k then 0 else 8 := by
  induction h with
  | nil => rfl
  | cons hk _ ih => rw [List.map_cons, List.map_cons, wordPlaces_length hk, ih]

variable {ls : List (List Loc)} (h : matchPlaces s x a = .ok ls)
include h

/-- The fields that TMATCH stores are 328 bytes: from +16 to +24 and from +32 to +352. -/
theorem matchPlaces_length : ls.flatten.length = 328 := by
  rw [matchPlaces_eq] at h
  obtain ⟨ps, rfl, hps⟩ := pushPlaces_all h
  refine List.length_flatten.trans ((congrArg List.sum (wordPlaces_lengths hps)).trans ?_)
  decide

/-- The word that holds VALID has places. -/
theorem matchPlaces_valid : ∃ l, heapPlaces s x (BitVec.ofNat 64 (a + 16)) 8 .store = .ok l := by
  rw [matchPlaces_eq] at h
  obtain ⟨ps, -, hps⟩ := pushPlaces_all h
  exact ⟨_, hps.get (i := 2) (by decide) (by rw [← hps.length_eq]; decide)⟩

end

/-! ### Fields -/

/-- The places of the `n` bytes from the `b`-th on. -/
def fieldAt (all : List Loc) (b n : Nat) : List Loc := (all.drop b).take n

theorem mem_of_mem_fieldAt {all : List Loc} {b n : Nat} {l : Loc} (h : l ∈ fieldAt all b n) : l ∈ all :=
  List.mem_of_mem_drop (List.mem_of_mem_take h)

theorem fieldAt_length {all : List Loc} {b n : Nat} (h : b + n ≤ all.length) : (fieldAt all b n).length = n := by
  rw [fieldAt, List.length_take, List.length_drop]
  omega

/-- A field within a field. -/
theorem fieldAt_fieldAt (all : List Loc) {b n j k : Nat} (h : j + k ≤ n) : fieldAt (fieldAt all b n) j k = fieldAt all (b + j) k := by
  rw [fieldAt, fieldAt, fieldAt, List.drop_take, List.take_take, List.drop_drop, Nat.min_eq_left (by omega)]

theorem fieldAt_disjoint {all : List Loc} (hn : all.Nodup) {b n c : Nat} (h : b + n ≤ c) (k : Nat) : (fieldAt all b n).Disjoint (fieldAt all c k) := by
  intro l hl hl'
  rw [fieldAt, List.take_drop] at hl
  exact List.disjoint_take_drop hn h (List.mem_of_mem_drop hl) (List.mem_of_mem_take hl')

/-- The writes of some bytes to a field. -/
def fieldWrites (all : List Loc) (b : Nat) (bs : List Byte) : List Wr := wrBytes (fieldAt all b bs.length) bs

theorem mem_wrBytes {ls : List Loc} {bs : List Byte} {w : Wr} (h : w ∈ wrBytes ls bs) : w.loc ∈ ls := by
  obtain ⟨y, hy, rfl⟩ := List.mem_map.mp h
  exact (List.of_mem_zip hy).1

theorem readBytes_writeAll_foldl (ws : List Wr) (s : State) (ls : List Loc) : readBytes (writeAll ws s) ls = readBytes (ws.foldl wr1 s) ls :=
  List.map_congr_left fun l _ => byteAt_writeAll ws l s

theorem readBytes_foldl_other {ws : List Wr} {ls : List Loc} (h : ∀ w ∈ ws, w.loc ∉ ls) (s : State) :
    readBytes (ws.foldl wr1 s) ls = readBytes s ls :=
  List.map_congr_left fun l hl => byteAt_foldl_wr1 ws l s fun w hw e => h w hw (e ▸ hl)

/-- A field reads as the bytes last written to it. -/
theorem readBytes_fieldWrites {all : List Loc} (hn : all.Nodup) {b : Nat} {bs : List Byte} (h : b + bs.length ≤ all.length) (s : State) :
    readBytes ((fieldWrites all b bs).foldl wr1 s) (fieldAt all b bs.length) = bs := by
  rw [← readBytes_writeAll_foldl, fieldWrites]
  exact readBytes_written (hn.sublist ((List.take_sublist _ _).trans (List.drop_sublist _ _))) (fieldAt_length h).symm s

/-- A field apart from the one written reads as before. -/
theorem readBytes_fieldWrites_apart {all : List Loc} (hn : all.Nodup) {b c n : Nat} {bs : List Byte} (h : c + n ≤ b ∨ b + bs.length ≤ c) (s : State) :
    readBytes ((fieldWrites all b bs).foldl wr1 s) (fieldAt all c n) = readBytes s (fieldAt all c n) := by
  refine readBytes_foldl_other (fun w hw hl => ?_) s
  have hw := mem_wrBytes hw
  obtain h | h := h
  · exact fieldAt_disjoint hn h _ hl hw
  · exact fieldAt_disjoint hn h _ hw hl

/-- Bytes read within a field. -/
theorem readBytes_within {s : State} {all : List Loc} {b : Nat} {bs : List Byte} (h : readBytes s (fieldAt all b bs.length) = bs) {j k : Nat}
    (hjk : j + k ≤ bs.length) : readBytes s (fieldAt all (b + j) k) = (bs.drop j).take k := by
  rw [← fieldAt_fieldAt all hjk, fieldAt, readBytes, List.map_take, List.map_drop]
  exact congrArg (fun l => (l.drop j).take k) h

/-- Entry `t` of entries laid end to end. -/
theorem drop_take_flatMap {α β : Type} {f : α → List β} {k : Nat} (hf : ∀ x, (f x).length = k) {l : List α} {t : Nat} (ht : t < l.length) :
    ((l.flatMap f).drop (k * t)).take k = f l[t] := by
  induction l generalizing t with
  | nil => cases ht
  | cons x l ih =>
    rw [List.flatMap_cons]
    cases t with
    | zero => rw [Nat.mul_zero, List.drop_zero, List.take_append_of_le_length (hf x).ge, ← hf x, List.take_length]; rfl
    | succ t =>
      have hdrop : k * (t + 1) = (f x).length + k * t := by rw [hf, Nat.mul_succ, Nat.add_comm]
      rw [hdrop, ← List.drop_drop, List.drop_left, ih (Nat.lt_of_succ_lt_succ ht)]
      rfl

/-! ### The stores of a match -/

/-- The stores between the two of VALID: the counts, DEST and SIZE (R237). -/
def innerStores (all : List Loc) (n r : Nat) (dest : List Nat) (size : List R32) : List Wr :=
  fieldWrites all 4 (leBytes 4 (n + 256 * r)) ++ (fieldWrites all 8 (dest.flatMap (leBytes 1)) ++
    fieldWrites all 72 (size.flatMap fun x => leBytes 4 x.1.toNat))

/-- A match is stored between VALID = 0 and VALID = 1 (R237, R238). -/
theorem matchStores_eq (all : List Loc) (n r : Nat) (dest : List Nat) (size : List R32) : matchStores all (matchBytes n r dest size) =
    fieldWrites all 0 (leBytes 4 0) ++ (innerStores all n r dest size ++ fieldWrites all 0 (leBytes 4 1)) := by
  simp [matchStores, matchBytes, innerStores, fieldWrites, fieldAt]

theorem fieldWrites_loc {all : List Loc} {b : Nat} {bs : List Byte} {w : Wr} (h : w ∈ fieldWrites all b bs) : w.loc ∈ fieldAt all b bs.length :=
  mem_wrBytes h

/-- The inner stores write behind VALID. -/
theorem innerStores_loc {all : List Loc} {n r : Nat} {dest : List Nat} {size : List R32} {w : Wr} (h : w ∈ innerStores all n r dest size) :
    w.loc ∈ fieldAt all 4 (all.length - 4) := by
  have within {b : Nat} (hb : 4 ≤ b) {bs : List Byte} (hw : w ∈ fieldWrites all b bs) : w.loc ∈ fieldAt all 4 (all.length - 4) := by
    have hw := fieldWrites_loc hw
    rw [fieldAt, List.take_of_length_le (by rw [List.length_drop])]
    have hdrop : all.drop b = (all.drop 4).drop (b - 4) := by rw [List.drop_drop, Nat.add_sub_cancel' hb]
    exact List.mem_of_mem_drop (hdrop ▸ List.mem_of_mem_take hw)
  obtain h | h := List.mem_append.mp h
  · exact within (by decide) h
  · obtain h | h := List.mem_append.mp h
    · exact within (by decide) h
    · exact within (by decide) h

theorem matchStores_loc {all : List Loc} {n r : Nat} {dest : List Nat} {size : List R32} {w : Wr}
    (h : w ∈ matchStores all (matchBytes n r dest size)) : w.loc ∈ all := by
  obtain ⟨⟨o, bs⟩, -, hw⟩ := List.mem_flatMap.mp h
  exact mem_of_mem_fieldAt (b := if o < 32 then o - 16 else o - 24) (mem_wrBytes hw)

/-- A match that is abandoned has stored VALID = 0, and some of the inner stores (R238). -/
theorem mixedStores_eq (tick : Nat) {first inner last : List Wr} (hf : first.length = 4) (hl : last.length = 4) :
    ∃ ws, mixedStores tick (first ++ (inner ++ last)) = first ++ ws ∧ ∀ w ∈ ws, w ∈ inner := by
  have hlen : (first ++ (inner ++ last)).length - 8 = inner.length := by
    rw [List.length_append, List.length_append]
    omega
  refine ⟨((inner.zipIdx).filter fun (_, j) => Config.freeBit tick (100 + j)).map (·.1), ?_, fun w hw => ?_⟩
  · rw [mixedStores, hlen, List.take_left' hf, List.drop_left' hf, List.take_left]
  · obtain ⟨y, hy, rfl⟩ := List.mem_map.mp hw
    exact List.fst_mem_of_mem_zipIdx (List.mem_of_mem_filter hy)

section
variable {all : List Loc} (hn : all.Nodup) (hlen : all.length = 328) {n r : Nat} {dest : List Nat} {size : List R32}
include hn hlen

/-- An abandoned match leaves VALID = 0. -/
theorem valueAt_mixedStores (tick : Nat) (s : State) :
    valueAt (writeAll (mixedStores tick (matchStores all (matchBytes n r dest size))) s) (fieldAt all 0 4) = 0 := by
  have hvalid (b : Nat) : (fieldWrites all 0 (leBytes 4 b)).length = 4 := by
    rw [fieldWrites, wrBytes, List.length_map, List.length_zip, fieldAt_length (by rw [length_leBytes]; omega), Nat.min_self, length_leBytes]
  obtain ⟨ws, hws, hinner⟩ := mixedStores_eq tick (inner := innerStores all n r dest size) (hvalid 0) (hvalid 1)
  have hfirst : readBytes ((fieldWrites all 0 (leBytes 4 0)).foldl wr1 s) (fieldAt all 0 4) = leBytes 4 0 :=
    readBytes_fieldWrites hn (bs := leBytes 4 0) (by rw [length_leBytes]; omega) s
  rw [valueAt, ← readBytes, matchStores_eq, hws, readBytes_writeAll_foldl, List.foldl_append, readBytes_foldl_other fun w hw hl =>
    fieldAt_disjoint hn (by decide) _ hl (innerStores_loc (hinner w hw)), hfirst]
  rfl

/-- A match that is stored whole, field by field (R236, R237). -/
theorem valueAt_matchStores (hd : dest.length = 64) (hs : size.length = 64) (s : State) :
    let y := writeAll (matchStores all (matchBytes n r dest size)) s
    valueAt y (fieldAt all 0 4) = 1 ∧ valueAt y (fieldAt all 4 4) = (n + 256 * r) % 2 ^ 32 ∧
    (∀ t (ht : t < 64), valueAt y (fieldAt all (8 + t) 1) = dest[t] % 256) ∧
    ∀ o (ho : o < 64), valueAt y (fieldAt all (72 + 4 * o) 4) = size[o].1.toNat := by
  intro y
  have hdest : (dest.flatMap (leBytes 1)).length = 64 := by simp [hd]
  have hsize : (size.flatMap fun x => leBytes 4 x.1.toNat).length = 256 := by simp [hs]
  have hfold (ls : List Loc) : readBytes y ls = readBytes ((fieldWrites all 0 (leBytes 4 1)).foldl wr1
      ((fieldWrites all 72 (size.flatMap fun x => leBytes 4 x.1.toNat)).foldl wr1 ((fieldWrites all 8 (dest.flatMap (leBytes 1))).foldl wr1
      ((fieldWrites all 4 (leBytes 4 (n + 256 * r))).foldl wr1 ((fieldWrites all 0 (leBytes 4 0)).foldl wr1 s))))) ls := by
    rw [readBytes_writeAll_foldl, matchStores_eq, innerStores]
    simp only [List.foldl_append]
  have hvalid : readBytes y (fieldAt all 0 4) = leBytes 4 1 := by
    rw [hfold]
    exact readBytes_fieldWrites hn (bs := leBytes 4 1) (by simp [hlen]) _
  have hcount : readBytes y (fieldAt all 4 (leBytes 4 (n + 256 * r)).length) = leBytes 4 (n + 256 * r) := by
    rw [hfold, readBytes_fieldWrites_apart hn (by simp), readBytes_fieldWrites_apart hn (by simp), readBytes_fieldWrites_apart hn (by simp),
      readBytes_fieldWrites hn (by simp [hlen])]
  have hdests : readBytes y (fieldAt all 8 (dest.flatMap (leBytes 1)).length) = dest.flatMap (leBytes 1) := by
    rw [hfold, readBytes_fieldWrites_apart hn (by simp), readBytes_fieldWrites_apart hn (by simp [hdest]),
      readBytes_fieldWrites hn (by simp [hlen, hdest])]
  have hsizes : readBytes y (fieldAt all 72 (size.flatMap fun x => leBytes 4 x.1.toNat).length) = size.flatMap fun x => leBytes 4 x.1.toNat := by
    rw [hfold, readBytes_fieldWrites_apart hn (by simp), readBytes_fieldWrites hn (by simp [hlen, hsize])]
  refine ⟨?_, ?_, fun t ht => ?_, fun o ho => ?_⟩
  · rw [valueAt, ← readBytes, hvalid]
    rfl
  · rw [length_leBytes] at hcount
    rw [valueAt, ← readBytes, hcount, ofBytes_leBytes]
    rfl
  · have hbyte := drop_take_flatMap (f := leBytes 1) (length_leBytes 1) (l := dest) (t := t) (by omega)
    rw [Nat.one_mul] at hbyte
    rw [valueAt, ← readBytes, readBytes_within hdests (by omega), hbyte, ofBytes_leBytes]
    rfl
  · have hword := drop_take_flatMap (f := fun x : R32 => leBytes 4 x.1.toNat) (fun _ => length_leBytes 4 _) (l := size) (t := o) (by omega)
    rw [valueAt, ← readBytes, readBytes_within hsizes (by omega), hword, ofBytes_leBytes]
    exact Nat.mod_eq_of_lt size[o].1.isLt

end

end Sys2Proof.Machine
end

section
/-! SUPPORT. TMATCH, TMERGE and TUNMRG: what a match computes, and how the three complete (08 R236-R239). -/

namespace Sys2Proof.Machine

open Sys2Proof.Safety

/-! ### The match -/

/-- The best partner of a row is one of the columns, where there are any. -/
theorem bestCol_lt (x : Tile) (i : Nat) {c : Nat} (hc : 0 < c) : bestCol x i c < c := by
  refine List.foldlRecOn _ _ (motive := fun b => b < c) hc fun b hb j hj => ?_
  split
  · exact List.mem_range.mp hj
  · exact hb

theorem length_matchOut_dest (x : Tile) (rn cn r : Nat) (w : Nat → F32) : (matchOut x rn cn r w).1.length = 64 := by simp [matchOut]

theorem length_matchOut_size (x : Tile) (rn cn r : Nat) (w : Nat → F32) : (matchOut x rn cn r w).2.length = 64 := by simp [matchOut]

/-- The best partner that is read for a row, in or out of the list, is one of the columns. -/
theorem getD_bestCol_le (x : Tile) (rn : Nat) {cn : Nat} (hc : 0 < cn) (i : Nat) :
    (((List.range rn).map fun i => bestCol x i cn).toArray).getD i 0 < cn := by
  rw [Array.getD_eq_getD_getElem?, List.getElem?_toArray, List.getElem?_map]
  cases h : (List.range rn)[i]? with
  | none => exact hc
  | some k => exact bestCol_lt x k hc

/-- An entry of DEST is a byte. -/
theorem matchOut_dest_lt (x : Tile) {rn cn : Nat} (hc : 0 < cn) (hcn : cn ≤ 32) (r : Nat) (w : Nat → F32) {t : Nat}
    (ht : t < (matchOut x rn cn r w).1.length) : (matchOut x rn cn r w).1[t] < 256 := by
  have hcount (p : Nat → Bool) (n : Nat) : (List.range n).countP p ≤ n := List.countP_le_length.trans List.length_range.le
  rw [length_matchOut_dest] at ht
  simp only [matchOut, List.getElem_map, List.getElem_range]
  have hbest := getD_bestCol_le x rn hc (t / 2)
  split
  · split
    · refine Nat.lt_of_le_of_lt (Nat.add_le_add_left (hcount _ _) 128) ?_
      omega
    · refine Nat.lt_of_le_of_lt (hcount _ _) ?_
      omega
  · decide

/-! ### Stores make no damage -/

/-- From `s` to `u` no element of a matrix store becomes damaged. -/
def NoNewDamage (s u : State) : Prop := ∀ k, (coreOf u k).bad ⊆ (coreOf s k).bad

theorem noNewDamage_modCore {cid : Nat} {f : Core → Core} (hf : ∀ c, (f c).bad ⊆ c.bad) (s : State) : NoNewDamage s (modCore cid f s) := fun k => by
  rw [coreOf_modCore]
  split
  · next h => exact h ▸ hf _
  · exact List.Subset.refl _

theorem noNewDamage_foldl {α : Type} {f : State → α → State} (h : ∀ s x, NoNewDamage s (f s x)) (l : List α) (s : State) :
    NoNewDamage s (l.foldl f s) := by
  induction l generalizing s with
  | nil => exact fun _ => List.Subset.refl _
  | cons x l ih => exact fun k => List.Subset.trans (ih (f s x) k) (h s x k)

theorem noNewDamage_wr1 (s : State) (w : Wr) : NoNewDamage s (wr1 s w) := by
  unfold wr1 putByte
  split
  · exact fun _ => List.Subset.refl _
  · refine noNewDamage_modCore ?_ s
    exact fun c => List.Subset.refl c.bad

/-- A sector that is written whole becomes sound (R212). -/
theorem noNewDamage_clearSector (s : State) (q : Loc) : NoNewDamage s (clearSector q s) := by
  cases q with
  | phys k => exact fun _ => List.Subset.refl _
  | store cid k => exact noNewDamage_modCore (fun _ => List.filter_sublist.subset) s

theorem noNewDamage_writeAll (ws : List Wr) (s : State) : NoNewDamage s (writeAll ws s) := fun k =>
  List.Subset.trans (noNewDamage_foldl noNewDamage_clearSector _ _ k) (noNewDamage_foldl noNewDamage_wr1 ws s k)

/-- What is undamaged stays so through stores. -/
theorem mBad_writeAll {s : State} {r : Nat} {es : Nat → Bool} (h : mBad s r es = none) (ws : List Wr) : mBad (writeAll ws s) r es = none := by
  unfold mBad at *
  rw [writeAll_cur]
  split
  · next k _ _ hr =>
    simp only [hr] at h
    rw [List.find?_eq_none] at h ⊢
    intro e he
    obtain ⟨b, hb, rfl⟩ := List.mem_map.mp he
    obtain ⟨hbad, hslot⟩ := List.mem_filter.mp hb
    exact h _ (List.mem_map_of_mem (List.mem_filter.mpr ⟨noNewDamage_writeAll ws s _ hbad, hslot⟩))
  · rfl

theorem mBad_invalidate {s : State} {r : Nat} {es : Nat → Bool} (h : mBad s r es = none) (x : Word) (a : Nat) :
    mBad (invalidate x a s) r es = none := by
  unfold invalidate
  split
  · exact mBad_writeAll h _
  · exact h

/-! ### Completion -/

/-- An instruction completes with a healed reference and flags (R236, R239). -/
theorem finish_healed {s : State} (hs : Calm s) (g : Flags) (h : HReg) (x : Word) :
    finish 0 (fun t => orFlags g (setH h x t)) s = retired (fun t => flagged g { t with h := t.h.set h x }) s :=
  finish_calm 0 _ s hs.1 (noEdge_of _ _ hs.2 rfl rfl rfl rfl)

/-! ### TMATCH -/

theorem valueAt_retired (f : Thread → Thread) (s : State) (ls : List Loc) : valueAt (retired f s) ls = valueAt s ls :=
  congrArg ofBytes (List.map_congr_left fun l _ => byteAt_retired f s l)

theorem byteAt_stopped (f : Thread → Thread) (s : State) (l : Loc) : byteAt (stopped f s) l = byteAt s l := by cases l <;> rfl

theorem valueAt_stopped (f : Thread → Thread) (s : State) (ls : List Loc) : valueAt (stopped f s) ls = valueAt s ls :=
  congrArg ofBytes (List.map_congr_left fun l _ => byteAt_stopped f s l)

theorem stopBy_request_id (s : State) : stopBy .request s = stopped id s := stopBy_request id s

/-- What a TMATCH of shape `rn` by `cn` needs to reach its stores (R236-R238): `ref'` is its healed reference, `ls` the map's places. -/
structure MatchReady (s u : State) (m : MReg) (a : SReg) (h : HReg) (ref' : Word) (addr : Nat) (c0 : Bool) (par : Option MMap)
    (ls : List (List Loc)) : Prop where
  calm : Calm s
  shape : LegalShape s.cur
  rows : rowsOf s.cur ≤ 32
  cols : colsOf s.cur = rowsOf s.cur ∨ colsOf s.cur + 1 = rowsOf s.cur
  merged : (reg s a).toNat ≤ rowsOf s.cur
  parent : matchParent s (hreg s.cur h) = .ok par
  tokens : parentOk par (rowsOf s.cur + colsOf s.cur) = true
  resolved : resolveT s (hreg s.cur h) .store = .ok ref' addr c0
  mapped : Mapped s [(m, .read)] u
  sound : mBad u m (fun e => decide (e / 64 < rowsOf s.cur) && decide (e % 64 < colsOf s.cur)) = none
  places : matchPlaces u (hreg s.cur h) addr = .ok ls
  apart : ls.flatten.Nodup

/-- The match that a TMATCH stores (R237). -/
def matchOf (s u : State) (m : MReg) (a : SReg) (par : Option MMap) : List Nat × List R32 :=
  matchOut (mval u m) (rowsOf s.cur) (colsOf s.cur) (reg s a).toNat (sizeIn par)

/-- The stores of a TMATCH (R238). -/
def matchWrites (s u : State) (m : MReg) (a : SReg) (par : Option MMap) (ls : List (List Loc)) : List Wr :=
  matchStores ls.flatten (matchBytes (rowsOf s.cur + colsOf s.cur) (reg s a).toNat (matchOf s u m a par).1 (matchOf s u m a par).2)

/-- The flags that a match leaves. -/
def sizeFlags (size : List R32) : Flags := size.foldl (fun g (_, f) => g ||| f) 0

section
variable {s u : State} {m : MReg} {a : SReg} {h : HReg} {ref' : Word} {addr : Nat} {c0 : Bool} {par : Option MMap} {ls : List (List Loc)}

theorem badMatch_false {rn cn r : Nat} (hr : rn ≤ 32) (hc : cn = rn ∨ cn + 1 = rn) (h0 : 1 ≤ cn) (hm : r ≤ rn) : badMatch rn cn r = false := by
  simp [badMatch]
  omega

variable (hq : MatchReady s u m a h ref' addr c0 par ls)
include hq

/-- TMATCH reaches its stores; a stop request then abandons them, and without one it completes (R238). -/
theorem exec_tmatch_ready : exec (.tmatch m a h) s = .next (
    if requested s.cur then stopBy .request (writeAll (mixedStores u.tick (matchWrites s u m a par ls)) u)
    else finish 0 (fun t => orFlags (sizeFlags (matchOf s u m a par).2) (setH h ref' t)) (writeAll (matchWrites s u m a par ls) u)) := by
  obtain ⟨hs, ⟨-, -, hcols, -⟩, hrows, hc, hr, hpar, htok, href, hmap, hsound, hls, -⟩ := hq
  obtain ⟨l, hl⟩ := matchPlaces_valid hls
  simp only [exec_tmatch, execTmatch, guardS_quiet _ hs.1, rs_quiet _ hs.1, sreg_eq_reg, badMatch_false hrows hc hcols hr, hpar, orTrap_ok, htok,
    withRef, href, mapStep_mapped hmap, hl, guardMat, mBad_invalidate hsound, hls, Bool.not_true, Bool.false_eq_true, if_false]
  rfl

/-- The state that a TMATCH leaves where nothing asks its thread to stop. -/
def matched (s u : State) (m : MReg) (a : SReg) (h : HReg) (ref' : Word) (par : Option MMap) (ls : List (List Loc)) : State :=
  retired (fun t => flagged (sizeFlags (matchOf s u m a par).2) { t with h := t.h.set h ref' }) (writeAll (matchWrites s u m a par ls) u)

theorem exec_tmatch_completes (hel : s.cur.elim = none) : exec (.tmatch m a h) s = .next (matched s u m a h ref' par ls) := by
  have hrequested : requested s.cur = false := by rw [requested, hel]
  have hcalm : Calm (writeAll (matchWrites s u m a par ls) u) := by
    rw [Calm, writeAll_cur]
    exact calm_mapped hq.calm hq.mapped
  rw [exec_tmatch_ready hq, hrequested, if_neg Bool.false_ne_true, finish_healed hcalm, matched]

theorem exec_tmatch_abandons {e : Nat} (hel : s.cur.elim = some (e, .request)) :
    exec (.tmatch m a h) s = .next (stopped id (writeAll (mixedStores u.tick (matchWrites s u m a par ls)) u)) := by
  have hrequested : requested s.cur = true := by rw [requested, hel]
  rw [exec_tmatch_ready hq, hrequested, if_pos rfl, stopBy_request_id]

/-- The whole map of the match stands in memory (R236, R237). -/
theorem matched_values :
    let y := matched s u m a h ref' par ls
    valueAt y (fieldAt ls.flatten 0 4) = 1 ∧ valueAt y (fieldAt ls.flatten 4 4) = rowsOf s.cur + colsOf s.cur + 256 * (reg s a).toNat ∧
    (∀ t, t < 64 → valueAt y (fieldAt ls.flatten (8 + t) 1) = (matchOf s u m a par).1.getD t 0) ∧
    ∀ o, o < 64 → valueAt y (fieldAt ls.flatten (72 + 4 * o) 4) = ((matchOf s u m a par).2.getD o (0, 0)).1.toNat := by
  obtain ⟨-, ⟨-, -, hcols, -⟩, hrows, hc, hr, -, -, -, -, -, hls, hapart⟩ := hq
  have hdest : (matchOf s u m a par).1.length = 64 := length_matchOut_dest ..
  have hsize : (matchOf s u m a par).2.length = 64 := length_matchOut_size ..
  have hretired (l : List Loc) : valueAt (matched s u m a h ref' par ls) l = valueAt (writeAll (matchWrites s u m a par ls) u) l := by
    rw [matched, valueAt_retired]
  obtain ⟨hvalid, hcount, hd, hz⟩ := valueAt_matchStores hapart (matchPlaces_length hls) hdest hsize (n := rowsOf s.cur + colsOf s.cur)
    (r := (reg s a).toNat) u
  refine ⟨(hretired _).trans hvalid, ?_, fun t ht => ?_, fun o ho => ?_⟩
  · rw [Nat.mod_eq_of_lt (by omega)] at hcount
    exact (hretired _).trans hcount
  · have hbyte : (matchOf s u m a par).1[t] < 256 := matchOut_dest_lt _ hcols (by omega) _ _ _
    rw [hretired, List.getD_eq_getElem _ _ (by omega)]
    exact (hd t ht).trans (Nat.mod_eq_of_lt hbyte)
  · rw [hretired, List.getD_eq_getElem _ _ (by omega)]
    exact hz o ho

end

/-- A TMATCH that is abandoned stores to no other place (R238). -/
theorem mixedStores_subset (tick : Nat) (l : List Wr) : mixedStores tick l ⊆ l := by
  intro w hw
  obtain hw | hw := List.mem_append.mp hw
  · exact List.mem_of_mem_take hw
  · obtain ⟨y, hy, rfl⟩ := List.mem_map.mp hw
    exact List.mem_of_mem_drop (List.mem_of_mem_take (List.fst_mem_of_mem_zipIdx (List.mem_of_mem_filter hy)))

/-- A field behind +32 of a map, among the bytes that TMATCH stores. -/
theorem mapField {all : List Loc} {o b : Nat} (ho : o = b + 24) (hb : 8 ≤ b) (k : Nat) :
    (all.drop (if o < 32 then o - 16 else o - 24)).take k = fieldAt all b k := by
  rw [if_neg (by omega), ho, Nat.add_sub_cancel, fieldAt]

/-- No byte outside the map's fields changes (R236). -/
theorem byteAt_matchWrites {s u : State} {m : MReg} {a : SReg} {par : Option MMap} {ls : List (List Loc)} {ws : List Wr}
    (hw : ws ⊆ matchWrites s u m a par ls) {k : Loc} (hk : k ∉ ls.flatten) : byteAt (writeAll ws u) k = byteAt u k :=
  byteAt_writeAll_other _ k u fun _ hmem e => hk (e ▸ matchStores_loc (hw hmem))

section
variable {s u : State} {m : MReg} {a : SReg} {h : HReg} {ref' : Word} {addr : Nat} {c0 : Bool} {par : Option MMap} {ls : List (List Loc)}
  (hq : MatchReady s u m a h ref' addr c0 par ls)
include hq

/-- An abandoned TMATCH leaves its thread at it, VALID = 0 and the bytes outside the map's fields (R238). -/
theorem abandoned_values :
    let y := stopped id (writeAll (mixedStores u.tick (matchWrites s u m a par ls)) u)
    y.cur = (stopped id u).cur ∧ y.cur.pc = s.cur.pc ∧ valueAt y (fieldAt ls.flatten 0 4) = 0 ∧
      ∀ k, k ∉ ls.flatten → byteAt y k = byteAt u k := by
  obtain ⟨map, hu⟩ := mapped_cur hq.mapped
  have hcur : (stopped id (writeAll (mixedStores u.tick (matchWrites s u m a par ls)) u)).cur = (stopped id u).cur := by
    rw [stopped, stopped, writeAll_cur]
  refine ⟨hcur, ?_, ?_, fun k hk => ?_⟩
  · rw [hcur, stopped, hu]
    rfl
  · rw [valueAt_stopped]
    exact valueAt_mixedStores hq.apart (matchPlaces_length hq.places) u.tick u
  · rw [byteAt_stopped]
    exact byteAt_matchWrites (mixedStores_subset _ _) hk

end

/-! ### TMERGE and TUNMRG -/

/-- A list of elements, row by row. -/
def gridList (on cols : Nat) (f : Nat → Nat → R32) : List (Nat × R32) :=
  (List.range on).flatMap fun i => (List.range cols).map fun j => (64 * i + j, f i j)

theorem mem_gridList {on cols : Nat} {f : Nat → Nat → R32} {p : Nat × R32} :
    p ∈ gridList on cols f ↔ ∃ i j, i < on ∧ j < cols ∧ p = (64 * i + j, f i j) := by
  simp only [gridList, List.mem_flatMap, List.mem_map, List.mem_range]
  exact ⟨fun ⟨i, hi, j, hj, hp⟩ => ⟨i, j, hi, hj, hp.symm⟩, fun ⟨i, j, hi, hj, hp⟩ => ⟨i, hi, j, hj, hp.symm⟩⟩

/-- The values of such a list in a zero tile. -/
theorem getD_gridList {on cols : Nat} (hc : cols ≤ 64) (f : Nat → Nat → R32) {i j : Nat} (hi : i < 64) (hj : j < 64) :
    (setAll (gridList on cols f) (Array.replicate 4096 0)).getD (64 * i + j) 0 = if i < on ∧ j < cols then (f i j).1 else 0 := by
  have hplace {k c : Nat} (hc' : c < cols) (he : 64 * k + c = 64 * i + j) : k = i ∧ c = j := by omega
  have hsize : 64 * i + j < (Array.replicate 4096 (0 : F32)).size := by rw [Array.size_replicate]; omega
  refine getD_setAll (fun p hp he => ?_) hsize ?_
  · obtain ⟨k, c, hk, hc', rfl⟩ := mem_gridList.mp hp
    obtain ⟨rfl, rfl⟩ := hplace hc' he
    exact (if_pos ⟨hk, hc'⟩).symm
  · by_cases hin : i < on ∧ j < cols
    · exact .inl ⟨_, mem_gridList.mpr ⟨i, j, hin.1, hin.2, rfl⟩, rfl⟩
    · refine .inr ?_
      rw [if_neg hin, Array.getD_eq_getD_getElem?, Array.getElem?_replicate]
      split <;> rfl

/-- A register written as a whole from a list of elements. -/
def gridWritten (m : MReg) (out : List (Nat × R32)) (u : State) : State :=
  mwrite m (fun _ => true) (fun e => (setAll out (Array.replicate 4096 0)).getD e 0) u

theorem mergeWrite_eq (m n : MReg) (l : Bool) (h : HReg) (ref : Word) (out : List (Nat × R32)) (u : State) :
    mergeWrite m n l h ref out u = finish 0 (fun t => orFlags (outFlags out) (setH h ref t)) (lastUse l n (gridWritten m out u)) := rfl

section
variable {s u : State} {m n : MReg} (hmap : Mapped s [(n, .read), (m, .full)] u)
include hmap

/-- A merge or its inverse completes with its whole result in the register it names, the rest of it +0 (R239). -/
theorem mergeWrite_completes (hs : Calm s) {on cols : Nat} (hc : cols ≤ 64) (l : Bool) (h : HReg) (ref : Word) (f : Nat → Nat → R32) :
    ∃ y fl, mergeWrite m n l h ref (gridList on cols f) u = retired (fun t => flagged fl { t with h := t.h.set h ref }) (lastUse l n y) ∧
      y = { u with cores := y.cores } ∧ ∀ i j, i < 64 → j < 64 → mat y m i j = if i < on ∧ j < cols then (f i j).1 else 0 := by
  obtain ⟨x, hm⟩ := mapped_resident_second (by decide) hmap
  have hcalm : Calm (gridWritten m (gridList on cols f) u) := by
    rw [Calm, gridWritten, mwrite_cur]
    exact calm_mapped hs hmap
  refine ⟨gridWritten m (gridList on cols f) u, outFlags (gridList on cols f), ?_, ?_, fun i j hi hj => ?_⟩
  · rw [mergeWrite_eq, finish_healed (calm_lastUse hcalm l n)]
  · rw [gridWritten, mwrite_slot hm]
    rfl
  · rw [gridWritten, mat_mwrite hm _ _ (by omega), if_pos rfl, getD_gridList hc f hi hj]

variable {ref : Word} {a0 : Nat} {mp : MMap} {h : HReg} (href : readMap s (hreg s.cur h) = .ok (ref, a0, mp))
include href

theorem exec_tmerge_ready {par : Option MMap} (husable : usable mp = true) (hpar : readParent s mp = .ok par) (htok : parentOk par mp.nin = true)
    (hsound : mBad u n (fun e => decide (e / 64 < mp.nin) && decide (e % 64 < colsOf s.cur)) = none) (l : Bool) :
    exec (.tmerge m n l h) s =
      .next (mergeWrite m n l h ref (gridList (mp.nin - mp.nr) (colsOf s.cur) (mergedElt (mval u n) mp (sizeIn par))) u) := by
  simp only [exec_tmerge, execTmerge, href, orTrap_ok, husable, hpar, htok, mapStep_mapped hmap, guardMat_good hsound, Bool.not_true,
    Bool.false_eq_true, if_false]
  rfl

theorem exec_tunmrg_ready {ms : List MMap} (hchain : chainOf s 64 mp = .ok (some ms))
    (hsound : mBad u n (fun e => decide (e / 64 < mp.nin - mp.nr) && decide (e % 64 < colsOf s.cur)) = none) (l : Bool) :
    exec (.tunmrg m n l h) s = .next (mergeWrite m n l h ref (gridList ((ms.head?.map (·.nin)).getD 0) (colsOf s.cur)
      fun i j => (mat u n (ms.foldl (fun e mp => destRow mp e) i) j, 0)) u) := by
  simp only [exec_tunmrg, execTunmrg, href, orTrap_ok, hchain, mapStep_mapped hmap, guardMat_good hsound]
  rfl

end

/-- Settles O36: VTOPK by insertion in rank order; TMATCH by its stores, field by field; TMERGE and TUNMRG by the elements that they list. -/
theorem topKAndMerging : Obligations.TopKAndMerging := by
  unfold Obligations.TopKAndMerging
  refine ⟨fun s d a b k hv h0 hvl hk => ?_, ?_⟩
  · obtain ⟨u, hu, hwrote⟩ := vtopk_ready hv h0 hvl hk d a b
    refine ⟨u, topOrder s a b k, hu, rfl, hwrote, fun hint => ⟨topOrder_length s a b k, fun r i hr hi hlater hne => ?_⟩⟩
    exact topOrder_ranks hint a b hr hi hlater hne
  intro s u m n a l h ref ref' addr a0 c0 mp par ms ls hs hshape
  have ⟨_, _, _, hcols⟩ := hshape
  refine ⟨fun hrows hc hr hpar htok href hmap hsound hls hapart => ?_, fun href => ⟨fun husable hpar htok hmap hsound => ?_,
    fun hchain hmap hsound => ?_⟩⟩
  · have hq : MatchReady s u m a h ref' addr c0 par ls := ⟨hs, hshape, hrows, hc, hr, hpar, htok, href, hmap, hsound, hls, hapart⟩
    refine ⟨fun hel => ?_, fun e hel => ?_⟩
    · obtain ⟨hvalid, hcount, hdest, hsize⟩ := matched_values hq
      refine ⟨matched s u m a h ref' par ls, sizeFlags (matchOf s u m a par).2, exec_tmatch_completes hq hel,
        onlyBytes_retired (onlyMemory_writeAll ..) _, hvalid, hcount, fun t ht => ?_, fun o ho => ?_, fun k hk => ?_⟩
      · exact (congrArg (valueAt _) (mapField (by omega) (by omega) 1)).trans (hdest t ht)
      · exact (congrArg (valueAt _) (mapField (by omega) (by omega) 4)).trans (hsize o ho)
      · exact (byteAt_retired ..).trans (byteAt_matchWrites (List.Subset.refl _) hk)
    · obtain ⟨hcur, hpc, hvalid, hframe⟩ := abandoned_values hq
      exact ⟨_, exec_tmatch_abandons hq hel, hcur, hpc, hvalid, hframe⟩
  · obtain ⟨y, fl, hy, hcores, hmat⟩ := mergeWrite_completes hmap hs hcols l h ref (mergedElt (mval u n) mp (sizeIn par))
    exact ⟨y, fl, by rw [exec_tmerge_ready hmap href husable hpar htok hsound, hy], hcores, hmat⟩
  · obtain ⟨y, fl, hy, hcores, hmat⟩ := mergeWrite_completes hmap hs hcols l h ref
      fun i j => (mat u n (ms.foldl (fun e mp => destRow mp e) i) j, 0)
    exact ⟨y, fl, by rw [exec_tunmrg_ready hmap href hchain hsound, hy], hcores, hmat⟩

end Sys2Proof.Machine
end

section
/-! SUPPORT. The barrier: the search of a page's forwarding entries, and what it answers in each state of region, page and entry (09 R243,
R244, R247, R251). -/

namespace Sys2Proof.Machine

open Sys2Proof.Safety

/-! ### The search of the sorted array (R251) -/

theorem badPhys_mono {s : State} {pa n m : Nat} (hnm : n ≤ m) (h : badPhys s pa m = false) : badPhys s pa n = false := by
  simp only [badPhys, physLocs, List.any_map, List.any_eq_false, List.mem_range] at h ⊢
  exact fun i hi => h i (by omega)

/-- OLD of entry `i` of the forwarding array at `base` (R250). -/
def oldAt (s : State) (base i : Nat) : Nat := fld (rdWord s (base + 16 * i)) 0 12

/-- What the search answers where its last comparison is at `pa`. -/
def answerFwd (s : State) (o : Nat) : Option Nat → Except Unit (Option Nat)
  | none => .ok none
  | some pa => if badPhys s pa 8 then .error () else .ok (if fld (rdWord s pa) 0 12 = o then some pa else none)

section
variable {s : State} {base o n lo hi : Nat}

theorem lookupFwd_eq : lookupFwd s base o n lo hi = answerFwd s o (probesFwd s base o n lo hi).getLast? := by
  unfold lookupFwd
  cases (probesFwd s base o n lo hi).getLast? <;> rfl

theorem lookupFwd_empty (h : hi ≤ lo) : lookupFwd s base o n lo hi = .ok none := by
  cases n <;> simp [lookupFwd_eq, probesFwd, h, answerFwd]

/-- An entry of another granule settles nothing: the answer is that of the comparisons after it. -/
theorem answerFwd_getD {pa : Nat} (hclean : badPhys s pa 8 = false) (hne : fld (rdWord s pa) 0 12 ≠ o) (last : Option Nat) :
    answerFwd s o (some (last.getD pa)) = answerFwd s o last := by
  cases last with
  | none => simp [answerFwd, hclean, hne]
  | some q => rfl

/-- One comparison of the search: at the middle entry, then in the half that may hold the granule. -/
theorem lookupFwd_probe (h : lo < hi) (hclean : badPhys s (base + 16 * ((lo + hi) / 2)) 8 = false) :
    lookupFwd s base o (n + 1) lo hi =
      if oldAt s base ((lo + hi) / 2) = o then .ok (some (base + 16 * ((lo + hi) / 2)))
      else if oldAt s base ((lo + hi) / 2) < o then lookupFwd s base o n ((lo + hi) / 2 + 1) hi
      else lookupFwd s base o n lo ((lo + hi) / 2) := by
  simp only [lookupFwd_eq, oldAt]
  rw [probesFwd, if_neg (Nat.not_le.mpr h)]
  simp only [hclean, Bool.false_or, decide_eq_true_eq, List.getLast?_cons]
  split
  next heq => simp [answerFwd, hclean, heq]
  next hne =>
    rw [answerFwd_getD hclean hne]
    split <;> rfl

end

section
variable {s : State} {base o c : Nat} (hsorted : ∀ i j, i < j → j < c → oldAt s base i < oldAt s base j)
  (hclean : ∀ i, i < c → badPhys s (base + 16 * i) 16 = false)
include hsorted hclean

/-- In a sorted array the search finds the entry of its granule. -/
theorem lookupFwd_found {i n lo hi : Nat} (hi0 : oldAt s base i = o) (hlo : lo ≤ i) (hih : i < hi) (hhi : hi ≤ c) (hn : hi - lo < 2 ^ n) :
    lookupFwd s base o n lo hi = .ok (some (base + 16 * i)) := by
  induction n generalizing lo hi with
  | zero => omega
  | succ n ih =>
    rw [lookupFwd_probe (by omega) (badPhys_mono (by decide) (hclean _ (by omega)))]
    obtain hlt | heq | hgt := Nat.lt_trichotomy ((lo + hi) / 2) i
    · have hold := hsorted _ i hlt (by omega)
      rw [if_neg (by omega), if_pos (by omega)]
      exact ih (by omega) hih hhi (by omega)
    · rw [heq, if_pos hi0]
    · have hold := hsorted i _ hgt (by omega)
      rw [if_neg (by omega), if_neg (by omega)]
      exact ih hlo (by omega) (by omega) (by omega)

omit hsorted in
/-- It finds none where no entry has the granule. -/
theorem lookupFwd_none {n lo hi : Nat} (hnone : ∀ i, i < c → oldAt s base i ≠ o) (hhi : hi ≤ c) (hn : hi - lo < 2 ^ n) :
    lookupFwd s base o n lo hi = .ok none := by
  induction n generalizing lo hi with
  | zero => exact lookupFwd_empty (by omega)
  | succ n ih =>
    by_cases hle : hi ≤ lo
    · exact lookupFwd_empty hle
    rw [lookupFwd_probe (by omega) (badPhys_mono (by decide) (hclean _ (by omega))), if_neg (hnone _ (by omega))]
    split
    · exact ih hhi (by omega)
    · exact ih (by omega) (by omega)

end

/-! ### The answers (R247) -/

section
variable {s : State} {x : Word} {u : Use}

theorem resolveT_malformed (h : x = 0 ∨ fld x 57 3 ≠ 0 ∨ fld x 0 4 ≠ 0 ∨ inManaged (refAddr x) = false) : resolveT s x u = .heap := by
  simp only [resolveT, resolve]
  obtain h | h | h | h := h <;> simp [h]

/-- The reference is well formed and its region's entry can be read. -/
def Enters (s : State) (x : Word) : Prop :=
  x ≠ 0 ∧ fld x 57 3 = 0 ∧ fld x 0 4 = 0 ∧ inManaged (refAddr x) = true ∧
    badPhys s (regionPa s.cur.ctl.hreg ((refAddr x - Config.wbase) / 2 ^ 30)) 16 = false

variable (h : Enters s x)
include h

theorem resolveT_noRegion (hr : regionOf s (cidOf s.cur) s.cur.ctl.hreg ((refAddr x - Config.wbase) / 2 ^ 30) = none) :
    resolveT s x u = .heap := by
  obtain ⟨h0, h1, h2, hm, hb⟩ := h
  simp only [resolveT, resolve, h0, h1, h2, hm, hb, hr, decide_false, bne_self_eq_false, Bool.or_self, Bool.not_true, Bool.false_eq_true,
    if_false]

theorem resolveT_region {e : Region} (hr : regionOf s (cidOf s.cur) s.cur.ctl.hreg ((refAddr x - Config.wbase) / 2 ^ 30) = some e) :
    resolveT s x u =
      if e.state = 0 then .heap else if fld x 60 4 = e.good then .ok x (refAddr x) false
      else if fld x 60 4 ∉ e.olds then .heap else resolveSlow s e x (refAddr x) u := by
  obtain ⟨h0, h1, h2, hm, hb⟩ := h
  simp only [resolveT, resolve, h0, h1, h2, hm, hb, hr, decide_false, bne_self_eq_false, Bool.or_self, Bool.not_true, Bool.false_eq_true,
    if_false, Bool.not_eq_true', List.contains_eq_mem, decide_eq_false_iff_not]

end

/-- The directory entry of the statement is the one that the barrier reads (R249). -/
theorem pageDir_eq (e : Region) (a : Nat) : pageDir e a = pageEntry e a := rfl

section
variable {s : State} {e : Region} {x : Word} {a : Nat} {u : Use} (hdir : badPhys s (pageEntry e a) 16 = false)
include hdir

/-- A page of no relocation (R247). -/
theorem resolveSlow_idlePage (h : fld (rdWord s (pageEntry e a)) 62 2 = 0) : resolveSlow s e x a u = .ok (recolour x e.good) a false := by
  simp [resolveSlow, pageDir_eq, hdir, h]

/-- A directory entry of the reserved state. -/
theorem resolveSlow_reservedPage (h : fld (rdWord s (pageEntry e a)) 62 2 = 3) : resolveSlow s e x a u = .heap := by
  simp [resolveSlow, pageDir_eq, hdir, h]

variable (hst : fld (rdWord s (pageEntry e a)) 62 2 = 1 ∨ fld (rdWord s (pageEntry e a)) 62 2 = 2)
include hst

/-- An object without an entry, in a page that a relocation has listed. -/
theorem resolveSlow_unlisted (h : fwdEntry s (pageEntry e a) a = .ok none) :
    resolveSlow s e x a u = if fld (rdWord s (pageEntry e a)) 62 2 = 1 then .ok x a false else .heap := by
  obtain hst | hst := hst <;> simp [resolveSlow, pageDir_eq, hdir, h, hst]

/-- The answer by the state of the object's entry. -/
theorem resolveSlow_listed {pa : Nat} (h : fwdEntry s (pageEntry e a) a = .ok (some pa)) (hpa : badPhys s pa 16 = false) :
    resolveSlow s e x a u =
      if fld (rdWord s pa) 62 2 = 0 then (if fld (rdWord s (pageEntry e a)) 62 2 = 1 then .ok x a false else .heap)
      else if fld (rdWord s pa) 62 2 = 3 then .heap
      else if fld (rdWord s pa) 62 2 = 1 then (if u = .load then .ok x a true else .wait)
      else .ok (recolour (BitVec.ofNat 64 (refAddr (rdWord s (pa + 8)))) e.good) (refAddr (rdWord s (pa + 8))) false := by
  have h0 : fld (rdWord s (pageEntry e a)) 62 2 ≠ 0 := by omega
  have h3 : fld (rdWord s (pageEntry e a)) 62 2 ≠ 3 := by omega
  simp only [resolveSlow, pageDir_eq, hdir, Bool.false_eq_true, if_false, h0, h3, h, hpa]
  split
  next hempty => simp only [hempty, if_true]; rfl
  next hbad => simp [hbad]
  next hcopying => simp [hcopying]
  next hempty hbad hcopying => simp only [if_neg hempty, if_neg hbad, if_neg hcopying]

end

/-- Settles O37: the checks of the reference and its region in their order, then the state of the page and what the search of its entries
finds. -/
theorem barrierFastPath : Obligations.BarrierFastPath := by
  unfold Obligations.BarrierFastPath
  intro s x u e n pa
  refine ⟨resolveT_malformed, fun h0 h1 h2 hm hb => ?_⟩
  have h : Enters s x := ⟨h0, h1, h2, hm, hb⟩
  refine ⟨resolveT_noRegion h, fun hr => ?_⟩
  rw [resolveT_region h hr]
  refine ⟨fun hfree => if_pos hfree, fun hst hgood => ?_, fun hst hgood hold => ?_, fun hst hgood hold hdir => ?_⟩
  · rw [if_neg hst, if_pos hgood]
  · rw [if_neg hst, if_neg hgood, if_pos hold]
  rw [if_neg hst, if_neg hgood, if_neg (not_not.mpr hold)]
  intro a page item old st unmoved
  refine ⟨resolveSlow_idlePage hdir, resolveSlow_reservedPage hdir, fun hpage hsorted hclean => ?_⟩
  have hfits : fld page 0 13 - 0 < 2 ^ 14 := by
    have : fld page 0 13 < 2 ^ 13 := Nat.mod_lt _ (Nat.two_pow_pos 13)
    omega
  refine ⟨fun hnone => resolveSlow_unlisted hdir hpage (lookupFwd_none hclean hnone (le_refl _) hfits), fun i hi hold => ?_⟩
  rw [resolveSlow_listed hdir hpage (lookupFwd_found hsorted hclean hold (Nat.zero_le i) hi (le_refl _) hfits) (hclean i hi)]
  have hitem : fld (rdWord s (fld (rdWord s (pageEntry e (refAddr x) + 8)) 4 48 * 16 + 16 * i)) 62 2 = st i := rfl
  rw [hitem]
  refine ⟨fun hs => ?_, fun hs => ?_, fun hs => ?_, fun hs => ?_⟩
  · rw [if_pos hs]
  · rw [hs]; rfl
  · rw [hs]; rfl
  · rw [hs]; rfl

end Sys2Proof.Machine
end

section
/-! SUPPORT. Heap accesses whose reference is resolved and whose bytes are reached (09 R259-R263). -/

namespace Sys2Proof.Machine

open Sys2Proof.Safety

/-! ### The places of a heap access -/

section
variable {s : State} {x ea : Word} {n : Nat} {k : Acc} {ls : List Loc}

/-- The places of a heap access are those of an aligned access (R259). -/
theorem heapPlaces_aligned (h : heapPlaces s x ea n k = .ok ls) : ∃ c, xlatN s s.cur ea n k = .ok (ls, c) ∧ ea.toNat % n = 0 := by
  unfold heapPlaces placesOf at h
  split at h
  · cases h
  next l c hplaces =>
    split at hplaces
    · cases hplaces
    split at hplaces
    · cases hplaces
    next halign =>
      split at hplaces
      · cases hplaces
      next hx =>
        obtain rfl := Except.ok.inj hplaces
        split at h
        · cases h
        split at h
        · cases h
        exact ⟨c, Except.ok.inj h ▸ hx, by simpa using halign⟩

theorem heapPlaces_nodup (hn : n ∣ 32) (h : heapPlaces s x ea n k = .ok ls) : ls.Nodup := by
  obtain ⟨c, hx, ha⟩ := heapPlaces_aligned h
  obtain ⟨l, rfl⟩ := xlatN_aligned hn ha hx
  exact List.nodup_range.map fun i j e => locAdd_inj e

/-- An access that reads its bytes reaches them as one that does not. -/
theorem heapRead_places (h : heapRead s x ea n k = .ok ls) : heapPlaces s x ea n k = .ok ls := by
  unfold heapRead at h
  split at h
  · cases h
  next hplaces =>
    split at h
    · cases h
    split at h
    · cases h
    exact Except.ok.inj h ▸ hplaces

end

theorem ofBytes_readBytes (s : State) (ls : List Loc) : ofBytes (readBytes s ls) = valueAt s ls := rfl

theorem noEdge_setH (d : HReg) (x : Word) {t : Thread} (h : NoEdge t) : NoEdge (setH d x t) := noEdge_of t _ h rfl rfl rfl rfl

/-- The instruction goes on with what the barrier answers (R247). -/
theorem withRef_ok {i : Instr} {x : Word} {u : Use} {s : State} {r : Word} {a : Nat} {c : Bool} (h : resolveT s x u = .ok r a c)
    (k : Word → Nat → Bool → State) : withRef i x u s k = k r a c := by simp only [withRef, h]

/-! ### What a store leaves -/

section
variable {s : State} {ls : List Loc} {n : Nat} (hlen : ls.length = n) (hnodup : ls.Nodup)
include hlen hnodup

theorem wrote_retired (x : Nat) (f : Thread → Thread) : Wrote s (retired f (writeAll (wrBytes ls (leBytes n x)) s)) ls x f := by
  refine ⟨onlyBytes_retired (onlyMemory_writeAll _ s) f, ?_, fun l hl => ?_⟩
  · rw [valueAt_retired, ← ofBytes_readBytes, readBytes_written hnodup (by rw [length_leBytes, hlen]), ofBytes_leBytes, hlen]
  · rw [byteAt_retired, byteAt_wrBytes_other hl]

/-- Bytes written by an instruction that completes with the effect `f` on its thread. -/
theorem wrote_finish (hs : Calm s) (x : Nat) {f : Thread → Thread} (hf : NoEdge (f s.cur)) :
    Wrote s (finish 0 f (writeAll (wrBytes ls (leBytes n x)) s)) ls x f := by
  rw [finish_calm 0 f _ (by rw [writeAll_cur]; exact hs.1) (by rw [writeAll_cur]; exact hf)]
  exact wrote_retired hlen hnodup x f

end

theorem stBytes_dvd (n : StWidth) : stBytes n ∣ 32 := by cases n <;> decide

/-! ### Loads and stores (R261, R262) -/

section
variable {s : State} (hs : Calm s) {h : HReg} {r : Word} {a : Nat} {c : Bool} {o : BitVec 13} {ls : List Loc}
include hs

section
variable (hx : resolveT s (hreg s.cur h) .load = .ok r a c)
include hx

theorem exec_hld_reached {n : LdWidth} (hls : heapRead s (hreg s.cur h) (heapEa a o) (ldBytes n) .load = .ok ls) (d : SReg) :
    exec (.hld d h o n) s = .next (retired (fun t => put d (ldExt n (valueAt s ls)) (setH h r t)) s) := by
  simp only [exec_hld, execHld, withRef_ok hx, hls, orTrap_ok]
  exact congrArg _ (finish_setS_after 0 d (fun _ => _) (setH h r) s hs.1 hs.1 (noEdge_setH h r hs.2))

variable (hls : heapRead s (hreg s.cur h) (heapEa a o) 8 .load = .ok ls)
include hls

/-- A reference that needs no heal, or is read from the old copy, is left as it stands. -/
theorem exec_ldh_kept (hkept : healed s (BitVec.ofNat 64 (valueAt s ls)) = BitVec.ofNat 64 (valueAt s ls) ∨ c = true) (g : HReg) :
    exec (.ldh g h o) s =
      .next (retired (fun t => setH g (healed s (BitVec.ofNat 64 (valueAt s ls))) (setH h r t)) s) := by
  simp only [exec_ldh, execLdh, withRef_ok hx, hls, orTrap_ok, ofBytes_readBytes, Bool.or_eq_true]
  refine congrArg _ ((if_pos (hkept.imp_left decide_eq_true)).trans ?_)
  exact finish_calm 0 (fun t => setH g _ (setH h r t)) s hs.1 (noEdge_setH _ _ (noEdge_setH _ _ hs.2))

/-- Another is healed where it stands. -/
theorem exec_ldh_healed (hold : healed s (BitVec.ofNat 64 (valueAt s ls)) ≠ BitVec.ofNat 64 (valueAt s ls)) (hc : c = false) {qs : List Loc}
    (hqs : heapPlaces s (hreg s.cur h) (heapEa a o) 8 .store = .ok qs) (g : HReg) :
    ∃ t, exec (.ldh g h o) s = .next t ∧ Wrote s t qs (healed s (BitVec.ofNat 64 (valueAt s ls))).toNat
      (fun t => setH g (healed s (BitVec.ofNat 64 (valueAt s ls))) (setH h r t)) := by
  refine ⟨_, ?_, wrote_finish (heapPlaces_length (by decide) hqs) (heapPlaces_nodup (by decide) hqs) hs _
    (noEdge_setH _ _ (noEdge_setH _ _ hs.2))⟩
  simp only [exec_ldh, execLdh, withRef_ok hx, hls, orTrap_ok, ofBytes_readBytes, Bool.or_eq_true, decide_eq_true_eq, hold, hc,
    Bool.false_eq_true, or_self, if_false, hqs]

end

section
variable (hx : resolveT s (hreg s.cur h) .store = .ok r a c)
include hx

theorem exec_hst_reached {n : StWidth} (hls : heapPlaces s (hreg s.cur h) (heapEa a o) (stBytes n) .store = .ok ls) (d : SReg) :
    ∃ t, exec (.hst d h o n) s = .next t ∧ Wrote s t ls (reg s d).toNat (setH h r) := by
  refine ⟨_, ?_, wrote_finish (heapPlaces_length (stBytes_dvd n) hls) (heapPlaces_nodup (stBytes_dvd n) hls) hs _ (noEdge_setH _ _ hs.2)⟩
  simp only [exec_hst, execHst, guardS_quiet _ hs.1, rs_quiet _ hs.1, sreg_eq_reg, withRef_ok hx, hls, orTrap_ok]

theorem exec_sth_reached (hls : heapPlaces s (hreg s.cur h) (heapEa a o) 8 .store = .ok ls) (g : HReg) :
    ∃ t, exec (.sth g h o) s = .next t ∧ Wrote s t ls (hreg s.cur g).toNat (setH h r) := by
  refine ⟨_, ?_, wrote_finish (heapPlaces_length (by decide) hls) (heapPlaces_nodup (by decide) hls) hs _ (noEdge_setH _ _ hs.2)⟩
  simp only [exec_sth, execSth, withRef_ok hx, hls, orTrap_ok]

variable (hls : heapRead s (hreg s.cur h) (heapEa a o) 8 .store = .ok ls) {g : HReg}
include hls

theorem exec_hcas_same (hsame : sameObject s (BitVec.ofNat 64 (valueAt s ls)) (hreg s.cur g) = some true) :
    ∃ t, exec (.hcas g h o) s = .next t ∧ Wrote s t ls (hreg s.cur (nextH g)).toNat
      (fun t => setH g (healed s (BitVec.ofNat 64 (valueAt s ls))) (setH h r t)) := by
  have hplaces := heapRead_places hls
  refine ⟨_, ?_, wrote_finish (heapPlaces_length (by decide) hplaces) (heapPlaces_nodup (by decide) hplaces) hs _
    (noEdge_setH _ _ (noEdge_setH _ _ hs.2))⟩
  simp only [exec_hcas, execHcas, withRef_ok hx, hls, ofBytes_readBytes, hsame, if_true]

theorem exec_hcas_other (hsame : sameObject s (BitVec.ofNat 64 (valueAt s ls)) (hreg s.cur g) = some false) :
    exec (.hcas g h o) s = .next (retired (fun t => setH g (healed s (BitVec.ofNat 64 (valueAt s ls))) (setH h r t)) s) := by
  simp only [exec_hcas, execHcas, withRef_ok hx, hls, ofBytes_readBytes, hsame, Bool.false_eq_true, if_false]
  exact congrArg _ (finish_calm 0 _ s hs.1 (noEdge_setH _ _ (noEdge_setH _ _ hs.2)))

end

end

/-! ### Vector accesses through a reference (R263) -/

theorem heapItem_e (f : Fmt) (a : Nat) (o : BitVec 13) (e : Nat) : (heapItem f a o e).e = e := rfl
theorem heapItem_nib (f : Fmt) (a : Nat) (o : BitVec 13) (e : Nat) : (heapItem f a o e).nib < 2 := Nat.mod_lt _ (by decide)

theorem accessed_heapElement {s : State} {f : Fmt} {k : Acc} {it : Item} {ls : List Loc} (h : HeapElement s f k it ls) :
    Accessed s f k it ls := by
  obtain ⟨ha, hx, hf⟩ := h
  exact ⟨ha, ⟨1, hx⟩, hf⟩

/-- Elements that all lie in managed pages fail nowhere (R242). -/
theorem heapFail_none {s : State} {f : Fmt} {k : Acc} {item : Nat → Item} {es : List Nat} {ls : Nat → List Loc}
    (h : ∀ e ∈ es, HeapElement s f k (item e) (ls e)) (miss : Nat) (x : Word) : heapFail miss x (es.map (elemAt s f k item)) = none := by
  rw [heapFail, List.findSome?_eq_none_iff]
  intro y hy
  obtain ⟨e, hmem, rfl⟩ := List.mem_map.mp hy
  obtain ⟨-, hx, -⟩ := h e hmem
  have hout : (elemAt s f k item e).out = .ok (ls e, 1) := by simp only [elemAt, itemPlaces, hx]
  simp only [hout]

/-- A vector instruction that completes leaves its healed base beside what it does without it. -/
theorem finishV_setH {s : State} {g : Thread → Thread} (h : HReg) (r : Word) (hp : s.cur.pend = []) (hn : NoEdge (g s.cur))
    (hc : (g s.cur).chain = 0) : finishV (fun t => setH h r (g t)) s = modT (setH h r) (finishV g s) := by
  rw [finishV_calm g s hp hn hc, finishV_calm (fun t => setH h r (g t)) s hp (noEdge_setH h r hn) hc]
  rfl

section
variable {s : State} (hv : MemReady s .unit) {k : Kind} (hk : kindOf s.cur = some k) {f : Fmt} {h : HReg} {r : Word} {a : Nat} {c : Bool}
  {o : BitVec 13} {ls : Nat → List Loc}
include hv hk

/-- The checks before the first element pass. -/
theorem guardVh_ready (hok : pairOk f (some k) = true) {u : Use} (hx : resolveT s (hreg s.cur h) u = .ok r a c)
    (ha : ∀ e ∈ accessList s .unit, (heapItem f a o e).addr.toNat % ebytes f = 0) (i : Instr) (run : Kind → Word → (Nat → Item) → State) :
    guardVh i h o f u s run = run k r (heapItem f a o) := by
  obtain ⟨-, -, -, -, -, hgrant, -⟩ := hv
  have haligned : ((accessList s .unit).map (heapItem f a o)).find? (misaligned f) = none := by
    rw [List.find?_eq_none]
    intro x hx
    obtain ⟨e, hmem, rfl⟩ := List.mem_map.mp hx
    simp [misaligned, ha e hmem]
  have hactive : actives s.cur (vstartOf s.cur) (vlOf s.cur) = accessList s .unit := actives_access s .unit
  have hvlx : ¬ grantMax s.cur (sewOf s.cur) < vlOf s.cur := Nat.not_lt.mpr hgrant
  simp only [guardVh, hk, hok, Bool.not_true, Bool.false_eq_true, if_false, hvlx, withRef_ok hx, hactive, haligned]

omit hv hk in
theorem elemsOf_heap (acc : Acc) : elemsOf s f acc (heapItem f a o) (vstartOf s.cur) (vlOf s.cur) =
    (accessList s .unit).map (elemAt s f acc (heapItem f a o)) :=
  (elemsOf_eq ..).trans (congrArg _ (actives_access s .unit))

/-- VLDH is the VLD from its resolved address, and leaves its healed base. -/
theorem exec_vldh_reached (hok : pairOk f (some k) = true) (hx : resolveT s (hreg s.cur h) .load = .ok r a c)
    (hl : ∀ e ∈ accessList s .unit, HeapElement s f .load (heapItem f a o e) (ls e) ∧ Clean s (ls e)) (d : VReg) :
    exec (.vldh d h o f) s = .next (modT (setH h r) (finishAccess .unit
      (loadElts s d f k ((accessList s .unit).map (elemAt s f .load (heapItem f a o))) (vlOf s.cur)) (begun .unit true s))) := by
  have ⟨⟨hp, hn⟩, _, _, _, hc, _⟩ := hv
  have hrun := loadRun_clean (m := .unit) (k := k) hv (fun e he => ⟨accessed_heapElement (hl e he).1, (hl e he).2⟩) true (loadRule s.cur) d 0
    (vstartOf s.cur) (vlOf s.cur) (fun g => finishV fun t => setH h r (g t)) setVstart
  rw [afterHint_plain (by decide)] at hrun
  simp only [exec_vldh, execVldh, guardVh_ready hv hk hok hx fun e he => (hl e he).1.1, elemsOf_heap, heapFail_none fun e he => (hl e he).1,
    memReady_firstDmg hv]
  refine congrArg _ (Eq.trans hrun ?_)
  exact finishV_setH h r hp (noEdge_of s.cur _ hn rfl rfl rfl rfl) hc

/-- VSTH is the VST from its resolved address, and leaves its healed base. -/
theorem exec_vsth_reached (hok : pairOk f (some k) = true) (hx : resolveT s (hreg s.cur h) .store = .ok r a c)
    (hl : ∀ e ∈ accessList s .unit, HeapElement s f .store (heapItem f a o e) (ls e)) (d : VReg) :
    exec (.vsth d h o f) s = .next (modT (setH h r) (storeRun (groups s.cur) d f k
      ((accessList s .unit).map (elemAt s f .store (heapItem f a o))) (vstartOf s.cur) (vlOf s.cur) none (finishAccess .unit) setVstart s)) := by
  have ⟨⟨hp, hn⟩, _, _, hel, hc, _⟩ := hv
  have hfence : anyFenced s ((accessList s .unit).map (elemAt s f .store (heapItem f a o))) = false :=
    anyFenced_false fun e he => (accessed_heapElement (hl e he)).2
  simp only [exec_vsth, execVsth, guardVh_ready hv hk hok hx fun e he => (hl e he).1, elemsOf_heap, heapFail_none hl, memReady_firstDmg hv,
    storeRun_complete hel hfence]
  refine congrArg _ (finishV_setH h r ?_ ?_ ?_) <;> rw [writeAll_cur]
  · exact hp
  · exact noEdge_orFlags _ _ hn
  · exact hc

end

/-- The healed base beside the bytes of a store. -/
theorem onlyBytes_setH {s u : State} {f : Thread → Thread} (hu : OnlyBytes s u f) (h : HReg) (r : Word) :
    OnlyBytes s (modT (setH h r) u) (fun t => setH h r (f t)) := congrArg (modT (setH h r)) hu

/-- The healed base put back. -/
theorem onThread_setH (u : State) (h : HReg) (r : Word) : onThread (fun t => { t with h := u.cur.h }) (modT (setH h r) u) = u := rfl

/-- A load through a reference leaves what the load from its address does, and its healed base. -/
theorem vecWrote_setH {s u : State} {d : VReg} {w : Nat} {on : Nat → Bool} {val : Nat → Nat} {g : Flags}
    (hu : VecWrote (cleared .unit true s) u d w on val g) (h : HReg) (r : Word) :
    (modT (setH h r) u).cur.h = s.cur.h.set h r ∧
      VecWrote (cleared .unit true s) (onThread (fun t => { t with h := s.cur.h }) (modT (setH h r) u)) d w on val g := by
  have ⟨_, _, hall⟩ := hu
  have hh : u.cur.h = s.cur.h := by rw [hall]; rfl
  refine ⟨congrArg (fun v => v.set h r) hh, ?_⟩
  rw [← hh, onThread_setH]
  exact hu

/-- Settles O38: the reference is resolved, the bytes are reached, and each instruction completes with what its rule says of them; the two
vector accesses are VLD and VST from the resolved address. -/
theorem heapAccesses : Obligations.HeapAccesses := by
  unfold Obligations.HeapAccesses
  constructor
  · intro s d g h o nl ns u r a c ls hs x ea y hx
    refine ⟨?_, ?_, ?_, ?_, ?_⟩ <;> rintro rfl hls
    · exact exec_hld_reached hs hx hls d
    · exact exec_hst_reached hs hx hls d
    · exact exec_sth_reached hs hx hls g
    · exact ⟨fun hkept => exec_ldh_kept hs hx hls hkept g, fun hold hc qs hqs => exec_ldh_healed hs hx hls hold hc hqs g⟩
    · exact ⟨exec_hcas_same hs hx hls, exec_hcas_other hs hx hls⟩
  intro s d h o f k r a c ls hv hk hok item x inn out
  refine ⟨fun hx hl => ?_, fun hx hl => ?_⟩
  · have hv' : MemReady s .unit := memReady_body hv (by decide)
    have hl' (e) (he : e ∈ accessList s .unit) := hl e (mem_accessList.mp he)
    have hwrote := vecWrote_finishAccess (f := f) hv' hk (heapItem_e f a o) (fun e he => ⟨accessed_heapElement (hl' e he).1, (hl' e he).2⟩) true d
    exact ⟨_, exec_vldh_reached hv' hk hok hx hl' d, vecWrote_setH hwrote h r⟩
  · have hv' : MemReady s .unit := memReady_body hv (by decide)
    have hstored := storeRun_reached hv' k (heapItem_e f a o) (heapItem_nib f a o) (fun e he => accessed_heapElement (hl e he)) (groups s.cur) d
      (vstartOf s.cur) setVstart
    rw [cleared_store (by decide)] at hstored
    obtain ⟨hbytes, hlast, hother⟩ := hstored
    refine ⟨_, exec_vsth_reached hv' hk hok hx (fun e he => hl e (mem_accessList.mp he)) d, onlyBytes_setH hbytes h r, fun e he hw => ?_,
      fun l hl => ?_⟩
    · rw [itemRead_modT]
      exact hlast e he hw
    · rw [byteAt_modT]
      exact hother l hl

end Sys2Proof.Machine
end

section
/-! SUPPORT. Pins, heals and comparisons, allocation and the branches on a reference in a calm thread (09 R264-R266). -/

namespace Sys2Proof.Machine

open Sys2Proof.Safety

/-! ### Pins (R264) -/

section
variable {s : State} {h : HReg} {r : Word} {a : Nat} {c : Bool} {ls : List Loc} (hx : resolveT s (hreg s.cur h) .heal = .ok r a c)
  (hls : heapRead s (hreg s.cur h) (BitVec.ofNat 64 a) 8 .store = .ok ls)
include hx hls

/-- The header's pin count is replaced where the operation has a new one. -/
theorem pinRmw_counts {f : Nat → Option Nat} {n : Nat} (hf : f (fld (BitVec.ofNat 64 (valueAt s ls)) 32 16) = some n) (i : Instr)
    (fin : Word → Nat → Thread → Thread) : pinRmw i h f fin s =
      finish 0 (fin r a) (writeAll (wrBytes ls (leBytes 8 (setFld (BitVec.ofNat 64 (valueAt s ls)) 32 16 n).toNat)) s) := by
  simp only [pinRmw, withRef_ok hx, hls, ofBytes_readBytes, hf, Option.map_some]

/-- Else the instruction traps HEAP with its reference. -/
theorem pinRmw_refuses {f : Nat → Option Nat} (hf : f (fld (BitVec.ofNat 64 (valueAt s ls)) 32 16) = none) (i : Instr)
    (fin : Word → Nat → Thread → Thread) : pinRmw i h f fin s = Safety.trapped 0x18 (hreg s.cur h) 0 s := by
  simp only [pinRmw, withRef_ok hx, hls, ofBytes_readBytes, hf, Option.map_none, trap_eq]
  rfl

variable (hs : Calm s)
include hs

theorem exec_hpin_raises (hpins : fld (BitVec.ofNat 64 (valueAt s ls)) 32 16 < 65535) (d : SReg) :
    ∃ t, exec (.hpin d h) s = .next t ∧
      Wrote s t ls (setFld (BitVec.ofNat 64 (valueAt s ls)) 32 16 (fld (BitVec.ofNat 64 (valueAt s ls)) 32 16 + 1)).toNat
        (fun t => put d (BitVec.ofNat 64 a) (setH h r t)) := by
  have hplaces := heapRead_places hls
  refine ⟨_, congrArg Host.Outcome.next ((pinRmw_counts hx hls (if_neg (Nat.ne_of_lt hpins)) ..).trans ?_),
    wrote_retired (heapPlaces_length (by decide) hplaces) (heapPlaces_nodup (by decide) hplaces) _ _⟩
  refine finish_setS_after 0 d (fun _ => BitVec.ofNat 64 a) (setH h r) _ ?_ ?_ ?_ <;> rw [writeAll_cur]
  · exact hs.1
  · exact hs.1
  · exact noEdge_setH h r hs.2

theorem exec_hunpin_lowers (hpins : 0 < fld (BitVec.ofNat 64 (valueAt s ls)) 32 16) :
    ∃ t, exec (.hunpin h) s = .next t ∧
      Wrote s t ls (setFld (BitVec.ofNat 64 (valueAt s ls)) 32 16 (fld (BitVec.ofNat 64 (valueAt s ls)) 32 16 - 1)).toNat (setH h r) := by
  have hplaces := heapRead_places hls
  exact ⟨_, congrArg Host.Outcome.next (pinRmw_counts hx hls (if_neg (Nat.ne_of_gt hpins)) ..),
    wrote_finish (heapPlaces_length (by decide) hplaces) (heapPlaces_nodup (by decide) hplaces) hs _ (noEdge_setH h r hs.2)⟩

end

/-! ### Heals and comparisons (R264) -/

section
variable {s : State} (hs : Calm s) {h g : HReg}
include hs

theorem exec_hheal_null (h0 : hreg s.cur h = 0) : exec (.hheal h) s = .next (retired id s) := by
  simp only [exec_hheal, execHheal, h0, if_true, finish_id_calm hs]

theorem exec_hheal_resolved {r : Word} {a : Nat} {c : Bool} (h0 : hreg s.cur h ≠ 0) (hx : resolveT s (hreg s.cur h) .heal = .ok r a c) :
    exec (.hheal h) s = .next (retired (setH h r) s) := by
  simp only [exec_hheal, execHheal, h0, if_false, withRef_ok hx, finish_calm 0 (setH h r) s hs.1 (noEdge_setH h r hs.2)]

theorem exec_hcmp_null (h0 : hreg s.cur h = 0 ∨ hreg s.cur g = 0) (d : SReg) :
    exec (.hcmp d h g) s = .next (retired (put d (truth (hreg s.cur h = hreg s.cur g))) s) := by
  simp only [exec_hcmp, execHcmp, Bool.or_eq_true, decide_eq_true_eq, h0, if_true, finish_setS 0 d _ s hs]
  rfl

theorem exec_hcmp_resolved {r q : Word} {a b : Nat} {c e : Bool} (h0 : hreg s.cur h ≠ 0) (g0 : hreg s.cur g ≠ 0)
    (hx : resolveT s (hreg s.cur h) .heal = .ok r a c) (hy : resolveT s (hreg s.cur g) .heal = .ok q b e) (d : SReg) :
    exec (.hcmp d h g) s = .next (retired (fun t => put d (truth (a = b)) (setH g q (setH h r t))) s) := by
  simp only [exec_hcmp, execHcmp, Bool.or_eq_true, decide_eq_true_eq, h0, g0, or_self, if_false, withRef_ok hx, withRef_ok hy]
  exact congrArg _ (finish_setS_after 0 d (fun _ => truth (a = b)) (fun t => setH g q (setH h r t)) s hs.1 hs.1
    (noEdge_setH _ _ (noEdge_setH _ _ hs.2)))

end

/-- A heap instruction that has waited is carried out again (R247, R256). -/
theorem exec_heapStoreResume_again {s : State} {i : Instr} {out : Out} (hw : s.cur.wait = some i) (h : heapAgain i s = some out) :
    exec .heapStoreResume s = out := by
  simp only [exec_heapStoreResume, execHeapStoreResume, hw, h, Option.getD_some]

/-! ### Allocation (R265) -/

/-- What HALLOC of `n` granules does to its thread: a reference of the good colour to the old HABUF, which it moves past the object. -/
def allocated (g : HReg) (n : Nat) (z : Region) (habuf : Word) (t : Thread) : Thread :=
  setH g (recolour (BitVec.ofNat 64 (refAddr habuf)) z.good)
    { t with ctl := { t.ctl with habuf := setFld t.ctl.habuf 4 53 (refAddr habuf / 16 + n) } }

theorem noEdge_habuf {t : Thread} (h : NoEdge t) (w : Word) : NoEdge { t with ctl := { t.ctl with habuf := w } } :=
  noEdge_of t _ h rfl rfl rfl rfl

theorem noEdge_allocated {t : Thread} (h : NoEdge t) (g : HReg) (n : Nat) (z : Region) (habuf : Word) : NoEdge (allocated g n z habuf t) :=
  noEdge_setH g _ (noEdge_habuf h _)

section
variable {s : State} {n : Nat} {z : Region} {ls : List Loc} (hroom : Room s n z ls)
include hroom

theorem halloc_room (g : HReg) : halloc g n s = finish 0 (allocated g n z s.cur.ctl.habuf) (writeAll (wrBytes ls (leBytes 16 n)) s) := by
  obtain ⟨hb, hl, h0, hregion, hclean, hentry, hstate, hfits, hplaces⟩ := hroom
  have hlt : ¬ refAddr s.cur.ctl.halim < refAddr s.cur.ctl.habuf + 16 * n := Nat.not_lt.mpr hfits
  simp only [halloc, hb, hl, h0, ← hregion, hclean, hentry, hstate, hlt, hplaces, orTrap_ok, Bool.not_true, Bool.or_self, decide_false,
    bne_self_eq_false, Bool.false_eq_true, if_false]
  rfl

theorem wrote_halloc (hs : Calm s) (g : HReg) : Wrote s (halloc g n s) ls n (allocated g n z s.cur.ctl.habuf) := by
  rw [halloc_room hroom]
  obtain ⟨-, -, -, -, -, -, -, -, hplaces⟩ := hroom
  exact wrote_finish (heapPlaces_length (by decide) hplaces) (heapPlaces_nodup (by decide) hplaces) hs _
    (noEdge_allocated hs.2 g n z _)

end

theorem exec_hallocRegister_calm {s : State} (hs : Calm s) (g : HReg) {d : SReg} {n : Nat} (h0 : 0 < n) (hmax : n < 16777216)
    (hn : (reg s d).toNat = n) : exec (.hallocRegister g d) s = .next (halloc g n s) := by
  have hbad : (decide (n = 0) || decide (16777215 < n)) = false := by simp; omega
  simp only [exec_hallocRegister, execHallocRegister, guardS_quiet _ hs.1, rs_quiet _ hs.1, sreg_eq_reg, hn, hbad, Bool.false_eq_true, if_false]

/-! ### Branches on a reference (R266) -/

theorem branchH_flat {s : State} (hs : Calm s) (hflat : Flat s) (c : Bool) (o : BitVec 13) :
    branchH c o s = if c = true then jumped (s.cur.pc + BitVec.ofInt 64 (4 * o.toInt)) id s else retired id s := by
  rw [branchH_calm hs, transfer_straight hs.1 0 _ id (.inr hflat.2)]

/-- Settles O39: each instruction is its one effect once the barrier has answered; what has waited is carried out again. -/
theorem pinsHealsAndAllocation : Obligations.PinsHealsAndAllocation := by
  unfold Obligations.PinsHealsAndAllocation
  intro s d g h o r q a b c e ls n z hs x y w pins alloc
  refine ⟨fun hx hls => ⟨fun hpins => exec_hpin_raises hx hls hs hpins d, exec_hunpin_lowers hx hls hs, fun hpins => ?_, fun hpins => ?_⟩,
    exec_hheal_null hs, fun h0 hx => ⟨exec_hheal_resolved hs h0 hx, fun hw => ?_⟩, fun i hi hw => ?_, fun h0 => exec_hcmp_null hs h0 d,
    fun h0 g0 hx hy => exec_hcmp_resolved hs h0 g0 hx hy d, fun hroom => ⟨fun i hi => ?_, fun h0 hmax hn => ?_⟩, fun hflat => ⟨?_, ?_⟩⟩
  · exact congrArg _ (pinRmw_refuses hx hls (if_pos hpins) ..)
  · exact congrArg _ (pinRmw_refuses hx hls (if_pos hpins) ..)
  · exact (exec_heapStoreResume_again hw rfl).trans (exec_hheal_resolved hs h0 hx)
  · simp only [List.mem_cons, List.not_mem_nil, or_false] at hi
    obtain rfl | rfl | rfl | rfl | rfl | rfl | rfl | rfl | rfl := hi <;> exact exec_heapStoreResume_again hw rfl
  · subst hi
    exact ⟨_, rfl, wrote_halloc hroom hs g⟩
  · exact ⟨_, exec_hallocRegister_calm hs g h0 hmax hn, wrote_halloc hroom hs g⟩
  · simp only [exec_hnul, execHnul, branchH_flat hs hflat, beq_iff_eq]
    rfl
  · simp only [exec_hnulN, execHnulN, branchH_flat hs hflat, bne_iff_ne, ite_not]
    rfl

end Sys2Proof.Machine
end

section
/-! SUPPORT. The claim about relocation does not say that the command of its third clause is a RELOC: what the last acknowledgement does
where it is a CPYM (09 R253, R254; 11 R301). -/

namespace Sys2Proof.Machine

open Sys2Proof.Safety

/-- A CPYM that is marked as waiting for the cores to acknowledge a flip, its report word at the start of its own scratch window. -/
def flippingCpym : Cmd :=
  { id := 7, word := 0, seq := 0, traced := false, sup := false, op := .cpym, c := #v[0, 0, BitVec.ofNat 64 Config.scratchOwn, 0, 0, 0, 0, 0]
    pgroot := 0, hreg := 0, frame := 0, pack := 0, cid := 0, ctx := 0, slots := [], state := .flipping 0 }

/-- The machine after reset with that command in its first sett and its follow-on, not yet ready, pending in the thread in focus. -/
def cpymFlips : State :=
  { State.reset with
    cur := { live := true, fols := [{ word := 0, cmd := 7, mshape := 0, vpitch := 0, s1 := 0, s2 := 0, seq := 0, ready := false }] }
    setts := (Vector.replicate 4 {}).set 0 { cmds := [flippingCpym] } }

/-- The bytes of the report word. -/
def cpymReport : List Loc := (List.range 8).map (Loc.store 0)

theorem cmds_cpymFlips {k : Nat} {x : Cmd} (h : x ∈ (settOf cpymFlips k).cmds) : k = 0 ∧ x = flippingCpym := by
  match k with
  | 0 => exact ⟨rfl, List.mem_singleton.mp h⟩
  | 1 | 2 | 3 | _ + 4 => exact absurd h List.not_mem_nil

/-- The command completes as a CPYM: its follow-on becomes ready (R301). -/
theorem flipAcknowledge_cpymFlips {u : State} (h : exec (.flipAcknowledge 0 0) cpymFlips = .next u) :
    u.cur.fols.map (·.ready) = [true] := by
  rw [exec_flipAcknowledge, execFlipAcknowledge] at h
  cases h
  decide +kernel

/-- Refutes O44: its third clause, on the last acknowledgement of a flip, leaves out that the command is a RELOC. Where a CPYM is
marked as flipping it completes as one, which makes its follow-on ready, and the thread is not as it was. -/
theorem not_relocation : ¬ Obligations.Relocation := by
  unfold Obligations.Relocation
  intro claim
  obtain ⟨-, -, hlast, -⟩ := claim cpymFlips 0 7 0 0 flippingCpym ⟨0, [], 0, 0⟩ [] cpymReport
  obtain ⟨u, hu, -, -, -, -, -, -, hcur, -⟩ := hlast (by decide +kernel) (by decide) (List.mem_singleton_self _) rfl
    (fun k x hx _ => cmds_cpymFlips hx) rfl rfl (by decide +kernel) (by decide +kernel) (by simp [cpymReport])
  have hready := flipAcknowledge_cpymFlips hu
  rw [hcur] at hready
  exact absurd hready (by decide)

end Sys2Proof.Machine
end

section
/-! SUPPORT. The scalar atomics and AMONIB: what they write where they complete, and where they trap (10 R285, R288-R290). -/

namespace Sys2Proof.Machine

open Sys2Proof.Safety

/-! ### The operations -/

theorem sint_toNat {w : Nat} (hw : 0 < w) (x : BitVec w) : sint w x.toNat = x.toInt := by
  have hpow : 2 ^ w = 2 * 2 ^ (w - 1) := by rw [← pow_succ', Nat.sub_add_cancel hw]
  have hhalf : x.toNat < 2 ^ (w - 1) ↔ 2 * x.toNat < 2 ^ w := by omega
  simp only [sint, BitVec.toInt_eq_toNat_cond, hhalf]
  push_cast
  rfl

/-- The value written, in words: with old value `o`, operand `x` and compare value `e` (R288). -/
def amoWord {w : Nat} (p : Amo) (o x e : BitVec w) : BitVec w :=
  match p with
  | .add => o + x
  | .min => if x.slt o then x else o
  | .max => if o.slt x then x else o
  | .and => o &&& x
  | .or => o ||| x
  | .swp => x
  | .cas => if o = e then x else o

theorem amoNew_toNat {w : Nat} (hw : 0 < w) (p : Amo) (o x e : BitVec w) :
    amoNew p w o.toNat x.toNat e.toNat = (amoWord p o x e).toNat := by
  cases p with
  | add => exact (BitVec.toNat_add o x).symm
  | min =>
    simp only [amoNew, amoWord, sint_toNat hw, BitVec.slt_iff_toInt_lt, ← not_lt, ite_not, apply_ite BitVec.toNat]
  | max =>
    simp only [amoNew, amoWord, sint_toNat hw, BitVec.slt_iff_toInt_lt]
    split <;> split
    · rfl
    · rw [BitVec.toInt_inj.mp (show o.toInt = x.toInt by omega)]
    · omega
    · rfl
  | and => exact (BitVec.toNat_and o x).symm
  | or => exact (BitVec.toNat_or o x).symm
  | swp => rfl
  | cas =>
    simp only [amoNew, amoWord, BitVec.toNat_inj, apply_ite BitVec.toNat]

/-- Each atomic on a 32-bit or a 64-bit word is an atomic of its width, by its operation. -/
theorem exec_of_atomicsW {d a b : SReg} {aq rl : Bool} {c : Scope} {w : Stall} {r : Instr × (BitVec 32 → BitVec 32 → BitVec 32 → BitVec 32)}
    (hr : r ∈ atomicsW d a b aq rl c w) : ∃ p, r.2 = amoWord p ∧ ∀ s, exec r.1 s = .next (amo p 4 d a b w s) := by
  simp only [atomicsW, List.mem_cons, List.not_mem_nil, or_false] at hr
  rcases hr with rfl | rfl | rfl | rfl | rfl | rfl | rfl
  · exact ⟨.add, rfl, fun _ => rfl⟩
  · exact ⟨.min, rfl, fun _ => rfl⟩
  · exact ⟨.max, rfl, fun _ => rfl⟩
  · exact ⟨.and, rfl, fun _ => rfl⟩
  · exact ⟨.or, rfl, fun _ => rfl⟩
  · exact ⟨.swp, rfl, fun _ => rfl⟩
  · exact ⟨.cas, rfl, fun _ => rfl⟩

theorem exec_of_atomicsD {d a b : SReg} {aq rl : Bool} {c : Scope} {w : Stall} {r : Instr × (Word → Word → Word → Word)}
    (hr : r ∈ atomicsD d a b aq rl c w) : ∃ p, r.2 = amoWord p ∧ ∀ s, exec r.1 s = .next (amo p 8 d a b w s) := by
  simp only [atomicsD, List.mem_cons, List.not_mem_nil, or_false] at hr
  rcases hr with rfl | rfl | rfl | rfl | rfl | rfl | rfl
  · exact ⟨.add, rfl, fun _ => rfl⟩
  · exact ⟨.min, rfl, fun _ => rfl⟩
  · exact ⟨.max, rfl, fun _ => rfl⟩
  · exact ⟨.and, rfl, fun _ => rfl⟩
  · exact ⟨.or, rfl, fun _ => rfl⟩
  · exact ⟨.swp, rfl, fun _ => rfl⟩
  · exact ⟨.cas, rfl, fun _ => rfl⟩

/-! ### An atomic in a calm thread -/

/-- An atomic of `n` bytes at `a`: it performs the writes `ws` at its places and completes by `fin`, or traps, its writes performed
nevertheless where it has lost its home (R289, R360). -/
def atomicRun (s : State) (a : Word) (n : Nat) (ws : List Loc → List Wr) (fin : List Loc → State → State) : State :=
  match amoPlaces s a n with
  | .error e => trap e (writeAll (ws (lostPlaces s (· != 3) a n)) s)
  | .ok ls => fin ls (writeAll (ws ls) s)

/-- The value that a word atomic leaves at its places (R288). -/
def amoResult (s : State) (p : Amo) (n : Nat) (d b : SReg) (ls : List Loc) : BitVec (8 * n) :=
  amoWord p (BitVec.ofNat (8 * n) (valueAt s ls)) ((reg s b).truncate (8 * n)) ((reg s d).truncate (8 * n))

/-- The nibble that AMONIB finds in the byte at its places, and the one it leaves there (R290). -/
def nibOld (s : State) (a : SReg) (ls : List Loc) : Nat := valueAt s ls / 16 ^ ((reg s a).toNat % 2) % 16
def nibResult (s : State) (p : NibOp) (a b : SReg) (ls : List Loc) : Nat := nibNew p (nibOld s a ls) ((reg s b).toNat % 16)

/-- The write of a nibble under its mask (R62, R290). -/
def nibWrites (n x : Nat) (ls : List Loc) : List Wr := ls.map fun l => ⟨l, BitVec.ofNat 8 (15 * 16 ^ n), BitVec.ofNat 8 (x * 16 ^ n)⟩

theorem halved_address (x : Word) : BitVec.ofNat 64 (x.toNat / 2) = x >>> 1 := by
  refine BitVec.eq_of_toNat_eq ?_
  rw [BitVec.toNat_ushiftRight, Nat.shiftRight_one, BitVec.toNat_ofNat]
  exact Nat.mod_eq_of_lt (by omega)

section
variable {s : State} (h : Calm s)
include h

theorem amo_eq_run (p : Amo) (n : Nat) (d a b : SReg) (w : Stall) :
    amo p n d a b w s = atomicRun s (reg s a) n
      (fun ls => wrBytes ls (leBytes n (amoNew p (8 * n) (valueAt s ls) ((reg s b).toNat % 2 ^ (8 * n)) ((reg s d).toNat % 2 ^ (8 * n)))))
      (fun ls => finish w (setS d (sextNat (8 * n) (valueAt s ls)))) := by
  simp only [amo, guardS_quiet _ h.1, rs_quiet _ h.1, sreg_eq_reg]
  rfl

theorem exec_amonib_eq_run (p : NibOp) (aq rl : Bool) (c : Scope) (d a b : SReg) (w : Stall) :
    exec (.amonib d a b p aq rl c w) s = .next (atomicRun s (reg s a >>> 1) 1
      (fun ls => nibWrites ((reg s a).toNat % 2) (nibResult s p a b ls) ls)
      (fun ls => finish w (setS d (BitVec.ofNat 64 (nibOld s a ls))))) := by
  simp only [exec_amonib, execAmonib, guardS_quiet _ h.1, rs_quiet _ h.1, sreg_eq_reg, halved_address]
  rfl

/-- Every scalar atomic is an atomic at its place, whose writes stay within it. -/
theorem exec_scalarAtomic {d a b : SReg} {p : NibOp} {aq rl : Bool} {c : Scope} {w : Stall} {q : Word × Nat × Instr}
    (hq : q ∈ (atomicsW d a b aq rl c w).map (fun r => (reg s a, 4, r.1)) ++ (atomicsD d a b aq rl c w).map (fun r => (reg s a, 8, r.1)) ++
      [(reg s a >>> 1, 1, .amonib d a b p aq rl c w)]) :
    ∃ ws fin, exec q.2.2 s = .next (atomicRun s q.1 q.2.1 ws fin) ∧ ∀ ls, ∀ x ∈ ws ls, x.loc ∈ ls := by
  have hbytes (f : List Loc → List Byte) : ∀ ls, ∀ x ∈ wrBytes ls (f ls), x.loc ∈ ls := fun ls x hx => by
    obtain ⟨y, hy, rfl⟩ := List.mem_map.mp hx
    exact (List.of_mem_zip hy).1
  rcases List.mem_append.mp hq with hq | hq
  · rcases List.mem_append.mp hq with hq | hq
    · obtain ⟨r, hr, rfl⟩ := List.mem_map.mp hq
      obtain ⟨p, -, hexec⟩ := exec_of_atomicsW hr
      exact ⟨_, _, (hexec s).trans (congrArg _ (amo_eq_run h p 4 d a b w)), hbytes _⟩
    · obtain ⟨r, hr, rfl⟩ := List.mem_map.mp hq
      obtain ⟨p, -, hexec⟩ := exec_of_atomicsD hr
      exact ⟨_, _, (hexec s).trans (congrArg _ (amo_eq_run h p 8 d a b w)), hbytes _⟩
  · obtain rfl := List.mem_singleton.mp hq
    refine ⟨_, _, exec_amonib_eq_run h p aq rl c d a b w, fun ls x hx => ?_⟩
    obtain ⟨l, hl, rfl⟩ := List.mem_map.mp hx
    exact hl

end

/-! ### Where an atomic traps -/

theorem writeAll_nil (s : State) : writeAll [] s = s := rfl

section
variable {s : State} {a : Word} {n : Nat} {ls : List Loc} {cls : Nat}

theorem amoPlaces_failed {e : TrapInfo} (h : placesOf s a n .store cPFST = .error e) (ok : Nat → Bool) :
    amoPlaces s a n = .error e ∧ lostPlaces s ok a n = [] := by
  simp only [amoPlaces, lostPlaces, h, and_self]

section
variable (h : placesOf s a n .store cPFST = .ok (ls, cls))
include h

theorem amoPlaces_device (hd : cls = 3) : amoPlaces s a n = .error ⟨cADDR, a, 0⟩ ∧ lostPlaces s (· != 3) a n = [] := by
  simp [amoPlaces, lostPlaces, h, hd]

theorem amoPlaces_lost (hd : cls ≠ 3) (hl : ∃ l ∈ ls, oneLost s l = true) : amoPlaces s a n = .error ⟨cLINK, 2, 0⟩ := by
  simp only [amoPlaces, h, hd, List.any_eq_true.mpr hl, if_true, if_false]

theorem amoPlaces_poisoned (hd : cls ≠ 3) (hl : ∀ l ∈ ls, oneLost s l = false) (hp : ∃ l ∈ ls, poisoned s l = true) (ok : Nat → Bool) :
    amoPlaces s a n = .error ⟨cECC, a, 0⟩ ∧ lostPlaces s ok a n = [] := by
  have hlost : ls.any (oneLost s) = false := by simpa using hl
  simp only [amoPlaces, lostPlaces, h, hd, hlost, List.any_eq_true.mpr hp, Bool.false_and, Bool.false_eq_true, if_true, if_false, and_self]

/-- An atomic that has lost its home is performed there or nowhere (R360). -/
theorem mem_lostPlaces {ok : Nat → Bool} {l : Loc} (hl : l ∈ lostPlaces s ok a n) : l ∈ ls := by
  simp only [lostPlaces, h] at hl
  split at hl
  · exact hl
  · cases hl

end

variable {ws : List Loc → List Wr} {fin : List Loc → State → State} (hws : ∀ ls, ∀ x ∈ ws ls, x.loc ∈ ls)
include hws

theorem atomicRun_traps {cause : Nat} {eval : Word} (h : amoPlaces s a n = .error ⟨cause, eval, 0⟩ ∧ lostPlaces s (· != 3) a n = []) :
    atomicRun s a n ws fin = Safety.trapped cause eval 0 s := by
  have hnone : ws [] = [] := List.eq_nil_iff_forall_not_mem.mpr fun x hx => List.not_mem_nil (hws [] x hx)
  obtain ⟨hplaces, hlost⟩ := h
  simp only [atomicRun, hplaces, hlost, hnone, writeAll_nil, trap_eq]

theorem atomicRun_lost (h : placesOf s a n .store cPFST = .ok (ls, cls)) (hd : cls ≠ 3) (hl : ∃ l ∈ ls, oneLost s l = true) :
    ∃ u, atomicRun s a n ws fin = Safety.trapped 0x1A 2 0 u ∧ u.cur = s.cur ∧ ∀ l, l ∉ ls → byteAt u l = byteAt s l := by
  refine ⟨writeAll (ws (lostPlaces s (· != 3) a n)) s, ?_, writeAll_cur _ s, fun l hout => ?_⟩
  · simp only [atomicRun, amoPlaces_lost h hd hl, trap_eq]
    rfl
  · exact byteAt_writeAll_other _ l s fun x hx heq => hout (heq ▸ mem_lostPlaces h (hws _ x hx))

end

/-! ### An atomic that completes -/

theorem finish_setS_written {s : State} (h : Calm s) (ws : List Wr) (w : Nat) (d : SReg) (x : Word) :
    finish w (setS d x) (writeAll ws s) = retired (put d x) (writeAll ws s) :=
  finish_setS w d x _ ⟨by rw [writeAll_cur]; exact h.1, by rw [writeAll_cur]; exact h.2⟩

section
variable {s : State} {a : Word} {n : Nat} {ls : List Loc} (hat : AtomicAt s a n ls)
include hat

theorem atomicAt_reached : Reached s a n .store ls := by
  obtain ⟨hc, ha, ⟨c, -, hx⟩, hlost, -⟩ := hat
  exact ⟨hc, ha, ⟨c, hx⟩, fun l hl => (Bool.or_eq_false_iff.mp (hlost l hl)).1⟩

theorem valueAt_atomic (hn : n ∣ 32) : valueAt s ls < 2 ^ (8 * n) := by
  have hlt := ofBytes_lt (readBytes s ls)
  rw [readBytes, List.length_map, (reached_places hn (atomicAt_reached hat)).1] at hlt
  rwa [pow_mul]

theorem atomicRun_placed (ws : List Loc → List Wr) (fin : List Loc → State → State) :
    atomicRun s a n ws fin = fin ls (writeAll (ws ls) s) := by
  obtain ⟨hc, ha, ⟨c, hc3, hx⟩, hlost, hclean⟩ := hat
  have hl : ls.any (oneLost s) = false := by simpa using hlost
  have hp : ls.any (poisoned s) = false := by simpa [Clean] using hclean
  have hplaces : amoPlaces s a n = .ok ls := by
    simp only [amoPlaces, placesOf_found hc ha hx, hc3, hl, hp, Bool.false_eq_true, if_false]
  simp only [atomicRun, hplaces]

end

/-- A word atomic leaves the new value at its places and the old one, sign-extended, in D (R288, R289). -/
theorem amo_wrote {s : State} (h : Calm s) {n : Nat} (hn : n ∣ 32) {a : SReg} {ls : List Loc} (hat : AtomicAt s (reg s a) n ls)
    (p : Amo) (d b : SReg) (w : Stall) :
    let u := amo p n d a b w s
    valueAt u ls = (amoResult s p n d b ls).toNat ∧ OnlyBytes s u (put d ((BitVec.ofNat (8 * n) (valueAt s ls)).signExtend 64)) ∧
      ∀ l, l ∉ ls → byteAt u l = byteAt s l := by
  obtain ⟨hlen, hnodup⟩ := reached_places hn (atomicAt_reached hat)
  have hpos : 0 < n := Nat.pos_of_dvd_of_pos hn (by decide)
  have hnew : amoNew p (8 * n) (valueAt s ls) ((reg s b).toNat % 2 ^ (8 * n)) ((reg s d).toNat % 2 ^ (8 * n)) =
      (amoResult s p n d b ls).toNat := by
    rw [amoResult, ← amoNew_toNat (by omega), BitVec.toNat_ofNat, Nat.mod_eq_of_lt (valueAt_atomic hat hn)]
    simp only [BitVec.truncate_eq_setWidth, BitVec.toNat_setWidth]
  intro u
  have hu : u = retired (put d ((BitVec.ofNat (8 * n) (valueAt s ls)).signExtend 64))
      (writeAll (wrBytes ls (leBytes n (amoResult s p n d b ls).toNat)) s) := by
    simp only [u, amo_eq_run h, atomicRun_placed hat, finish_setS_written h, hnew]
    rfl
  obtain ⟨honly, hvalue, hother⟩ := wrote_retired (s := s) hlen hnodup (amoResult s p n d b ls).toNat
    (put d ((BitVec.ofNat (8 * n) (valueAt s ls)).signExtend 64))
  rw [← hu] at honly hvalue hother
  refine ⟨hvalue.trans (Nat.mod_eq_of_lt ?_), honly, hother⟩
  rw [hlen, show 256 = 2 ^ 8 from rfl, ← pow_mul]
  exact (amoResult s p n d b ls).isLt

/-- A nibble of the byte at a single place. -/
theorem valueAt_nibWrites (s : State) (l : Loc) (x : Nat) {n m : Nat} (hn : n < 2) (hm : m < 2) :
    valueAt (writeAll (nibWrites n x [l]) s) [l] / 16 ^ m % 16 = if m = n then x % 16 else valueAt s [l] / 16 ^ m % 16 := by
  have hbyte := nibble_maskedByte (byteAt s l) x hn hm
  simp only [valueAt, List.map_cons, List.map_nil, ofBytes, Nat.mul_zero, Nat.add_zero, byteAt_writeAll, nibWrites, List.foldl_cons,
    List.foldl_nil, byteAt_wr1, if_true, nibbleMask_partial hn, if_false, hbyte]

/-- The nibble written, with old value `o` and operand `y` (R290). -/
def nibWord (p : NibOp) (o y : BitVec 4) : BitVec 4 :=
  match p with
  | .add => o + y
  | .and => o &&& y
  | .or => o ||| y
  | .swp => y

theorem nibNew_toNat (p : NibOp) (o y : BitVec 4) : nibNew p o.toNat y.toNat = (nibWord p o y).toNat := by
  cases p with
  | add => exact (BitVec.toNat_add o y).symm
  | and => exact (BitVec.toNat_and o y).symm
  | or => exact (BitVec.toNat_or o y).symm
  | swp => rfl

/-- AMONIB leaves the new nibble beside the other one of its byte, and the old one in D (R290). -/
theorem amonib_wrote {s : State} (h : Calm s) {a : SReg} {ls : List Loc} (hat : AtomicAt s (reg s a >>> 1) 1 ls) (p : NibOp)
    (aq rl : Bool) (c : Scope) (d b : SReg) (w : Stall) :
    let n := (reg s a).toNat % 2
    ∃ u, exec (.amonib d a b p aq rl c w) s = .next u ∧
      valueAt u ls / 16 ^ n % 16 = nibResult s p a b ls % 16 ∧ valueAt u ls / 16 ^ (1 - n) % 16 = valueAt s ls / 16 ^ (1 - n) % 16 ∧
      OnlyBytes s u (put d (BitVec.ofNat 64 (nibOld s a ls))) ∧ ∀ l, l ∉ ls → byteAt u l = byteAt s l := by
  intro n
  have hn : n < 2 := Nat.mod_lt _ (by decide)
  obtain ⟨l, rfl⟩ := List.length_eq_one_iff.mp (reached_places (by decide) (atomicAt_reached hat)).1
  refine ⟨_, exec_amonib_eq_run h p aq rl c d a b w, ?_⟩
  rw [atomicRun_placed hat, finish_setS_written h]
  simp only [valueAt_retired]
  refine ⟨?_, ?_, onlyBytes_retired (onlyMemory_writeAll _ s) _, fun q hq => ?_⟩
  · rw [valueAt_nibWrites s l _ hn hn, if_pos rfl]
  · rw [valueAt_nibWrites s l _ hn (by omega), if_neg (by omega)]
  · rw [byteAt_retired]
    refine byteAt_writeAll_other _ q s fun x hx heq => hq ?_
    obtain ⟨y, hy, rfl⟩ := List.mem_map.mp hx
    exact heq ▸ hy

end Sys2Proof.Machine
end

section
/-! SUPPORT. VAMOADD that reaches all its elements, and the settling of the atomics (10 R288-R291). -/

namespace Sys2Proof.Machine

open Sys2Proof.Safety

/-! ### No element stops the instruction -/

section
variable {s : State} {f : Fmt} {acc : Acc} {item : Nat → Item} {es : List Nat} {ls : Nat → List Loc}

theorem find?_isDevice_none (h : ∀ e ∈ es, ∃ c, c ≠ 3 ∧ xlatN s s.cur (item e).addr (ebytes f) acc = .ok (ls e, c)) :
    (es.map (elemAt s f acc item)).find? isDevice = none := by
  rw [List.find?_eq_none]
  intro x hx
  obtain ⟨e, hmem, rfl⟩ := List.mem_map.mp hx
  obtain ⟨c, hc, hx⟩ := h e hmem
  simp [isDevice_placed hx, hc]

theorem firstFenced_none (hel : s.cur.elim = none) (h : ∀ e ∈ es, Placed s f acc (item e) (ls e) ∧ ∀ l ∈ ls e, locFenced s l = false) :
    firstFenced s (es.map (elemAt s f acc item)) = none := by
  rw [firstFenced, Option.map_eq_none_iff, List.find?_eq_none]
  intro x hx
  obtain ⟨e, hmem, rfl⟩ := List.mem_map.mp hx
  obtain ⟨hp, hf⟩ := h e hmem
  rw [elemLocs_placed hp]
  simp only [List.any_eq_true, not_exists, not_and]
  intro l hl
  simp [homeLost, hf l hl, replyLost, hel]

end

/-- A VAMOADD that meets no stop adds all its elements and completes (R291). -/
theorem vamoRun_complete {s : State} (h : MemReady s .unit) {f : Fmt} {k : Kind} {item : Nat → Item} (he : ∀ e, (item e).e = e)
    {ls : Nat → List Loc} (hclass : ∀ e ∈ accessList s .unit, ∃ c, c ≠ 3 ∧ xlatN s s.cur (item e).addr (ebytes f) .store = .ok (ls e, c))
    (hl : ∀ e ∈ accessList s .unit, (∀ l ∈ ls e, locFenced s l = false) ∧ Clean s (ls e)) (v i : VReg) (sew : Nat) :
    vamoRun v k sew i ((accessList s .unit).map (elemAt s f .store item)) s =
      retired (fun t => setVstart 0 (orFlags (vamoElts v k ((accessList s .unit).map (elemAt s f .store item)) (vlOf s.cur) s).2 t))
        ((accessList s .unit).foldl (addAt v k ls) s) := by
  have ⟨⟨hp, hn⟩, _, _, hel, hc, _⟩ := h
  have hplaced (e) (hmem : e ∈ accessList s .unit) : Placed s f .store (item e) (ls e) := by
    obtain ⟨c, -, hx⟩ := hclass e hmem
    exact ⟨c, hx⟩
  have hall : (accessList s .unit).filter (· < vlOf s.cur) = accessList s .unit :=
    List.filter_eq_self.mpr fun e hmem => decide_eq_true (inAccess_iff.mp (mem_accessList.mp hmem)).2.1
  have hsum : (vamoElts v k ((accessList s .unit).map (elemAt s f .store item)) (vlOf s.cur) s).1 =
      (accessList s .unit).foldl (addAt v k ls) s := by
    rw [vamoElts_map he (fun e hmem _ => hplaced e hmem), hall]
  have hcur := foldl_addAt_cur (v := v) (k := k) (ls := ls) (accessList s .unit) s
  simp only [vamoRun, find?_isDevice_none hclass, memReady_firstDmg h, firstPoison_none fun e hmem => ⟨hplaced e hmem, (hl e hmem).2⟩,
    firstFenced_none hel fun e hmem => ⟨hplaced e hmem, (hl e hmem).1⟩, minStop_none_left, stopAt_unasked hel, Option.map_none, hsum]
  exact finishV_calm _ _ (by rw [hcur]; exact hp) (by rw [hcur]; exact noEdge_orFlags _ _ hn) (by rw [hcur]; exact hc)

/-! ### What it leaves -/

/-- Elements that raise no flag leave the flags as they are. -/
theorem foldl_snd {α σ : Type} {r : α → σ → σ × Flags} (h : ∀ x s, (r x s).2 = 0) (l : List α) (s : σ) (fl : Flags) :
    (l.foldl (fun p x => ((r x p.1).1, p.2 ||| (r x p.1).2)) (s, fl)).2 = fl := by
  induction l generalizing s fl with
  | nil => rfl
  | cons x l ih =>
    rw [List.foldl_cons, ih, h]
    exact BitVec.or_zero

/-- Sums of integers raise no flag (R67). -/
theorem vamoElts_flags {k : Kind} (hk : isFloat k = false) (v : VReg) (l : List Elem) (hi : Nat) (s : State) : (vamoElts v k l hi s).2 = 0 :=
  foldl_snd (r := vamoElt v k) (fun x u => by simp only [vamoElt, arith_int hk]) (below hi l) s 0

section
variable {v : VReg} {k : Kind} {f : Fmt} (hpair : VamoPair f k) {ls : Nat → List Loc}

theorem onlyMemory_foldl_addAt (es : List Nat) (s : State) : OnlyMemory s (es.foldl (addAt v k ls) s) :=
  onlyMemory_foldl (fun _ _ => onlyMemory_writeAll _ _) es s

include hpair

theorem valueAt_addAt {e : Nat} (h : Apiece f (ls e)) (s : State) :
    valueAt (addAt v k ls s e) (ls e) = (arith .add k (valueAt s (ls e)) (elt s.cur v k.width e) 0).1 := by
  obtain ⟨hlen, hnodup⟩ := h
  obtain ⟨hwidth, hpow⟩ := vamoPair_bytes hpair
  rw [addAt, ← ofBytes_readBytes, readBytes_written hnodup (by rw [length_leBytes, hwidth, hlen]), ofBytes_leBytes, hwidth, hpow,
    Nat.mod_eq_of_lt (vamoPair_sum_lt hpair _ _)]

/-- Of integers a word holds the sum with all the elements that name it (R291). -/
theorem valueAt_foldl_addAt_int (hk : isFloat k = false) {q : List Loc} (hq : Apiece f q) {es : List Nat}
    (h : ∀ e ∈ es, ls e = q ∨ ∀ l ∈ q, l ∉ ls e) (s : State) :
    valueAt (es.foldl (addAt v k ls) s) q =
      (valueAt s q + ((es.filter fun e => ls e == q).map (elt s.cur v k.width)).sum) % 2 ^ k.width := by
  induction es generalizing s with
  | nil =>
    have hlt := ofBytes_lt (readBytes s q)
    rw [readBytes, List.length_map, hq.1, (vamoPair_bytes hpair).2] at hlt
    exact (Nat.mod_eq_of_lt hlt).symm
  | cons e es ih =>
    have hcur : (addAt v k ls s e).cur = s.cur := writeAll_cur _ s
    rw [List.foldl_cons, ih (fun e' he' => h e' (List.mem_cons_of_mem e he')), hcur, List.filter_cons]
    by_cases he : ls e = q
    · subst he
      rw [valueAt_addAt hpair hq, arith_add_int hk, Nat.mod_add_mod, if_pos (beq_self_eq_true _), List.map_cons, List.sum_cons, Nat.add_assoc]
    · have hapart := (h e List.mem_cons_self).resolve_left he
      have hkept : valueAt (addAt v k ls s e) q = valueAt s q := valueAt_congr fun l hl => byteAt_wrBytes_other (hapart l hl) _ s
      rw [hkept, if_neg (by simpa using he)]

end

/-- A VAMOADD that completes: no more than memory, VSTART and the flags change, each word has the sum with its elements, and no
other byte changes (R291). -/
theorem vamoRun_complete_leaves {s : State} (h : MemReady s .unit) {f : Fmt} {k : Kind} (hpair : VamoPair f k) {item : Nat → Item}
    (he : ∀ e, (item e).e = e) {ls : Nat → List Loc} (ha : ∀ e ∈ accessList s .unit, (item e).addr.toNat % ebytes f = 0)
    (hclass : ∀ e ∈ accessList s .unit, ∃ c, c ≠ 3 ∧ xlatN s s.cur (item e).addr (ebytes f) .store = .ok (ls e, c))
    (hl : ∀ e ∈ accessList s .unit, (∀ l ∈ ls e, locFenced s l = false) ∧ Clean s (ls e)) (v i : VReg) (sew : Nat) :
    let u := vamoRun v k sew i ((accessList s .unit).map (elemAt s f .store item)) s
    OnlyBytes s u (fun t => { t with ctl := { t.ctl with vstart := 0, fflags := u.cur.ctl.fflags } }) ∧
    (isFloat k = false → u.cur.ctl.fflags = s.cur.ctl.fflags) ∧
    (∀ l, (∀ e ∈ accessList s .unit, l ∉ ls e) → byteAt u l = byteAt s l) ∧
    ((∀ e ∈ accessList s .unit, ∀ e' ∈ accessList s .unit, e ≠ e' → ∀ l ∈ ls e, l ∉ ls e') → ∀ e ∈ accessList s .unit,
      valueAt u (ls e) = (arith .add k (valueAt s (ls e)) (elt s.cur v k.width e) 0).1) ∧
    (isFloat k = false → (∀ e ∈ accessList s .unit, ∀ e' ∈ accessList s .unit, ls e = ls e' ∨ ∀ l ∈ ls e, l ∉ ls e') →
      ∀ e ∈ accessList s .unit, valueAt u (ls e) =
        (valueAt s (ls e) + (((accessList s .unit).filter fun j => ls j == ls e).map (elt s.cur v k.width)).sum) % 2 ^ k.width) := by
  have hapiece (e) (hmem : e ∈ accessList s .unit) : Apiece f (ls e) := by
    obtain ⟨c, -, hx⟩ := hclass e hmem
    exact apiece_placed (ha e hmem) ⟨c, hx⟩
  have hcur := foldl_addAt_cur (v := v) (k := k) (ls := ls) (accessList s .unit) s
  intro u
  have hu : u = _ := vamoRun_complete h (k := k) he hclass hl v i sew
  have hflags : u.cur.ctl.fflags = s.cur.ctl.fflags ||| (BitVec.zeroExtend 64
      (vamoElts v k ((accessList s .unit).map (elemAt s f .store item)) (vlOf s.cur) s).2) := by
    rw [hu, retired_cur, hcur]
    rfl
  refine ⟨?_, fun hk => ?_, fun l hother => ?_, fun hapart e hmem => ?_, fun hk hsame e hmem => ?_⟩
  · have honly := onlyBytes_retired (onlyMemory_foldl_addAt (v := v) (k := k) (ls := ls) (accessList s .unit) s)
      (fun t => setVstart 0 (orFlags (vamoElts v k ((accessList s .unit).map (elemAt s f .store item)) (vlOf s.cur) s).2 t))
    rw [← hu] at honly
    unfold OnlyBytes retired at honly ⊢
    rw [hflags]
    exact honly
  · rw [hflags, vamoElts_flags hk]
    simp
  · rw [hu, byteAt_retired, byteAt_foldl_addAt hother]
  · rw [hu, valueAt_retired]
    exact valueAt_foldl_addAt hpair ((accessList_pairwise s .unit).imp fun hlt => hlt.ne) hapiece hapart hmem s
  · rw [hu, valueAt_retired]
    refine valueAt_foldl_addAt_int hpair hk (hapiece e hmem) (fun e' hmem' => ?_) s
    exact (hsame e hmem e' hmem').imp_left Eq.symm

/-! ### The families -/

/-- Settles O31: the scalar atomics are one operation at their place, with other writes for a word and for a nibble; VAMOADD is the
fold of its elements' sums, in which a word takes part as often as elements name it. -/
theorem atomics : Obligations.Atomics := by
  unfold Obligations.Atomics
  refine ⟨?_, ?_, ?_⟩
  · -- The scalar atomics complete (R288-R290).
    intro s d a b p aq rl c w ls h other
    refine ⟨fun hat r hr => ?_, fun hat r hr => ?_, fun hat => ?_⟩
    · obtain ⟨q, hop, hexec⟩ := exec_of_atomicsW hr
      rw [hop]
      exact ⟨_, hexec s, amo_wrote h (n := 4) (by decide) hat q d b w⟩
    · obtain ⟨q, hop, hexec⟩ := exec_of_atomicsD hr
      rw [hop]
      have hwrote := amo_wrote h (n := 8) (by decide) hat q d b w
      simp only [amoResult, BitVec.truncate_eq_setWidth, BitVec.setWidth_eq, BitVec.signExtend_eq] at hwrote
      exact ⟨_, hexec s, hwrote⟩
    · obtain ⟨u, hexec, hnew, hkept, honly, hother⟩ := amonib_wrote h hat p aq rl c d b w
      refine ⟨u, hexec, ?_⟩
      intro n o y new
      have ho : nibOld s a ls = o.toNat := rfl
      have hresult : nibResult s p a b ls = new.toNat := nibNew_toNat p o y
      refine ⟨?_, hkept, ?_, hother⟩
      · rw [hnew, hresult]
        exact Nat.mod_eq_of_lt new.isLt
      · rwa [ho, BitVec.ofNat_toNat] at honly
  · -- Where they trap (R285, R289, R290).
    intro s d a b p aq rl c w h q hq x n traps
    obtain ⟨ws, fin, hexec, hws⟩ := exec_scalarAtomic h hq
    have htraps {cause : Nat} (herr : amoPlaces s x n = .error ⟨cause, x, 0⟩ ∧ lostPlaces s (· != 3) x n = []) : traps cause :=
      hexec.trans (congrArg _ (atomicRun_traps hws herr))
    refine ⟨fun hbad => htraps (amoPlaces_failed (placesOf_badAddress hbad _ _) _), fun hc ha =>
      ⟨fun y hx => ?_, fun y hx => ?_, fun y hx => ?_, fun ls cls hx => ⟨fun hd => ?_, fun hd hl hp => ?_, fun hd hl => ?_⟩⟩⟩
    · exact htraps (amoPlaces_failed (placesOf_failed hc ha hx _) _)
    · exact htraps (amoPlaces_failed (placesOf_failed hc ha hx _) _)
    · exact htraps (amoPlaces_failed (placesOf_failed hc ha hx _) _)
    · exact htraps (amoPlaces_device (placesOf_found hc ha hx _) hd)
    · exact htraps (amoPlaces_poisoned (placesOf_found hc ha hx _) hd hl hp _)
    · obtain ⟨u, hrun, hu⟩ := atomicRun_lost (fin := fin) hws (placesOf_found hc ha hx _) hd hl
      exact ⟨u, hexec.trans (congrArg _ hrun), hu⟩
  · -- VAMOADD completes (R291).
    intro s v i b f c aq rl k ls hvec hk hpair hl
    have hready := memReady_body hvec (m := .unit) (by decide)
    have hmem (e : Nat) : e ∈ accessList s .unit ↔ body s e = true := mem_accessList
    simp only [← hmem] at hl ⊢
    have ha (e) (he : e ∈ accessList s .unit) := (hl e he).1
    have hclass (e) (he : e ∈ accessList s .unit) : ∃ q, q ≠ 3 ∧ _ := (hl e he).2.1
    have hclean (e) (he : e ∈ accessList s .unit) := (hl e he).2.2
    rw [exec_vamoadd_checked hready hk hpair ha, guardXlat_placed (ls := ls) fun e he => let ⟨q, _, hq⟩ := hclass e he; ⟨q, hq⟩]
    obtain ⟨honly, hflags, hother, hsum, hsums⟩ := vamoRun_complete_leaves hready hpair (idxItem_e s b f i) ha hclass hclean v i (sewOf s.cur)
    have hnamed (e : Nat) : (List.range (vlOf s.cur)).filter (fun j => body s j && (ls j == ls e)) =
        (accessList s .unit).filter fun j => ls j == ls e := by
      rw [accessList, List.filter_filter]
      exact List.filter_congr fun j _ => Bool.and_comm _ _
    simp only [hnamed]
    exact ⟨_, rfl, honly, hflags, hother, fun hapart => hsum fun e he e' he' => hapart e e' he he',
      fun hint hsame => hsums hint fun e he e' he' => hsame e e' he he'⟩

end Sys2Proof.Machine
end
